-- ==== Sys2Proof/Word.lean ====
section
/-!
DEFINITION. Word.lean: the word types of the NC480 model. A register is 32 bits, little-endian (R3); a byte of HBM or of
a packet is 8 bits; the local tick is a 64-bit count (R2). Queue lengths, indexes, offsets and counts are natural numbers.
-/
namespace Sys2Proof

/-- One byte of memory, of a packet or of a descriptor. -/
abbrev Byte := BitVec 8

/-- A register (R3). -/
abbrev Word := BitVec 32

/-- A run of bytes, lowest address first. -/
abbrev Bytes := List Byte

end Sys2Proof
end

