-- ==== Sys2Proof/Syntax.lean ====
section
/-!
DEFINITION. Syntax.lean: the commands of the NC480 block, one constructor per row of spec/opcode_table.json, and the
operand types. A packet, message or descriptor that arrives from outside is its bytes as they arrive, so that every field
is read by the spec's layout.
-/
namespace Sys2Proof

/-- The strap pins as NC_RESET_L rises samples them (R290): none for a strap that is not connected. -/
structure Straps where
  role : Option (Fin 4)
  tack : Option (Fin 4)
  node : Option (Fin 64)
  secure : Option Bool
  gait : Option (Fin 4)
  mgmt : Option (Fin 8)
  links : Option Bool
  deriving DecidableEq, Repr

/-- A brown-out recovery (R319), in 10 mV: the lowest input of the hold, and the lowest since the recovery timer last restarted. -/
structure Recovery where
  least : Nat
  lowest : Nat
  deriving DecidableEq, Repr

/-- Times of a brown-out recovery (R319): what the recovery timer has reached, in ns, and the hold's duration, in µs. -/
structure RecoveryTime where
  timer : Nat
  held : Nat
  deriving DecidableEq, Repr

/-- What a read of host memory returned to the controller: the bytes, a poisoned completion, or none in time (R267). -/
inductive HostRead where
  | data (bytes : Bytes)
  | poisoned
  | timeout
  deriving DecidableEq, Repr

/-- The byte enables of a dword write TLP, and whether it is marked poisoned (R6, R267). -/
structure DwordTlp where
  be : Fin 16
  poisoned : Bool
  deriving DecidableEq, Repr

/-- An access of BAR4 that rings no doorbell: a write of one whole dword or of another shape, a poisoned write, or a read (R267, R274). -/
inductive Bar4Access where
  | whole
  | part
  | poisoned
  | read (tag : Nat) (len : Nat)
  deriving DecidableEq, Repr

/-- What the host writes to configuration space: Bus Master Enable, and the MSI-X function mask (R268, R276). -/
structure CfgWrite where
  bme : Bool
  funcMask : Bool
  deriving DecidableEq, Repr

/-- A PAM4 symbol: −3, −1, +1 or +3 (R150). -/
inductive Pam where
  | m3
  | m1
  | p1
  | p3
  deriving DecidableEq, Repr

/-- Control and status word of a received training frame (R159). -/
structure TrainWords where
  control : Word
  status : Word
  deriving DecidableEq, Repr

/-- Limits an attached cartridge states: NSZE of namespace 1 and CAP.MQES (R260, R261). -/
structure VaultLimits where
  nsze : Nat
  mqes : Fin 65536
  deriving DecidableEq, Repr

/-- The PLLs of Table CLK-4. -/
inductive Pll where
  | arithA
  | arithB
  | mesh
  | stable (stack : Fin 8)
  | harness
  | harnessTx (port : Fin 16)
  | host
  | vault
  | assay
  | groom
  | tickGen
  deriving DecidableEq, Repr

/-- The commands of the block: one constructor per row of the opcode table, in its order. -/
inductive Instr where
  /-- NC_RESET_L_RISE (R290) -/
  | ncResetLRise (straps : Straps) (ns : Nat)
  /-- NC_RESET_L_ASSERT (R286) -/
  | ncResetLAssert
  /-- REGISTER_WRITE (R4) -/
  | registerWrite (off : Nat) (be : DwordTlp) (data : Word)
  /-- GLB_LOCK_SET (R4) -/
  | glbLockSet (data : Word)
  /-- TICK_SNAPSHOT_READ (R288) -/
  | tickSnapshotRead
  /-- MODID_DATA_READ (R369) -/
  | modidDataRead
  /-- EVENT_DELIVER (R343) -/
  | eventDeliver
  /-- OUT_REQ (R43) -/
  | outReq (stall : Fin 128)
  /-- IN_REQ (R43) -/
  | inReq (stall : Fin 128)
  /-- STALL_DRAINED (R43) -/
  | stallDrained (stall : Fin 128)
  /-- BUF_PART_WRITE (R25) -/
  | bufPartWrite (stall : Fin 128) (data : Word)
  /-- HOME_WRITE_APPLY (R28) -/
  | homeWriteApply (stall : Fin 128)
  /-- NMU_GO (R33) -/
  | nmuGo (stall : Fin 128) (data : Word)
  /-- NMU_FILL (R35) -/
  | nmuFill (stall : Fin 128)
  /-- NMU_COPY (R35) -/
  | nmuCopy (stall : Fin 128)
  /-- NMU_COMPARE (R35) -/
  | nmuCompare (stall : Fin 128)
  /-- NMU_REDUCE (R35) -/
  | nmuReduce (stall : Fin 128)
  /-- NMU_COMPLETE (R37) -/
  | nmuComplete (stall : Fin 128)
  /-- NMU_CQ_HEAD_WRITE (R37) -/
  | nmuCqHeadWrite (stall : Fin 128) (data : Word)
  /-- NMU_CQ_ENABLE (R37) -/
  | nmuCqEnable (stall : Fin 128) (data : Word)
  /-- MESH_ROUTER_FAULT (R39) -/
  | meshRouterFault (stall : Fin 128) (port : Fin 5)
  /-- DUTY_TAKE_EFFECT (R41) -/
  | dutyTakeEffect (stall : Fin 128)
  /-- TABLE_LOAD_GO (R60) -/
  | tableLoadGo (stall : Fin 128) (data : Word)
  /-- TABLE_LOAD_COMMIT (R60) -/
  | tableLoadCommit (stall : Fin 128)
  /-- MINT_SEED_WRITE (R51) -/
  | mintSeedWrite (stall : Fin 128) (data : Word)
  /-- ROPE_FREQ_WRITE (R52) -/
  | ropeFreqWrite (stall : Fin 128) (data : Word)
  /-- ATT_GO (R68) -/
  | attGo (stall : Fin 128) (data : Word)
  /-- ATT_DECODE (R73) -/
  | attDecode (stall : Fin 128) (damage : Option (Option Bool))
  /-- ATT_PREFILL (R82) -/
  | attPrefill (stall : Fin 128) (damage : Option (Option Bool))
  /-- ATT_BACKWARD (R83) -/
  | attBackward (stall : Fin 128) (damage : Option (Option Bool))
  /-- ATT_DESCRIPTOR_END (R71) -/
  | attDescriptorEnd (stall : Fin 128) (which : Fin 2)
  /-- MERGE_RECORD (R79) -/
  | mergeRecord (stall : Fin 128)
  /-- MERGE_CONTEXT_OPEN (R79) -/
  | mergeContextOpen (stall : Fin 128)
  /-- MERGE_TIMEOUT (R79) -/
  | mergeTimeout (stall : Fin 128)
  /-- TOMBSTONE_EXPIRY (R79) -/
  | tombstoneExpiry (stall : Fin 128)
  /-- APPEND (R93) -/
  | append (stall : Fin 128)
  /-- APPEND_COMMIT (R94) -/
  | appendCommit (stall : Fin 128)
  /-- KVP_EDIT_GO (R100) -/
  | kvpEditGo (stall : Fin 128) (data : Word)
  /-- EDIT_OPEN (R100) -/
  | editOpen (stall : Fin 128)
  /-- EDIT_ATTACH (R100) -/
  | editAttach (stall : Fin 128)
  /-- EDIT_REPLACE (R100) -/
  | editReplace (stall : Fin 128)
  /-- EDIT_TRUNCATE (R101) -/
  | editTruncate (stall : Fin 128)
  /-- EDIT_COMPACT (R103) -/
  | editCompact (stall : Fin 128)
  /-- EDIT_RELEASE (R97) -/
  | editRelease (stall : Fin 128)
  /-- EDIT_COMMIT (R99) -/
  | editCommit (stall : Fin 128)
  /-- RELEASE_FREE (R97) -/
  | releaseFree (stall : Fin 128)
  /-- GRACE_EMPTY (R99) -/
  | graceEmpty (root : Nat)
  /-- PED_LOOKUP (R111) -/
  | pedLookup
  /-- PED_ATTACH (R112) -/
  | pedAttach
  /-- PED_ATTACH_REPLY (R111) -/
  | pedAttachReply
  /-- PED_INSERT (R113) -/
  | pedInsert
  /-- EVICTION_HAND_VISIT (R114) -/
  | evictionHandVisit
  /-- WITHDRAWN_NODE_EVICT (R116) -/
  | withdrawnNodeEvict
  /-- PED_REHASH_GO (R117) -/
  | pedRehashGo (data : Word)
  /-- REHASH_MIGRATE (R117) -/
  | rehashMigrate
  /-- LDG_SQ_DOORBELL (R144) -/
  | ldgSqDoorbell (queue : Fin 64) (data : Word)
  /-- LDG_CQ_DOORBELL (R144) -/
  | ldgCqDoorbell (queue : Fin 64) (data : Word)
  /-- ADMIT (R145) -/
  | ldgAdmit (queue : Fin 64) (read : HostRead)
  /-- LDG_CANCEL_CMD (R135) -/
  | ldgCancelCmd (queue : Fin 64) (read : HostRead)
  /-- RETARGET (R122) -/
  | retarget (queue : Fin 64) (read : HostRead)
  /-- LDG_WHO_OWNS_CMD (R129) -/
  | ldgWhoOwnsCmd (queue : Fin 64) (read : HostRead)
  /-- LOOKUP_RESULT (R122) -/
  | lookupResult
  /-- OFFER (R124) -/
  | offer
  /-- GRANT (R128) -/
  | grant
  /-- ACCEPT (R126) -/
  | accept
  /-- LDG_COMMIT (R125) -/
  | ldgCommit
  /-- REVERT (R127) -/
  | revert
  /-- WHO_OWNS (R129) -/
  | whoOwns
  /-- OWNER_IS (R129) -/
  | ownerIs
  /-- REFUSE (R127) -/
  | refuse
  /-- LDG_CANCEL (R135) -/
  | ldgCancel
  /-- CANCEL_REPLY (R135) -/
  | cancelReply
  /-- STEP (R133) -/
  | step
  /-- LDG_RELEASE (R143) -/
  | ldgRelease
  /-- RELEASED (R143) -/
  | released
  /-- ESCROW_TIMEOUT (R127) -/
  | escrowTimeout
  /-- GRANT_RETRY (R128) -/
  | grantRetry
  /-- OFFER_RETRY (R128) -/
  | offerRetry
  /-- CANCEL_RETRY (R135) -/
  | cancelRetry
  /-- CONTEXT_SILENCE (R128) -/
  | contextSilence
  /-- HOME_DEADLINE (R122) -/
  | homeDeadline
  /-- DEADLINE_GRACE_EXPIRY (R136) -/
  | deadlineGraceExpiry
  /-- CLOSE_COMPLETE (R143) -/
  | closeComplete
  /-- DUTY_SAMPLE (R146) -/
  | dutySample
  /-- DUTY_SPLIT_ADJUST (R146) -/
  | dutySplitAdjust (entry : Fin 16)
  /-- LDG_TEAM_ENABLE (R146) -/
  | ldgTeamEnable (entry : Fin 16) (data : Word)
  /-- PORT_ENABLE (R158) -/
  | portEnable (port : Fin 16) (data : Word)
  /-- PORT_RETRAIN (R158) -/
  | portRetrain (port : Fin 16)
  /-- LANE_RETRAIN (R162) -/
  | laneRetrain (port : Fin 16) (lane : Fin 4)
  /-- TRAINING_MARKER_DETECT (R158) -/
  | trainingMarkerDetect (port : Fin 16) (lane : Fin 4)
  /-- TRAINING_FRAME (R159) -/
  | trainingFrame (port : Fin 16) (lane : Fin 4) (words : TrainWords)
  /-- QUALIFICATION_WINDOW_END (R160) -/
  | qualificationWindowEnd (port : Fin 16) (lane : Fin 4) (errors : Nat) (converged : Bool)
  /-- CODEWORD_LOCK (R158) -/
  | codewordLock (port : Fin 16)
  /-- HELLO_TIMER (R158) -/
  | helloTimer (port : Fin 16)
  /-- HELLO (R158) -/
  | hello (port : Fin 16) (slot : Bytes)
  /-- TRAINING_TIMEOUT (R158) -/
  | trainingTimeout (port : Fin 16)
  /-- CODEWORD_RECEIVE (R155) -/
  | codewordReceive (port : Fin 16) (first : List Pam) (second : List Pam) (others : List (List Pam))
  /-- ALIGN_BLOCK (R153) -/
  | alignBlock (port : Fin 16)
  /-- LANE_SIGNAL_LOSS (R161) -/
  | laneSignalLoss (port : Fin 16) (lane : Fin 4)
  /-- RETRAIN_SET_TIMEOUT (R161) -/
  | retrainSetTimeout (port : Fin 16)
  /-- CREDIT (R156) -/
  | credit (port : Fin 16) (slot : Bytes)
  /-- CREDIT_REPORT_TIMER (R156) -/
  | creditReportTimer (port : Fin 16)
  /-- WIDTH (R162) -/
  | width (port : Fin 16) (slot : Bytes)
  /-- RECAL_PERIOD (R163) -/
  | recalPeriod (port : Fin 16)
  /-- RECAL_SLOT_TIMEOUT (R163) -/
  | recalSlotTimeout (port : Fin 16)
  /-- RECAL_REQ (R163) -/
  | recalReq (port : Fin 16)
  /-- RECAL_DONE (R163) -/
  | recalDone (port : Fin 16)
  /-- HOOFBEAT_TIMER (R164) -/
  | hoofbeatTimer (port : Fin 16)
  /-- HOOFBEAT (R164) -/
  | hoofbeat (port : Fin 16) (slot : Bytes)
  /-- NEIGHBOUR_LOSS (R164) -/
  | neighbourLoss (port : Fin 16)
  /-- EYE_SCAN_GO (R166) -/
  | eyeScanGo (port : Fin 16) (data : Word)
  /-- EYE_SCAN_COMPLETE (R166) -/
  | eyeScanComplete (port : Fin 16) (right : Byte) (left : Byte) (up : Byte) (down : Byte)
  /-- STORE (R175) -/
  | store (port : Fin 16) (pkt : Bytes)
  /-- LOAD (R175) -/
  | load (port : Fin 16) (pkt : Bytes)
  /-- FETCH_ADD (R187) -/
  | fetchAdd (port : Fin 16) (pkt : Bytes)
  /-- SWAP (R187) -/
  | swap (port : Fin 16) (pkt : Bytes)
  /-- CAS (R187) -/
  | cas (port : Fin 16) (pkt : Bytes)
  /-- REDUCE (R187) -/
  | reduce (port : Fin 16) (pkt : Bytes)
  /-- MSTORE (R188) -/
  | mstore (port : Fin 16) (pkt : Bytes)
  /-- PUT (R181) -/
  | put (port : Fin 16) (pkt : Bytes)
  /-- ATTN_PACKET (R180) -/
  | attnPacket (port : Fin 16) (pkt : Bytes)
  /-- APPEND_PACKET (R180) -/
  | appendPacket (port : Fin 16) (pkt : Bytes)
  /-- RECORD_PACKET (R180) -/
  | recordPacket (port : Fin 16) (pkt : Bytes)
  /-- LEDGER_PACKET (R180) -/
  | ledgerPacket (port : Fin 16) (pkt : Bytes)
  /-- PEDIGREE_PACKET (R180) -/
  | pedigreePacket (port : Fin 16) (pkt : Bytes)
  /-- TEAM_PACKET (R180) -/
  | teamPacket (port : Fin 16) (pkt : Bytes)
  /-- UNLISTED_OPCODE (R172) -/
  | unlistedOpcode (port : Fin 16) (pkt : Bytes)
  /-- TRANSIT_PACKET (R182) -/
  | transitPacket (port : Fin 16) (pkt : Bytes)
  /-- ORDERED_RELEASE (R179) -/
  | orderedRelease
  /-- SYNC (R174) -/
  | sync (port : Fin 16) (pkt : Bytes)
  /-- SYNC_ACK (R174) -/
  | syncAck (port : Fin 16) (pkt : Bytes)
  /-- ACK (R177) -/
  | ack (port : Fin 16) (pkt : Bytes)
  /-- LOAD_RESP (R177) -/
  | loadResp (port : Fin 16) (pkt : Bytes)
  /-- ATOMIC_RESP (R178) -/
  | atomicResp (port : Fin 16) (pkt : Bytes)
  /-- RETRANSMIT_TIMEOUT (R177) -/
  | retransmitTimeout (node : Fin 65536) (conn : Option (Fin 8192)) (seq : Word)
  /-- SYNC_TIMEOUT (R174) -/
  | syncTimeout (node : Fin 65536)
  /-- QUIET_TIME_END (R174) -/
  | quietTimeEnd
  /-- HTP_FENCE_GO (R185) -/
  | htpFenceGo (data : Word)
  /-- FENCE_COMPLETE (R185) -/
  | fenceComplete
  /-- COMBINE_WINDOW_EXPIRY (R186) -/
  | combineWindowExpiry
  /-- QUEUE_AGE_DISCARD (R184) -/
  | queueAgeDiscard (port : Fin 16)
  /-- MSTORE_MEMBER_TIMEOUT (R188) -/
  | mstoreMemberTimeout
  /-- MESSAGE_CONTEXT_TIMEOUT (R180) -/
  | messageContextTimeout
  /-- ROUTE_DATA_WRITE (R182) -/
  | routeDataWrite (data : Word)
  /-- MC_DATA_WRITE (R188) -/
  | mcDataWrite (data : Word)
  /-- COU_ADM_GO (R198) -/
  | couAdmGo (data : Word)
  /-- REGISTER (R197) -/
  | register
  /-- REVOKE (R209) -/
  | revoke
  /-- REVOKE_COMPLETE (R209) -/
  | revokeComplete
  /-- CONNECT (R199) -/
  | connect
  /-- CLOSE (R210) -/
  | close
  /-- CQ_SETUP (R208) -/
  | cqSetup
  /-- CONNECT_RETRY (R199) -/
  | connectRetry (conn : Fin 8192)
  /-- CONNECT_TIMEOUT (R199) -/
  | connectTimeout (conn : Fin 8192)
  /-- C_SEND (R204) -/
  | cSend (port : Fin 16) (pkt : Bytes)
  /-- C_WRITE (R200) -/
  | cWrite (port : Fin 16) (pkt : Bytes)
  /-- C_WRITE_IMM (R205) -/
  | cWriteImm (port : Fin 16) (pkt : Bytes)
  /-- C_READ (R206) -/
  | cRead (port : Fin 16) (pkt : Bytes)
  /-- C_ATOMIC (R206) -/
  | cAtomic (port : Fin 16) (pkt : Bytes)
  /-- C_CONNECT (R199) -/
  | cConnect (port : Fin 16) (pkt : Bytes)
  /-- C_CLOSE (R210) -/
  | cClose (port : Fin 16) (pkt : Bytes)
  /-- C_ACK (R207) -/
  | cAck (port : Fin 16) (pkt : Bytes)
  /-- C_READ_RESP (R206) -/
  | cReadResp (port : Fin 16) (pkt : Bytes)
  /-- C_ATOMIC_RESP (R206) -/
  | cAtomicResp (port : Fin 16) (pkt : Bytes)
  /-- C_CONNECT_RESP (R199) -/
  | cConnectResp (port : Fin 16) (pkt : Bytes)
  /-- COURIER_ACCESS_COMPLETE (R200) -/
  | courierAccessComplete (read : HostRead)
  /-- COU_SQ_DOORBELL (R207) -/
  | couSqDoorbell (conn : Fin 8192) (data : Word)
  /-- COU_RQ_DOORBELL (R204) -/
  | couRqDoorbell (conn : Fin 8192) (data : Word) (read : HostRead)
  /-- COU_CQ_DOORBELL (R208) -/
  | couCqDoorbell (cq : Fin 256) (data : Word)
  /-- WR_SEND (R207) -/
  | wrSend (conn : Fin 8192) (entry : HostRead) (data : HostRead)
  /-- WR_WRITE (R207) -/
  | wrWrite (conn : Fin 8192) (entry : HostRead) (data : HostRead)
  /-- WR_WRITE_IMM (R207) -/
  | wrWriteImm (conn : Fin 8192) (entry : HostRead) (data : HostRead)
  /-- WR_READ (R207) -/
  | wrRead (conn : Fin 8192) (entry : HostRead)
  /-- WR_ATOMIC (R207) -/
  | wrAtomic (conn : Fin 8192) (entry : HostRead)
  /-- TEM_CHG_GO (R216) -/
  | temChgGo (data : Word)
  /-- PREPARE (R217) -/
  | prepare
  /-- READY (R216) -/
  | chgReady
  /-- TEM_COMMIT (R217) -/
  | temCommit
  /-- DONE (R216) -/
  | chgDone
  /-- ABORT (R217) -/
  | abort
  /-- PROBE (R224) -/
  | probe
  /-- PROBE_ACK (R224) -/
  | probeAck
  /-- END (R225) -/
  | teamEnd
  /-- PUBLISH (R228) -/
  | publish
  /-- PUBLISH_ACCEPT (R228) -/
  | publishAccept
  /-- RREAD (R229) -/
  | rread
  /-- RREAD_COMPLETE (R229) -/
  | rreadComplete
  /-- PREPARE_RETRY (R216) -/
  | prepareRetry
  /-- COMMIT_RETRY (R216) -/
  | commitRetry
  /-- CHANGE_TIMEOUT (R216) -/
  | changeTimeout
  /-- TEM_GRACE_EXPIRY (R219) -/
  | temGraceExpiry
  /-- OLD_MAP_FREE (R221) -/
  | oldMapFree
  /-- PREPARED_MAP_TIMEOUT (R224) -/
  | preparedMapTimeout
  /-- PROBE_TIMEOUT (R224) -/
  | probeTimeout
  /-- REGION_CREATE (R227) -/
  | regionCreate (data : Word)
  /-- REGION_DESTROY (R227) -/
  | regionDestroy (data : Word)
  /-- RCMD_GO (R230) -/
  | rcmdGo (data : Word)
  /-- HOST_SHAPER_RELEASE (R235) -/
  | hostShaperRelease
  /-- HOST_SHAPER_WRITE (R238) -/
  | hostShaperWrite (reg : Fin 3) (data : Word)
  /-- METER_WRITE (R238) -/
  | meterWrite (port : Fin 16) (reg : Fin 4) (data : Word)
  /-- TEN_DATA7_WRITE (R238) -/
  | tenData7Write (data : Word)
  /-- TEN_DATA0_READ (R237) -/
  | tenData0Read
  /-- WHEEL_RELEASE (R239) -/
  | wheelRelease (stall : Fin 128)
  /-- HIST_SEL_WRITE (R240) -/
  | histSelWrite (data : Word)
  /-- HIST_DEPTH_SAMPLE (R240) -/
  | histDepthSample
  /-- PACE_WINDOW_END (R241) -/
  | paceWindowEnd (slot : Fin 16)
  /-- PKH_CMD_GO (R254) -/
  | pkhCmdGo (data : Word)
  /-- DEMOTE (R248) -/
  | demote
  /-- PROMOTE (R249) -/
  | promote
  /-- COPY (R254) -/
  | copy (reads : List HostRead)
  /-- FREE (R254) -/
  | free
  /-- PROMOTION_REQUEST (R250) -/
  | promotionRequest
  /-- PROMOTION_COMPLETE (R249) -/
  | promotionComplete (page : Nat) (read : HostRead)
  /-- DEMOTION_COPY_COMPLETE (R248) -/
  | demotionCopyComplete (page : Nat)
  /-- TIER_IO_FAIL (R252) -/
  | tierIoFail (page : Nat)
  /-- PKH_TICKET_DOORBELL (R256) -/
  | pkhTicketDoorbell (ring : Fin 16) (data : Word)
  /-- TICKET_TAKE (R256) -/
  | ticketTake (ring : Fin 16)
  /-- TICKET (R257) -/
  | ticket
  /-- PREFETCH (R257) -/
  | prefetch
  /-- TICKET_RELEASE (R257) -/
  | ticketRelease
  /-- FILL_START (R258) -/
  | fillStart
  /-- FILL_COMPLETE (R258) -/
  | fillComplete (model : Fin 64) (layer : Fin 1024) (reads : List HostRead)
  /-- TICKET_DEADLINE (R257) -/
  | ticketDeadline
  /-- VAULT_PRESENCE (R262) -/
  | vaultPresence (present : Bool)
  /-- VAULT_ATTACH_COMPLETE (R261) -/
  | vaultAttachComplete (ident : Bytes) (link : Bool) (lbaOk : Bool) (mdtsOk : Bool) (limits : VaultLimits)
  /-- SMART_READ (R263) -/
  | smartRead (log : Bytes)
  /-- VAULT_COMPLETION (R260) -/
  | vaultCompletion (cid : Fin 65536) (ok : Bool) (data : Bytes)
  /-- VAULT_COMMAND_TIMEOUT (R260) -/
  | vaultCommandTimeout
  /-- DEALLOCATE_ISSUE (R263) -/
  | deallocateIssue
  /-- VAULT_DETACH (R264) -/
  | vaultDetach (data : Word)
  /-- VAULT_DETACHED (R262) -/
  | vaultDetached
  /-- VAULT_FORMAT (R264) -/
  | vaultFormat (data : Word)
  /-- VAULT_REMOVAL (R264) -/
  | vaultRemoval
  /-- PKH_MAP_WRITE (R246) -/
  | pkhMapWrite (data : Word)
  /-- PKH_MAP_DATA0_READ (R246) -/
  | pkhMapData0Read
  /-- PKH_MODEL_WRITE (R255) -/
  | pkhModelWrite (data : Word)
  /-- PKH_MODEL_DATA0_READ (R255) -/
  | pkhModelData0Read
  /-- PKH_CQ_HEAD_WRITE (R254) -/
  | pkhCqHeadWrite (data : Word)
  /-- BAR2_WRITE (R270) -/
  | bar2Write (addr : Nat) (data : Bytes) (full : Bool) (poisoned : Bool)
  /-- BAR2_MERGE_TIMEOUT (R270) -/
  | bar2MergeTimeout
  /-- BAR2_READ (R271) -/
  | bar2Read (tag : Nat) (addr : Nat) (len : Nat)
  /-- BAR4_UNMAPPED_WRITE (R273) -/
  | bar4UnmappedWrite (off : Nat) (access : Bar4Access)
  /-- FLR (R268) -/
  | flr
  /-- HOT_RESET (R268) -/
  | hotReset
  /-- HOST_LINK_DOWN (R268) -/
  | hostLinkDown
  /-- PERST_L_ASSERT (R363) -/
  | perstLAssert
  /-- BUS_MASTER_ENABLE (R268) -/
  | busMasterEnable (enable : CfgWrite) (speed : Fin 7) (width : Fin 9)
  /-- MSIX_UNMASK (R276) -/
  | msixUnmask (vector : Option (Fin 2048))
  /-- MSIX_COALESCE_EXPIRY (R276) -/
  | msixCoalesceExpiry
  /-- EVQ_ENABLE (R277) -/
  | evqEnable (queue : Fin 16) (data : Word)
  /-- APERTURE_WRITE (R269) -/
  | apertureWrite (data : Word)
  /-- AP_DATA0_READ (R269) -/
  | apData0Read
  /-- DOORBELL_BASE_WRITE (R273) -/
  | doorbellBaseWrite (reg : Fin 3) (data : Word)
  /-- PLL_RELOCK_COMPLETE (R279) -/
  | pllRelockComplete
  /-- CROSSING_TIMEOUT (R283) -/
  | crossingTimeout (src : Fin 10) (dst : Fin 10) (inst : Fin 128) (handle : Nat)
  /-- PLL_LOCK_LOSS (R285) -/
  | pllLockLoss (pll : Pll)
  /-- RESET_NOTICE (R287) -/
  | resetNotice (src : Fin 10) (dst : Fin 10) (inst : Fin 128)
  /-- CROSSING_REOPEN (R287) -/
  | crossingReopen (src : Fin 10) (dst : Fin 10) (inst : Fin 128)
  /-- CHIP_RELEASE (R286) -/
  | chipRelease
  /-- RNG_QUALIFIED (R352) -/
  | rngQualified
  /-- ENTROPY_TIMEOUT (R352) -/
  | entropyTimeout
  /-- TCK_START (R306) -/
  | tckStart (data : Word)
  /-- PREAMBLE_READ_COMPLETE (R296) -/
  | preambleReadComplete (image : HostRead)
  /-- HBM_INIT_COMPLETE (R303) -/
  | hbmInitComplete
  /-- FETCH_COMPLETE (R296) -/
  | fetchComplete (image : HostRead)
  /-- CHECK_COMPLETE (R300) -/
  | checkComplete
  /-- TACK_WAIT_MET (R301) -/
  | tackWaitMet
  /-- TACK_WAIT_TIMEOUT (R301) -/
  | tackWaitTimeout
  /-- APPLY_COMPLETE (R304) -/
  | applyComplete
  /-- TCK_RELOAD (R307) -/
  | tckReload (data : Word) (image : HostRead)
  /-- GROOM_POWER_UP (R310) -/
  | groomPowerUp
  /-- GROOM_POWER_LOSS (R310) -/
  | groomPowerLoss
  /-- INPUT_START_LEVEL (R311) -/
  | inputStartLevel (input : Nat)
  /-- RAIL_POWER_GOOD (R311) -/
  | railPowerGood (rail : Fin 10)
  /-- RAIL_FAULT (R312) -/
  | railFault (rail : Fin 10) (input : Nat)
  /-- RAIL_DISABLE_STEP (R312) -/
  | railDisableStep
  /-- SHUTDOWN_HOLD_RELEASE (R313) -/
  | shutdownHoldRelease (lowNs : Nat) (inputNs : Nat)
  /-- GAIT_REQUEST (R314) -/
  | gaitRequest (data : Word)
  /-- VARITH_RAMP_COMPLETE (R314) -/
  | varithRampComplete
  /-- STABLED_ENTRY_COMPLETE (R316) -/
  | stabledEntryComplete
  /-- STABLED_EXIT_COMPLETE (R316) -/
  | stabledExitComplete
  /-- BROWNOUT_WARN (R318) -/
  | brownoutWarn (input : Nat)
  /-- BROWNOUT_RECOVER (R319) -/
  | brownoutRecover (input : Recovery) (time : RecoveryTime)
  /-- UNDERVOLTAGE (R320) -/
  | undervoltage (input : Nat)
  /-- OVERVOLTAGE (R320) -/
  | overvoltage (input : Nat)
  /-- THERMAL_TRIP (R321) -/
  | thermalTrip
  /-- GROOM_SAMPLE_PERIOD (R322) -/
  | groomSamplePeriod (samples : Bytes)
  /-- SET_ENDPOINT_ID (R327) -/
  | setEndpointId (inst : Fin 32) (op : Byte) (eid : Byte)
  /-- GET_ENDPOINT_ID (R327) -/
  | getEndpointId (inst : Fin 32)
  /-- GET_ENDPOINT_UUID (R327) -/
  | getEndpointUuid (inst : Fin 32)
  /-- GET_MCTP_VERSION_SUPPORT (R327) -/
  | getMctpVersionSupport (inst : Fin 32) (type : Byte)
  /-- GET_MESSAGE_TYPE_SUPPORT (R327) -/
  | getMessageTypeSupport (inst : Fin 32)
  /-- GET_SENSORS (R328) -/
  | getSensors (first : Byte) (count : Byte)
  /-- GET_STATUS (R328) -/
  | getStatus
  /-- GET_LOG (R328) -/
  | getLog (index : Byte)
  /-- GET_TALLIES (R328) -/
  | getTallies
  /-- SET_GAIT (R328) -/
  | setGait (gait : Byte)
  /-- WAKE (R328) -/
  | wake
  /-- GET_VERSION (R353) -/
  | getVersion (req : Bytes)
  /-- GET_CAPABILITIES (R353) -/
  | getCapabilities (req : Bytes)
  /-- NEGOTIATE_ALGORITHMS (R353) -/
  | negotiateAlgorithms (req : Bytes)
  /-- GET_DIGESTS (R353) -/
  | getDigests (req : Bytes)
  /-- GET_CERTIFICATE (R353) -/
  | getCertificate (req : Bytes)
  /-- CHALLENGE (R353) -/
  | challenge (req : Bytes)
  /-- GET_MEASUREMENTS (R354) -/
  | getMeasurements (req : Bytes)
  /-- SPDM_SIGNATURE_COMPLETE (R355) -/
  | spdmSignatureComplete
  /-- FAR_PAGE_RESOLVE (R336) -/
  | farPageResolve
  /-- POISONED_PAGE_RECLAIM (R337) -/
  | poisonedPageReclaim (bad : List (Fin 256))
  /-- SCRUB_LINE (R340) -/
  | scrubLine (stall : Fin 128) (errors : Fin 7)
  /-- SVN_ADVANCE (R351) -/
  | svnAdvance
  /-- REVOKE_SLOT (R351) -/
  | revokeSlot (slot : Fin 4)
  /-- FUSE_BIT_PROGRAM (R351) -/
  | fuseBitProgram (ok : Bool)
  /-- RNG_TEST_FAIL (R352) -/
  | rngTestFail (proportion : Bool)
  /-- PR_ENABLE (R357) -/
  | prEnable (region : Fin 16) (data : Word)
  /-- PR_INIT_COMPLETE (R357) -/
  | prInitComplete (region : Fin 16)
  /-- EQUALISE_HALF_TIMEOUT (R160) -/
  | equaliseHalfTimeout (port : Fin 16)
  /-- VAULT_LINK_DOWN (R262) -/
  | vaultLinkDown
  /-- LOST_MEMBER_OFFER_TIMEOUT (R225) -/
  | lostMemberOfferTimeout
  /-- UNSUPPORTED_MCTP_REQUEST (R327) -/
  | unsupportedMctpRequest (type : Byte) (inst : Fin 32) (cmd : Byte)
  /-- UNSUPPORTED_SPDM_REQUEST (R353) -/
  | unsupportedSpdmRequest (req : Bytes)
  deriving DecidableEq, Repr

end Sys2Proof
end

