-- ==== Sys2Proof/Config.lean ====
section
/-!
DEFINITION. Config.lean: the free values. Each is an opaque constant with no body: where the spec lets the device draw or
choose a value and does not state it, the model applies one of these to the state's draw counter or to the operands the
value depends on, so that nothing can be proved of it beyond the bounds the use keeps.
-/
namespace Sys2Proof.Config

/-- The `n`-th draw of the random source or of a value the spec leaves open, as a natural number: keys, nonces, salts,
incarnations and choices the spec does not order (the user reduces it to the width or range the spec gives). -/
opaque freeNat : Nat → Nat

/-- Nanoseconds by which the `k`-th value of a domain's view of the tick reaches it late (R288); the user keeps Table CLK-7's
bound. -/
opaque viewLag : Nat → Nat → Nat

/-- Which value within 1 ULP of the exact cosine (`which` 0) or sine (`which` 1) the rotary unit gives for a phase (R52). -/
opaque ropeUlp : Nat → Nat → Nat

/-- The event code of the INFO record a near-memory descriptor with EVENT set sends (Table STL-4): Table STL-7 names none. -/
opaque nmuEventCode : Nat

/-- The event code of the INFO record a Packhorse command with EVENT set sends (Table PKH-4): Table PKH-11 names none. -/
opaque pkhEventCode : Nat

/-! ### What this die and module were made with -/

/-- DEVICE_ID of the die (Table ASY-1); the user keeps 128 bits. -/
opaque deviceId : Nat

/-- KEY_HASH of fuse slot `k` as a big-endian number (Table ASY-1); the user keeps 512 bits. -/
opaque keyHash : Nat → Nat

/-- SECURE_FORCE (Table ASY-1). -/
opaque secureForce : Bool

/-- The certificates and the root hash of IDCERT (Table ASY-1): how many bytes there are, and each byte. -/
opaque idCertLen : Nat
opaque idCertByte : Nat → Nat

/-- The identity key's signature of a message under a salt, as a number (R349, R355); the user keeps 4,096 bits. -/
opaque sign : List Nat → Nat → Nat

/-- The endpoint's UUID, and the version entry it reports for a message type (R327). -/
opaque uuid : Nat
opaque mctpVersion : Nat → Nat

/-- CTExponent, DataTransferSize and MaxSPDMmsgSize of the SPDM responder (R353). -/
opaque spdmCtExponent : Nat
opaque spdmTransfer : Nat
opaque spdmMessage : Nat

/-- Fields of the identity memory that differ by module (Table MOD-7): 0 BOARD_REV, 1 MFG_DATE, 2 SERIAL, 3 DEVICE_ID as
copied there, 4 PLATE_REV. -/
opaque moduleField : Nat → Nat

end Sys2Proof.Config
end

