-- ==== Sys2Proof/Machine/RegMap.lean ====
section
/-!
DEFINITION. Machine/RegMap.lean: the BAR0 register map. Every register of the chapters' register sections: its offset, its
fields with access code (Table GLB-1), reset value and stated range, and names for offsets and fields.
-/
namespace Sys2Proof.Machine

/-- Access codes of Table GLB-1. -/
inductive Access where
  | rw
  | ro
  | wo
  | w1c
  | w1s
  | rwl
  deriving DecidableEq, Repr

/-- Place of a field in its register. -/
structure Field where
  hi : Nat
  lo : Nat
  deriving DecidableEq, Repr

/-- One field of a register: place, access code, reset value, and the range a write must fall in. -/
structure FieldDesc where
  hi : Nat
  lo : Nat
  acc : Access
  reset : Nat
  min : Nat
  max : Nat
  deriving DecidableEq, Repr

/-- `count` like registers from `base`, `stride` bytes apart. Bits outside `fields` are reserved (R3). -/
structure RegDesc where
  base : Nat
  count : Nat
  stride : Nat
  fields : List FieldDesc
  deriving DecidableEq, Repr

/-! ### Register offsets from BAR0 (R7, Table GLB-2; `n` is the stall or port, `k` the instance in a run) -/

namespace Reg

def STL_ID (n : Nat) : Nat := 0x800000 + 0x10000 * n
def STL_CTRL (n : Nat) : Nat := 0x800004 + 0x10000 * n
def STL_STATUS (n : Nat) : Nat := 0x800008 + 0x10000 * n
def STL_BUF_PART (n : Nat) : Nat := 0x800010 + 0x10000 * n
def STL_ALLOC (n : Nat) : Nat := 0x800018 + 0x10000 * n
def STL_ALLOC_LOW (n : Nat) : Nat := 0x80001C + 0x10000 * n
def STL_HOT_LINE (n : Nat) : Nat := 0x800020 + 0x10000 * n
def STL_RSV_FIRST (n : Nat) : Nat := 0x800024 + 0x10000 * n
def STL_RSV_COUNT (n : Nat) : Nat := 0x800028 + 0x10000 * n
def STL_NMU_DESC (n k : Nat) : Nat := 0x800100 + 0x10000 * n + 4 * k
def STL_NMU_GO (n : Nat) : Nat := 0x800120 + 0x10000 * n
def STL_NMU_STATUS (n : Nat) : Nat := 0x800124 + 0x10000 * n
def STL_NMU_CQ_BASE_LO (n : Nat) : Nat := 0x800128 + 0x10000 * n
def STL_NMU_CQ_BASE_HI (n : Nat) : Nat := 0x80012C + 0x10000 * n
def STL_NMU_CQ_CTRL (n : Nat) : Nat := 0x800130 + 0x10000 * n
def STL_NMU_CQ_HEAD (n : Nat) : Nat := 0x800134 + 0x10000 * n
def FMT_TBL_STATUS (n k : Nat) : Nat := 0x804000 + 0x10000 * n + 4 * k
def FMT_TBL_SRC_LO (n : Nat) : Nat := 0x804008 + 0x10000 * n
def FMT_TBL_SRC_HI (n : Nat) : Nat := 0x80400C + 0x10000 * n
def FMT_TBL_CTRL (n : Nat) : Nat := 0x804010 + 0x10000 * n
def FMT_TBL_RESULT (n : Nat) : Nat := 0x804014 + 0x10000 * n
def FMT_MINT_CTRL (n : Nat) : Nat := 0x804020 + 0x10000 * n
def FMT_MINT_SEED (n : Nat) : Nat := 0x804024 + 0x10000 * n
def FMT_ROPE_IDX (n : Nat) : Nat := 0x804028 + 0x10000 * n
def FMT_ROPE_FREQ (n : Nat) : Nat := 0x80402C + 0x10000 * n
def FMT_LEN_MISMATCH (n : Nat) : Nat := 0x804040 + 0x10000 * n
def FMT_STALE_RAW (n : Nat) : Nat := 0x804044 + 0x10000 * n
def FMT_STALE_END (n : Nat) : Nat := 0x804048 + 0x10000 * n
def FMT_MINT_NONFINITE (n : Nat) : Nat := 0x80404C + 0x10000 * n
def FMT_MINT_SAT (n : Nat) : Nat := 0x804050 + 0x10000 * n
def ATT_CTRL (n : Nat) : Nat := 0x808000 + 0x10000 * n
def ATT_STATUS (n : Nat) : Nat := 0x808004 + 0x10000 * n
def ATT_MERGE_TMO (n : Nat) : Nat := 0x808008 + 0x10000 * n
def ATT_DESC (n k : Nat) : Nat := 0x808100 + 0x10000 * n + 4 * k
def ATT_GO (n : Nat) : Nat := 0x808180 + 0x10000 * n
def ATT_DONE (n : Nat) : Nat := 0x808200 + 0x10000 * n
def ATT_ERR (n : Nat) : Nat := 0x808204 + 0x10000 * n
def ATT_NONFINITE (n : Nat) : Nat := 0x808208 + 0x10000 * n
def ATT_MERGES (n : Nat) : Nat := 0x80820C + 0x10000 * n
def ATT_MERGE_LOST (n : Nat) : Nat := 0x808210 + 0x10000 * n
def ATT_LATE (n : Nat) : Nat := 0x808214 + 0x10000 * n
def KVP_CTRL (n : Nat) : Nat := 0x80C000 + 0x10000 * n
def KVP_STATUS (n : Nat) : Nat := 0x80C004 + 0x10000 * n
def KVP_EDIT_DESC (n k : Nat) : Nat := 0x80C100 + 0x10000 * n + 4 * k
def KVP_EDIT_GO (n : Nat) : Nat := 0x80C140 + 0x10000 * n
def KVP_APPENDS (n : Nat) : Nat := 0x80C200 + 0x10000 * n
def KVP_APPEND_ERR (n : Nat) : Nat := 0x80C204 + 0x10000 * n
def KVP_EDITS (n : Nat) : Nat := 0x80C208 + 0x10000 * n
def KVP_EDIT_WAITS (n : Nat) : Nat := 0x80C20C + 0x10000 * n
def KVP_STALE (n : Nat) : Nat := 0x80C210 + 0x10000 * n
def KVP_PROMOTE_REQ (n : Nat) : Nat := 0x80C214 + 0x10000 * n
def PED_CTRL : Nat := 0x1E00000
def PED_STATUS : Nat := 0x1E00004
def PED_REHASH : Nat := 0x1E00008
def PED_CURSOR : Nat := 0x1E0000C
def PED_NODE_BASE_LO : Nat := 0x1E00010
def PED_NODE_BASE_HI : Nat := 0x1E00014
def PED_NODE_CAP : Nat := 0x1E00018
def PED_NODE_FREE : Nat := 0x1E0001C
def PED_TEAM (k : Nat) : Nat := 0x1E00040 + 4 * k
def PED_SALT (k : Nat) : Nat := 0x1E00080 + 4 * k
def PED_LOOKUPS : Nat := 0x1E00100
def PED_HITS : Nat := 0x1E00104
def PED_INSERTS : Nat := 0x1E00108
def PED_INS_FULL : Nat := 0x1E0010C
def PED_EVICTS : Nat := 0x1E00110
def PED_REHASH_DROP : Nat := 0x1E00114
def LDG_CTRL : Nat := 0x1C00000
def LDG_STATUS : Nat := 0x1C00004
def LDG_REC_BASE_LO : Nat := 0x1C00008
def LDG_REC_BASE_HI : Nat := 0x1C0000C
def LDG_CTX_BASE_LO : Nat := 0x1C00010
def LDG_CTX_BASE_HI : Nat := 0x1C00014
def LDG_ESCROW_TMO : Nat := 0x1C00018
def LDG_ESCROW_RETRY : Nat := 0x1C0001C
def LDG_DEADLINE_GRACE : Nat := 0x1C00020
def LDG_SPLIT_PERIOD : Nat := 0x1C00024
def LDG_TEAM (k : Nat) : Nat := 0x1C00040 + 4 * k
def LDG_FE_CFG (k : Nat) : Nat := 0x1C00100 + 16 * k
def LDG_FE_BASE_LO (k : Nat) : Nat := 0x1C00104 + 16 * k
def LDG_FE_BASE_HI (k : Nat) : Nat := 0x1C00108 + 16 * k
def LDG_ADMITS : Nat := 0x1C01000
def LDG_COMPLETE : Nat := 0x1C01004
def LDG_ENDED_ERR : Nat := 0x1C01008
def LDG_ESCROWS : Nat := 0x1C0100C
def LDG_REVERTS : Nat := 0x1C01010
def LDG_STALE : Nat := 0x1C01014
def LDG_TOKENS : Nat := 0x1C01018
def HLK_CTRL (n : Nat) : Nat := 0x1800000 + 0x10000 * n
def HLK_STATUS (n : Nat) : Nat := 0x1800004 + 0x10000 * n
def HLK_NEIGHBOUR (n : Nat) : Nat := 0x1800008 + 0x10000 * n
def HLK_CREDIT (n : Nat) : Nat := 0x180000C + 0x10000 * n
def HLK_TRAIN (n : Nat) : Nat := 0x1800010 + 0x10000 * n
def HLK_RECAL (n : Nat) : Nat := 0x1800014 + 0x10000 * n
def HLK_EYE_CTRL (n : Nat) : Nat := 0x1800020 + 0x10000 * n
def HLK_EYE_RESULT (n : Nat) : Nat := 0x1800024 + 0x10000 * n
def HLK_CW (n : Nat) : Nat := 0x1800100 + 0x10000 * n
def HLK_FEC_HIST5 (n : Nat) : Nat := 0x1800118 + 0x10000 * n
def HLK_STOMP (n : Nat) : Nat := 0x180011C + 0x10000 * n
def HLK_RETRAINS (n : Nat) : Nat := 0x1800120 + 0x10000 * n
def HLK_TRAIN_FAIL (n : Nat) : Nat := 0x1800124 + 0x10000 * n
def HLK_NB_LOST (n : Nat) : Nat := 0x1800128 + 0x10000 * n
def HTP_CTRL : Nat := 0x1900000
def HTP_STATUS : Nat := 0x1900004
def HTP_COMB_WIN : Nat := 0x1900008
def HTP_RETX : Nat := 0x190000C
def HTP_CC_TARGET : Nat := 0x1900010
def HTP_CC_PARAM : Nat := 0x1900014
def HTP_MSG_TMO : Nat := 0x1900018
def HTP_ROUTE_IDX : Nat := 0x1900020
def HTP_ROUTE_DATA : Nat := 0x1900024
def HTP_MC_IDX : Nat := 0x1900028
def HTP_MC_DATA : Nat := 0x190002C
def HTP_RX_BASE_LO : Nat := 0x1900030
def HTP_RX_BASE_HI : Nat := 0x1900034
def HTP_TX_BASE_LO : Nat := 0x1900038
def HTP_TX_BASE_HI : Nat := 0x190003C
def HTP_MC_BASE_LO : Nat := 0x1900040
def HTP_MC_BASE_HI : Nat := 0x1900044
def HTP_FENCE : Nat := 0x1900050
def HTP_DQ_IDX : Nat := 0x1900058
def HTP_DQ_CWND : Nat := 0x190005C
def HTP_DQ_TALLY : Nat := 0x1900060
def HTP_DQ_RTT : Nat := 0x1900064
def HTP_INCARN : Nat := 0x1900068
def HTP_TX_PKTS : Nat := 0x1900100
def HTP_RX_PKTS : Nat := 0x1900104
def HTP_RETX_TALLY : Nat := 0x1900108
def HTP_DUP : Nat := 0x190010C
def HTP_OLD_DUP : Nat := 0x1900110
def HTP_NOROUTE : Nat := 0x1900114
def HTP_CRC : Nat := 0x1900118
def HTP_HOPS : Nat := 0x190011C
def HTP_AGED : Nat := 0x1900120
def HTP_COMB_LOADS : Nat := 0x1900124
def HTP_COMB_FADDS : Nat := 0x1900128
def HTP_MSG_TMO_CNT : Nat := 0x190012C
def HTP_GIVEUP : Nat := 0x1900130
def HTP_STALE : Nat := 0x1900134
def HTP_BAD_OP : Nat := 0x1900138
def COU_CTRL : Nat := 0x1A00000
def COU_STATUS : Nat := 0x1A00004
def COU_CONN_BASE_LO : Nat := 0x1A00008
def COU_CONN_BASE_HI : Nat := 0x1A0000C
def COU_EXT_BASE_LO : Nat := 0x1A00010
def COU_EXT_BASE_HI : Nat := 0x1A00014
def COU_CONN_CAP : Nat := 0x1A00018
def COU_EXT_CAP : Nat := 0x1A00020
def COU_CONNECT_TMO : Nat := 0x1A0001C
def COU_ADM (k : Nat) : Nat := 0x1A00100 + 4 * k
def COU_ADM_GO : Nat := 0x1A00140
def COU_WR_DONE : Nat := 0x1A00200
def COU_RX_MSG : Nat := 0x1A00204
def COU_VIOL_RX : Nat := 0x1A00208
def COU_VIOL_TX : Nat := 0x1A0020C
def COU_DUP : Nat := 0x1A00210
def COU_OLD_DUP : Nat := 0x1A00214
def COU_RNR : Nat := 0x1A00218
def COU_REVOKES : Nat := 0x1A0021C
def TEM_GRACE : Nat := 0x1980000
def TEM_CHG_TMO : Nat := 0x1980004
def TEM_PROBE_TMO : Nat := 0x1980008
def TEM_MAP_BASE_LO : Nat := 0x1980010
def TEM_MAP_BASE_HI : Nat := 0x1980014
def TEM_STAGE_BASE_LO : Nat := 0x1980018
def TEM_STAGE_BASE_HI : Nat := 0x198001C
def TEM_CHG : Nat := 0x1980020
def TEM_STATUS : Nat := 0x1980024
def TEM_TEAM_STATUS (k : Nat) : Nat := 0x1980100 + 16 * k
def TEM_TEAM_SPAN (k : Nat) : Nat := 0x1980104 + 16 * k
def TEM_TEAM_NODES (k : Nat) : Nat := 0x1980108 + 16 * k
def TEM_TEAM_PORTS (k : Nat) : Nat := 0x198010C + 16 * k
def TEM_RGN_IDX : Nat := 0x1980200
def TEM_RGN_BASE_LO : Nat := 0x1980204
def TEM_RGN_BASE_HI : Nat := 0x1980208
def TEM_RGN_CFG : Nat := 0x198020C
def TEM_RGN_VER : Nat := 0x1980210
def TEM_RGN_PUB : Nat := 0x1980214
def TEM_RCMD (k : Nat) : Nat := 0x1980300 + 4 * k
def TEM_RCMD_GO : Nat := 0x1980340
def TEM_COMMITS : Nat := 0x1980400
def TEM_ABORTS : Nat := 0x1980404
def TEM_FWD : Nat := 0x1980408
def TEM_ENDS : Nat := 0x198040C
def TEM_PUB_OK : Nat := 0x1980410
def TEM_PUB_SUPERSEDED : Nat := 0x1980414
def TEM_RREADS : Nat := 0x1980418
def RNS_CTRL : Nat := 0x2000000
def RNS_STATUS : Nat := 0x2000004
def RNS_WHEEL_SLOT : Nat := 0x2000008
def RNS_FAIR_QMAX : Nat := 0x200000C
def RNS_HOST_RATE : Nat := 0x2000010
def RNS_HOST_BURST : Nat := 0x2000014
def RNS_HOST_OVH : Nat := 0x2000018
def RNS_HOST_FILL : Nat := 0x200001C
def RNS_TEN_BASE_LO : Nat := 0x2000020
def RNS_TEN_BASE_HI : Nat := 0x2000024
def RNS_TEN_IDX : Nat := 0x2000028
def RNS_TEN_DATA (k : Nat) : Nat := 0x2000040 + 4 * k
def RNS_TEAM_CFG (k : Nat) : Nat := 0x2000100 + 16 * k
def RNS_TEAM_PERIOD (k : Nat) : Nat := 0x2000104 + 16 * k
def RNS_TEAM_PACE_OFF (k : Nat) : Nat := 0x2000108 + 16 * k
def RNS_TEAM_PACE (k : Nat) : Nat := 0x200010C + 16 * k
def RNS_HIST_SEL : Nat := 0x2000300
def RNS_HIST_MAXD : Nat := 0x2000304
def RNS_HIST (k : Nat) : Nat := 0x2000340 + 4 * k
def RNS_MTR_CIR (k : Nat) : Nat := 0x2000400 + 16 * k
def RNS_MTR_PIR (k : Nat) : Nat := 0x2000404 + 16 * k
def RNS_MTR_SIZES (k : Nat) : Nat := 0x2000408 + 16 * k
def RNS_MTR_CFG (k : Nat) : Nat := 0x200040C + 16 * k
def RNS_LATE : Nat := 0x2000500
def RNS_FAIR_DROP : Nat := 0x2000504
def RNS_YELLOW : Nat := 0x2000508
def RNS_RED : Nat := 0x200050C
def RNS_TEN_REFUSED : Nat := 0x2000510
def RNS_HOST_HELD : Nat := 0x2000514
def RNS_LAGGARDS : Nat := 0x2000518
def PKH_CTRL : Nat := 0x2200000
def PKH_STATUS : Nat := 0x2200004
def PKH_TIER_DL : Nat := 0x2200008
def PKH_VAULT_TMO : Nat := 0x220000C
def PKH_TREC_BASE_LO : Nat := 0x2200010
def PKH_TREC_BASE_HI : Nat := 0x2200014
def PKH_WBUF_BASE_LO : Nat := 0x2200018
def PKH_WBUF_BASE_HI : Nat := 0x220001C
def PKH_VQ_BASE_LO : Nat := 0x2200020
def PKH_VQ_BASE_HI : Nat := 0x2200024
def PKH_TIER_PAGES (k : Nat) : Nat := 0x2200030 + 4 * k
def PKH_WBUF_CFG : Nat := 0x220003C
def PKH_MAP_IDX : Nat := 0x2200040
def PKH_MAP_DATA (k : Nat) : Nat := 0x2200044 + 4 * k
def PKH_MODEL_IDX : Nat := 0x2200058
def PKH_MODEL_DATA (k : Nat) : Nat := 0x220005C + 4 * k
def PKH_TKT_RING (k : Nat) : Nat := 0x2200080 + 4 * k
def PKH_CMD (k : Nat) : Nat := 0x2200100 + 4 * k
def PKH_CMD_GO : Nat := 0x2200140
def PKH_VAULT_CTRL : Nat := 0x2200200
def PKH_VAULT_STATUS : Nat := 0x2200204
def PKH_VAULT_LIFE : Nat := 0x2200208
def PKH_DEMOTES : Nat := 0x2200300
def PKH_PROMOTES : Nat := 0x2200304
def PKH_PROMOTE_DROP : Nat := 0x2200308
def PKH_TIER_FAIL : Nat := 0x220030C
def PKH_TIER_LATE : Nat := 0x2200310
def PKH_TICKETS : Nat := 0x2200314
def PKH_VAULT_RETIRED : Nat := 0x2200318
def GLB_ID : Nat := 0x0
def GLB_NODE : Nat := 0x4
def GLB_STRAP : Nat := 0x8
def GLB_LOCK : Nat := 0xC
def GLB_SUMMARY : Nat := 0x10
def GLB_MODID_IDX : Nat := 0x20
def GLB_MODID_DATA : Nat := 0x24
def GLB_TICK_LO : Nat := 0x30
def GLB_TICK_HI : Nat := 0x34
def HST_CTRL : Nat := 0x2400000
def HST_STATUS : Nat := 0x2400004
def HST_AP_IDX : Nat := 0x2400010
def HST_AP_DATA (k : Nat) : Nat := 0x2400014 + 4 * k
def HST_DB_LDG : Nat := 0x2400030
def HST_DB_COU : Nat := 0x2400034
def HST_DB_PKH : Nat := 0x2400038
def HST_BAR2_ERR_LO : Nat := 0x2400040
def HST_BAR2_ERR_HI : Nat := 0x2400044
def HST_BAR2_ERR_INFO : Nat := 0x2400048
def HST_EVQ_BASE_LO (k : Nat) : Nat := 0x2400100 + 32 * k
def HST_EVQ_BASE_HI (k : Nat) : Nat := 0x2400104 + 32 * k
def HST_EVQ_CTRL (k : Nat) : Nat := 0x2400108 + 32 * k
def HST_EVQ_HEAD (k : Nat) : Nat := 0x240010C + 32 * k
def HST_EVQ_LOST (k : Nat) : Nat := 0x2400110 + 32 * k
def HST_MISS : Nat := 0x2400400
def HST_PARTIAL : Nat := 0x2400404
def HST_DB_MISS : Nat := 0x2400408
def HST_BLOCKED : Nat := 0x240040C
def HST_MERGED : Nat := 0x2400410
def CLK_STATUS : Nat := 0x300000
def CLK_ARITH : Nat := 0x300004
def CLK_XTMO_INFO : Nat := 0x300008
def CLK_XTMO_CNT : Nat := 0x300100
def CLK_LOCK_LOSS : Nat := 0x300104
def CLK_NOTICES : Nat := 0x300108
def TCK_STATUS : Nat := 0x500000
def TCK_CTRL : Nat := 0x500004
def TCK_SRC_LO : Nat := 0x500008
def TCK_SRC_HI : Nat := 0x50000C
def TCK_SEL : Nat := 0x500010
def TCK_IMAGE_ID_LO : Nat := 0x500014
def TCK_IMAGE_ID_HI : Nat := 0x500018
def TCK_SVN : Nat := 0x50001C
def TCK_FAIL_INFO : Nat := 0x500020
def TCK_SECT_INFO (k : Nat) : Nat := 0x500100 + 8 * k
def TCK_SECT_VERSION (k : Nat) : Nat := 0x500104 + 8 * k
def TCK_RELOADS : Nat := 0x500200
def TCK_RELOAD_FAIL : Nat := 0x500204
def TCK_SECT_APPLIED : Nat := 0x500208
def PWR_STATUS : Nat := 0x200000
def PWR_GAIT : Nat := 0x200004
def PWR_BROWN : Nat := 0x200008
def GRM_CTRL : Nat := 0x210000
def GRM_ASSERTED : Nat := 0x210004
def GRM_SENS_IDX : Nat := 0x210008
def GRM_SENS_DATA : Nat := 0x21000C
def GRM_EID : Nat := 0x210010
def GRM_RULE_CFG (k : Nat) : Nat := 0x210100 + 16 * k
def GRM_RULE_SET (k : Nat) : Nat := 0x210104 + 16 * k
def GRM_RULE_CLR (k : Nat) : Nat := 0x210108 + 16 * k
def GRM_LOG_IDX : Nat := 0x210020
def GRM_LOG_DATA : Nat := 0x210024
def PWR_HOLDS : Nat := 0x200100
def PWR_SHUTDOWNS : Nat := 0x200104
def PWR_GAIT_CHANGES : Nat := 0x200108
def GRM_ASSERTS : Nat := 0x20010C
def FAR_CTRL : Nat := 0x400000
def FAR_SCRUB : Nat := 0x400004
def FAR_STALL_LIMIT : Nat := 0x400008
def FAR_OWNER_BASE_LO : Nat := 0x400010
def FAR_OWNER_BASE_HI : Nat := 0x400014
def FAR_ROUTE (k : Nat) : Nat := 0x400044 + 4 * k
def FAR_CE_IDX : Nat := 0x4000C0
def FAR_CE_DATA : Nat := 0x4000C4
def FAR_CE : Nat := 0x400100
def FAR_UE : Nat := 0x400104
def FAR_POISONED : Nat := 0x400108
def FAR_RETIRED : Nat := 0x40010C
def FAR_STALLS_FAILED : Nat := 0x400110
def FAR_SCRUB_PASSES : Nat := 0x400114
def FAR_EV_DROP : Nat := 0x400118
def ASY_ID (k : Nat) : Nat := 0x100000 + 4 * k
def ASY_FUSE : Nat := 0x100010
def ASY_STATUS : Nat := 0x100014
def ASY_FUSE_CMD : Nat := 0x100018
def ASY_VKEY_BASE_LO : Nat := 0x100020
def ASY_VKEY_BASE_HI : Nat := 0x100024
def ASY_VKEY_N : Nat := 0x100028
def ASY_PR_BASE (k : Nat) : Nat := 0x100100 + 16 * k
def ASY_PR_PAGES (k : Nat) : Nat := 0x100104 + 16 * k
def ASY_PR_SHADOW (k : Nat) : Nat := 0x100108 + 16 * k
def ASY_PR_CTRL (k : Nat) : Nat := 0x10010C + 16 * k
def ASY_SIGNS : Nat := 0x100200
def ASY_SPDM_BUSY : Nat := 0x100204
def ASY_RNG_FAILS : Nat := 0x100208
def ASY_VAULT_REJECT : Nat := 0x10020C
def LDG_AQ_SQ_BASE_LO (k : Nat) : Nat := 0x1C00800 + 32 * k
def LDG_AQ_SQ_BASE_HI (k : Nat) : Nat := 0x1C00804 + 32 * k
def LDG_AQ_CQ_BASE_LO (k : Nat) : Nat := 0x1C00808 + 32 * k
def LDG_AQ_CQ_BASE_HI (k : Nat) : Nat := 0x1C0080C + 32 * k
def LDG_AQ_CTRL (k : Nat) : Nat := 0x1C00810 + 32 * k
def PKH_CQ_BASE_LO : Nat := 0x2200148
def PKH_CQ_BASE_HI : Nat := 0x220014C
def PKH_CQ_CTRL : Nat := 0x2200150
def PKH_CQ_HEAD : Nat := 0x2200154
def HLK_FEC_HIST (n k : Nat) : Nat := 0x1800104 + 0x10000 * n + 4 * k
def HLK_LANE_SYM (n k : Nat) : Nat := 0x1800130 + 0x10000 * n + 4 * k

end Reg

/-! ### Field places -/

namespace F

def STL_ID_Y : Field := ⟨14, 12⟩
def STL_ID_X : Field := ⟨11, 8⟩
def STL_ID_N : Field := ⟨6, 0⟩
def STL_CTRL_NMU_EN : Field := ⟨2, 2⟩
def STL_CTRL_IN_REQ : Field := ⟨1, 1⟩
def STL_CTRL_OUT_REQ : Field := ⟨0, 0⟩
def STL_STATUS_NMU_RUN : Field := ⟨18, 16⟩
def STL_STATUS_ALLOC_LOW : Field := ⟨6, 6⟩
def STL_STATUS_PART_ERR : Field := ⟨5, 5⟩
def STL_STATUS_CTRL_CONFLICT : Field := ⟨4, 4⟩
def STL_STATUS_DUTY : Field := ⟨3, 3⟩
def STL_STATUS_STATE : Field := ⟨1, 0⟩
def STL_BUF_PART_NMU : Field := ⟨21, 16⟩
def STL_BUF_PART_QRY : Field := ⟨13, 8⟩
def STL_BUF_PART_COIN : Field := ⟨5, 0⟩
def STL_ALLOC_FREE : Field := ⟨17, 0⟩
def STL_ALLOC_LOW_LOW : Field := ⟨17, 0⟩
def STL_RSV_FIRST_FIRST : Field := ⟨17, 0⟩
def STL_RSV_COUNT_COUNT : Field := ⟨17, 0⟩
def STL_NMU_GO_GO : Field := ⟨0, 0⟩
def STL_NMU_STATUS_OVERFLOW : Field := ⟨31, 31⟩
def STL_NMU_STATUS_SPACE : Field := ⟨6, 0⟩
def STL_NMU_CQ_BASE_LO_BASE : Field := ⟨31, 12⟩
def STL_NMU_CQ_CTRL_EN : Field := ⟨31, 31⟩
def STL_NMU_CQ_CTRL_LOG2_SIZE : Field := ⟨3, 0⟩
def STL_NMU_CQ_HEAD_HEAD : Field := ⟨11, 0⟩
def FMT_TBL_STATUS_VALID : Field := ⟨31, 31⟩
def FMT_TBL_STATUS_FORMAT : Field := ⟨27, 24⟩
def FMT_TBL_STATUS_GEN : Field := ⟨23, 18⟩
def FMT_TBL_STATUS_HOLD : Field := ⟨17, 0⟩
def FMT_TBL_SRC_LO_SRC : Field := ⟨31, 6⟩
def FMT_TBL_SRC_HI_SRC : Field := ⟨6, 0⟩
def FMT_TBL_CTRL_GO : Field := ⟨1, 1⟩
def FMT_TBL_CTRL_SLOT : Field := ⟨0, 0⟩
def FMT_TBL_RESULT_BUSY : Field := ⟨31, 31⟩
def FMT_TBL_RESULT_DONE : Field := ⟨30, 30⟩
def FMT_TBL_RESULT_ERR : Field := ⟨3, 0⟩
def FMT_MINT_CTRL_ROT_PAIRS : Field := ⟨15, 8⟩
def FMT_MINT_CTRL_ROPE_MODE : Field := ⟨4, 4⟩
def FMT_MINT_CTRL_ROPE_EN : Field := ⟨3, 3⟩
def FMT_MINT_CTRL_ACTIVE_SLOT : Field := ⟨2, 2⟩
def FMT_MINT_CTRL_RAW_COPY : Field := ⟨1, 1⟩
def FMT_MINT_CTRL_ROUND : Field := ⟨0, 0⟩
def FMT_ROPE_IDX_INDEX : Field := ⟨6, 0⟩
def ATT_CTRL_EN : Field := ⟨0, 0⟩
def ATT_STATUS_OVERFLOW : Field := ⟨31, 31⟩
def ATT_STATUS_MCTX : Field := ⟨22, 16⟩
def ATT_STATUS_RUN : Field := ⟨8, 7⟩
def ATT_STATUS_QDEPTH : Field := ⟨6, 0⟩
def ATT_GO_GO : Field := ⟨0, 0⟩
def KVP_CTRL_COMPACT_EN : Field := ⟨1, 1⟩
def KVP_CTRL_EDIT_EN : Field := ⟨0, 0⟩
def KVP_STATUS_OVERFLOW : Field := ⟨31, 31⟩
def KVP_STATUS_AQDEPTH : Field := ⟨22, 16⟩
def KVP_STATUS_SPACE : Field := ⟨5, 0⟩
def KVP_EDIT_GO_GO : Field := ⟨0, 0⟩
def PED_CTRL_EVICT_EN : Field := ⟨2, 2⟩
def PED_CTRL_SPILL_EN : Field := ⟨1, 1⟩
def PED_CTRL_EN : Field := ⟨0, 0⟩
def PED_STATUS_REHASH_REFUSED : Field := ⟨9, 9⟩
def PED_STATUS_REHASH : Field := ⟨8, 8⟩
def PED_STATUS_LOG2 : Field := ⟨4, 0⟩
def PED_REHASH_GO : Field := ⟨31, 31⟩
def PED_REHASH_NEW_LOG2 : Field := ⟨4, 0⟩
def PED_CURSOR_CURSOR : Field := ⟨18, 0⟩
def PED_NODE_BASE_LO_BASE : Field := ⟨31, 14⟩
def PED_NODE_BASE_HI_BASE : Field := ⟨6, 0⟩
def PED_NODE_CAP_CAP : Field := ⟨20, 0⟩
def PED_NODE_FREE_LOW : Field := ⟨31, 21⟩
def PED_NODE_FREE_FREE : Field := ⟨20, 0⟩
def PED_TEAM_EN : Field := ⟨31, 31⟩
def PED_TEAM_BLK : Field := ⟨13, 12⟩
def PED_TEAM_TEAM : Field := ⟨11, 0⟩
def LDG_CTRL_SPLIT_EN : Field := ⟨2, 2⟩
def LDG_CTRL_FIN_EN : Field := ⟨1, 1⟩
def LDG_CTRL_ADMIT_EN : Field := ⟨0, 0⟩
def LDG_STATUS_NOTICE_LOST : Field := ⟨31, 31⟩
def LDG_STATUS_INUSE : Field := ⟨18, 0⟩
def LDG_REC_BASE_LO_BASE : Field := ⟨31, 14⟩
def LDG_REC_BASE_HI_BASE : Field := ⟨6, 0⟩
def LDG_CTX_BASE_LO_BASE : Field := ⟨31, 14⟩
def LDG_CTX_BASE_HI_BASE : Field := ⟨6, 0⟩
def LDG_TEAM_EN : Field := ⟨31, 31⟩
def LDG_TEAM_BATCH : Field := ⟨30, 30⟩
def LDG_TEAM_IMAX : Field := ⟨25, 21⟩
def LDG_TEAM_IMIN : Field := ⟨20, 16⟩
def LDG_TEAM_HYST : Field := ⟨15, 12⟩
def LDG_TEAM_TEAM : Field := ⟨11, 0⟩
def LDG_FE_CFG_LOG2 : Field := ⟨19, 16⟩
def LDG_FE_CFG_NODE : Field := ⟨15, 0⟩
def LDG_FE_BASE_LO_BASE : Field := ⟨31, 12⟩
def LDG_FE_BASE_HI_BASE : Field := ⟨15, 0⟩
def HLK_CTRL_EN : Field := ⟨31, 31⟩
def HLK_CTRL_RETRAIN : Field := ⟨30, 30⟩
def HLK_CTRL_LANE_EN : Field := ⟨7, 4⟩
def HLK_CTRL_LANE_RETRAIN : Field := ⟨2, 2⟩
def HLK_CTRL_LANE_SEL : Field := ⟨1, 0⟩
def HLK_STATUS_GOOD : Field := ⟨19, 16⟩
def HLK_STATUS_TXSET : Field := ⟨15, 12⟩
def HLK_STATUS_RXSET : Field := ⟨11, 8⟩
def HLK_STATUS_NB_LOST : Field := ⟨7, 7⟩
def HLK_STATUS_HELLO_CONFLICT : Field := ⟨6, 6⟩
def HLK_STATUS_WIDTH : Field := ⟨5, 4⟩
def HLK_STATUS_STATE : Field := ⟨2, 0⟩
def HLK_NEIGHBOUR_VALID : Field := ⟨31, 31⟩
def HLK_NEIGHBOUR_ROLE : Field := ⟨25, 24⟩
def HLK_NEIGHBOUR_PORT : Field := ⟨23, 20⟩
def HLK_NEIGHBOUR_NODE : Field := ⟨15, 0⟩
def HLK_CREDIT_SHARE3 : Field := ⟨31, 24⟩
def HLK_CREDIT_SHARE2 : Field := ⟨23, 16⟩
def HLK_CREDIT_SHARE1 : Field := ⟨15, 8⟩
def HLK_CREDIT_SHARE0 : Field := ⟨7, 0⟩
def HLK_TRAIN_QUAL_MAX : Field := ⟨31, 16⟩
def HLK_TRAIN_TMO : Field := ⟨15, 0⟩
def HLK_RECAL_EN : Field := ⟨31, 31⟩
def HLK_RECAL_PERIOD : Field := ⟨15, 0⟩
def HLK_EYE_CTRL_BUSY : Field := ⟨31, 31⟩
def HLK_EYE_CTRL_GO : Field := ⟨30, 30⟩
def HLK_EYE_CTRL_EYE : Field := ⟨3, 2⟩
def HLK_EYE_CTRL_LANE : Field := ⟨1, 0⟩
def HLK_EYE_RESULT_RIGHT : Field := ⟨31, 24⟩
def HLK_EYE_RESULT_LEFT : Field := ⟨23, 16⟩
def HLK_EYE_RESULT_UP : Field := ⟨15, 8⟩
def HLK_EYE_RESULT_DOWN : Field := ⟨7, 0⟩
def HTP_CTRL_SPRAY_MASK : Field := ⟨31, 16⟩
def HTP_CTRL_COMB_EN : Field := ⟨1, 1⟩
def HTP_CTRL_CC_EN : Field := ⟨0, 0⟩
def HTP_STATUS_MSG_OPEN : Field := ⟨28, 16⟩
def HTP_STATUS_COMB_OPEN : Field := ⟨5, 0⟩
def HTP_COMB_WIN_WIN : Field := ⟨10, 0⟩
def HTP_RETX_RETRY_MAX : Field := ⟨31, 28⟩
def HTP_RETX_RTO : Field := ⟨19, 0⟩
def HTP_CC_TARGET_TARGET : Field := ⟨15, 0⟩
def HTP_CC_PARAM_AI : Field := ⟨31, 24⟩
def HTP_CC_PARAM_BETA : Field := ⟨23, 16⟩
def HTP_CC_PARAM_INIT : Field := ⟨12, 0⟩
def HTP_ROUTE_IDX_IDX : Field := ⟨15, 0⟩
def HTP_MC_IDX_IDX : Field := ⟨11, 0⟩
def HTP_RX_BASE_LO_BASE : Field := ⟨31, 14⟩
def HTP_RX_BASE_HI_BASE : Field := ⟨6, 0⟩
def HTP_TX_BASE_LO_BASE : Field := ⟨31, 14⟩
def HTP_TX_BASE_HI_BASE : Field := ⟨6, 0⟩
def HTP_MC_BASE_LO_BASE : Field := ⟨31, 14⟩
def HTP_MC_BASE_HI_BASE : Field := ⟨6, 0⟩
def HTP_FENCE_GO : Field := ⟨31, 31⟩
def HTP_FENCE_BUSY : Field := ⟨30, 30⟩
def HTP_FENCE_DONE : Field := ⟨29, 29⟩
def HTP_FENCE_ALL : Field := ⟨28, 28⟩
def HTP_FENCE_STATUS : Field := ⟨23, 16⟩
def HTP_FENCE_NODE : Field := ⟨15, 0⟩
def HTP_DQ_IDX_IDX : Field := ⟨15, 0⟩
def HTP_DQ_CWND_CWND : Field := ⟨20, 0⟩
def HTP_DQ_TALLY_T1 : Field := ⟨31, 16⟩
def HTP_DQ_TALLY_T0 : Field := ⟨15, 0⟩
def COU_CTRL_ADM_CQ : Field := ⟨9, 2⟩
def COU_CTRL_VIOL_CQE : Field := ⟨1, 1⟩
def COU_CTRL_EN : Field := ⟨0, 0⟩
def COU_STATUS_OVERFLOW : Field := ⟨31, 31⟩
def COU_STATUS_ADM_QUEUED : Field := ⟨4, 0⟩
def COU_CONN_BASE_LO_BASE : Field := ⟨31, 14⟩
def COU_CONN_BASE_HI_BASE : Field := ⟨6, 0⟩
def COU_EXT_BASE_LO_BASE : Field := ⟨31, 14⟩
def COU_EXT_BASE_HI_BASE : Field := ⟨6, 0⟩
def COU_CONN_CAP_CONN : Field := ⟨13, 0⟩
def COU_EXT_CAP_EXT : Field := ⟨18, 0⟩
def COU_ADM_GO_GO : Field := ⟨0, 0⟩
def TEM_MAP_BASE_LO_BASE : Field := ⟨31, 14⟩
def TEM_MAP_BASE_HI_BASE : Field := ⟨6, 0⟩
def TEM_STAGE_BASE_LO_BASE : Field := ⟨31, 14⟩
def TEM_STAGE_BASE_HI_BASE : Field := ⟨6, 0⟩
def TEM_CHG_GO : Field := ⟨31, 31⟩
def TEM_CHG_BUSY : Field := ⟨30, 30⟩
def TEM_CHG_DONE : Field := ⟨29, 29⟩
def TEM_CHG_STATUS : Field := ⟨23, 16⟩
def TEM_CHG_SLOT : Field := ⟨3, 0⟩
def TEM_STATUS_OVERFLOW : Field := ⟨31, 31⟩
def TEM_STATUS_QUEUED : Field := ⟨4, 0⟩
def TEM_TEAM_STATUS_VALID : Field := ⟨31, 31⟩
def TEM_TEAM_STATUS_STATE : Field := ⟨30, 29⟩
def TEM_TEAM_STATUS_KIND : Field := ⟨28, 28⟩
def TEM_TEAM_STATUS_PREPARED : Field := ⟨27, 27⟩
def TEM_TEAM_STATUS_OLDMAP : Field := ⟨26, 26⟩
def TEM_TEAM_STATUS_LAG_MOVE : Field := ⟨25, 25⟩
def TEM_TEAM_STATUS_LAGGED : Field := ⟨24, 24⟩
def TEM_TEAM_STATUS_EPOCH : Field := ⟨23, 16⟩
def TEM_TEAM_STATUS_TEAM : Field := ⟨11, 0⟩
def TEM_TEAM_SPAN_RETIRE : Field := ⟨31, 16⟩
def TEM_TEAM_SPAN_GROUPS : Field := ⟨15, 0⟩
def TEM_TEAM_NODES_COORD : Field := ⟨31, 16⟩
def TEM_TEAM_NODES_LOST : Field := ⟨15, 0⟩
def TEM_TEAM_PORTS_GCOUNT : Field := ⟨31, 16⟩
def TEM_TEAM_PORTS_PORTS : Field := ⟨15, 0⟩
def TEM_RGN_IDX_IDX : Field := ⟨7, 0⟩
def TEM_RGN_BASE_LO_BASE : Field := ⟨31, 6⟩
def TEM_RGN_BASE_HI_BASE : Field := ⟨6, 0⟩
def TEM_RGN_CFG_VALID : Field := ⟨31, 31⟩
def TEM_RGN_CFG_ERR : Field := ⟨30, 30⟩
def TEM_RGN_CFG_ACTIVE : Field := ⟨29, 29⟩
def TEM_RGN_CFG_SIZE : Field := ⟨24, 12⟩
def TEM_RGN_CFG_TEAM : Field := ⟨11, 0⟩
def TEM_RGN_PUB_PUBNODE : Field := ⟨15, 0⟩
def TEM_RCMD_GO_GO : Field := ⟨0, 0⟩
def RNS_CTRL_LAG_EN : Field := ⟨4, 4⟩
def RNS_CTRL_FAIR_EN : Field := ⟨3, 3⟩
def RNS_CTRL_METER_EN : Field := ⟨2, 2⟩
def RNS_CTRL_SHAPE_EN : Field := ⟨1, 1⟩
def RNS_CTRL_WHEEL_EN : Field := ⟨0, 0⟩
def RNS_STATUS_WHEEL_USED : Field := ⟨13, 0⟩
def RNS_WHEEL_SLOT_SLOT_W : Field := ⟨15, 0⟩
def RNS_FAIR_QMAX_QMAX : Field := ⟨10, 0⟩
def RNS_HOST_OVH_OVH : Field := ⟨7, 0⟩
def RNS_TEN_BASE_LO_BASE : Field := ⟨31, 14⟩
def RNS_TEN_BASE_HI_BASE : Field := ⟨6, 0⟩
def RNS_TEN_IDX_IDX : Field := ⟨15, 0⟩
def RNS_TEAM_CFG_BUDGET : Field := ⟨31, 16⟩
def RNS_TEAM_CFG_RATIO : Field := ⟨15, 8⟩
def RNS_TEAM_CFG_RUN : Field := ⟨7, 3⟩
def RNS_TEAM_PERIOD_RUNCNT : Field := ⟨31, 27⟩
def RNS_TEAM_PERIOD_PERIOD : Field := ⟨23, 0⟩
def RNS_TEAM_PACE_OFF_OFF : Field := ⟨24, 0⟩
def RNS_TEAM_PACE_MEDIAN : Field := ⟨31, 16⟩
def RNS_TEAM_PACE_PACE : Field := ⟨15, 0⟩
def RNS_HIST_SEL_KIND : Field := ⟨18, 16⟩
def RNS_HIST_SEL_UNIT : Field := ⟨14, 8⟩
def RNS_HIST_SEL_KEY : Field := ⟨5, 0⟩
def RNS_MTR_SIZES_PBS : Field := ⟨31, 16⟩
def RNS_MTR_SIZES_CBS : Field := ⟨15, 0⟩
def RNS_MTR_CFG_EN : Field := ⟨31, 31⟩
def RNS_MTR_CFG_OVH : Field := ⟨7, 0⟩
def PKH_CTRL_ORDER2 : Field := ⟨13, 12⟩
def PKH_CTRL_ORDER1 : Field := ⟨11, 10⟩
def PKH_CTRL_ORDER0 : Field := ⟨9, 8⟩
def PKH_CTRL_TICKET_EN : Field := ⟨2, 2⟩
def PKH_CTRL_PROMOTE_EN : Field := ⟨1, 1⟩
def PKH_CTRL_DEMOTE_EN : Field := ⟨0, 0⟩
def PKH_STATUS_OVERFLOW : Field := ⟨31, 31⟩
def PKH_STATUS_MAP_BUSY : Field := ⟨30, 30⟩
def PKH_STATUS_PROMOTING : Field := ⟨24, 16⟩
def PKH_STATUS_QUEUED : Field := ⟨4, 0⟩
def PKH_TREC_BASE_LO_BASE : Field := ⟨31, 14⟩
def PKH_TREC_BASE_HI_BASE : Field := ⟨6, 0⟩
def PKH_WBUF_BASE_LO_BASE : Field := ⟨31, 14⟩
def PKH_WBUF_BASE_HI_BASE : Field := ⟨6, 0⟩
def PKH_VQ_BASE_LO_BASE : Field := ⟨31, 14⟩
def PKH_VQ_BASE_HI_BASE : Field := ⟨6, 0⟩
def PKH_WBUF_CFG_BUFSZ : Field := ⟨31, 16⟩
def PKH_WBUF_CFG_NBUF : Field := ⟨15, 0⟩
def PKH_MAP_IDX_IDX : Field := ⟨6, 0⟩
def PKH_MODEL_IDX_IDX : Field := ⟨5, 0⟩
def PKH_CMD_GO_GO : Field := ⟨0, 0⟩
def PKH_VAULT_CTRL_NIOQ : Field := ⟨5, 2⟩
def PKH_VAULT_CTRL_FORMAT : Field := ⟨1, 1⟩
def PKH_VAULT_CTRL_DETACH : Field := ⟨0, 0⟩
def PKH_VAULT_STATUS_PRESENT : Field := ⟨3, 3⟩
def PKH_VAULT_STATUS_STATE : Field := ⟨2, 0⟩
def PKH_VAULT_LIFE_WARN : Field := ⟨31, 16⟩
def PKH_VAULT_LIFE_USED : Field := ⟨15, 0⟩
def GLB_ID_DEVICE : Field := ⟨31, 16⟩
def GLB_ID_STEPPING : Field := ⟨15, 8⟩
def GLB_NODE_STRAP : Field := ⟨15, 10⟩
def GLB_NODE_IMAGE : Field := ⟨9, 0⟩
def GLB_STRAP_EFF_GAIT : Field := ⟨19, 18⟩
def GLB_STRAP_EFF_LINKS : Field := ⟨17, 17⟩
def GLB_STRAP_LINKS : Field := ⟨16, 16⟩
def GLB_STRAP_MGMT : Field := ⟨15, 13⟩
def GLB_STRAP_GAIT : Field := ⟨12, 11⟩
def GLB_STRAP_SECURE : Field := ⟨10, 10⟩
def GLB_STRAP_TACK : Field := ⟨9, 8⟩
def GLB_STRAP_NODE : Field := ⟨7, 2⟩
def GLB_STRAP_ROLE : Field := ⟨1, 0⟩
def GLB_LOCK_LOCK : Field := ⟨0, 0⟩
def GLB_SUMMARY_EVQ_OVF : Field := ⟨5, 5⟩
def GLB_SUMMARY_HOSTRESET : Field := ⟨4, 4⟩
def GLB_SUMMARY_FATAL : Field := ⟨3, 3⟩
def GLB_SUMMARY_DEGRADED : Field := ⟨2, 2⟩
def GLB_SUMMARY_TACK_FAIL : Field := ⟨1, 1⟩
def GLB_SUMMARY_READY : Field := ⟨0, 0⟩
def GLB_MODID_IDX_IDX : Field := ⟨8, 0⟩
def HST_CTRL_BAR2_EN : Field := ⟨31, 31⟩
def HST_CTRL_MERGE : Field := ⟨23, 16⟩
def HST_CTRL_COAL : Field := ⟨15, 0⟩
def HST_STATUS_BAR2_ERR : Field := ⟨31, 31⟩
def HST_STATUS_DB_OVERLAP : Field := ⟨30, 30⟩
def HST_STATUS_BLOCKED : Field := ⟨29, 29⟩
def HST_STATUS_WIDTH : Field := ⟨7, 4⟩
def HST_STATUS_BME : Field := ⟨3, 3⟩
def HST_STATUS_SPEED : Field := ⟨2, 0⟩
def HST_AP_IDX_IDX : Field := ⟨7, 0⟩
def HST_DB_LDG_EN : Field := ⟨31, 31⟩
def HST_DB_LDG_PAGE : Field := ⟨11, 0⟩
def HST_DB_COU_EN : Field := ⟨31, 31⟩
def HST_DB_COU_PAGE : Field := ⟨11, 0⟩
def HST_DB_PKH_EN : Field := ⟨31, 31⟩
def HST_DB_PKH_PAGE : Field := ⟨11, 0⟩
def HST_BAR2_ERR_INFO_STATUS : Field := ⟨31, 24⟩
def HST_BAR2_ERR_INFO_OPCODE : Field := ⟨23, 16⟩
def HST_BAR2_ERR_INFO_ENTRY : Field := ⟨7, 0⟩
def HST_EVQ_BASE_LO_BASE : Field := ⟨31, 6⟩
def HST_EVQ_CTRL_EN : Field := ⟨31, 31⟩
def HST_EVQ_CTRL_OVF : Field := ⟨30, 30⟩
def HST_EVQ_CTRL_LOG2 : Field := ⟨4, 0⟩
def HST_EVQ_HEAD_HEAD : Field := ⟨15, 0⟩
def CLK_STATUS_XTMO : Field := ⟨31, 31⟩
def CLK_STATUS_LOCK_LOST : Field := ⟨30, 30⟩
def CLK_STATUS_GROOM : Field := ⟨16, 16⟩
def CLK_STATUS_STABLE : Field := ⟨15, 8⟩
def CLK_STATUS_TICK : Field := ⟨7, 7⟩
def CLK_STATUS_ASSAY : Field := ⟨6, 6⟩
def CLK_STATUS_VAULT : Field := ⟨5, 5⟩
def CLK_STATUS_HOST : Field := ⟨4, 4⟩
def CLK_STATUS_HARNESS : Field := ⟨3, 3⟩
def CLK_STATUS_MESH : Field := ⟨2, 2⟩
def CLK_STATUS_ARITH_B : Field := ⟨1, 1⟩
def CLK_STATUS_ARITH_A : Field := ⟨0, 0⟩
def CLK_ARITH_PARKED : Field := ⟨31, 31⟩
def CLK_ARITH_SRC : Field := ⟨8, 8⟩
def CLK_ARITH_FREQ : Field := ⟨7, 0⟩
def CLK_XTMO_INFO_SRC : Field := ⟨31, 28⟩
def CLK_XTMO_INFO_DST : Field := ⟨27, 24⟩
def CLK_XTMO_INFO_INST : Field := ⟨23, 16⟩
def TCK_STATUS_BUSY : Field := ⟨31, 31⟩
def TCK_STATUS_DONE : Field := ⟨30, 30⟩
def TCK_STATUS_UNSIGNED : Field := ⟨29, 29⟩
def TCK_STATUS_SIG_OK : Field := ⟨26, 26⟩
def TCK_STATUS_SVN_OK : Field := ⟨25, 25⟩
def TCK_STATUS_KEY_OK : Field := ⟨24, 24⟩
def TCK_STATUS_PHASE : Field := ⟨19, 16⟩
def TCK_STATUS_RERR : Field := ⟨11, 8⟩
def TCK_STATUS_ERR : Field := ⟨7, 0⟩
def TCK_CTRL_START : Field := ⟨31, 31⟩
def TCK_CTRL_RELOAD : Field := ⟨30, 30⟩
def TCK_CTRL_SRC : Field := ⟨1, 0⟩
def TCK_SRC_LO_ADDR : Field := ⟨31, 6⟩
def TCK_FAIL_INFO_ENTRY : Field := ⟨31, 27⟩
def TCK_FAIL_INFO_REC : Field := ⟨26, 0⟩
def TCK_SECT_INFO_VALID : Field := ⟨31, 31⟩
def TCK_SECT_INFO_LIVE : Field := ⟨30, 30⟩
def TCK_SECT_INFO_INST : Field := ⟨15, 8⟩
def TCK_SECT_INFO_TYPE : Field := ⟨7, 0⟩
def PWR_STATUS_BROWN : Field := ⟨31, 31⟩
def PWR_STATUS_SHUTDOWN : Field := ⟨30, 30⟩
def PWR_STATUS_HOLD : Field := ⟨29, 29⟩
def PWR_STATUS_CAUSE : Field := ⟨24, 21⟩
def PWR_STATUS_THR : Field := ⟨20, 16⟩
def PWR_STATUS_GAIT : Field := ⟨12, 10⟩
def PWR_STATUS_RAIL_PG : Field := ⟨9, 0⟩
def PWR_GAIT_CAP : Field := ⟨14, 12⟩
def PWR_GAIT_MGMT_EN : Field := ⟨11, 11⟩
def PWR_GAIT_WAKE_GAIT : Field := ⟨10, 8⟩
def PWR_GAIT_REQ : Field := ⟨2, 0⟩
def PWR_BROWN_HYST : Field := ⟨31, 24⟩
def PWR_BROWN_WARN : Field := ⟨21, 12⟩
def PWR_BROWN_RESET : Field := ⟨9, 0⟩
def GRM_CTRL_EN : Field := ⟨31, 31⟩
def GRM_CTRL_RULE_ERR : Field := ⟨30, 30⟩
def GRM_CTRL_ALERT : Field := ⟨29, 29⟩
def GRM_SENS_IDX_IDX : Field := ⟨5, 0⟩
def GRM_SENS_DATA_SAMPLE : Field := ⟨15, 0⟩
def GRM_EID_EID : Field := ⟨7, 0⟩
def GRM_RULE_CFG_EN : Field := ⟨31, 31⟩
def GRM_RULE_CFG_DIR : Field := ⟨30, 30⟩
def GRM_RULE_CFG_FILT : Field := ⟨29, 28⟩
def GRM_RULE_CFG_A : Field := ⟨27, 20⟩
def GRM_RULE_CFG_ACT : Field := ⟨19, 16⟩
def GRM_RULE_CFG_ARG : Field := ⟨15, 8⟩
def GRM_RULE_CFG_SENSOR : Field := ⟨5, 0⟩
def GRM_RULE_SET_LEVEL : Field := ⟨15, 0⟩
def GRM_RULE_CLR_LEVEL : Field := ⟨15, 0⟩
def GRM_LOG_IDX_IDX : Field := ⟨8, 0⟩
def FAR_CTRL_FATAL_Q : Field := ⟨4, 1⟩
def FAR_CTRL_SCRUB_EN : Field := ⟨0, 0⟩
def FAR_STALL_LIMIT_WINDOW : Field := ⟨31, 16⟩
def FAR_STALL_LIMIT_CH_UE : Field := ⟨15, 8⟩
def FAR_STALL_LIMIT_BUF_UE : Field := ⟨7, 0⟩
def FAR_OWNER_BASE_LO_BASE : Field := ⟨31, 14⟩
def FAR_OWNER_BASE_HI_BASE : Field := ⟨6, 0⟩
def FAR_ROUTE_EN : Field := ⟨31, 31⟩
def FAR_ROUTE_MINSEV : Field := ⟨6, 4⟩
def FAR_ROUTE_QUEUE : Field := ⟨3, 0⟩
def FAR_CE_IDX_IDX : Field := ⟨7, 0⟩
def ASY_FUSE_KEY_VALID : Field := ⟨31, 28⟩
def ASY_FUSE_KEY_REVOKE : Field := ⟨27, 24⟩
def ASY_FUSE_SECURE_FORCE : Field := ⟨23, 23⟩
def ASY_FUSE_SVN_MIN : Field := ⟨6, 0⟩
def ASY_STATUS_RNG_FAIL : Field := ⟨31, 31⟩
def ASY_STATUS_PR_ERR : Field := ⟨30, 30⟩
def ASY_STATUS_FUSE_BUSY : Field := ⟨29, 29⟩
def ASY_STATUS_RNG_OK : Field := ⟨28, 28⟩
def ASY_STATUS_FUSE_ERR : Field := ⟨27, 27⟩
def ASY_STATUS_FUSE_STATUS : Field := ⟨23, 16⟩
def ASY_STATUS_NPR : Field := ⟨4, 0⟩
def ASY_FUSE_CMD_GO : Field := ⟨31, 31⟩
def ASY_FUSE_CMD_OP : Field := ⟨9, 8⟩
def ASY_FUSE_CMD_ARG : Field := ⟨1, 0⟩
def ASY_VKEY_BASE_LO_BASE : Field := ⟨31, 14⟩
def ASY_VKEY_BASE_HI_BASE : Field := ⟨6, 0⟩
def ASY_VKEY_N_N : Field := ⟨2, 0⟩
def ASY_PR_BASE_VALUE : Field := ⟨24, 0⟩
def ASY_PR_PAGES_VALUE : Field := ⟨24, 0⟩
def ASY_PR_SHADOW_VALUE : Field := ⟨24, 0⟩
def ASY_PR_CTRL_EN : Field := ⟨31, 31⟩
def ASY_PR_CTRL_READY : Field := ⟨30, 30⟩
def LDG_AQ_SQ_BASE_LO_BASE : Field := ⟨31, 12⟩
def LDG_AQ_CQ_BASE_LO_BASE : Field := ⟨31, 12⟩
def LDG_AQ_CTRL_EN : Field := ⟨31, 31⟩
def LDG_AQ_CTRL_CQ_LOG2 : Field := ⟨7, 4⟩
def LDG_AQ_CTRL_SQ_LOG2 : Field := ⟨3, 0⟩
def PKH_CQ_BASE_LO_BASE : Field := ⟨31, 12⟩
def PKH_CQ_CTRL_EN : Field := ⟨31, 31⟩
def PKH_CQ_CTRL_LOG2_SIZE : Field := ⟨3, 0⟩
def PKH_CQ_HEAD_HEAD : Field := ⟨11, 0⟩

end F

/-! ### Field and register descriptions, block by block -/

/-- Registers of block STL; per-unit blocks are given relative to the unit. -/
def regsStl : List RegDesc :=
  [
    ⟨0x0, 1, 4, [⟨14, 12, .ro, 0, 0, 7⟩, ⟨11, 8, .ro, 0, 0, 15⟩, ⟨6, 0, .ro, 0, 0, 127⟩]⟩,
    ⟨0x4, 1, 4, [⟨2, 2, .rw, 1, 0, 1⟩, ⟨1, 1, .w1s, 0, 0, 1⟩, ⟨0, 0, .w1s, 0, 0, 1⟩]⟩,
    ⟨0x8, 1, 4, [⟨18, 16, .ro, 0, 0, 7⟩, ⟨6, 6, .ro, 0, 0, 1⟩, ⟨5, 5, .w1c, 0, 0, 1⟩, ⟨4, 4, .w1c, 0, 0, 1⟩, ⟨3, 3, .ro, 0, 0, 1⟩, ⟨1, 0, .ro, 2, 0, 3⟩]⟩,
    ⟨0x10, 1, 4, [⟨21, 16, .rwl, 3, 0, 63⟩, ⟨13, 8, .rwl, 8, 0, 63⟩, ⟨5, 0, .rwl, 36, 0, 63⟩]⟩,
    ⟨0x18, 1, 4, [⟨17, 0, .ro, 147438, 0, 262143⟩]⟩,
    ⟨0x1C, 1, 4, [⟨17, 0, .rw, 4096, 0, 262143⟩]⟩,
    ⟨0x20, 1, 4, [⟨31, 0, .ro, 0, 0, 4294967295⟩]⟩,
    ⟨0x24, 1, 4, [⟨17, 0, .rwl, 0, 0, 147455⟩]⟩,
    ⟨0x28, 1, 4, [⟨17, 0, .rwl, 0, 0, 147456⟩]⟩,
    ⟨0x100, 8, 4, [⟨31, 0, .wo, 0, 0, 4294967295⟩]⟩,
    ⟨0x120, 1, 4, [⟨0, 0, .wo, 0, 0, 1⟩]⟩,
    ⟨0x124, 1, 4, [⟨31, 31, .w1c, 0, 0, 1⟩, ⟨6, 0, .ro, 64, 0, 127⟩]⟩,
    ⟨0x128, 1, 4, [⟨31, 12, .rw, 0, 0, 1048575⟩]⟩,
    ⟨0x12C, 1, 4, [⟨31, 0, .rw, 0, 0, 4294967295⟩]⟩,
    ⟨0x130, 1, 4, [⟨31, 31, .rw, 0, 0, 1⟩, ⟨3, 0, .rw, 4, 4, 12⟩]⟩,
    ⟨0x134, 1, 4, [⟨11, 0, .rw, 0, 0, 4095⟩]⟩,
    ⟨0x4000, 2, 4, [⟨31, 31, .ro, 0, 0, 1⟩, ⟨27, 24, .ro, 0, 0, 15⟩, ⟨23, 18, .ro, 0, 0, 63⟩, ⟨17, 0, .ro, 0, 0, 262143⟩]⟩,
    ⟨0x4008, 1, 4, [⟨31, 6, .rw, 0, 0, 67108863⟩]⟩,
    ⟨0x400C, 1, 4, [⟨6, 0, .rw, 0, 0, 127⟩]⟩,
    ⟨0x4010, 1, 4, [⟨1, 1, .w1s, 0, 0, 1⟩, ⟨0, 0, .rw, 0, 0, 1⟩]⟩,
    ⟨0x4014, 1, 4, [⟨31, 31, .ro, 0, 0, 1⟩, ⟨30, 30, .w1c, 0, 0, 1⟩, ⟨3, 0, .ro, 0, 0, 15⟩]⟩,
    ⟨0x4020, 1, 4, [⟨15, 8, .rw, 0, 0, 128⟩, ⟨4, 4, .rw, 0, 0, 1⟩, ⟨3, 3, .rw, 0, 0, 1⟩, ⟨2, 2, .rw, 0, 0, 1⟩, ⟨1, 1, .rw, 0, 0, 1⟩, ⟨0, 0, .rw, 0, 0, 1⟩]⟩,
    ⟨0x4024, 1, 4, [⟨31, 0, .rw, 0, 0, 4294967295⟩]⟩,
    ⟨0x4028, 1, 4, [⟨6, 0, .rw, 0, 0, 127⟩]⟩
  ]
  ++
  [
    ⟨0x402C, 1, 4, [⟨31, 0, .rw, 0, 0, 4294967295⟩]⟩,
    ⟨0x4040, 1, 4, [⟨31, 0, .ro, 0, 0, 4294967295⟩]⟩,
    ⟨0x4044, 1, 4, [⟨31, 0, .ro, 0, 0, 4294967295⟩]⟩,
    ⟨0x4048, 1, 4, [⟨31, 0, .ro, 0, 0, 4294967295⟩]⟩,
    ⟨0x404C, 1, 4, [⟨31, 0, .ro, 0, 0, 4294967295⟩]⟩,
    ⟨0x4050, 1, 4, [⟨31, 0, .ro, 0, 0, 4294967295⟩]⟩,
    ⟨0x8000, 1, 4, [⟨0, 0, .rw, 1, 0, 1⟩]⟩,
    ⟨0x8004, 1, 4, [⟨31, 31, .w1c, 0, 0, 1⟩, ⟨22, 16, .ro, 0, 0, 127⟩, ⟨8, 7, .ro, 0, 0, 3⟩, ⟨6, 0, .ro, 0, 0, 127⟩]⟩,
    ⟨0x8008, 1, 4, [⟨31, 0, .rw, 100000, 1000, 10000000⟩]⟩,
    ⟨0x8100, 32, 4, [⟨31, 0, .wo, 0, 0, 4294967295⟩]⟩,
    ⟨0x8180, 1, 4, [⟨0, 0, .wo, 0, 0, 1⟩]⟩,
    ⟨0x8200, 1, 4, [⟨31, 0, .ro, 0, 0, 4294967295⟩]⟩,
    ⟨0x8204, 1, 4, [⟨31, 0, .ro, 0, 0, 4294967295⟩]⟩,
    ⟨0x8208, 1, 4, [⟨31, 0, .ro, 0, 0, 4294967295⟩]⟩,
    ⟨0x820C, 1, 4, [⟨31, 0, .ro, 0, 0, 4294967295⟩]⟩,
    ⟨0x8210, 1, 4, [⟨31, 0, .ro, 0, 0, 4294967295⟩]⟩,
    ⟨0x8214, 1, 4, [⟨31, 0, .ro, 0, 0, 4294967295⟩]⟩,
    ⟨0xC000, 1, 4, [⟨1, 1, .rw, 1, 0, 1⟩, ⟨0, 0, .rw, 1, 0, 1⟩]⟩,
    ⟨0xC004, 1, 4, [⟨31, 31, .w1c, 0, 0, 1⟩, ⟨22, 16, .ro, 0, 0, 127⟩, ⟨5, 0, .ro, 32, 0, 63⟩]⟩,
    ⟨0xC100, 16, 4, [⟨31, 0, .wo, 0, 0, 4294967295⟩]⟩,
    ⟨0xC140, 1, 4, [⟨0, 0, .wo, 0, 0, 1⟩]⟩,
    ⟨0xC200, 1, 4, [⟨31, 0, .ro, 0, 0, 4294967295⟩]⟩,
    ⟨0xC204, 1, 4, [⟨31, 0, .ro, 0, 0, 4294967295⟩]⟩,
    ⟨0xC208, 1, 4, [⟨31, 0, .ro, 0, 0, 4294967295⟩]⟩
  ]
  ++
  [
    ⟨0xC20C, 1, 4, [⟨31, 0, .ro, 0, 0, 4294967295⟩]⟩,
    ⟨0xC210, 1, 4, [⟨31, 0, .ro, 0, 0, 4294967295⟩]⟩,
    ⟨0xC214, 1, 4, [⟨31, 0, .ro, 0, 0, 4294967295⟩]⟩
  ]

/-- Registers of block PED; per-unit blocks are given relative to the unit. -/
def regsPed : List RegDesc :=
  [
    ⟨0x1E00000, 1, 4, [⟨2, 2, .rw, 1, 0, 1⟩, ⟨1, 1, .rw, 0, 0, 1⟩, ⟨0, 0, .rw, 1, 0, 1⟩]⟩,
    ⟨0x1E00004, 1, 4, [⟨9, 9, .w1c, 0, 0, 1⟩, ⟨8, 8, .ro, 0, 0, 1⟩, ⟨4, 0, .ro, 16, 0, 31⟩]⟩,
    ⟨0x1E00008, 1, 4, [⟨31, 31, .w1s, 0, 0, 1⟩, ⟨4, 0, .rw, 16, 0, 31⟩]⟩,
    ⟨0x1E0000C, 1, 4, [⟨18, 0, .ro, 0, 0, 524287⟩]⟩,
    ⟨0x1E00010, 1, 4, [⟨31, 14, .rwl, 0, 0, 262143⟩]⟩,
    ⟨0x1E00014, 1, 4, [⟨6, 0, .rwl, 0, 0, 127⟩]⟩,
    ⟨0x1E00018, 1, 4, [⟨20, 0, .rwl, 0, 0, 1048576⟩]⟩,
    ⟨0x1E0001C, 1, 4, [⟨31, 21, .rw, 2, 0, 2047⟩, ⟨20, 0, .ro, 0, 0, 2097151⟩]⟩,
    ⟨0x1E00040, 16, 4, [⟨31, 31, .rw, 0, 0, 1⟩, ⟨13, 12, .rw, 1, 0, 3⟩, ⟨11, 0, .rw, 0, 0, 4095⟩]⟩,
    ⟨0x1E00080, 16, 4, [⟨31, 0, .rw, 0, 0, 4294967295⟩]⟩,
    ⟨0x1E00100, 1, 4, [⟨31, 0, .ro, 0, 0, 4294967295⟩]⟩,
    ⟨0x1E00104, 1, 4, [⟨31, 0, .ro, 0, 0, 4294967295⟩]⟩,
    ⟨0x1E00108, 1, 4, [⟨31, 0, .ro, 0, 0, 4294967295⟩]⟩,
    ⟨0x1E0010C, 1, 4, [⟨31, 0, .ro, 0, 0, 4294967295⟩]⟩,
    ⟨0x1E00110, 1, 4, [⟨31, 0, .ro, 0, 0, 4294967295⟩]⟩,
    ⟨0x1E00114, 1, 4, [⟨31, 0, .ro, 0, 0, 4294967295⟩]⟩
  ]

/-- Registers of block LDG; per-unit blocks are given relative to the unit. -/
def regsLdg : List RegDesc :=
  [
    ⟨0x1C00000, 1, 4, [⟨2, 2, .rw, 1, 0, 1⟩, ⟨1, 1, .rw, 1, 0, 1⟩, ⟨0, 0, .rw, 1, 0, 1⟩]⟩,
    ⟨0x1C00004, 1, 4, [⟨31, 31, .w1c, 0, 0, 1⟩, ⟨18, 0, .ro, 0, 0, 524287⟩]⟩,
    ⟨0x1C00008, 1, 4, [⟨31, 14, .rwl, 0, 0, 262143⟩]⟩,
    ⟨0x1C0000C, 1, 4, [⟨6, 0, .rwl, 0, 0, 127⟩]⟩,
    ⟨0x1C00010, 1, 4, [⟨31, 14, .rwl, 0, 0, 262143⟩]⟩,
    ⟨0x1C00014, 1, 4, [⟨6, 0, .rwl, 0, 0, 127⟩]⟩,
    ⟨0x1C00018, 1, 4, [⟨31, 0, .rw, 2000000, 10000, 100000000⟩]⟩,
    ⟨0x1C0001C, 1, 4, [⟨31, 0, .rw, 200000, 1000, 100000000⟩]⟩,
    ⟨0x1C00020, 1, 4, [⟨31, 0, .rw, 10000000, 0, 4294967295⟩]⟩,
    ⟨0x1C00024, 1, 4, [⟨31, 0, .rw, 1000000, 100000, 100000000⟩]⟩,
    ⟨0x1C00040, 16, 4, [⟨31, 31, .rw, 0, 0, 1⟩, ⟨30, 30, .rw, 0, 0, 1⟩, ⟨25, 21, .rw, 16, 0, 16⟩, ⟨20, 16, .rw, 1, 0, 16⟩, ⟨15, 12, .rw, 2, 0, 15⟩, ⟨11, 0, .rw, 0, 0, 4095⟩]⟩,
    ⟨0x1C00100, 64, 16, [⟨19, 16, .rw, 4, 4, 12⟩, ⟨15, 0, .rw, 65535, 0, 65535⟩]⟩,
    ⟨0x1C00104, 64, 16, [⟨31, 12, .rw, 0, 0, 1048575⟩]⟩,
    ⟨0x1C00108, 64, 16, [⟨15, 0, .rw, 0, 0, 65535⟩]⟩,
    ⟨0x1C01000, 1, 4, [⟨31, 0, .ro, 0, 0, 4294967295⟩]⟩,
    ⟨0x1C01004, 1, 4, [⟨31, 0, .ro, 0, 0, 4294967295⟩]⟩,
    ⟨0x1C01008, 1, 4, [⟨31, 0, .ro, 0, 0, 4294967295⟩]⟩,
    ⟨0x1C0100C, 1, 4, [⟨31, 0, .ro, 0, 0, 4294967295⟩]⟩,
    ⟨0x1C01010, 1, 4, [⟨31, 0, .ro, 0, 0, 4294967295⟩]⟩,
    ⟨0x1C01014, 1, 4, [⟨31, 0, .ro, 0, 0, 4294967295⟩]⟩,
    ⟨0x1C01018, 1, 4, [⟨31, 0, .ro, 0, 0, 4294967295⟩]⟩,
    ⟨0x1C00800, 64, 32, [⟨31, 12, .rw, 0, 0, 1048575⟩]⟩,
    ⟨0x1C00804, 64, 32, [⟨31, 0, .rw, 0, 0, 4294967295⟩]⟩,
    ⟨0x1C00808, 64, 32, [⟨31, 12, .rw, 0, 0, 1048575⟩]⟩
  ]
  ++
  [
    ⟨0x1C0080C, 64, 32, [⟨31, 0, .rw, 0, 0, 4294967295⟩]⟩,
    ⟨0x1C00810, 64, 32, [⟨31, 31, .rw, 0, 0, 1⟩, ⟨7, 4, .rw, 6, 4, 14⟩, ⟨3, 0, .rw, 6, 4, 12⟩]⟩
  ]

/-- Registers of block HLK; per-unit blocks are given relative to the unit. -/
def regsHlk : List RegDesc :=
  [
    ⟨0x0, 1, 4, [⟨31, 31, .rw, 0, 0, 1⟩, ⟨30, 30, .w1s, 0, 0, 1⟩, ⟨7, 4, .rw, 15, 0, 15⟩, ⟨2, 2, .w1s, 0, 0, 1⟩, ⟨1, 0, .rw, 0, 0, 3⟩]⟩,
    ⟨0x4, 1, 4, [⟨19, 16, .ro, 0, 0, 15⟩, ⟨15, 12, .ro, 0, 0, 15⟩, ⟨11, 8, .ro, 0, 0, 15⟩, ⟨7, 7, .w1c, 0, 0, 1⟩, ⟨6, 6, .w1c, 0, 0, 1⟩, ⟨5, 4, .ro, 0, 0, 3⟩, ⟨2, 0, .ro, 0, 0, 7⟩]⟩,
    ⟨0x8, 1, 4, [⟨31, 31, .ro, 0, 0, 1⟩, ⟨25, 24, .ro, 0, 0, 3⟩, ⟨23, 20, .ro, 0, 0, 15⟩, ⟨15, 0, .ro, 65535, 0, 65535⟩]⟩,
    ⟨0xC, 1, 4, [⟨31, 24, .rwl, 16, 0, 255⟩, ⟨23, 16, .rwl, 16, 0, 255⟩, ⟨15, 8, .rwl, 16, 0, 255⟩, ⟨7, 0, .rwl, 16, 0, 255⟩]⟩,
    ⟨0x10, 1, 4, [⟨31, 16, .rw, 1342, 0, 65535⟩, ⟨15, 0, .rw, 1000, 100, 10000⟩]⟩,
    ⟨0x14, 1, 4, [⟨31, 31, .rw, 1, 0, 1⟩, ⟨15, 0, .rw, 100, 20, 10000⟩]⟩,
    ⟨0x20, 1, 4, [⟨31, 31, .ro, 0, 0, 1⟩, ⟨30, 30, .w1s, 0, 0, 1⟩, ⟨3, 2, .rw, 0, 0, 3⟩, ⟨1, 0, .rw, 0, 0, 3⟩]⟩,
    ⟨0x24, 1, 4, [⟨31, 24, .ro, 0, 0, 255⟩, ⟨23, 16, .ro, 0, 0, 255⟩, ⟨15, 8, .ro, 0, 0, 255⟩, ⟨7, 0, .ro, 0, 0, 255⟩]⟩,
    ⟨0x100, 1, 4, [⟨31, 0, .ro, 0, 0, 4294967295⟩]⟩,
    ⟨0x118, 1, 4, [⟨31, 0, .ro, 0, 0, 4294967295⟩]⟩,
    ⟨0x11C, 1, 4, [⟨31, 0, .ro, 0, 0, 4294967295⟩]⟩,
    ⟨0x120, 1, 4, [⟨31, 0, .ro, 0, 0, 4294967295⟩]⟩,
    ⟨0x124, 1, 4, [⟨31, 0, .ro, 0, 0, 4294967295⟩]⟩,
    ⟨0x128, 1, 4, [⟨31, 0, .ro, 0, 0, 4294967295⟩]⟩,
    ⟨0x104, 5, 4, [⟨31, 0, .ro, 0, 0, 4294967295⟩]⟩,
    ⟨0x130, 4, 4, [⟨31, 0, .ro, 0, 0, 4294967295⟩]⟩
  ]

/-- Registers of block HTP; per-unit blocks are given relative to the unit. -/
def regsHtp : List RegDesc :=
  [
    ⟨0x1900000, 1, 4, [⟨31, 16, .rw, 65535, 1, 65535⟩, ⟨1, 1, .rw, 1, 0, 1⟩, ⟨0, 0, .rw, 1, 0, 1⟩]⟩,
    ⟨0x1900004, 1, 4, [⟨28, 16, .ro, 0, 0, 8191⟩, ⟨5, 0, .ro, 0, 0, 63⟩]⟩,
    ⟨0x1900008, 1, 4, [⟨10, 0, .rw, 128, 0, 1024⟩]⟩,
    ⟨0x190000C, 1, 4, [⟨31, 28, .rw, 8, 1, 15⟩, ⟨19, 0, .rw, 50000, 5000, 1000000⟩]⟩,
    ⟨0x1900010, 1, 4, [⟨15, 0, .rw, 6000, 1000, 65535⟩]⟩,
    ⟨0x1900014, 1, 4, [⟨31, 24, .rw, 16, 0, 255⟩, ⟨23, 16, .rw, 128, 0, 255⟩, ⟨12, 0, .rw, 32, 1, 4096⟩]⟩,
    ⟨0x1900018, 1, 4, [⟨31, 0, .rw, 50000000, 1000000, 1000000000⟩]⟩,
    ⟨0x1900020, 1, 4, [⟨15, 0, .rw, 0, 0, 65535⟩]⟩,
    ⟨0x1900024, 1, 4, [⟨31, 0, .rw, 0, 0, 4294967295⟩]⟩,
    ⟨0x1900028, 1, 4, [⟨11, 0, .rw, 0, 0, 4095⟩]⟩,
    ⟨0x190002C, 1, 4, [⟨31, 0, .rw, 0, 0, 4294967295⟩]⟩,
    ⟨0x1900030, 1, 4, [⟨31, 14, .rwl, 0, 0, 262143⟩]⟩,
    ⟨0x1900034, 1, 4, [⟨6, 0, .rwl, 0, 0, 127⟩]⟩,
    ⟨0x1900038, 1, 4, [⟨31, 14, .rwl, 0, 0, 262143⟩]⟩,
    ⟨0x190003C, 1, 4, [⟨6, 0, .rwl, 0, 0, 127⟩]⟩,
    ⟨0x1900040, 1, 4, [⟨31, 14, .rwl, 0, 0, 262143⟩]⟩,
    ⟨0x1900044, 1, 4, [⟨6, 0, .rwl, 0, 0, 127⟩]⟩,
    ⟨0x1900050, 1, 4, [⟨31, 31, .w1s, 0, 0, 1⟩, ⟨30, 30, .ro, 0, 0, 1⟩, ⟨29, 29, .w1c, 0, 0, 1⟩, ⟨28, 28, .rw, 0, 0, 1⟩, ⟨23, 16, .ro, 0, 0, 255⟩, ⟨15, 0, .rw, 0, 0, 65535⟩]⟩,
    ⟨0x1900058, 1, 4, [⟨15, 0, .rw, 0, 0, 65535⟩]⟩,
    ⟨0x190005C, 1, 4, [⟨20, 0, .ro, 0, 0, 2097151⟩]⟩,
    ⟨0x1900060, 1, 4, [⟨31, 16, .ro, 0, 0, 65535⟩, ⟨15, 0, .ro, 0, 0, 65535⟩]⟩,
    ⟨0x1900064, 1, 4, [⟨31, 0, .ro, 0, 0, 4294967295⟩]⟩,
    ⟨0x1900068, 1, 4, [⟨31, 0, .ro, 0, 0, 4294967295⟩]⟩,
    ⟨0x1900100, 1, 4, [⟨31, 0, .ro, 0, 0, 4294967295⟩]⟩
  ]
  ++
  [
    ⟨0x1900104, 1, 4, [⟨31, 0, .ro, 0, 0, 4294967295⟩]⟩,
    ⟨0x1900108, 1, 4, [⟨31, 0, .ro, 0, 0, 4294967295⟩]⟩,
    ⟨0x190010C, 1, 4, [⟨31, 0, .ro, 0, 0, 4294967295⟩]⟩,
    ⟨0x1900110, 1, 4, [⟨31, 0, .ro, 0, 0, 4294967295⟩]⟩,
    ⟨0x1900114, 1, 4, [⟨31, 0, .ro, 0, 0, 4294967295⟩]⟩,
    ⟨0x1900118, 1, 4, [⟨31, 0, .ro, 0, 0, 4294967295⟩]⟩,
    ⟨0x190011C, 1, 4, [⟨31, 0, .ro, 0, 0, 4294967295⟩]⟩,
    ⟨0x1900120, 1, 4, [⟨31, 0, .ro, 0, 0, 4294967295⟩]⟩,
    ⟨0x1900124, 1, 4, [⟨31, 0, .ro, 0, 0, 4294967295⟩]⟩,
    ⟨0x1900128, 1, 4, [⟨31, 0, .ro, 0, 0, 4294967295⟩]⟩,
    ⟨0x190012C, 1, 4, [⟨31, 0, .ro, 0, 0, 4294967295⟩]⟩,
    ⟨0x1900130, 1, 4, [⟨31, 0, .ro, 0, 0, 4294967295⟩]⟩,
    ⟨0x1900134, 1, 4, [⟨31, 0, .ro, 0, 0, 4294967295⟩]⟩,
    ⟨0x1900138, 1, 4, [⟨31, 0, .ro, 0, 0, 4294967295⟩]⟩
  ]

/-- Registers of block COU; per-unit blocks are given relative to the unit. -/
def regsCou : List RegDesc :=
  [
    ⟨0x1A00000, 1, 4, [⟨9, 2, .rw, 0, 0, 255⟩, ⟨1, 1, .rw, 1, 0, 1⟩, ⟨0, 0, .rw, 1, 0, 1⟩]⟩,
    ⟨0x1A00004, 1, 4, [⟨31, 31, .w1c, 0, 0, 1⟩, ⟨4, 0, .ro, 0, 0, 31⟩]⟩,
    ⟨0x1A00008, 1, 4, [⟨31, 14, .rwl, 0, 0, 262143⟩]⟩,
    ⟨0x1A0000C, 1, 4, [⟨6, 0, .rwl, 0, 0, 127⟩]⟩,
    ⟨0x1A00010, 1, 4, [⟨31, 14, .rwl, 0, 0, 262143⟩]⟩,
    ⟨0x1A00014, 1, 4, [⟨6, 0, .rwl, 0, 0, 127⟩]⟩,
    ⟨0x1A00018, 1, 4, [⟨13, 0, .rwl, 0, 0, 8192⟩]⟩,
    ⟨0x1A00020, 1, 4, [⟨18, 0, .rwl, 0, 0, 262144⟩]⟩,
    ⟨0x1A0001C, 1, 4, [⟨31, 0, .rw, 1000000000, 1000000, 4000000000⟩]⟩,
    ⟨0x1A00100, 16, 4, [⟨31, 0, .wo, 0, 0, 4294967295⟩]⟩,
    ⟨0x1A00140, 1, 4, [⟨0, 0, .wo, 0, 0, 1⟩]⟩,
    ⟨0x1A00200, 1, 4, [⟨31, 0, .ro, 0, 0, 4294967295⟩]⟩,
    ⟨0x1A00204, 1, 4, [⟨31, 0, .ro, 0, 0, 4294967295⟩]⟩,
    ⟨0x1A00208, 1, 4, [⟨31, 0, .ro, 0, 0, 4294967295⟩]⟩,
    ⟨0x1A0020C, 1, 4, [⟨31, 0, .ro, 0, 0, 4294967295⟩]⟩,
    ⟨0x1A00210, 1, 4, [⟨31, 0, .ro, 0, 0, 4294967295⟩]⟩,
    ⟨0x1A00214, 1, 4, [⟨31, 0, .ro, 0, 0, 4294967295⟩]⟩,
    ⟨0x1A00218, 1, 4, [⟨31, 0, .ro, 0, 0, 4294967295⟩]⟩,
    ⟨0x1A0021C, 1, 4, [⟨31, 0, .ro, 0, 0, 4294967295⟩]⟩
  ]

/-- Registers of block TEM; per-unit blocks are given relative to the unit. -/
def regsTem : List RegDesc :=
  [
    ⟨0x1980000, 1, 4, [⟨31, 0, .rw, 1000000, 100000, 100000000⟩]⟩,
    ⟨0x1980004, 1, 4, [⟨31, 0, .rw, 4000000, 1000000, 100000000⟩]⟩,
    ⟨0x1980008, 1, 4, [⟨31, 0, .rw, 2000000, 100000, 100000000⟩]⟩,
    ⟨0x1980010, 1, 4, [⟨31, 14, .rwl, 0, 0, 262143⟩]⟩,
    ⟨0x1980014, 1, 4, [⟨6, 0, .rwl, 0, 0, 127⟩]⟩,
    ⟨0x1980018, 1, 4, [⟨31, 14, .rwl, 0, 0, 262143⟩]⟩,
    ⟨0x198001C, 1, 4, [⟨6, 0, .rwl, 0, 0, 127⟩]⟩,
    ⟨0x1980020, 1, 4, [⟨31, 31, .w1s, 0, 0, 1⟩, ⟨30, 30, .ro, 0, 0, 1⟩, ⟨29, 29, .w1c, 0, 0, 1⟩, ⟨23, 16, .ro, 0, 0, 255⟩, ⟨3, 0, .rw, 0, 0, 15⟩]⟩,
    ⟨0x1980024, 1, 4, [⟨31, 31, .w1c, 0, 0, 1⟩, ⟨4, 0, .ro, 0, 0, 31⟩]⟩,
    ⟨0x1980100, 16, 16, [⟨31, 31, .ro, 0, 0, 1⟩, ⟨30, 29, .ro, 0, 0, 3⟩, ⟨28, 28, .ro, 0, 0, 1⟩, ⟨27, 27, .ro, 0, 0, 1⟩, ⟨26, 26, .ro, 0, 0, 1⟩, ⟨25, 25, .rw, 0, 0, 1⟩, ⟨24, 24, .w1c, 0, 0, 1⟩, ⟨23, 16, .ro, 0, 0, 255⟩, ⟨11, 0, .ro, 0, 0, 4095⟩]⟩,
    ⟨0x1980104, 16, 16, [⟨31, 16, .ro, 0, 0, 65535⟩, ⟨15, 0, .ro, 0, 0, 65535⟩]⟩,
    ⟨0x1980108, 16, 16, [⟨31, 16, .ro, 65535, 0, 65535⟩, ⟨15, 0, .ro, 65535, 0, 65535⟩]⟩,
    ⟨0x198010C, 16, 16, [⟨31, 16, .ro, 0, 0, 65535⟩, ⟨15, 0, .ro, 0, 0, 65535⟩]⟩,
    ⟨0x1980200, 1, 4, [⟨7, 0, .rw, 0, 0, 255⟩]⟩,
    ⟨0x1980204, 1, 4, [⟨31, 6, .rw, 0, 0, 67108863⟩]⟩,
    ⟨0x1980208, 1, 4, [⟨6, 0, .rw, 0, 0, 127⟩]⟩,
    ⟨0x198020C, 1, 4, [⟨31, 31, .rw, 0, 0, 1⟩, ⟨30, 30, .w1c, 0, 0, 1⟩, ⟨29, 29, .ro, 0, 0, 1⟩, ⟨24, 12, .rw, 1, 1, 4096⟩, ⟨11, 0, .rw, 0, 0, 4095⟩]⟩,
    ⟨0x1980210, 1, 4, [⟨31, 0, .ro, 0, 0, 4294967295⟩]⟩,
    ⟨0x1980214, 1, 4, [⟨15, 0, .ro, 0, 0, 65535⟩]⟩,
    ⟨0x1980300, 16, 4, [⟨31, 0, .wo, 0, 0, 4294967295⟩]⟩,
    ⟨0x1980340, 1, 4, [⟨0, 0, .wo, 0, 0, 1⟩]⟩,
    ⟨0x1980400, 1, 4, [⟨31, 0, .ro, 0, 0, 4294967295⟩]⟩,
    ⟨0x1980404, 1, 4, [⟨31, 0, .ro, 0, 0, 4294967295⟩]⟩,
    ⟨0x1980408, 1, 4, [⟨31, 0, .ro, 0, 0, 4294967295⟩]⟩
  ]
  ++
  [
    ⟨0x198040C, 1, 4, [⟨31, 0, .ro, 0, 0, 4294967295⟩]⟩,
    ⟨0x1980410, 1, 4, [⟨31, 0, .ro, 0, 0, 4294967295⟩]⟩,
    ⟨0x1980414, 1, 4, [⟨31, 0, .ro, 0, 0, 4294967295⟩]⟩,
    ⟨0x1980418, 1, 4, [⟨31, 0, .ro, 0, 0, 4294967295⟩]⟩
  ]

/-- Registers of block RNS; per-unit blocks are given relative to the unit. -/
def regsRns : List RegDesc :=
  [
    ⟨0x2000000, 1, 4, [⟨4, 4, .rw, 1, 0, 1⟩, ⟨3, 3, .rw, 1, 0, 1⟩, ⟨2, 2, .rw, 1, 0, 1⟩, ⟨1, 1, .rw, 1, 0, 1⟩, ⟨0, 0, .rw, 1, 0, 1⟩]⟩,
    ⟨0x2000004, 1, 4, [⟨13, 0, .ro, 0, 0, 16383⟩]⟩,
    ⟨0x2000008, 1, 4, [⟨15, 0, .rw, 1000, 100, 10000⟩]⟩,
    ⟨0x200000C, 1, 4, [⟨10, 0, .rw, 256, 65, 1024⟩]⟩,
    ⟨0x2000010, 1, 4, [⟨31, 0, .rw, 64000, 1, 4294967295⟩]⟩,
    ⟨0x2000014, 1, 4, [⟨31, 0, .rw, 65536, 1024, 16777216⟩]⟩,
    ⟨0x2000018, 1, 4, [⟨7, 0, .rw, 24, 0, 255⟩]⟩,
    ⟨0x200001C, 1, 4, [⟨31, 0, .ro, 65536, 0, 4294967295⟩]⟩,
    ⟨0x2000020, 1, 4, [⟨31, 14, .rwl, 0, 0, 262143⟩]⟩,
    ⟨0x2000024, 1, 4, [⟨6, 0, .rwl, 0, 0, 127⟩]⟩,
    ⟨0x2000028, 1, 4, [⟨15, 0, .rw, 0, 0, 65535⟩]⟩,
    ⟨0x2000040, 8, 4, [⟨31, 0, .rw, 0, 0, 4294967295⟩]⟩,
    ⟨0x2000100, 16, 16, [⟨31, 16, .rw, 0, 0, 65535⟩, ⟨15, 8, .rw, 24, 17, 255⟩, ⟨7, 3, .rw, 16, 1, 31⟩]⟩,
    ⟨0x2000104, 16, 16, [⟨31, 27, .ro, 0, 0, 31⟩, ⟨23, 0, .rw, 400000, 10000, 10000000⟩]⟩,
    ⟨0x2000108, 16, 16, [⟨24, 0, .rw, 0, 0, 33554431⟩]⟩,
    ⟨0x200010C, 16, 16, [⟨31, 16, .ro, 0, 0, 65535⟩, ⟨15, 0, .ro, 0, 0, 65535⟩]⟩,
    ⟨0x2000300, 1, 4, [⟨18, 16, .rw, 0, 0, 4⟩, ⟨14, 8, .rw, 0, 0, 127⟩, ⟨5, 0, .rw, 0, 0, 63⟩]⟩,
    ⟨0x2000304, 1, 4, [⟨31, 0, .ro, 0, 0, 4294967295⟩]⟩,
    ⟨0x2000340, 16, 4, [⟨31, 0, .ro, 0, 0, 4294967295⟩]⟩,
    ⟨0x2000400, 16, 16, [⟨31, 0, .rw, 60000, 0, 4294967295⟩]⟩,
    ⟨0x2000404, 16, 16, [⟨31, 0, .rw, 60000, 0, 4294967295⟩]⟩,
    ⟨0x2000408, 16, 16, [⟨31, 16, .rw, 1024, 0, 65535⟩, ⟨15, 0, .rw, 1024, 0, 65535⟩]⟩,
    ⟨0x200040C, 16, 16, [⟨31, 31, .rw, 1, 0, 1⟩, ⟨7, 0, .rw, 0, 0, 255⟩]⟩,
    ⟨0x2000500, 1, 4, [⟨31, 0, .ro, 0, 0, 4294967295⟩]⟩
  ]
  ++
  [
    ⟨0x2000504, 1, 4, [⟨31, 0, .ro, 0, 0, 4294967295⟩]⟩,
    ⟨0x2000508, 1, 4, [⟨31, 0, .ro, 0, 0, 4294967295⟩]⟩,
    ⟨0x200050C, 1, 4, [⟨31, 0, .ro, 0, 0, 4294967295⟩]⟩,
    ⟨0x2000510, 1, 4, [⟨31, 0, .ro, 0, 0, 4294967295⟩]⟩,
    ⟨0x2000514, 1, 4, [⟨31, 0, .ro, 0, 0, 4294967295⟩]⟩,
    ⟨0x2000518, 1, 4, [⟨31, 0, .ro, 0, 0, 4294967295⟩]⟩
  ]

/-- Registers of block PKH; per-unit blocks are given relative to the unit. -/
def regsPkh : List RegDesc :=
  [
    ⟨0x2200000, 1, 4, [⟨13, 12, .rw, 0, 0, 3⟩, ⟨11, 10, .rw, 0, 0, 3⟩, ⟨9, 8, .rw, 3, 0, 3⟩, ⟨2, 2, .rw, 1, 0, 1⟩, ⟨1, 1, .rw, 1, 0, 1⟩, ⟨0, 0, .rw, 1, 0, 1⟩]⟩,
    ⟨0x2200004, 1, 4, [⟨31, 31, .w1c, 0, 0, 1⟩, ⟨30, 30, .w1c, 0, 0, 1⟩, ⟨24, 16, .ro, 0, 0, 511⟩, ⟨4, 0, .ro, 0, 0, 31⟩]⟩,
    ⟨0x2200008, 1, 4, [⟨31, 0, .rw, 200000, 10000, 10000000⟩]⟩,
    ⟨0x220000C, 1, 4, [⟨31, 0, .rw, 100000000, 1000000, 1000000000⟩]⟩,
    ⟨0x2200010, 1, 4, [⟨31, 14, .rwl, 0, 0, 262143⟩]⟩,
    ⟨0x2200014, 1, 4, [⟨6, 0, .rwl, 0, 0, 127⟩]⟩,
    ⟨0x2200018, 1, 4, [⟨31, 14, .rwl, 0, 0, 262143⟩]⟩,
    ⟨0x220001C, 1, 4, [⟨6, 0, .rwl, 0, 0, 127⟩]⟩,
    ⟨0x2200020, 1, 4, [⟨31, 14, .rwl, 0, 0, 262143⟩]⟩,
    ⟨0x2200024, 1, 4, [⟨6, 0, .rwl, 0, 0, 127⟩]⟩,
    ⟨0x2200030, 3, 4, [⟨31, 0, .rwl, 0, 0, 4294967295⟩]⟩,
    ⟨0x220003C, 1, 4, [⟨31, 16, .rwl, 0, 0, 65535⟩, ⟨15, 0, .rwl, 0, 0, 4096⟩]⟩,
    ⟨0x2200040, 1, 4, [⟨6, 0, .rw, 0, 0, 127⟩]⟩,
    ⟨0x2200044, 4, 4, [⟨31, 0, .rw, 0, 0, 4294967295⟩]⟩,
    ⟨0x2200058, 1, 4, [⟨5, 0, .rw, 0, 0, 63⟩]⟩,
    ⟨0x220005C, 4, 4, [⟨31, 0, .rw, 0, 0, 4294967295⟩]⟩,
    ⟨0x2200080, 16, 4, [⟨31, 0, .rwl, 4294967295, 0, 4294967295⟩]⟩,
    ⟨0x2200100, 16, 4, [⟨31, 0, .wo, 0, 0, 4294967295⟩]⟩,
    ⟨0x2200140, 1, 4, [⟨0, 0, .wo, 0, 0, 1⟩]⟩,
    ⟨0x2200200, 1, 4, [⟨5, 2, .rwl, 15, 0, 15⟩, ⟨1, 1, .w1s, 0, 0, 1⟩, ⟨0, 0, .w1s, 0, 0, 1⟩]⟩,
    ⟨0x2200204, 1, 4, [⟨3, 3, .ro, 0, 0, 1⟩, ⟨2, 0, .ro, 0, 0, 7⟩]⟩,
    ⟨0x2200208, 1, 4, [⟨31, 16, .rw, 900, 1, 1000⟩, ⟨15, 0, .ro, 0, 0, 65535⟩]⟩,
    ⟨0x2200300, 1, 4, [⟨31, 0, .ro, 0, 0, 4294967295⟩]⟩,
    ⟨0x2200304, 1, 4, [⟨31, 0, .ro, 0, 0, 4294967295⟩]⟩
  ]
  ++
  [
    ⟨0x2200308, 1, 4, [⟨31, 0, .ro, 0, 0, 4294967295⟩]⟩,
    ⟨0x220030C, 1, 4, [⟨31, 0, .ro, 0, 0, 4294967295⟩]⟩,
    ⟨0x2200310, 1, 4, [⟨31, 0, .ro, 0, 0, 4294967295⟩]⟩,
    ⟨0x2200314, 1, 4, [⟨31, 0, .ro, 0, 0, 4294967295⟩]⟩,
    ⟨0x2200318, 1, 4, [⟨31, 0, .ro, 0, 0, 4294967295⟩]⟩,
    ⟨0x2200148, 1, 4, [⟨31, 12, .rw, 0, 0, 1048575⟩]⟩,
    ⟨0x220014C, 1, 4, [⟨31, 0, .rw, 0, 0, 4294967295⟩]⟩,
    ⟨0x2200150, 1, 4, [⟨31, 31, .rw, 0, 0, 1⟩, ⟨3, 0, .rw, 4, 4, 12⟩]⟩,
    ⟨0x2200154, 1, 4, [⟨11, 0, .rw, 0, 0, 4095⟩]⟩
  ]

/-- Registers of block GLB; per-unit blocks are given relative to the unit. -/
def regsGlb : List RegDesc :=
  [
    ⟨0x0, 1, 4, [⟨31, 16, .ro, 1152, 0, 65535⟩, ⟨15, 8, .ro, 161, 0, 255⟩]⟩,
    ⟨0x4, 1, 4, [⟨15, 10, .ro, 0, 0, 63⟩, ⟨9, 0, .ro, 0, 0, 1023⟩]⟩,
    ⟨0x8, 1, 4, [⟨19, 18, .ro, 0, 0, 3⟩, ⟨17, 17, .ro, 0, 0, 1⟩, ⟨16, 16, .ro, 0, 0, 1⟩, ⟨15, 13, .ro, 0, 0, 7⟩, ⟨12, 11, .ro, 0, 0, 3⟩, ⟨10, 10, .ro, 0, 0, 1⟩, ⟨9, 8, .ro, 0, 0, 3⟩, ⟨7, 2, .ro, 0, 0, 63⟩, ⟨1, 0, .ro, 0, 0, 3⟩]⟩,
    ⟨0xC, 1, 4, [⟨0, 0, .w1s, 0, 0, 1⟩]⟩,
    ⟨0x10, 1, 4, [⟨5, 5, .w1c, 0, 0, 1⟩, ⟨4, 4, .w1c, 0, 0, 1⟩, ⟨3, 3, .w1c, 0, 0, 1⟩, ⟨2, 2, .w1c, 0, 0, 1⟩, ⟨1, 1, .ro, 0, 0, 1⟩, ⟨0, 0, .ro, 0, 0, 1⟩]⟩,
    ⟨0x20, 1, 4, [⟨8, 0, .rw, 0, 0, 511⟩]⟩,
    ⟨0x24, 1, 4, [⟨31, 0, .ro, 0, 0, 4294967295⟩]⟩,
    ⟨0x30, 1, 4, [⟨31, 0, .ro, 0, 0, 4294967295⟩]⟩,
    ⟨0x34, 1, 4, [⟨31, 0, .ro, 0, 0, 4294967295⟩]⟩
  ]

/-- Registers of block HST; per-unit blocks are given relative to the unit. -/
def regsHst : List RegDesc :=
  [
    ⟨0x2400000, 1, 4, [⟨31, 31, .rw, 1, 0, 1⟩, ⟨23, 16, .rw, 64, 0, 255⟩, ⟨15, 0, .rw, 0, 0, 65535⟩]⟩,
    ⟨0x2400004, 1, 4, [⟨31, 31, .w1c, 0, 0, 1⟩, ⟨30, 30, .w1c, 0, 0, 1⟩, ⟨29, 29, .w1c, 0, 0, 1⟩, ⟨7, 4, .ro, 0, 0, 15⟩, ⟨3, 3, .ro, 0, 0, 1⟩, ⟨2, 0, .ro, 0, 0, 7⟩]⟩,
    ⟨0x2400010, 1, 4, [⟨7, 0, .rw, 0, 0, 255⟩]⟩,
    ⟨0x2400014, 4, 4, [⟨31, 0, .rw, 0, 0, 4294967295⟩]⟩,
    ⟨0x2400030, 1, 4, [⟨31, 31, .rw, 0, 0, 1⟩, ⟨11, 0, .rw, 0, 0, 4095⟩]⟩,
    ⟨0x2400034, 1, 4, [⟨31, 31, .rw, 0, 0, 1⟩, ⟨11, 0, .rw, 0, 0, 4095⟩]⟩,
    ⟨0x2400038, 1, 4, [⟨31, 31, .rw, 0, 0, 1⟩, ⟨11, 0, .rw, 0, 0, 4095⟩]⟩,
    ⟨0x2400040, 1, 4, [⟨31, 0, .ro, 0, 0, 4294967295⟩]⟩,
    ⟨0x2400044, 1, 4, [⟨31, 0, .ro, 0, 0, 4294967295⟩]⟩,
    ⟨0x2400048, 1, 4, [⟨31, 24, .ro, 0, 0, 255⟩, ⟨23, 16, .ro, 0, 0, 255⟩, ⟨7, 0, .ro, 0, 0, 255⟩]⟩,
    ⟨0x2400100, 16, 32, [⟨31, 6, .rw, 0, 0, 67108863⟩]⟩,
    ⟨0x2400104, 16, 32, [⟨31, 0, .rw, 0, 0, 4294967295⟩]⟩,
    ⟨0x2400108, 16, 32, [⟨31, 31, .rw, 0, 0, 1⟩, ⟨30, 30, .w1c, 0, 0, 1⟩, ⟨4, 0, .rw, 8, 6, 16⟩]⟩,
    ⟨0x240010C, 16, 32, [⟨15, 0, .rw, 0, 0, 65535⟩]⟩,
    ⟨0x2400110, 16, 32, [⟨31, 0, .ro, 0, 0, 4294967295⟩]⟩,
    ⟨0x2400400, 1, 4, [⟨31, 0, .ro, 0, 0, 4294967295⟩]⟩,
    ⟨0x2400404, 1, 4, [⟨31, 0, .ro, 0, 0, 4294967295⟩]⟩,
    ⟨0x2400408, 1, 4, [⟨31, 0, .ro, 0, 0, 4294967295⟩]⟩,
    ⟨0x240040C, 1, 4, [⟨31, 0, .ro, 0, 0, 4294967295⟩]⟩,
    ⟨0x2400410, 1, 4, [⟨31, 0, .ro, 0, 0, 4294967295⟩]⟩
  ]

/-- Registers of block CLK; per-unit blocks are given relative to the unit. -/
def regsClk : List RegDesc :=
  [
    ⟨0x300000, 1, 4, [⟨31, 31, .w1c, 0, 0, 1⟩, ⟨30, 30, .w1c, 0, 0, 1⟩, ⟨16, 16, .ro, 1, 0, 1⟩, ⟨15, 8, .ro, 0, 0, 255⟩, ⟨7, 7, .ro, 0, 0, 1⟩, ⟨6, 6, .ro, 0, 0, 1⟩, ⟨5, 5, .ro, 0, 0, 1⟩, ⟨4, 4, .ro, 0, 0, 1⟩, ⟨3, 3, .ro, 0, 0, 1⟩, ⟨2, 2, .ro, 0, 0, 1⟩, ⟨1, 1, .ro, 0, 0, 1⟩, ⟨0, 0, .ro, 0, 0, 1⟩]⟩,
    ⟨0x300004, 1, 4, [⟨31, 31, .ro, 0, 0, 1⟩, ⟨8, 8, .ro, 0, 0, 1⟩, ⟨7, 0, .ro, 40, 0, 255⟩]⟩,
    ⟨0x300008, 1, 4, [⟨31, 28, .ro, 0, 0, 15⟩, ⟨27, 24, .ro, 0, 0, 15⟩, ⟨23, 16, .ro, 0, 0, 255⟩]⟩,
    ⟨0x300100, 1, 4, [⟨31, 0, .ro, 0, 0, 4294967295⟩]⟩,
    ⟨0x300104, 1, 4, [⟨31, 0, .ro, 0, 0, 4294967295⟩]⟩,
    ⟨0x300108, 1, 4, [⟨31, 0, .ro, 0, 0, 4294967295⟩]⟩
  ]

/-- Registers of block TCK; per-unit blocks are given relative to the unit. -/
def regsTck : List RegDesc :=
  [
    ⟨0x500000, 1, 4, [⟨31, 31, .ro, 1, 0, 1⟩, ⟨30, 30, .w1c, 0, 0, 1⟩, ⟨29, 29, .ro, 0, 0, 1⟩, ⟨26, 26, .ro, 0, 0, 1⟩, ⟨25, 25, .ro, 0, 0, 1⟩, ⟨24, 24, .ro, 0, 0, 1⟩, ⟨19, 16, .ro, 0, 0, 15⟩, ⟨11, 8, .ro, 0, 0, 15⟩, ⟨7, 0, .ro, 0, 0, 255⟩]⟩,
    ⟨0x500004, 1, 4, [⟨31, 31, .w1s, 0, 0, 1⟩, ⟨30, 30, .w1s, 0, 0, 1⟩, ⟨1, 0, .rw, 0, 0, 3⟩]⟩,
    ⟨0x500008, 1, 4, [⟨31, 6, .rw, 0, 0, 67108863⟩]⟩,
    ⟨0x50000C, 1, 4, [⟨31, 0, .rw, 0, 0, 4294967295⟩]⟩,
    ⟨0x500010, 1, 4, [⟨31, 0, .rw, 0, 0, 4294967295⟩]⟩,
    ⟨0x500014, 1, 4, [⟨31, 0, .ro, 0, 0, 4294967295⟩]⟩,
    ⟨0x500018, 1, 4, [⟨31, 0, .ro, 0, 0, 4294967295⟩]⟩,
    ⟨0x50001C, 1, 4, [⟨31, 0, .ro, 0, 0, 4294967295⟩]⟩,
    ⟨0x500020, 1, 4, [⟨31, 27, .ro, 0, 0, 31⟩, ⟨26, 0, .ro, 0, 0, 134217727⟩]⟩,
    ⟨0x500100, 32, 8, [⟨31, 31, .ro, 0, 0, 1⟩, ⟨30, 30, .ro, 0, 0, 1⟩, ⟨15, 8, .ro, 0, 0, 255⟩, ⟨7, 0, .ro, 0, 0, 255⟩]⟩,
    ⟨0x500104, 32, 8, [⟨31, 0, .ro, 0, 0, 4294967295⟩]⟩,
    ⟨0x500200, 1, 4, [⟨31, 0, .ro, 0, 0, 4294967295⟩]⟩,
    ⟨0x500204, 1, 4, [⟨31, 0, .ro, 0, 0, 4294967295⟩]⟩,
    ⟨0x500208, 1, 4, [⟨31, 0, .ro, 0, 0, 4294967295⟩]⟩
  ]

/-- Registers of block PWR; per-unit blocks are given relative to the unit. -/
def regsPwr : List RegDesc :=
  [
    ⟨0x200000, 1, 4, [⟨31, 31, .w1c, 0, 0, 1⟩, ⟨30, 30, .w1c, 0, 0, 1⟩, ⟨29, 29, .ro, 0, 0, 1⟩, ⟨24, 21, .ro, 0, 0, 15⟩, ⟨20, 16, .ro, 16, 0, 31⟩, ⟨12, 10, .ro, 3, 0, 7⟩, ⟨9, 0, .ro, 3, 0, 1023⟩]⟩,
    ⟨0x200004, 1, 4, [⟨14, 12, .ro, 0, 0, 7⟩, ⟨11, 11, .rw, 0, 0, 1⟩, ⟨10, 8, .rw, 0, 0, 3⟩, ⟨2, 0, .rw, 3, 0, 4⟩]⟩,
    ⟨0x200008, 1, 4, [⟨31, 24, .rw, 10, 5, 30⟩, ⟨21, 12, .rw, 440, 400, 500⟩, ⟨9, 0, .rw, 380, 360, 400⟩]⟩,
    ⟨0x200100, 1, 4, [⟨31, 0, .ro, 0, 0, 4294967295⟩]⟩,
    ⟨0x200104, 1, 4, [⟨31, 0, .ro, 0, 0, 4294967295⟩]⟩,
    ⟨0x200108, 1, 4, [⟨31, 0, .ro, 0, 0, 4294967295⟩]⟩
  ]

/-- Registers of block GRM; per-unit blocks are given relative to the unit. -/
def regsGrm : List RegDesc :=
  [
    ⟨0x210000, 1, 4, [⟨31, 31, .rw, 1, 0, 1⟩, ⟨30, 30, .w1c, 0, 0, 1⟩, ⟨29, 29, .ro, 0, 0, 1⟩]⟩,
    ⟨0x210004, 1, 4, [⟨31, 0, .ro, 0, 0, 4294967295⟩]⟩,
    ⟨0x210008, 1, 4, [⟨5, 0, .rw, 0, 0, 63⟩]⟩,
    ⟨0x21000C, 1, 4, [⟨15, 0, .ro, 0, 0, 65535⟩]⟩,
    ⟨0x210010, 1, 4, [⟨7, 0, .ro, 0, 0, 255⟩]⟩,
    ⟨0x210100, 32, 16, [⟨31, 31, .rw, 0, 0, 1⟩, ⟨30, 30, .rw, 0, 0, 1⟩, ⟨29, 28, .rw, 0, 0, 3⟩, ⟨27, 20, .rw, 0, 0, 255⟩, ⟨19, 16, .rw, 0, 0, 15⟩, ⟨15, 8, .rw, 0, 0, 255⟩, ⟨5, 0, .rw, 0, 0, 63⟩]⟩,
    ⟨0x210104, 32, 16, [⟨15, 0, .rw, 0, 0, 65535⟩]⟩,
    ⟨0x210108, 32, 16, [⟨15, 0, .rw, 0, 0, 65535⟩]⟩,
    ⟨0x210020, 1, 4, [⟨8, 0, .rw, 0, 0, 511⟩]⟩,
    ⟨0x210024, 1, 4, [⟨31, 0, .ro, 0, 0, 4294967295⟩]⟩,
    ⟨0x20010C, 1, 4, [⟨31, 0, .ro, 0, 0, 4294967295⟩]⟩
  ]

/-- Registers of block FAR; per-unit blocks are given relative to the unit. -/
def regsFar : List RegDesc :=
  [
    ⟨0x400000, 1, 4, [⟨4, 1, .rw, 0, 0, 15⟩, ⟨0, 0, .rw, 1, 0, 1⟩]⟩,
    ⟨0x400004, 1, 4, [⟨31, 0, .rw, 28800, 3600, 604800⟩]⟩,
    ⟨0x400008, 1, 4, [⟨31, 16, .rw, 1000, 10, 60000⟩, ⟨15, 8, .rw, 64, 1, 255⟩, ⟨7, 0, .rw, 4, 1, 255⟩]⟩,
    ⟨0x400010, 1, 4, [⟨31, 14, .rwl, 0, 0, 262143⟩]⟩,
    ⟨0x400014, 1, 4, [⟨6, 0, .rwl, 0, 0, 127⟩]⟩,
    ⟨0x400044, 22, 4, [⟨31, 31, .rw, 1, 0, 1⟩, ⟨6, 4, .rw, 1, 0, 4⟩, ⟨3, 0, .rw, 0, 0, 15⟩]⟩,
    ⟨0x4000C0, 1, 4, [⟨7, 0, .rw, 0, 0, 255⟩]⟩,
    ⟨0x4000C4, 1, 4, [⟨31, 0, .ro, 0, 0, 4294967295⟩]⟩,
    ⟨0x400100, 1, 4, [⟨31, 0, .ro, 0, 0, 4294967295⟩]⟩,
    ⟨0x400104, 1, 4, [⟨31, 0, .ro, 0, 0, 4294967295⟩]⟩,
    ⟨0x400108, 1, 4, [⟨31, 0, .ro, 0, 0, 4294967295⟩]⟩,
    ⟨0x40010C, 1, 4, [⟨31, 0, .ro, 0, 0, 4294967295⟩]⟩,
    ⟨0x400110, 1, 4, [⟨31, 0, .ro, 0, 0, 4294967295⟩]⟩,
    ⟨0x400114, 1, 4, [⟨31, 0, .ro, 0, 0, 4294967295⟩]⟩,
    ⟨0x400118, 1, 4, [⟨31, 0, .ro, 0, 0, 4294967295⟩]⟩
  ]

/-- Registers of block ASY; per-unit blocks are given relative to the unit. -/
def regsAsy : List RegDesc :=
  [
    ⟨0x100000, 4, 4, [⟨31, 0, .ro, 0, 0, 4294967295⟩]⟩,
    ⟨0x100010, 1, 4, [⟨31, 28, .ro, 0, 0, 15⟩, ⟨27, 24, .ro, 0, 0, 15⟩, ⟨23, 23, .ro, 0, 0, 1⟩, ⟨6, 0, .ro, 0, 0, 127⟩]⟩,
    ⟨0x100014, 1, 4, [⟨31, 31, .w1c, 0, 0, 1⟩, ⟨30, 30, .w1c, 0, 0, 1⟩, ⟨29, 29, .ro, 0, 0, 1⟩, ⟨28, 28, .ro, 0, 0, 1⟩, ⟨27, 27, .w1c, 0, 0, 1⟩, ⟨23, 16, .ro, 0, 0, 255⟩, ⟨4, 0, .ro, 0, 0, 31⟩]⟩,
    ⟨0x100018, 1, 4, [⟨31, 31, .w1s, 0, 0, 1⟩, ⟨9, 8, .rw, 0, 0, 3⟩, ⟨1, 0, .rw, 0, 0, 3⟩]⟩,
    ⟨0x100020, 1, 4, [⟨31, 14, .rwl, 0, 0, 262143⟩]⟩,
    ⟨0x100024, 1, 4, [⟨6, 0, .rwl, 0, 0, 127⟩]⟩,
    ⟨0x100028, 1, 4, [⟨2, 0, .rwl, 0, 0, 4⟩]⟩,
    ⟨0x100100, 16, 16, [⟨24, 0, .rwl, 0, 0, 33554431⟩]⟩,
    ⟨0x100104, 16, 16, [⟨24, 0, .rwl, 0, 0, 33554431⟩]⟩,
    ⟨0x100108, 16, 16, [⟨24, 0, .rwl, 0, 0, 33554431⟩]⟩,
    ⟨0x10010C, 16, 16, [⟨31, 31, .rwl, 0, 0, 1⟩, ⟨30, 30, .ro, 0, 0, 1⟩]⟩,
    ⟨0x100200, 1, 4, [⟨31, 0, .ro, 0, 0, 4294967295⟩]⟩,
    ⟨0x100204, 1, 4, [⟨31, 0, .ro, 0, 0, 4294967295⟩]⟩,
    ⟨0x100208, 1, 4, [⟨31, 0, .ro, 0, 0, 4294967295⟩]⟩,
    ⟨0x10020C, 1, 4, [⟨31, 0, .ro, 0, 0, 4294967295⟩]⟩
  ]

/-- The description of the register at a unit-relative or absolute offset, with its instance number. -/
def findReg : List RegDesc → Nat → Option (RegDesc × Nat)
  | [], _ => none
  | d :: ds, o =>
    if d.base ≤ o ∧ (o - d.base) % d.stride = 0 ∧ (o - d.base) / d.stride < d.count then some (d, (o - d.base) / d.stride)
    else findReg ds o

/-- The register at BAR0 offset `o` (R7): blocks outside these ranges hold no described register. -/
def regAt (o : Nat) : Option (RegDesc × Nat) :=
  if 0x800000 ≤ o ∧ o < 0x1000000 then findReg regsStl (o % 0x10000)
  else if 0x1800000 ≤ o ∧ o < 0x1900000 then findReg regsHlk (o % 0x10000)
  else if 0x0 ≤ o ∧ o < 0x100000 then findReg regsGlb o
  else if 0x100000 ≤ o ∧ o < 0x200000 then findReg regsAsy o
  else if 0x200000 ≤ o ∧ o < 0x300000 then findReg (regsPwr ++ regsGrm) o
  else if 0x300000 ≤ o ∧ o < 0x400000 then findReg regsClk o
  else if 0x400000 ≤ o ∧ o < 0x500000 then findReg regsFar o
  else if 0x500000 ≤ o ∧ o < 0x600000 then findReg regsTck o
  else if 0x1900000 ≤ o ∧ o < 0x1980000 then findReg regsHtp o
  else if 0x1980000 ≤ o ∧ o < 0x1A00000 then findReg regsTem o
  else if 0x1A00000 ≤ o ∧ o < 0x1C00000 then findReg regsCou o
  else if 0x1C00000 ≤ o ∧ o < 0x1E00000 then findReg regsLdg o
  else if 0x1E00000 ≤ o ∧ o < 0x2000000 then findReg regsPed o
  else if 0x2000000 ≤ o ∧ o < 0x2200000 then findReg regsRns o
  else if 0x2200000 ≤ o ∧ o < 0x2400000 then findReg regsPkh o
  else if 0x2400000 ≤ o ∧ o < 0x2600000 then findReg regsHst o
  else none

end Sys2Proof.Machine
end

