-- ==== Sys2Proof/Machine/Bits.lean ====
section
/-!
DEFINITION. Machine/Bits.lean: bit fields of natural numbers, little-endian byte strings, wrapping comparison (R11) and
the sorted table used for every sparse collection of the state.
-/
namespace Sys2Proof.Machine

/-- Field `v[hi:lo]`. -/
def bits (v hi lo : Nat) : Nat := v / 2 ^ lo % 2 ^ (hi + 1 - lo)

/-- Bit `i` of `v`. -/
def bit (v i : Nat) : Bool := v / 2 ^ i % 2 == 1

/-- `v` with field `[hi:lo]` set to `x` (truncated to the field's width). -/
def setBits (v hi lo x : Nat) : Nat :=
  v - bits v hi lo * 2 ^ lo + x % 2 ^ (hi + 1 - lo) * 2 ^ lo

/-- 1 for true, 0 for false. -/
def b2n (b : Bool) : Nat := if b then 1 else 0

/-- The natural number a little-endian byte string spells. -/
def leNat : Bytes → Nat
  | [] => 0
  | b :: bs => b.toNat + 256 * leNat bs

/-- The `n` little-endian bytes of `v` modulo `2^(8n)`. -/
def toLE : Nat → Nat → Bytes
  | 0, _ => []
  | n + 1, v => BitVec.ofNat 8 v :: toLE n (v / 256)

/-- Bytes `[off, off+n)` of a descriptor, short strings being extended by zeros. -/
def slice (bs : Bytes) (off n : Nat) : Bytes :=
  let x := (bs.drop off).take n
  x ++ List.replicate (n - x.length) 0

/-- The little-endian number in bytes `[off, off+n)` of a descriptor. -/
def fld (bs : Bytes) (off n : Nat) : Nat := leNat (slice bs off n)

/-- `bs` extended by zeros, or cut, to `n` bytes. -/
def padTo (n : Nat) (bs : Bytes) : Bytes := slice bs 0 n

/-- `bs` with `new` written over it from byte `off`; the string grows when it must. -/
def patch (bs : Bytes) (off : Nat) (new : Bytes) : Bytes :=
  slice bs 0 off ++ new ++ bs.drop (off + new.length)

/-- `n` zero bytes. -/
def zeros (n : Nat) : Bytes := List.replicate n 0

/-- `⌈a ÷ b⌉`. -/
def ceilDiv (a b : Nat) : Nat := (a + b - 1) / b

/-- Order of two wrapping `n`-bit values (R11). -/
inductive Wrap where
  | equal
  | newer
  | older
  deriving DecidableEq, Repr

/-- Compare wrapping values of width `n` by R11: `a` against `b`. -/
def wrapCmp (n a b : Nat) : Wrap :=
  let d := (a % 2 ^ n + 2 ^ n - b % 2 ^ n) % 2 ^ n
  if d = 0 then .equal else if d < 2 ^ (n - 1) then .newer else .older

/-- `a` is newer than `b` in `n` bits (R11). -/
def isNewer (n a b : Nat) : Bool := wrapCmp n a b == .newer

/-- `a` is older than `b` in `n` bits (R11). -/
def isOlder (n a b : Nat) : Bool := wrapCmp n a b == .older

/-- The 64-byte line that holds offset `o`. -/
def lineOf (o : Nat) : Nat := o / 64

/-- Numbers `a, a+1, …, a+n-1`. -/
def rangeFrom (a n : Nat) : List Nat := (List.range n).map (a + ·)

/-- A sparse table: keys strictly rising. -/
abbrev Tab (α : Type) := List (Nat × α)

namespace Tab

/-- The value at key `k`, if the table lists it. -/
def get? {α : Type} : Tab α → Nat → Option α
  | [], _ => none
  | (k', v) :: t, k => if k = k' then some v else get? t k

/-- The value at key `k`, or `d`. -/
def getD {α : Type} (t : Tab α) (k : Nat) (d : α) : α := (get? t k).getD d

/-- The table with key `k` bound to `v`. -/
def put {α : Type} : Tab α → Nat → α → Tab α
  | [], k, v => [(k, v)]
  | (k', v') :: t, k, v =>
    if k < k' then (k, v) :: (k', v') :: t
    else if k = k' then (k, v) :: t
    else (k', v') :: put t k v

/-- The table without key `k`. -/
def del {α : Type} : Tab α → Nat → Tab α
  | [], _ => []
  | (k', v') :: t, k => if k = k' then del t k else (k', v') :: del t k

/-- Whether key `k` is listed. -/
def has {α : Type} (t : Tab α) (k : Nat) : Bool := (get? t k).isSome

/-- Change the value at `k`, taking `d` where none is listed. -/
def upd {α : Type} (t : Tab α) (k : Nat) (d : α) (f : α → α) : Tab α := put t k (f (getD t k d))

/-- Keys strictly rising, all at least `lo`. -/
def risingFrom {α : Type} : Nat → Tab α → Bool
  | _, [] => true
  | lo, (k, _) :: t => decide (lo ≤ k) && risingFrom (k + 1) t

/-- The canonical form: keys strictly rising. -/
def sorted {α : Type} (t : Tab α) : Bool := risingFrom 0 t

end Tab

/-- Free-running 32-bit tally step. -/
def wrap32 (v : Nat) : Nat := v % 2 ^ 32

/-- Drop the first element that satisfies `p`. -/
def eraseFirst {α : Type} (p : α → Bool) : List α → List α
  | [] => []
  | x :: xs => if p x then xs else x :: eraseFirst p xs

/-- Replace each element that satisfies `p`. -/
def replaceIf {α : Type} (p : α → Bool) (f : α → α) (l : List α) : List α :=
  l.map fun x => if p x then f x else x

/-- Repeat a state change over a list, in order. -/
def forEach {α σ : Type} (l : List α) (s : σ) (f : σ → α → σ) : σ := l.foldl f s

end Sys2Proof.Machine
end

