-- ==== Sys2Proof/Machine/Types.lean ====
section
/-!
DEFINITION. Machine/Types.lean: the pieces of state shared by several subsystems (memory lines, event records, transport
packets) and the state of the stall array, the host port, the harness links, the transport, Reins and Farrier.
-/
namespace Sys2Proof.Machine

/-! ### Shared -/

/-- Condition of a 64-byte HBM line that is not clean (R330, R331, R333). `correctable n` holds `n` bytes in error that
the code still corrects; `damaged` is uncorrectable and not yet found; `poison` holds the poison marker. -/
inductive LineMark where
  | correctable (bytes : Nat)
  | damaged
  | poison
  deriving DecidableEq, Repr

/-- HBM contents: byte at each offset, strictly rising, zero bytes unlisted. -/
abbrev Memory := Tab Byte

/-- Event record (Table GLB-4) before it is laid out in 32 bytes. -/
structure Event where
  code : Nat
  tag : Nat
  sev : Nat
  tick : Nat
  subject : Nat
  detail : Bytes
  deriving DecidableEq, Repr

/-- Transport packet (Table HTP-1): header fields, then the payload. The trailer is computed. -/
structure Pkt where
  dst : Nat := 0
  src : Nat := 0
  opcode : Nat := 0
  epoch : Nat := 0
  path : Nat := 0
  team : Nat := 0
  flow : Nat := 0
  length : Nat := 0
  seq : Nat := 0
  offset : Nat := 0
  hops : Nat := 0
  fwd : Bool := false
  /-- reserved bits 8:3 of offset 22 as they came: zero in a packet of this module, ignored by a receiver (R170) -/
  rsv : Nat := 0
  retx : Bool := false
  nocomb : Bool := false
  ordered : Bool := false
  key : Nat := 0
  tse : Nat := 0
  payload : Bytes := []
  deriving DecidableEq, Repr

/-- What the controller drives to the outside: the observable output of a step. -/
inductive Out where
  /-- a packet leaves harness port `port`, trailer correct -/
  | packet (port : Nat) (p : Pkt)
  /-- a packet is finished on port `port` with its trailer inverted (R155) -/
  | stomped (port : Nat) (p : Pkt)
  /-- a control slot leaves harness port `port` (Table HLK-3) -/
  | ctrlSlot (port : Nat) (slot : Bytes)
  /-- ALIGN blocks leave harness port `port`, one on each lane of its set, ascending (R153) -/
  | align (port : Nat) (set : Nat) (blocks : List (List Pam))
  /-- a training frame on a lane: control word, status word, and where its PRBS13 goes on in the period (R159) -/
  | trainFrame (port lane control status prbs : Nat)
  /-- a write to host memory through the host port -/
  | hostWrite (addr : Nat) (data : Bytes)
  /-- an MSI-X message: vector, address, data (R276) -/
  | msix (vector addr data : Nat)
  /-- the completion of a BAR2 or BAR0 read: tag, PCIe status (0 success, 1 unsupported request, 4 completer abort), data -/
  | readCompletion (tag status : Nat) (data : Bytes)
  /-- an NVMe command to the vault: queue, opcode, identifier, dwords 11 and 10, dword 12, data -/
  | vaultCmd (queue opcode cid lba blocks : Nat) (data : Bytes)
  /-- a write of an NVMe controller register of the vault -/
  | vaultReg (offset value : Nat)
  /-- an SMBus/MCTP reply of the groom -/
  | smbus (msg : Bytes)
  /-- a module pin is driven -/
  | pin (name : String) (high : Bool)
  deriving DecidableEq, Repr

/-! ### Stall array (chapter The stall array) -/

/-- Stall service states (Table STL-6). -/
inductive Service where
  | inService
  | draining
  | outOfService
  | failed
  deriving DecidableEq, Repr

/-- Ingest and decode duty (R41). -/
inductive Duty where
  | decode
  | ingest
  deriving DecidableEq, Repr

/-- A 64-byte line write waiting in a home controller's store queue (R28, R29). -/
structure HomeWrite where
  line : Nat
  data : Bytes
  deriving DecidableEq, Repr

/-- A near-memory descriptor whose work has finished and whose completion is due (R37). -/
structure NmuDone where
  desc : Bytes
  status : Nat
  result : Nat
  doneBytes : Nat
  /-- it took one of the four running places; false for a descriptor refused at its GO -/
  ran : Bool
  deriving DecidableEq, Repr

/-- State of one stall outside its number formats, attention and page-table units. -/
structure Stall where
  service : Service := .outOfService
  duty : Duty := .decode
  /-- a duty change that waits, and the arrival numbers of the items that ran when it was set (R41) -/
  dutyNext : Option Duty := none
  dutyWait : List Nat := []
  /-- pages freed since CHIP release, top of the free-page stack first (page numbers within the stall) -/
  freed : List Nat := []
  /-- pages never yet handed out, as ranges `[lo, hi)`, rising -/
  virgin : List (Nat × Nat) := [(18, 147456)]
  storeQ : List HomeWrite := []
  /-- lines whose hot-line episode is open (R29) -/
  hot : List Nat := []
  nmuQ : List Bytes := []
  nmuRun : List NmuDone := []
  nmuSlot : Nat := 0
  nmuPhase : Bool := true
  deriving DecidableEq, Repr

/-! ### Host port -/

/-- A STORE under merge from BAR2 write TLPs (R270). -/
structure Merge where
  entry : Nat
  /-- BAR2 address of the first byte -/
  addr : Nat
  data : Bytes
  opened : Nat
  /-- the aperture entry as it stood when the merge opened -/
  ap : Bytes
  deriving DecidableEq, Repr

/-- One LOAD of a BAR2 read (R271). -/
structure ReadPart where
  seqId : Nat
  offset : Nat
  data : Option Bytes
  deriving DecidableEq, Repr

/-- A BAR2 read in flight: PCIe tag, BAR2 address, length, entry, its LOADs. -/
structure Bar2Read where
  tag : Nat
  addr : Nat
  len : Nat
  entry : Nat
  base : Nat
  parts : List ReadPart
  failed : Bool
  hostLive : Bool
  deriving DecidableEq, Repr

/-- A write of BAR4 or BAR0 that waits for its turn (Table HST-4, R208, R256, R272); the post of a receive ring carries what a read of
its entries in host memory will return. -/
inductive Bell where
  | ldgSq (queue value : Nat)
  | ldgCq (queue value : Nat)
  | couSq (conn value : Nat)
  | couRq (conn value : Nat) (read : HostRead)
  | couCq (cq value : Nat)
  | pkh (ring value : Nat)
  | reg (off data : Nat)
  deriving DecidableEq, Repr

/-- The endpoint's configuration space as Table HST-1 gives it, and its AER log: BAR and offset of each poisoned write (R266, R267). -/
structure PcieConfig where
  vendor : Nat := 0x1FA7
  device : Nat := 0x0480
  classCode : Nat := 0x120000
  /-- fastest rate (SPEED's code) and widest link -/
  maxSpeed : Nat := 6
  maxWidth : Nat := 8
  functions : Nat := 1
  tags : Nat := 512
  payloadSizes : List Nat := [128, 256, 512]
  maxRead : Nat := 4096
  vectors : Nat := 2048
  aer : List (Nat × Nat) := []
  deriving DecidableEq, Repr

/-- Host port state beyond its registers (R266–R277). -/
structure HostPort where
  linkUp : Bool := false
  bme : Bool := false
  speed : Nat := 0
  width : Nat := 0
  apertures : Tab Bytes := []
  merge : Option Merge := none
  reads : List Bar2Read := []
  readId : Nat := 0
  /-- MSI-X table entries changed from reset: address, data, masked -/
  msix : Tab (Nat × Nat × Bool) := []
  funcMask : Bool := false
  pba : List Nat := []
  /-- tick of the last message of each vector, for coalescing (R276) -/
  lastMsg : Tab Nat := []
  /-- vectors with a gathered message waiting -/
  gathered : List Nat := []
  evqIdx : Tab Nat := []
  /-- BAR4 doorbells that wait for BAR2 writes to this module, and BAR0 writes behind them (R272) -/
  doorbells : List Bell := []
  pcie : PcieConfig := {}
  deriving DecidableEq, Repr

/-! ### Harness links -/

/-- Port states (Table HLK-4). -/
inductive PortState where
  | disabled
  | detect
  | equalise
  | lock
  | hello
  | up
  | retrain
  deriving DecidableEq, Repr

/-- One lane of a port: transmitter taps, receiver readiness, peer readiness, frame count, recalibration pass. -/
structure Lane where
  pre : Int := -4
  post : Int := -8
  /-- requests this end's receiver makes of the peer's taps: 0 hold, 1 increment, 2 decrement, 3 preset (R159) -/
  reqPre : Nat := 0
  reqPost : Nat := 0
  /-- where the PRBS13 of the next frame goes on in its period of 8,191 bits -/
  prbs : Nat := 0
  rxReady : Bool := false
  peerReady : Bool := false
  /-- consecutive frames with RX_READY sent by both ends (R160) -/
  bothFrames : Nat := 0
  /-- the lane counts as good -/
  good : Bool := false
  powered : Bool := true
  /-- IDLE slots still wanted by the adaptation pass in progress, and the tick it began (R163) -/
  pass : Option (Nat × Nat) := none
  /-- RECAL_REQ sent for the pass -/
  requested : Bool := false
  /-- the lane trains alone, outside the active set (R162, R165) -/
  alone : Bool := false
  /-- a lane alone sends FAST frames (R165) -/
  fast : Bool := false
  deriving DecidableEq, Repr

/-- A packet waiting for credits at a port output (R156, R234). -/
structure PortItem where
  cls : Nat
  key : Nat
  yellow : Bool
  pkt : Pkt
  stamp : Nat
  deriving DecidableEq, Repr

/-- State of one harness port beyond its registers. -/
structure Port where
  state : PortState := .disabled
  lanes : List Lane := List.replicate 4 {}
  txSet : Nat := 0
  rxSet : Nat := 0
  /-- GOOD mask last sent in a WIDTH slot -/
  goodSent : Nat := 0
  peerGood : Nat := 0
  trainStart : Nat := 0
  retrainStart : Nat := 0
  /-- set in use when RETRAIN was entered -/
  lastSet : Nat := 0
  /-- LANE_EN as the last DETECT took it -/
  laneEn : Nat := 0xF
  /-- tick of the last HELLO sent -/
  helloLast : Nat := 0
  helloRx : Nat := 0
  helloTx : Nat := 0
  helloHeld : Bool := false
  /-- the HELLO being counted: node, port, role, shares -/
  helloSeen : Option Bytes := none
  /-- why the last training began, Table HLK-5 cause codes -/
  cause : Nat := 0
  /-- slots sent per class (S_c), peer's last reported freed count, peer's share -/
  sent : List Nat := [0, 0, 0, 0]
  peerFreed : List Nat := [0, 0, 0, 0]
  peerShare : List Nat := [0, 0, 0, 0]
  /-- slots received and freed per class (R_c, F_c) -/
  recv : List Nat := [0, 0, 0, 0]
  freed : List Nat := [0, 0, 0, 0]
  lastCredit : Nat := 0
  creditDirty : Bool := false
  uncorrRun : Nat := 0
  /-- packet under assembly, with `bad` once a codeword of it was lost -/
  rxPart : Option Bytes := none
  rxBad : Bool := false
  /-- tick at which the packet under assembly started -/
  rxStart : Nat := 0
  /-- packets whole and not yet taken by the crossbar -/
  rxq : List Bytes := []
  txq : List PortItem := []
  /-- deficit round-robin over the 64 destination queues: queue in turn, deficits (R234) -/
  drrPos : Nat := 0
  drrDef : Tab Nat := []
  hoofSeq : Nat := 0
  hoofLast : Nat := 0
  sentStart : Bool := false
  lifeTick : Nat := 0
  armed : Bool := false
  /-- the peer asked for one IDLE slot in 16 (R163) -/
  idleReq : Bool := false
  recalLast : Nat := 0
  /-- receive scrambler state, 31 bits (R151) -/
  scram : Nat := 0x7FFFFFFF
  /-- HARNESS time at which the next ALIGN block is due (R153) -/
  alignAt : Nat := 0
  eyeBusy : Bool := false
  deriving DecidableEq, Repr

/-! ### Transport -/

/-- What an outstanding request was issued for: who is told of its answer. -/
inductive Origin where
  /-- nobody waits for the answer -/
  | silent
  /-- a BAR2 STORE: aperture entry, BAR2 address (R270) -/
  | bar2Store (entry addr : Nat)
  /-- part `part` of BAR2 read `id` (R271) -/
  | bar2Load (id part : Nat)
  /-- the PUT of an RREAD, by region-read number (R229) -/
  | rread (id : Nat)
  /-- a remote tier access of Packhorse, by move number -/
  | tier (id : Nat)
  /-- a pace LOAD of the team in slot `slot` (R242) -/
  | pace (slot : Nat)
  /-- a message or write of the ledger, Pedigree, a merge context or the team messages, for whose answer nobody waits -/
  | control
  /-- a packet of region command `id` (R230) -/
  | rcmd (id : Nat)
  /-- a unicast STORE that stands in for MSTORE `gseq` at a member (R188) -/
  | member (gseq : Nat)
  /-- a memory request forwarded for another node: the original request (R220) -/
  | forward (orig : Pkt)
  /-- a packet of a message forwarded for another node (R220) -/
  | forwardMsg
  deriving DecidableEq, Repr

/-- A request of this module, waiting or outstanding (R177). -/
structure Req where
  pkt : Pkt
  origin : Origin
  /-- sends so far -/
  sends : Nat := 0
  lastSend : Nat := 0
  /-- path epoch of the latest send -/
  pathEpoch : Nat := 0
  phase : Bool := false
  /-- refused EPOCH_STALE once and sent once more (R222) -/
  resent : Bool := false
  /-- ordinal of an atomic among those sent to the destination (R178) -/
  atom : Nat := 0
  deriving DecidableEq, Repr

/-- A BAR2 request waiting in the host shaper (R235). -/
structure ShaperItem where
  pkt : Pkt
  origin : Origin
  stamp : Nat
  deriving DecidableEq, Repr

/-- SYNC state of a destination (R174). -/
inductive SyncState where
  | none
  | sent (p : Pkt) (sends tick : Nat)
  | done
  deriving DecidableEq, Repr

/-- Send state of one destination (R177, R183, R185, R190). -/
structure Dest where
  sync : SyncState := .none
  nextSeq : Nat := 1
  out : List Req := []
  waiting : List Req := []
  /-- Courier packets outstanding to the destination (R203) -/
  courier : Nat := 0
  /-- window in 1/256 packet -/
  cwnd : Nat := 8192
  pathEpoch : Nat := 0
  lastPath : Nat := 15
  t0 : Nat := 0
  t1 : Nat := 0
  rtt : Nat := 0
  lastDecrease : Option Nat := none
  /-- a request of phase 0 / phase 1 was given up since its fence began -/
  lost0 : Bool := false
  lost1 : Bool := false
  nextFlow : Nat := 0
  /-- atomics sent to the destination (R178) -/
  atomics : Nat := 0
  deriving DecidableEq, Repr

/-- Receive record of one source (R174). -/
structure RxPair where
  incarn : Nat
  csn : Nat
  /-- completed sequences above CSN -/
  window : List Nat := []
  /-- the answers of the last atomics: sequence, status, old value; newest first, at most 16 (R178) -/
  cache : List (Nat × Nat × Nat) := []
  deriving DecidableEq, Repr

/-- A reassembly context (R180). -/
structure MsgCtx where
  src : Nat
  flow : Nat
  unit : Nat
  op : Nat
  mlen : Nat
  tally : Nat
  data : Bytes
  opened : Nat
  team : Nat
  epoch : Nat
  /-- which of the message's first two 64-byte units have come: both hold the header of a RECORD (R180 point 5) -/
  heads : Nat := 0
  /-- complete, held while the wheel is full (R239) -/
  whole : Bool := false
  /-- a UNIT stub covers it: new node and unit (R220) -/
  fwd : Option (Nat × Nat) := none
  deriving DecidableEq, Repr

/-- A combining group (R186): `size` 0 for LOADs. -/
structure Comb where
  addr : Nat
  size : Nat
  length : Nat
  team : Nat
  members : List Pkt
  opened : Nat
  deriving DecidableEq, Repr

/-- An MSTORE of this module, outstanding at some members (R188). -/
structure Mstore where
  gseq : Nat
  group : Nat
  pkt : Pkt
  members : List Nat
  /-- members already sent a unicast STORE -/
  uni : List Nat := []
  sentAt : Nat
  phase : Bool
  deriving DecidableEq, Repr

/-- A message forwarded to another node: its FLOW there, its team here, the packets unanswered, one of them given up (R220, R221). -/
structure MsgForward where
  node : Nat
  flow : Nat
  team : Nat
  left : Nat
  lost : Bool
  deriving DecidableEq, Repr

/-- Transport state beyond its registers. -/
structure Transport where
  quietDone : Bool := false
  dests : Tab Dest := []
  rx : Tab RxPair := []
  /-- ORDERED packets held (R179), and memory requests and messages whose forward is unanswered (R220) -/
  held : List Pkt := []
  forwards : List Pkt := []
  msgForwards : List MsgForward := []
  msgs : List MsgCtx := []
  combs : List Comb := []
  routes : Tab Nat := []
  groups : Tab Nat := []
  mstores : List Mstore := []
  nextGseq : Nat := 0
  /-- fence phase bit, and the fence in progress: scope (none: all) (R185) -/
  phase : Bool := false
  fence : Option (Option Nat) := none
  /-- finished requests whose issuer has not yet taken the answer: origin, status, data -/
  answered : List (Origin × Nat × Bytes) := []
  /-- packets that wait in the destination queues of the local path, because memory and the stalls are parked: arrival port and
  queue item; and that path's deficit round-robin (R234, R316) -/
  parked : List (Nat × PortItem) := []
  localPos : Nat := 0
  localDef : Tab Nat := []
  /-- MSTOREs of this module that wait for the quiet time to end (R174, R188) -/
  mstoreWait : List Pkt := []
  noRouteAt : Tab Nat := []
  staleAt : Tab Nat := []
  deriving DecidableEq, Repr

/-- A whole message delivered to a subsystem of this module and not yet taken up: opcode, sender, team and epoch carried,
stall or 0xFF, bytes (R180, R192). -/
structure Msg where
  op : Nat
  src : Nat
  team : Nat
  epoch : Nat
  unit : Nat
  data : Bytes
  deriving DecidableEq, Repr

/-! ### Reins -/

/-- An attention message in the timing wheel (R239). -/
structure WheelItem where
  due : Nat
  /-- the wheel's slot for the due tick (R239 point 2) -/
  slot : Nat := 0
  stall : Nat
  msg : Bytes
  src : Nat
  team : Nat
  stamp : Nat
  order : Nat
  deriving DecidableEq, Repr

/-- Pace accumulation of one team slot (R241–R243). -/
structure PaceAcc where
  /-- per stall: service ticks, position-heads -/
  stalls : Tab (Nat × Nat) := []
  windowStart : Nat := 0
  /-- member lines written since COORD last read them (index in member list) -/
  written : List Nat := []
  pace : Nat := 0
  runs : Nat := 0
  deriving DecidableEq, Repr

/-- Reins state beyond its registers. -/
structure Reins where
  /-- host shaper fill in bytes, the thousandths of a byte beyond it, and its tick -/
  fill : Int := 65536
  fillRem : Nat := 0
  fillTick : Nat := 0
  waiting : List ShaperItem := []
  /-- meter buckets: Tc, Tp in millibytes, last tick -/
  meters : Tab (Nat × Nat × Nat) := []
  wheel : List WheelItem := []
  wheelOrder : Nat := 0
  pace : Tab PaceAcc := []
  redAt : Tab Nat := []
  refusedAt : Tab Nat := []
  deriving DecidableEq, Repr

/-! ### Farrier -/

/-- Farrier state beyond its registers. -/
structure Farrier where
  events : List Event := []
  /-- FAILED stalls whose queued work has not yet been answered (R341) -/
  failDue : List Nat := []
  /-- pages with a bad line, not yet resolved -/
  toResolve : List Nat := []
  /-- last 64 pages resolved, newest first -/
  resolved : List Nat := []
  /-- pages handed to R337, not yet reclaimed -/
  toReclaim : List Nat := []
  retired : List Nat := []
  /-- next scrub offset within each stall, and stalls that finished the present pass -/
  scrubAt : Tab Nat := []
  scrubDone : List Nat := []
  /-- ticks of uncorrectable lines and buffer words per stall, for R341 -/
  chUe : Tab (List Nat) := []
  bufUe : Tab (List Nat) := []
  /-- corrected lines per pseudo-channel -/
  ce : Tab Nat := []
  /-- last FAR 0x0001 tick per stack (R344) -/
  ceEventAt : Tab Nat := []
  deriving DecidableEq, Repr

/-! ### Number formats -/

/-- A code-table slot (R58): lengths of the 256 symbols. -/
structure Slot where
  valid : Bool := false
  format : Nat := 0
  gen : Nat := 0
  lens : Bytes := []
  deriving DecidableEq, Repr

/-- Number-format state of one stall: slots A and B, the staged load and its check result (R60). -/
structure FmtUnit where
  a : Slot := {}
  b : Slot := {}
  /-- staged load: slot, format, lengths, error so far -/
  load : Option (Bool × Nat × Bytes × Nat) := none
  rope : Tab Nat := []
  deriving DecidableEq, Repr

/-! ### KV pages and page tables -/

/-- Who submitted an edit (R100); internal submitters carry their own number. -/
inductive EditBy where
  | software
  | ledger (id : Nat)
  | pedigree (id : Nat)
  | packhorse (id : Nat)
  deriving DecidableEq, Repr

/-- One pair of a structural edit under construction: the new list entries it puts in place, or, for COMPACT, the repacked
entries and the list index from which present entries are carried over (R101, R103). -/
inductive PairBuild where
  /-- pair, its new header, list entries written in place -/
  | inPlace (pair : Nat) (header : Bytes) (writes : List (Nat × Nat × Nat))
  /-- pair, repacked entries (PTE, FIRST), index from which entries are carried over, pages before -/
  | repack (pair : Nat) (entries : List (Nat × Nat)) (carry : Nat)
  deriving DecidableEq, Repr

/-- A structural edit built and waiting to commit (R99). -/
structure Build where
  pairs : List PairBuild
  /-- grace entries (Table KVP-11) -/
  grace : List Nat
  lowered : Bool
  /-- pages allocated for the new version -/
  fresh : List Nat
  /-- COMPACT: pages before and after -/
  before : Nat := 0
  after : Nat := 0
  deriving DecidableEq, Repr

/-- An edit in a stall's edit queue (R95, R100). -/
structure EditItem where
  sub : Nat
  desc : Bytes
  ord : Nat
  origin : EditBy
  build : Option Build := none
  /-- a RELEASE that has set STATE to RELEASING: the epoch it found -/
  releasing : Option Nat := none
  /-- waiting for Packhorse to promote a tier page (R250) -/
  promoting : Option Nat := none
  /-- counted in KVP_EDIT_WAITS (R99) -/
  waited : Bool := false
  /-- its EXPECT has been compared with EPOCH (R100) -/
  passed : Bool := false
  /-- list entries of an ATTACH that Pedigree submits (R112): PTE, FIRST -/
  given : List (Nat × Nat) := []
  deriving DecidableEq, Repr

/-- Completion of an edit an internal unit submitted. -/
structure EditDone where
  origin : EditBy
  status : Nat
  result : Nat
  count : Nat
  deriving DecidableEq, Repr

/-- One pair of an append whose data has been written (R94). -/
structure AppendPair where
  pair : Nat
  /-- new FILL of the continued last entry -/
  contFill : Option Nat
  /-- new entries: PTE, FIRST -/
  entries : List (Nat × Nat)
  len : Nat
  /-- list page reserved -/
  listPage : Option Nat
  deriving DecidableEq, Repr

/-- An append that has passed its checks and whose data writes are done (R94). -/
structure AppendRun where
  pairs : List AppendPair
  unused : List Nat
  deriving DecidableEq, Repr

/-- An append in a stall's queue: arrival order, message, whether the stall was IN_SERVICE when it arrived. -/
structure AppendItem where
  ord : Nat
  msg : Bytes
  inSvc : Bool
  stamp : Nat
  run : Option AppendRun := none
  deriving DecidableEq, Repr

/-- A promotion request to Packhorse (R250): tier page, table root, pair, FIRST. -/
structure PromReq where
  page : Nat
  root : Nat
  pair : Nat
  first : Nat
  deriving DecidableEq, Repr

/-- Page-table state: arrival counter, edits in arrival order, internal completions, promotion requests. -/
structure Kvp where
  ord : Nat := 0
  edits : List EditItem := []
  done : List EditDone := []
  promote : List PromReq := []
  deriving DecidableEq, Repr

/-! ### Attention -/

/-- An attention descriptor in a stall's queue, with what its message carries after it. -/
structure AttItem where
  ord : Nat
  msg : Bytes
  inSvc : Bool
  stamp : Nat
  deriving DecidableEq, Repr

/-- A descriptor that has run its scan and awaits its end (R71): root and epoch of its snapshot, status, leaf record (none
when it produces none), first NaN entry. -/
structure AttRun where
  item : AttItem
  snap : Option (Nat × Nat)
  status : Nat
  record : Option Bytes
  nonfin : Option Nat
  /-- tick it started -/
  start : Nat
  deriving DecidableEq, Repr

/-- A record waiting in the MRG class for a merge stall: its merge line when it came in a RECORD message (R373), or the
descriptor when it is the stall's own leaf. -/
structure MrgItem where
  line : Option Bytes
  own : Option Bytes := none
  record : Bytes
  /-- only the first packets of its RECORD have come: the header alone is here (R180 point 5) -/
  part : Bool := false
  deriving DecidableEq, Repr

/-- A merge context (R79): its key, the first record's header, the stall's own leaf (descriptor and record), the child
records by level, the cross-module roots by module, the merge line, the tick it opened, and the tick it became a
tombstone. -/
structure MergeCtx where
  key : List Nat
  head : Bytes
  own : Option (Bytes × Bytes) := none
  ownDone : Bool := false
  left : Option Nat := none
  kids : Tab Bytes := []
  line : Option Bytes := none
  roots : Tab Bytes := []
  opened : Nat
  tomb : Option Nat := none
  deriving DecidableEq, Repr

/-- A complete APPEND or ATTN message that has arrived at a stall whose queue is full. -/
structure LateMsg where
  /-- arrival number, and whether the stall was IN_SERVICE then -/
  ord : Nat
  inSvc : Bool
  msg : Msg
  deriving DecidableEq, Repr

/-- The work of one stall: its append and attention queues and its merges. -/
structure Work where
  appends : List AppendItem := []
  att : List AttItem := []
  run : List AttRun := []
  mrg : List MrgItem := []
  mrgWait : List MrgItem := []
  ctxs : List MergeCtx := []
  /-- complete APPEND and ATTN messages that wait for queue room in their context or the wheel -/
  late : List LateMsg := []
  deriving DecidableEq, Repr

/-! ### Packhorse (chapter Memory tiers and the vault): what grace lists hand to it -/

/-- A vault page freed and not yet deallocated joins `dealloc` (R263). -/
structure Dealloc where
  pages : List Nat := []
  since : Option Nat := none
  deriving DecidableEq, Repr

/-! ### Teams (chapter Spans, teams and shared regions) -/

/-- A team map (Tables TEM-1, TEM-2); stubs keep their bytes. -/
structure TeamMap where
  team : Nat
  epoch : Nat
  train : Bool
  leave : Bool
  coord : Nat
  members : List Nat
  groups : Nat
  retire : Nat
  ports : Nat
  gcount : Nat
  stubs : List Bytes
  deriving DecidableEq, Repr

/-- What a member holds for a team beside its TEM_TEAM entry. -/
structure TeamAux where
  cur : Option TeamMap := none
  old : Option TeamMap := none
  /-- the prepared map, and the tick it was prepared -/
  prepared : Option (TeamMap × Nat) := none
  /-- a checked map that waits for the old map to be freed, and the COORD to answer -/
  waiting : Option (TeamMap × Nat) := none
  /-- outcome of the last PREPARE: epoch, status -/
  outcome : Option (Nat × Nat) := none
  /-- RETIRE of the last commit -/
  mask : Nat := 0
  commitAt : Nat := 0
  graceOver : Bool := true
  oldTally : Nat := 0
  /-- epochs for which END was sent -/
  endSent : List Nat := []
  /-- tick at which the team ended here -/
  endAt : Option Nat := none
  deriving DecidableEq, Repr

/-- One member of a change at COORD: READY and DONE statuses, and the tick of the last PREPARE or COMMIT sent. -/
structure ChangeMember where
  node : Nat
  ready : Option Nat := none
  done : Option Nat := none
  sentAt : Nat
  deriving DecidableEq, Repr

/-- A change in progress at COORD (R216). -/
structure Change where
  slot : Nat
  map : TeamMap
  members : List ChangeMember
  committing : Bool
  start : Nat
  /-- status of the first DONE that was not OK -/
  bad : Option Nat := none
  deriving DecidableEq, Repr

/-- A publish waiting at a region's home: its message, and whether it has won its comparison and waits for the half. -/
structure Publish where
  src : Nat
  msg : Bytes
  accepted : Bool := false
  deriving DecidableEq, Repr

/-- A region read under way: identity, half, header, status so far, PUT packets still to be answered. -/
structure RegionRead where
  id : Nat
  half : Nat
  msg : Bytes
  version : Nat
  pubnode : Nat
  status : Nat
  left : Nat
  deriving DecidableEq, Repr

/-- A shared region (R227). -/
structure Region where
  valid : Bool := false
  err : Bool := false
  team : Nat := 0
  size : Nat := 1
  base : Nat := 0
  active : Nat := 0
  version : Nat := 0
  pubnode : Nat := 0
  tally0 : Nat := 0
  tally1 : Nat := 0
  queue : List Publish := []
  reads : List RegionRead := []
  deriving DecidableEq, Repr

/-- Team state of the module beside the TEM registers. -/
structure Teams where
  aux : Tab TeamAux := []
  change : Option Change := none
  /-- probes out: node, tick -/
  probes : List (Nat × Nat) := []
  regions : Tab Region := []
  readId : Nat := 0
  /-- region commands queued (R230): number, packets still to be answered -/
  rcmds : List (Nat × Nat) := []
  rcmdId : Nat := 0
  deriving DecidableEq, Repr

end Sys2Proof.Machine
end

