-- ==== Sys2Proof/Machine/Types2.lean ====
section
/-!
DEFINITION. Machine/Types2.lean: the state of Pedigree (chapter Pedigree: the prefix index) and of the ledger (chapter
Requests, escrow and the finisher).
-/
namespace Sys2Proof.Machine

/-! ### Pedigree -/

/-- A valid bucket entry (Table PED-1). -/
structure PedEntry where
  key : Nat
  check : Nat
  node : Nat
  deriving DecidableEq, Repr

/-- A holder record (R109): request handle, nodes that name it, depths of its shallowest and deepest LIVE nodes, modules. -/
structure Holder where
  handle : Nat
  nodes : Nat
  lo : Nat
  hi : Nat
  mods : List Nat
  deriving DecidableEq, Repr

/-- A lookup submitted by the ledger (R111): request, prompt, and the root lists read at its start. -/
structure Lookup where
  handle : Nat
  len : Nat
  tokens : Nat
  roots : Nat
  deriving DecidableEq, Repr

/-- A lookup that has sent its attach requests: result so far, pinned node, modules still to answer (R111). -/
structure Attaching where
  handle : Nat
  blk : Nat
  j : Nat
  jall : Nat
  node : Nat
  holder : Nat
  status : Nat
  waiting : List Nat
  deriving DecidableEq, Repr

/-- An attach request being served (R112): asking node, request, edits still running with the pages each counted. -/
structure AttachJob where
  src : Nat
  handle : Nat
  status : Nat
  edits : List (Nat × List (Nat × Bool))
  deriving DecidableEq, Repr

/-- An insert (R113). `step` is none before it starts, then the holder record and the modules still to answer. -/
structure Insert where
  handle : Nat
  len : Nat
  prompt : Nat
  tokens : Nat
  roots : Nat
  holder : Option Nat := none
  waiting : List Nat := []
  deriving DecidableEq, Repr

/-- A lookup result (Table PED-3). -/
structure LookupResult where
  handle : Nat
  matched : Nat
  spill : Nat
  node : Nat
  status : Nat
  blk : Nat
  holder : Nat
  deriving DecidableEq, Repr

/-- Pedigree beside its registers and its node records in HBM. -/
structure Pedigree where
  /-- bucket table; the old one while a rehash runs -/
  table : Tab (List PedEntry) := []
  /-- the new table of a rehash: its LOG2, buckets, entries dropped -/
  rehash : Option (Nat × Tab (List PedEntry) × Nat) := none
  hand : Nat := 0
  holders : Tab Holder := []
  /-- root lists this module keeps for holders: handle, (stall, PT_ROOT) pairs -/
  roots : List (Nat × List (Nat × Nat)) := []
  lookups : List Lookup := []
  attaching : List Attaching := []
  jobs : List AttachJob := []
  inserts : List Insert := []
  editId : Nat := 0
  /-- HBM pages of a spilled holder that Packhorse is asked to demote: root, pair, FIRST -/
  spills : List (Nat × Nat × Nat) := []
  deriving DecidableEq, Repr

/-! ### Ledger -/

/-- A cancel command that has not completed: admission queue, TAG, HANDLE; `sent` when the CANCEL last left. -/
structure CancelCmd where
  aq : Nat
  tag : Nat
  handle : Nat
  sent : Option Nat
  deriving DecidableEq, Repr

/-- How far the close of a record has come (R143): insert running, edits running, modules still to answer RELEASED. -/
structure Closing where
  insert : Bool := false
  edits : Nat := 0
  waiting : List Nat := []
  deriving DecidableEq, Repr

/-- What the home keeps for a slot in use beside its record: last send of the GRANT, prior owner, cancel command, close,
and the tick of END for a record that waits for its owner's OFFER (R225). -/
structure HomeAux where
  grantSent : Nat := 0
  prior : Option Nat := none
  cancel : Option CancelCmd := none
  close : Option Closing := none
  lostAt : Option Nat := none
  deriving DecidableEq, Repr

/-- An owner context (R131): place in the context table, request record, stop block, match states, step, ownership sequence;
whether COMMIT has been received, the OFFER sent and its tick, deadline on this clock, pending cancel, tokens of the
unfinished line, and the tick something was last heard. -/
structure OwnerCtx where
  handle : Nat
  place : Nat
  record : Bytes
  stop : Bytes
  d : List Nat
  step : Nat
  seq : Nat
  acting : Bool := false
  offer : Option (Nat × Bytes) := none
  offerAt : Nat := 0
  /-- an OWNER_IS has ended the retries of the OFFER (R128) -/
  offerOver : Bool := false
  deadline : Option Nat := none
  cancel : Bool := false
  line : List Nat := []
  heard : Nat := 0
  deriving DecidableEq, Repr

/-- An admission queue: doorbells, ring positions, ADMITs passed over at WALK, entries waiting for completion-ring room. -/
structure AdmitQueue where
  tail : Nat := 0
  head : Nat := 0
  cqHead : Nat := 0
  cqSlot : Nat := 0
  phase : Bool := true
  /-- ring slots of ADMITs passed over at WALK, in order -/
  passed : List Nat := []
  held : List Bytes := []
  notices : List Bytes := []
  deriving DecidableEq, Repr

/-- A RELEASE message being served: sender, handle, edits running, roots released, status. -/
structure ReleaseJob where
  id : Nat
  src : Nat
  handle : Nat
  left : Nat
  released : Nat
  status : Nat
  deriving DecidableEq, Repr

/-- Duty split of a team entry (R146): ingest count, sums of appends and descriptors, samples, start of the period. -/
structure Split where
  i : Nat := 0
  a : Nat := 0
  q : Nat := 0
  n : Nat := 0
  start : Nat := 0
  /-- tick of the last sample -/
  sampled : Nat := 0
  deriving DecidableEq, Repr

/-- The ledger beside its registers and its records in HBM. -/
structure Ledger where
  /-- slots never used, as ranges, and slots freed, first freed first (R120) -/
  virgin : List (Nat × Nat) := [(0, 262144)]
  freed : List Nat := []
  /-- generation of a slot that is not at 0 -/
  gens : Tab Nat := []
  /-- slots in use -/
  homes : Tab HomeAux := []
  retired : List Nat := []
  ctxs : List OwnerCtx := []
  queues : Tab AdmitQueue := []
  results : List LookupResult := []
  inserted : List (Nat × Nat) := []
  releases : List ReleaseJob := []
  releaseId : Nat := 0
  splits : Tab Split := []
  /-- batches sent to each front-end entry -/
  batches : Tab Nat := []
  deriving DecidableEq, Repr

end Sys2Proof.Machine
end

