-- ==== Sys2Proof/Machine/Types3.lean ====
section
/-!
DEFINITION. Machine/Types3.lean: the state of Packhorse (chapter Memory tiers and the vault) and of Courier (chapter Courier:
keyed remote access).
-/
namespace Sys2Proof.Machine

/-! ### Packhorse -/

/-- Where a page lies: local HBM, another node's HBM, host memory, the vault, or nowhere. -/
inductive Loc where
  | hbm (off : Nat)
  | remote (node team off : Nat)
  | host (addr : Nat)
  | vault (page : Nat)
  | nowhere
  deriving DecidableEq, Repr

/-- A page access in flight: remote accesses by their numbers and answers, a vault command, a host access, or its outcome. -/
inductive Io where
  | remote (parts : List (Nat × Option (Nat × Bytes)))
  | vault (cid : Nat)
  | host
  | got (status : Nat) (data : Bytes)
  deriving DecidableEq, Repr

/-- How far a move has come. -/
inductive Stage where
  | reading
  | writing
  | editing
  deriving DecidableEq, Repr

/-- A KV page being moved (R248, R249): table place, page it leaves, page it goes to, access in flight, REPLACE submissions,
commands that wait for it (command, entry), start, and whether a failed vault write has been retried. -/
structure Move where
  id : Nat
  root : Nat
  pair : Nat
  first : Nat
  src : Nat
  dst : Nat
  stage : Stage
  io : Io
  data : Bytes := []
  tries : Nat := 0
  cmds : List (Nat × Nat) := []
  start : Nat
  again : Bool := false
  /-- a page Pedigree spills (R114) -/
  spill : Bool := false
  deriving DecidableEq, Repr

/-- A Packhorse command (Table PKH-4): moves still to end, statuses by entry, pages and bytes done; a COPY's page and access. -/
structure PkhCmd where
  id : Nat
  desc : Bytes
  running : Bool := false
  left : Nat := 0
  results : Tab Nat := []
  pages : Nat := 0
  io : Option (Stage × Io) := none
  data : Bytes := []
  deriving DecidableEq, Repr

/-- A weight buffer: pins, last-use tick, layer held, whether it is being filled. -/
structure WBuf where
  pin : Nat := 0
  last : Nat := 0
  layer : Option (Nat × Nat) := none
  filling : Bool := false
  deriving DecidableEq, Repr

/-- A fill (R258): model and layer, source, pages, buffer once started, next page to read, pages done, accesses in flight, and
the tickets that wait for it with the ticks they were taken. -/
structure Fill where
  id : Nat
  model : Nat
  layer : Nat
  src : Nat
  pages : Nat
  buf : Option Nat := none
  next : Nat := 0
  done : Nat := 0
  ios : List (Nat × Io) := []
  waiting : List (Bytes × Nat) := []
  deriving DecidableEq, Repr

/-- What a vault command was issued for. -/
inductive VaultUse where
  | page
  | dealloc
  | flush
  | format
  | create
  | admin
  deriving DecidableEq, Repr

/-- An NVMe command of the vault (Table PKH-8): for an I/O queue, one that moves a page, identifier, opcode, namespace, command
dwords 10 to 12, the local offset of its data, and the data of a Write or Dataset Management. -/
structure NvmeCmd where
  io : Bool := false
  move : Bool := false
  cid : Nat := 0
  opcode : Nat
  nsid : Nat := 1
  cdw10 : Nat := 0
  cdw11 : Nat := 0
  cdw12 : Nat := 0
  buf : Nat := 0
  data : Bytes := []
  deriving DecidableEq, Repr

/-- A queue pair of the vault: next submission slot, oldest entry not yet consumed, next completion slot and its phase tag. -/
structure VaultQueue where
  tail : Nat := 0
  head : Nat := 0
  cq : Nat := 0
  phase : Bool := true
  deriving DecidableEq, Repr

/-- The vault beside its registers: commands in flight (identifier, use, tick), answers not yet taken, capacity in LBAs, rated
bytes, progress of the Flush of DETACH, pages poisoned by it, the life warning raised. -/
structure Vault where
  ops : List (Nat × VaultUse × Nat) := []
  cid : Nat := 0
  /-- queue pairs: 0 admin, 1 to 16 I/O -/
  queues : Tab VaultQueue := []
  /-- commands that stand in a queue -/
  sent : List NvmeCmd := []
  /-- commands that wait for room -/
  waiting : List NvmeCmd := []
  /-- CAP.MQES of the cartridge that is READY -/
  mqes : Nat := 0
  answers : List (Nat × Bool × Bytes) := []
  cap : Nat := 0
  rated : Nat := 0
  flushed : Option Bool := none
  /-- the deallocation of the whole cartridge at READY is still owed (R253, R262) -/
  wipe : Bool := false
  poisoned : Nat := 0
  warned : Bool := false
  /-- identity record of the cartridge that is READY -/
  ident : Bytes := []
  deriving DecidableEq, Repr

/-- Packhorse beside its registers and tier records. -/
structure Packhorse where
  maps : Tab Bytes := []
  models : Tab Bytes := []
  cursors : Tab Nat := []
  cmds : List PkhCmd := []
  cmdId : Nat := 0
  moves : List Move := []
  moveId : Nat := 0
  ioId : Nat := 0
  cqSlot : Nat := 0
  cqPhase : Bool := true
  held : List NmuDone := []
  /-- next slot of each ticket ring -/
  rings : Tab Nat := []
  /-- tickets taken and not yet acted on, with the tick -/
  taken : List (Bytes × Nat) := []
  fills : List Fill := []
  fillId : Nat := 0
  bufs : Tab WBuf := []
  vault : Vault := {}
  deriving DecidableEq, Repr

/-! ### Courier -/

/-- A connection's STATE (Table COU-1). -/
inductive ConnState where
  | free
  | connecting
  | opened
  | error
  | closing
  deriving DecidableEq, Repr

/-- A work request under way (R207): ring order number, its fields, packets still to end, and status and cause of the
packet with the lowest sequence that was not OK. -/
structure WorkReq where
  idx : Nat
  op : Nat
  wrid : Nat
  signal : Bool
  len : Nat
  key : Nat
  roff : Nat
  laddr : Nat
  left : Nat
  status : Nat := 0
  cause : Nat := 0
  /-- sequence of its first packet, and how far beyond it the packet lies that gave `status` (R207) -/
  first : Nat := 0
  badAt : Nat := 0
  deriving DecidableEq, Repr

/-- A Courier packet waiting or outstanding, with the work request it belongs to (its place in sequence order within it). -/
structure CouReq where
  req : Req
  wr : Nat
  deriving DecidableEq, Repr

/-- A C_CONNECT or C_CLOSE outstanding, and the connection that sent it (R199, R203, R210). -/
structure CouBare where
  conn : Nat
  req : Req
  deriving DecidableEq, Repr

/-- A posted receive (Table COU-8). -/
structure Posted where
  addr : Nat
  len : Nat
  wrid : Nat
  /-- how the read of its ring entry ended -/
  status : Nat := 0
  deriving DecidableEq, Repr

/-- A message being received (R204): its MSN, length, bytes tallied, KIND, immediate, and the lowest-MOFF packet that was not OK
(offset, status, cause). -/
structure RxMsg where
  msn : Nat
  total : Nat
  tally : Nat
  kind : Nat
  imm : Nat
  bad : Option (Nat × Nat × Nat) := none
  deriving DecidableEq, Repr

/-- A connection record (R194). -/
structure Conn where
  state : ConnState := .free
  peer : Nat := 0
  peerConn : Nat := 0
  team : Nat := 0
  domain : Nat := 0
  cq : Nat := 0
  s2 : Bool := false
  sendBase : Nat := 0
  sendLog2 : Nat := 4
  recvBase : Nat := 0
  recvLog2 : Nat := 4
  iss : Nat := 0
  nextSeq : Nat := 0
  nextMsn : Nat := 0
  peerIss : Option Nat := none
  gotResp : Bool := false
  csn : Nat := 0
  /-- completion window: sequences above CSN that have completed -/
  window : List Nat := []
  /-- refusal window: sequences that were refused -/
  refused : List Nat := []
  /-- answers of the last 16 atomics: sequence, status, old value -/
  cache : List (Nat × Nat × Nat) := []
  sqHead : Nat := 0
  sqTail : Nat := 0
  rqTail : Nat := 0
  /-- posted receives from `rxNext` on, and the MSN of the first of them -/
  posted : List Posted := []
  rxNext : Nat := 0
  msgs : List RxMsg := []
  waiting : List CouReq := []
  out : List CouReq := []
  /-- atomics sent (R202) -/
  atomics : Nat := 0
  wrs : List WorkReq := []
  wrIdx : Nat := 0
  /-- status its work ended with when it entered ERROR -/
  errStatus : Nat := 0
  /-- tag of the pending CONNECT or CLOSE command -/
  cmd : Option Nat := none
  started : Nat := 0
  sentAt : Nat := 0
  /-- last COU 0x0006 -/
  oldAt : Option Nat := none
  deriving DecidableEq, Repr

/-- A Courier completion queue (R208): set up or not, ring, consumer index, slot, phase, entries held while it is full. -/
structure CouCq where
  valid : Bool := false
  base : Nat := 0
  log2 : Nat := 4
  head : Nat := 0
  slot : Nat := 0
  phase : Bool := true
  held : List Bytes := []
  deriving DecidableEq, Repr

/-- A keyed access admitted and not yet complete (R200): connection, packet, extent index, and whether it completes no
sequence: a duplicate read, or one admitted before the connection began again. -/
structure CouAccess where
  conn : Nat
  pkt : Pkt
  ext : Nat
  dup : Bool
  deriving DecidableEq, Repr

/-- Courier beside its registers and extent records. -/
structure Courier where
  conns : Tab Conn := []
  cqs : Tab CouCq := []
  adm : List Bytes := []
  access : List CouAccess := []
  bare : List CouBare := []
  /-- revokes that wait for TALLY: extent index, command tag -/
  revokes : List (Nat × Nat) := []
  deriving DecidableEq, Repr

end Sys2Proof.Machine
end

