-- ==== Sys2Proof/Machine/Types4.lean ====
section
/-!
DEFINITION. Machine/Types4.lean: the state of the groom and the rails, of the clocks and crossings, of tack-image start-up and
reload, and of Assay.
-/
namespace Sys2Proof.Machine

/-! ### Groom and rails (chapter Power, gaits and the groom) -/

/-- The main rails 2 to 9 (R311, R312): all off, being enabled with `rail` waiting for power good, all good, or being disabled
with `rail` falling. -/
inductive Rails where
  | off
  | rising (rail : Nat)
  | on
  | falling (rail : Nat)
  deriving DecidableEq, Repr

/-- Filter state of a rule (R323): y, and the last samples, newest first. -/
structure RuleFilter where
  y : Int
  last : List Int
  deriving DecidableEq, Repr

/-- The groom beside its registers and its log. -/
structure Groom where
  /-- rails 0 and 1 are up -/
  up : Bool := true
  rails : Rails := .off
  /-- R313 holds rails 2 to 9 off -/
  hold : Bool := false
  /-- level of NC_RESET_L -/
  resetHigh : Bool := false
  strapFault : Bool := false
  /-- the latest samples, by sensor -/
  samples : Tab Int := []
  /-- filter states of the rules that have taken a sample since they were enabled -/
  filters : Tab RuleFilter := []
  /-- consecutive samples above a fixed limit, by sensor (R321) -/
  overs : Tab Nat := []
  /-- rule registers as last accepted, by BAR0 offset (R326) -/
  shadow : Tab Word := []
  /-- set point of VARITH, in mV -/
  varith : Nat := 600
  deriving DecidableEq, Repr

/-! ### Clocks (chapter Clock domains, crossings and resets) -/

/-- A change of the ARITH clock under way (R279, R314): VARITH rises first, or PLL A relocks to a frequency in 100 MHz. -/
inductive Shift where
  | none
  | ramp
  | relock (freq : Nat)
  deriving DecidableEq, Repr

/-- Progress into and out of STABLED (R316). -/
inductive Stable where
  | none
  | entering
  | stabled
  | exiting
  deriving DecidableEq, Repr

/-- A closed crossing (R283, R287): source and destination domain, instance, and whether the reset handshake has begun. -/
structure Closed where
  src : Nat
  dst : Nat
  inst : Nat
  noticed : Bool
  deriving DecidableEq, Repr

/-- Clocks beside their registers. -/
structure Clocks where
  /-- CHIP is released, and the tick at which it was -/
  released : Bool := false
  releasedAt : Nat := 0
  /-- frequency of PLL A in 100 MHz -/
  pllA : Nat := 40
  shift : Shift := .none
  stable : Stable := .none
  closed : List Closed := []
  deriving DecidableEq, Repr

/-! ### Tack image (chapter Straps, the tack image and start-up) -/

/-- A section still to be applied: directory entry, its 128 bytes, and the offset its bytes are staged at. -/
structure TackSect where
  entry : Nat
  desc : Bytes
  at' : Nat
  deriving DecidableEq, Repr

/-- Start-up and reload beside the TCK registers. -/
structure Tack where
  /-- stack training and ECC initialisation are complete -/
  hbmReady : Bool := false
  /-- bytes 0 to 5,631 of the image, as read once -/
  preamble : Bytes := []
  /-- the source is being read, and which: 0 tack store, 1 host memory -/
  reading : Bool := false
  source : Nat := 0
  /-- the failure came in phases 3 to 5: START may supply another image -/
  retry : Bool := false
  /-- a reload, not start-up, is applying sections -/
  reload : Bool := false
  /-- sections still to be applied, in order; offset of the record in progress; the tick a WAIT began -/
  todo : List TackSect := []
  recAt : Nat := 0
  waitAt : Option Nat := none
  /-- harness ports stay in DISABLED (R305) -/
  portsHeld : Bool := true
  /-- steps 1 to 5 of R304 are done, and step 6 has not ended -/
  finishing : Bool := false
  /-- a reload that waits for parked memory: its source and what the source gives (R284, R308) -/
  reloadWait : Option (Nat × HostRead) := none
  /-- DIGEST of the section in each TCK_SECT slot, and KEY_SLOT of the applied image -/
  digests : Tab Bytes := []
  keySlot : Nat := 0
  deriving DecidableEq, Repr

/-! ### Assay (chapter Assay: identity, attestation and protected regions) -/

/-- A fuse command that runs (R351): OP, ARG, count or bit it burns up to, tick of its last bit. -/
structure FuseRun where
  op : Nat
  arg : Nat
  upTo : Nat
  last : Nat
  deriving DecidableEq, Repr

/-- An SPDM signature in progress (R355): request code, response without its signature, bytes to sign, salt. -/
structure Signing where
  code : Nat
  response : Bytes
  message : Bytes
  salt : Nat
  deriving DecidableEq, Repr

/-- The SPDM responder: how far the connection has come (0 nothing, 1 version, 2 capabilities, 3 algorithms), and the
transcripts of the version exchange, of the certificate requests and of the measurements. -/
structure Spdm where
  stage : Nat := 0
  vca : Bytes := []
  certs : Bytes := []
  meas : Bytes := []
  signing : Option Signing := none
  deriving DecidableEq, Repr

/-- Assay beside its registers. The fuses SVN_MIN and KEY_REVOKE change in service; the others are constants of Config. -/
structure Assay where
  /-- burnt bits of SVN_MIN -/
  svnMin : Nat := 0
  keyRevoke : Nat := 0
  fuse : Option FuseRun := none
  /-- keys of enabled regions -/
  keys : Tab (Nat × Nat) := []
  /-- regions enabled while no value could be drawn -/
  waiting : List Nat := []
  spdm : Spdm := {}
  deriving DecidableEq, Repr

end Sys2Proof.Machine
end

