-- ==== Sys2Proof/Machine/State.lean ====
section
/-!
DEFINITION. Machine/State.lean: the state of the NC480 block, the reasons a step can stop, and the state after reset.
-/
namespace Sys2Proof.Machine

/-- Reasons a command stops the machine with a fault: there are none. Every error the spec describes is a status, an event or a
register bit, and the machine goes on. -/
inductive Fault where
  deriving DecidableEq, Repr

/-- Reasons a command has no meaning. -/
inductive Refusal where
  /-- raised by exec for a command not modelled; safe: nothing can be proved of it -/
  | notModelled (mnemonic : String)
  deriving DecidableEq, Repr

/-- The whole state of the block. -/
@[ext]
structure State where
  /-- local tick (R2) -/
  tick : BitVec 64 := 0
  /-- NC_RESET_L is high and CHIP is released: the tick counts -/
  running : Bool := false
  /-- role sampled under R1 -/
  role : Nat := 0
  /-- BAR0 registers that differ from their reset value, by offset -/
  regs : Tab Word := []
  mem : Memory := []
  marks : Tab LineMark := []
  stalls : Tab Stall := []
  host : HostPort := {}
  ports : Tab Port := []
  htp : Transport := {}
  rns : Reins := {}
  /-- messages delivered to the ledger, Pedigree, the team logic and the stalls, oldest first -/
  inbox : List Msg := []
  far : Farrier := {}
  fmts : Tab FmtUnit := []
  kvp : Kvp := {}
  works : Tab Work := []
  dealloc : Dealloc := {}
  tem : Teams := {}
  ped : Pedigree := {}
  ldg : Ledger := {}
  pkh : Packhorse := {}
  cou : Courier := {}
  grm : Groom := {}
  clk : Clocks := {}
  tck : Tack := {}
  asy : Assay := {}
  /-- hold tags of HBM pages: slot A (false) or B (true) (R59) -/
  holds : Tab Bool := []
  /-- stalls that have signalled Packhorse that free pages ran low (R30) -/
  lowStalls : List Nat := []
  /-- groom log records, newest first (R326) -/
  groomLog : List Event := []
  /-- what the controller has driven to the outside, oldest first -/
  out : List Out := []
  /-- the model's own draw counter for free values; no field of the spec -/
  freeCtr : Nat := 0
  /-- commands waiting, first in first out -/
  pending : List Instr := []
  deriving DecidableEq, Repr

/-- The machine right after reset. -/
def State.reset : State := {}

end Sys2Proof.Machine
end

