-- ==== Sys2Proof/Machine/Ops.lean ====
section
/-!
DEFINITION. Machine/Ops.lean: the named operations every meaning is built from: registers and tallies, the draw of a free
value, event records and MSI-X messages, host-memory and ring writes, HBM lines and their poison, and the page allocator.
-/
namespace Sys2Proof.Machine

/-- The answer of a command. -/
abbrev Res := Host.Outcome State Fault Refusal

/-! ### Status codes (Table GLB-3), severities (Table GLB-6), subsystem tags (Table GLB-5) -/

namespace St
def ok : Nat := 0x00
def superseded : Nat := 0x01
def noEffect : Nat := 0x02
def violation : Nat := 0x10
def keyInvalid : Nat := 0x11
def bounds : Nat := 0x12
def rights : Nat := 0x13
def tableStale : Nat := 0x18
def tierLate : Nat := 0x20
def tierFail : Nat := 0x21
def deadline : Nat := 0x30
def cancelled : Nat := 0x31
def poisoned : Nat := 0x40
def uncorrectable : Nat := 0x41
def crossingTimeout : Nat := 0x50
def revoked : Nat := 0x60
def epochStale : Nat := 0x61
def escrowTimeout : Nat := 0x70
def memberLost : Nat := 0x71
def internal : Nat := 0x7F
end St

namespace Sev
def info : Nat := 0
def corrected : Nat := 1
def contained : Nat := 2
def degraded : Nat := 3
def fatal : Nat := 4
end Sev

namespace Tag
def glb : Nat := 0x01
def stl : Nat := 0x02
def stb : Nat := 0x03
def fmt : Nat := 0x04
def att : Nat := 0x05
def kvp : Nat := 0x06
def ped : Nat := 0x07
def ldg : Nat := 0x08
def hlk : Nat := 0x09
def htp : Nat := 0x0A
def cou : Nat := 0x0B
def tem : Nat := 0x0C
def rns : Nat := 0x0D
def pkh : Nat := 0x0E
def hst : Nat := 0x0F
def clk : Nat := 0x10
def tck : Nat := 0x11
def pwr : Nat := 0x12
def grm : Nat := 0x13
def far : Nat := 0x14
def asy : Nat := 0x15
end Tag

/-- The role numbers of R1. -/
def roleP : Nat := 0
def roleG : Nat := 1
def roleC : Nat := 2

/-! ### Time and free values -/

/-- Resolution of a domain's view of the tick: 8 ns, or 64 ns in ASSAY and GROOM (Table CLK-7). -/
def viewStep (dom : Nat) : Nat := if dom = 6 ∨ dom = 7 then 64 else 8

/-- Five cycles of a domain in whole nanoseconds, the most by which a value of its view comes late (Table CLK-7). -/
def viewLate (dom : Nat) : Nat :=
  match dom with
  | 3 => 3
  | 4 => 5
  | 5 => 5
  | 6 => 10
  | 7 => 50
  | _ => 2

/-- Domain `dom`'s view of tick `t` (R288): the bits below its resolution read zero, each value comes at most 5 cycles late, and
the view never decreases. -/
def tickView (dom t : Nat) : Nat :=
  let k := t / viewStep dom
  if k = 0 then 0
  else if Config.viewLag dom k % (viewLate dom + 1) ≤ t % viewStep dom then viewStep dom * k
  else viewStep dom * (k - 1)

/-- A domain's view of the tick as it stands: 1 MESH, 3 HARNESS, 4 HOST, 6 ASSAY (Table CLK-7, the codes of R289). -/
def State.nowIn (s : State) (dom : Nat) : Nat := tickView dom s.tick.toNat

/-- The view that the subsystems of MESH stamp and compare with (Table GLB-8, R288). -/
def State.now (s : State) : Nat := s.nowIn 1

/-- The view of HARNESS: the ports, the transport, Courier and Reins (Table GLB-8, R288). -/
def State.nowH (s : State) : Nat := s.nowIn 3

/-- The view of HOST: the host port (Table GLB-8, R288). -/
def State.nowHost (s : State) : Nat := s.nowIn 4

/-- The view of ASSAY (Table GLB-8, R288). -/
def State.nowAssay (s : State) : Nat := s.nowIn 6

/-- The domain that records the events of a tag: that of its subsystem (Table GLB-8, R288). -/
def tagDomain (tag : Nat) : Nat :=
  if tag = Tag.hlk ∨ tag = Tag.htp ∨ tag = Tag.cou ∨ tag = Tag.rns then 3 else if tag = Tag.hst then 4
  else if tag = Tag.asy then 6 else if tag = Tag.pwr ∨ tag = Tag.grm then 7 else 1

/-- The local tick counts one nanosecond while it runs (R2). -/
def tickOnce (s : State) : State := if s.running then { s with tick := s.tick + 1 } else s

/-- A draw of an open value: the value, and the state with the draw counter advanced. -/
def State.draw (s : State) : Nat × State := (Config.freeNat s.freeCtr, { s with freeCtr := s.freeCtr + 1 })

/-- Drive something to the outside. -/
def State.emit (s : State) (o : Out) : State := { s with out := s.out ++ [o] }

/-! ### Registers -/

/-- The reset value of a register from its fields. -/
def RegDesc.resetValue (d : RegDesc) : Nat := d.fields.foldl (fun v f => v + f.reset * 2 ^ f.lo) 0

/-- The reset value of the register at BAR0 offset `o`; `FMT_MINT_SEED` of stall n resets to n + 1 (R51). -/
def regReset (o : Nat) : Nat :=
  if 0x800000 ≤ o ∧ o < 0x1000000 ∧ o % 0x10000 = 0x4024 then (o - 0x800000) / 0x10000 + 1
  else match regAt o with
    | some (d, _) => d.resetValue
    | none => 0

/-- The register's stored value. -/
def State.reg (s : State) (o : Nat) : Nat :=
  match s.regs.get? o with
  | some w => w.toNat
  | none => regReset o

/-- Store a register's value; a register at its reset value is not listed. -/
def State.setReg (s : State) (o v : Nat) : State :=
  if v % 2 ^ 32 = regReset o then { s with regs := s.regs.del o }
  else { s with regs := s.regs.put o (BitVec.ofNat 32 v) }

/-- A register field. -/
def State.fld (s : State) (o : Nat) (f : Field) : Nat := bits (s.reg o) f.hi f.lo

/-- A one-bit register field. -/
def State.flag (s : State) (o : Nat) (f : Field) : Bool := s.fld o f != 0

/-- Hardware writes a register field. -/
def State.setFld (s : State) (o : Nat) (f : Field) (v : Nat) : State :=
  s.setReg o (setBits (s.reg o) f.hi f.lo v)

/-- A tally counts `k` occurrences; it wraps at 2³². -/
def State.bumpBy (s : State) (o k : Nat) : State := s.setReg o (wrap32 (s.reg o + k))

/-- A tally counts one occurrence. -/
def State.bump (s : State) (o : Nat) : State := s.bumpBy o 1

/-- The bytes staged in a run of `n` dword registers from offset `o`, 4 bytes apart. -/
def State.staged (s : State) (o n : Nat) : Bytes :=
  (List.range n).flatMap fun k => toLE 4 (s.reg (o + 4 * k))

/-- The HBM base held in a LO/HI register pair, the HI register 4 bytes above (bits 38:32). -/
def State.base (s : State) (o : Nat) : Nat := s.reg o + s.reg (o + 4) * 2 ^ 32

/-- This module's node number (R168, GLB_NODE); in phases 5 and 6 of start-up the image's NODE_LO already stands in it (R304). -/
def State.node (s : State) : Nat :=
  let ph := s.fld Reg.TCK_STATUS F.TCK_STATUS_PHASE
  if ph = 5 ∨ ph = 6 then s.fld Reg.GLB_NODE F.GLB_NODE_STRAP * 1024 + Machine.fld s.tck.preamble 20 2 % 1024
  else s.reg Reg.GLB_NODE % 2 ^ 16

/-- Every RW-L field is locked (R4). -/
def State.locked (s : State) : Bool := s.flag Reg.GLB_LOCK F.GLB_LOCK_LOCK

/-- Start-up is complete (GLB_SUMMARY.READY). -/
def State.ready (s : State) : Bool := s.flag Reg.GLB_SUMMARY F.GLB_SUMMARY_READY

/-- The gait in force is WALK or slower: the work of R315 is held. -/
def State.walk (s : State) : Bool := decide (3 ≤ s.fld Reg.PWR_STATUS F.PWR_STATUS_GAIT)

/-- New attention, append and near-memory work starts: not while STABLED is entered, held or left (R316). -/
def State.ifStarts (s t : State) : State := if s.clk.stable = .none then t else s

/-- ARITH and STABLE are parked: in STABLED, and until it is left (R284, R316). -/
def State.parked (s : State) : Bool := s.clk.stable == .stabled || s.clk.stable == .exiting

/-- Work that needs ARITH, a stall or local memory: a request for a parked domain waits until it restarts (R284, R316). -/
def State.ifRuns (s t : State) : State := if s.parked then s else t

/-! ### Closed crossings (R283, R287) -/

/-- The entry of a closed crossing. -/
def isCrossing (src dst inst : Nat) (c : Closed) : Bool := c.src == src && c.dst == dst && c.inst == inst

/-- The crossing between two domains is closed: what is written on it is not delivered (R283, R287). The domain codes are those of
R289. -/
def State.shut (s : State) (a b inst : Nat) : Bool :=
  s.clk.closed.any fun c => isCrossing a b inst c || isCrossing b a inst c

/-- Domain that holds a BAR0 register (Table CLK-1). -/
def barDomain (o : Nat) : Nat :=
  if 0x100000 ≤ o ∧ o < 0x200000 then 6
  else if 0x200000 ≤ o ∧ o < 0x300000 then 7
  else if 0x1800000 ≤ o ∧ o < 0x1900000 then 3
  else if 0x2400000 ≤ o ∧ o < 0x2600000 then 4
  else 1

/-- A BAR0 access does not reach its register: the crossing from HOST is closed, or the one beyond MESH to the domain that holds it
(R283). -/
def State.barShut (s : State) (o : Nat) : Bool :=
  let d := barDomain o
  d != 4 && (s.shut 4 1 0 || (d != 1 && s.shut 1 d 0))

/-! ### Host memory, MSI-X -/

/-- The host port can reach host memory: not while it is blocked (R268), nor while the crossing to it is closed (Table CLK-6). -/
def State.hostOpen (s : State) : Bool := s.host.bme && s.host.linkUp && !s.shut 1 4 0

/-- A request to host memory that is blocked is counted (R268). -/
def State.blocked (s : State) : State :=
  (s.setFld Reg.HST_STATUS F.HST_STATUS_BLOCKED 1).bump Reg.HST_BLOCKED

/-- A write to host memory, discarded while the host port is blocked (R268). -/
def State.hostWrite (s : State) (addr : Nat) (data : Bytes) : State :=
  if s.hostOpen then s.emit (.hostWrite addr data) else s.blocked

/-- What a unit's read of `n` bytes of host memory gives it (R267, R268): status and bytes. -/
def State.hostRead (s : State) (n : Nat) (x : HostRead) : State × Nat × Bytes :=
  if !s.hostOpen then (s.blocked, St.uncorrectable, zeros n)
  else match x with
    | .data bs => (s, St.ok, padTo n bs)
    | .poisoned => (s, St.poisoned, zeros n)
    | .timeout => (s, St.uncorrectable, zeros n)

/-- MSI-X table entry: address, data, masked; every vector is masked at reset. -/
def State.msixEntry (s : State) (v : Nat) : Nat × Nat × Bool := s.host.msix.getD v (0, 0, true)

/-- The message of vector `v` is written now; a message discarded under R268 is not sent again (R276). -/
def State.msixSend (s : State) (v : Nat) : State :=
  let (addr, data, _) := s.msixEntry v
  let s := { s with host := { s.host with lastMsg := s.host.lastMsg.put v s.nowHost } }
  if s.hostOpen then s.emit (.msix v addr data) else s.blocked

/-- Vector `v` is raised: masked vectors set their PBA bit, coalesced ones gather (R276). -/
def State.msixRaise (s : State) (v : Nat) : State :=
  let (_, _, masked) := s.msixEntry v
  if masked || s.host.funcMask then
    if s.host.pba.contains v then s else { s with host := { s.host with pba := s.host.pba ++ [v] } }
  else
    let c := s.fld Reg.HST_CTRL F.HST_CTRL_COAL
    match s.host.lastMsg.get? v with
    | some t =>
      if 0 < c ∧ s.nowHost < t + c then
        if s.host.gathered.contains v then s else { s with host := { s.host with gathered := s.host.gathered ++ [v] } }
      else s.msixSend v
    | none => s.msixSend v

/-- A W1C bit of GLB_SUMMARY is set; vector 0 is raised when it becomes 1 (R275). -/
def State.setSummary (s : State) (f : Field) : State :=
  if s.flag Reg.GLB_SUMMARY f then s else (s.setFld Reg.GLB_SUMMARY f 1).msixRaise 0

/-! ### Event records -/

/-- Put a FATAL record in the groom log: 64 records, newest first (R326). -/
def State.groomLogPush (s : State) (e : Event) : State := { s with groomLog := (e :: s.groomLog).take 64 }

/-- GLB_SUMMARY notes DEGRADED and FATAL records (R275). -/
def State.noteSev (s : State) (sev : Nat) : State :=
  if sev = Sev.degraded then s.setSummary F.GLB_SUMMARY_DEGRADED
  else if sev = Sev.fatal then s.setSummary F.GLB_SUMMARY_FATAL
  else s

/-- Farrier buffers up to 256 records; one that finds the buffer full is counted, a FATAL one still reaching the groom log
(R343). -/
def State.bufferEvent (s : State) (e : Event) : State :=
  if s.far.events.length < 256 then { s with far := { s.far with events := s.far.events ++ [e] } }
  else if e.sev = Sev.fatal then (s.bump Reg.FAR_EV_DROP).groomLogPush e
  else s.bump Reg.FAR_EV_DROP

/-- The record an event makes, with the recording domain's view of the tick (Table GLB-4, R288). -/
def State.record (s : State) (tag code sev subject : Nat) (detail : List Nat) : Event :=
  { code := code, tag := tag, sev := sev, tick := tickView (tagDomain tag) s.tick.toNat, subject := subject,
    detail := padTo 12 (detail.map (BitVec.ofNat 8)) }

/-- An event record is generated. -/
def State.raise (s : State) (tag code sev subject : Nat) (detail : List Nat) : State :=
  (s.noteSev sev).bufferEvent (s.record tag code sev subject detail)

/-- A reset notice of domain `src` is sampled in domain `dst`: the crossing closes and its words are discarded. A notice that is up
already is not sampled again (R287). -/
def State.notice (s : State) (src dst inst : Nat) : State :=
  if s.clk.closed.any fun c => isCrossing src dst inst c && c.noticed then s
  else
    let rest := s.clk.closed.filter fun c => !isCrossing src dst inst c
    let s := { s with clk := { s.clk with closed := rest ++ [(⟨src, dst, inst, true⟩ : Closed)] } }
    (s.bump Reg.CLK_NOTICES).raise Tag.clk 0x0003 Sev.info 0 [src, inst, dst, 0]

/-- Notice and acknowledge are lowered: a crossing whose handshake had begun reopens (R287). -/
def State.reopen (s : State) (src dst inst : Nat) : State :=
  { s with clk := { s.clk with closed := s.clk.closed.filter fun c => !(isCrossing src dst inst c && c.noticed) } }

/-- A HOST reset raises its notice to MESH and to HARNESS, where BAR2 operations complete (Table CLK-6). -/
def State.hostNotice (s : State) : State := (s.notice 4 1 0).notice 4 3 0

/-- A domain is released from its reset: the handshakes of its crossings end, and they reopen (R287). -/
def State.releaseDomain (s : State) (dom : Nat) : State :=
  { s with clk := { s.clk with closed := s.clk.closed.filter fun c => c.src != dom && c.dst != dom } }

/-- The 32 bytes of an event record (Table GLB-4). -/
def Event.bytes (e : Event) : Bytes :=
  toLE 2 e.code ++ toLE 1 e.tag ++ toLE 1 e.sev ++ toLE 8 e.tick ++ toLE 8 e.subject ++ padTo 12 e.detail

/-! ### Stalls -/

/-- Pages of one stall, and bytes of one stall (R27). -/
def stallPages : Nat := 147456
def stallBytes : Nat := 0x90000000
def pageBytes : Nat := 0x4000
/-- First offset beyond local HBM. -/
def hbmBytes : Nat := 0x4800000000

/-- The state of a stall never touched since CHIP reset. On stall 127 the staging area of R302 is withheld. -/
def Stall.initial (n : Nat) : Stall := if n = 127 then { virgin := [(18, 131072)] } else {}

/-- Stall `n`. -/
def State.stall (s : State) (n : Nat) : Stall := s.stalls.getD n (Stall.initial n)

/-- Replace stall `n`. -/
def State.setStall (s : State) (n : Nat) (x : Stall) : State := { s with stalls := s.stalls.put n x }

/-- Change stall `n`. -/
def State.updStall (s : State) (n : Nat) (f : Stall → Stall) : State := s.setStall n (f (s.stall n))

/-- Stall `n` is FAILED. -/
def State.stallFailed (s : State) (n : Nat) : Bool := (s.stall n).service == .failed

/-- Number of a service state (Table STL-6). -/
def Service.num : Service → Nat
  | .inService => 0
  | .draining => 1
  | .outOfService => 2
  | .failed => 3

/-- A change of a stall's service state raises STL 0x0001 (R43). -/
def State.setService (s : State) (n : Nat) (x : Service) : State :=
  let old := (s.stall n).service
  if old = x then s
  else (s.updStall n fun t => { t with service := x }).raise Tag.stl 0x0001 Sev.info n [old.num, x.num]

/-! ### HBM lines -/

/-- Home stall of an offset (R27). -/
def homeStall (o : Nat) : Nat := o / stallBytes

/-- Pseudo-channel of an offset (R27). -/
def pseudoChannel (o : Nat) : Nat := 2 * homeStall o + b2n (bit (o % stallBytes) 8)

/-- Address within the pseudo-channel of an offset, and the page that holds it (R27). -/
def channelAddr (o : Nat) : Nat := o % stallBytes / 512 * 256 + o % 256
def pageOf (o : Nat) : Nat := o / pageBytes

/-- HBM stack of a stall: stack k serves row y = k. -/
def stackOf (n : Nat) : Nat := n / 16

/-- Byte at offset `a`; an unlisted byte is zero (R303: initialisation writes zeros). -/
def Memory.byte (m : Memory) (a : Nat) : Byte := Tab.getD m a 0

/-- Write one byte, keeping the canonical form: a zero byte is not listed. -/
def Memory.set (m : Memory) (a : Nat) (v : Byte) : Memory := if v = 0 then Tab.del m a else Tab.put m a v

/-- Bytes `[a, a+n)`. -/
def Memory.read (m : Memory) (a n : Nat) : Bytes := (List.range n).map fun i => Memory.byte m (a + i)

/-- Write bytes from `a` up. -/
def Memory.write (m : Memory) : Nat → Bytes → Memory
  | _, [] => m
  | a, v :: vs => Memory.write (Memory.set m a v) (a + 1) vs

/-- No entry is zero. -/
def Memory.noZero (m : Memory) : Bool := m.all fun c => c.2 != 0

/-- The canonical form: addresses strictly rising, and no entry equal to what an unlisted address reads as. -/
def Memory.wf (m : Memory) : Bool := Tab.sorted m && Memory.noZero m

/-- A queued line write reaches its line: the line holds the new data with good check bytes (R28, R331). -/
def State.applyHome (s : State) (w : HomeWrite) : State :=
  { s with mem := Memory.write s.mem (64 * w.line) (padTo 64 w.data), marks := s.marks.del w.line }

/-- The home controller applies everything its store queue holds for the lines of stall `n`, in arrival order, before a
later access is served (R28). -/
def State.drainHome (s : State) (n : Nat) : State :=
  let st := s.stall n
  if st.storeQ.isEmpty then s
  else forEach st.storeQ (s.setStall n { st with storeQ := [], hot := [] }) State.applyHome

/-- The bytes of `[o, o+n)` with every write that has arrived at their home controllers (R28): what a read that changes nothing
would return. -/
def State.peek (s : State) (o n : Nat) : Bytes :=
  Memory.read (forEach (rangeFrom (homeStall o) (homeStall (o + n - 1) + 1 - homeStall o)) s State.drainHome).mem o n

/-- Record a tick for R341's window and give the count of ticks within it. -/
def ueWindow (s : State) (old : List Nat) : List Nat :=
  let w := s.fld Reg.FAR_STALL_LIMIT F.FAR_STALL_LIMIT_WINDOW * 1000000
  (old ++ [s.now]).filter fun t => decide (s.now < t + w)

/-- Farrier moves a stall to FAILED: cause 0 crossing, 1 STABLE lock, 2 buffer errors, 3 channel errors (R341). The
answers for the stall's work are then due. -/
def State.failStall (s : State) (n cause : Nat) : State :=
  if s.stallFailed n then s
  else
    let s := s.setService n .failed
    let s := s.raise Tag.far 0x0004 Sev.degraded n [cause, 0, 0, 0]
    let s := s.bump Reg.FAR_STALLS_FAILED
    { s with far := { s.far with failDue := s.far.failDue ++ [n] } }

/-- An uncorrectable line is found by a demand read (`src` 0) or by scrub (1): it is poisoned and reported, its page
waits for Farrier, and the stall's channel errors are counted against R341. -/
def State.foundUe (s : State) (line src : Nat) : State :=
  let o := 64 * line
  let n := homeStall o
  let s := { s with marks := s.marks.put line .poison, mem := Memory.write s.mem o (zeros 64) }
  let s := s.bump Reg.FAR_UE
  let s := s.raise Tag.far 0x0002 Sev.contained o [stackOf n, pseudoChannel o, src, 0]
  let ticks := ueWindow s (s.far.chUe.getD n [])
  let page := o / pageBytes
  let q := if s.far.toResolve.contains page || s.far.resolved.contains page then s.far.toResolve else s.far.toResolve ++ [page]
  let s := { s with far := { s.far with chUe := s.far.chUe.put n ticks, toResolve := q } }
  if s.fld Reg.FAR_STALL_LIMIT F.FAR_STALL_LIMIT_CH_UE ≤ ticks.length then s.failStall n 3 else s

/-- A correctable line is corrected: the tallies count it, and FAR 0x0001 is raised at most once per stack per
millisecond (R344). The conditional write-back leaves the line good. -/
def State.foundCe (s : State) (line nbytes src : Nat) : State :=
  let o := 64 * line
  let n := homeStall o
  let s := { s with marks := s.marks.del line }
  let s := s.bump Reg.FAR_CE
  let pc := pseudoChannel o
  let s := { s with far := { s.far with ce := s.far.ce.put pc (wrap32 (s.far.ce.getD pc 0 + 1)) } }
  let k := stackOf n
  let due := match s.far.ceEventAt.get? k with
    | some t => decide (t + 1000000 ≤ s.now)
    | none => true
  if due then
    let s := { s with far := { s.far with ceEventAt := s.far.ceEventAt.put k s.now } }
    s.raise Tag.far 0x0001 Sev.corrected o [k, pc, src, nbytes]
  else s

/-- A poisoned line has been read: its page waits for Farrier once (R336). -/
def State.sawPoison (s : State) (line : Nat) : State :=
  let page := 64 * line / pageBytes
  if s.far.toResolve.contains page || s.far.resolved.contains page then s
  else { s with far := { s.far with toResolve := s.far.toResolve ++ [page] } }

/-- A demand read touches one line: its status, with the line's error handled (R333, R342). -/
def State.touchLine (s : State) (line : Nat) : State × Nat :=
  let n := homeStall (64 * line)
  if hbmBytes ≤ 64 * line then (s, St.bounds)
  else if s.stallFailed n then (s, St.uncorrectable)
  else
    let s := s.drainHome n
    match s.marks.get? line with
    | none => (s, St.ok)
    | some (.correctable k) => (s.foundCe line k 0, St.ok)
    | some .damaged => (s.foundUe line 0, St.uncorrectable)
    | some .poison => (s.sawPoison line, St.poisoned)

/-- Demand reads of lines in ascending order, stopping at the first bad one; the number of good lines comes with it. -/
def touchLines : List Nat → State → Nat → State × Nat × Nat
  | [], s, k => (s, St.ok, k)
  | l :: ls, s, k =>
    let (s, st) := s.touchLine l
    if st = St.ok then touchLines ls s (k + 1) else (s, st, k)

/-- The lines that `[o, o+n)` touches. -/
def linesOf (o n : Nat) : List Nat := if n = 0 then [] else rangeFrom (o / 64) ((o + n - 1) / 64 + 1 - o / 64)

/-- A demand read of local HBM: status and data; a bad line gives its status and no data (R333, R342). -/
def State.readMem (s : State) (o n : Nat) : State × Nat × Bytes :=
  let (s, st, _) := touchLines (linesOf o n) s 0
  if st = St.ok then (s, St.ok, Memory.read s.mem o n) else (s, st, zeros n)

/-- The line of an offset is in a FAILED stall, or bad (R342): status without side effect. -/
def State.lineStatus (s : State) (line : Nat) : Nat :=
  if s.stallFailed (homeStall (64 * line)) then St.uncorrectable
  else match s.marks.get? line with
    | some .poison => St.poisoned
    | some .damaged => St.uncorrectable
    | _ => St.ok

/-- One write within one line, as its home controller applies it: a whole line clears poison; a part of a poisoned or
uncorrectable line is not applied (R331); nothing is applied on a FAILED stall (R342). -/
def State.writeChunk (s : State) (o : Nat) (data : Bytes) : State × Nat :=
  let line := lineOf o
  let n := homeStall o
  if hbmBytes ≤ o then (s, St.bounds)
  else if s.stallFailed n then (s, St.uncorrectable)
  else
    let s := s.drainHome n
    if data.length = 64 then
      ({ s with mem := Memory.write s.mem o data, marks := s.marks.del line }, St.ok)
    else match s.marks.get? line with
      | some .poison => (s.sawPoison line, St.poisoned)
      | some .damaged => (s.foundUe line 0, St.uncorrectable)
      | some (.correctable k) =>
        let s := s.foundCe line k 0
        ({ s with mem := Memory.write s.mem o data }, St.ok)
      | none => ({ s with mem := Memory.write s.mem o data }, St.ok)

/-- The pieces of a write, one per line: offset and data. -/
def chunks : Nat → Nat → Bytes → List (Nat × Bytes)
  | 0, _, _ => []
  | fuel + 1, o, data =>
    if data.isEmpty then []
    else
      let k := min data.length (64 - o % 64)
      (o, data.take k) :: chunks fuel (o + k) (data.drop k)

/-- A write of local HBM, line by line in ascending order; the status is the first that is not OK. -/
def State.writeMem (s : State) (o : Nat) (data : Bytes) : State × Nat :=
  forEach (chunks (data.length + 1) o data) (s, St.ok) fun (s, st) (o, d) =>
    let (s, st') := s.writeChunk o d
    (s, if st = St.ok then st' else st)

/-- A write whose status no one reads. -/
def State.poke (s : State) (o : Nat) (data : Bytes) : State := (s.writeMem o data).1

/-- Write the poison marker over a line (R331, R334). -/
def State.poisonLine (s : State) (o : Nat) : State :=
  let line := lineOf o
  let n := homeStall o
  if s.stallFailed n then s
  else
    let s := s.drainHome n
    { s with mem := Memory.write s.mem (64 * line) (zeros 64), marks := s.marks.put line .poison }

/-- A small number read from a structure the controller keeps in HBM: value and status. -/
def State.readNat (s : State) (o n : Nat) : State × Nat × Nat :=
  let (s, st, d) := s.readMem o n
  (s, st, leNat d)

/-- An entry is written to a ring: bit 63 of the base selects host memory (R37). -/
def State.ringWrite (s : State) (base off : Nat) (data : Bytes) : State :=
  if bit base 63 then s.hostWrite (base % 2 ^ 63 + off) data else s.poke (base + off) data

/-- A structure is lost: FAR 0x0007 (R338). -/
def State.structLost (s : State) (tag status index : Nat) : State :=
  s.raise Tag.far 0x0007 Sev.contained index [tag, status, 0, 0]

/-! ### Page allocator (R30, R31) -/

/-- Pages in a list of ranges. -/
def rangeCount (rs : List (Nat × Nat)) : Nat := rs.foldl (fun n r => n + (r.2 - r.1)) 0

/-- The `k`-th page of a list of ranges, and the ranges without it. -/
def takeNth : List (Nat × Nat) → Nat → Option (Nat × List (Nat × Nat))
  | [], _ => none
  | (a, b) :: rs, k =>
    if k < b - a then
      let p := a + k
      let left := if a < p then [(a, p)] else []
      let right := if p + 1 < b then [(p + 1, b)] else []
      some (p, left ++ right ++ rs)
    else match takeNth rs (k - (b - a)) with
      | some (p, rs') => some (p, (a, b) :: rs')
      | none => none

/-- Remove pages `[lo, hi)` from a list of ranges. -/
def cutRange (lo hi : Nat) (rs : List (Nat × Nat)) : List (Nat × Nat) :=
  rs.flatMap fun (a, b) =>
    (if a < min b lo then [(a, min b lo)] else []) ++ (if max a hi < b then [(max a hi, b)] else [])

/-- Free pages of a stall (STL_ALLOC.FREE). -/
def Stall.free (t : Stall) : Nat := t.freed.length + rangeCount t.virgin

/-- The stall's free count is below STL_ALLOC_LOW. -/
def State.allocLow (s : State) (n : Nat) : Bool :=
  decide ((s.stall n).free < s.fld (Reg.STL_ALLOC_LOW n) F.STL_ALLOC_LOW_LOW)

/-- The stall signals Packhorse when its free count has fallen below STL_ALLOC_LOW (R30). -/
def State.signalLow (s : State) (n : Nat) : State :=
  if s.allocLow n && !s.lowStalls.contains n then { s with lowStalls := s.lowStalls ++ [n] } else s

/-- Pop a free page of stall `n` for work that names `handle` (zero: none). The order of the stack at CHIP release is
open, so a page never yet handed out is chosen by a free value. An empty stack fails and raises STL 0x0002 (R30). -/
def State.allocPage (s : State) (n handle : Nat) : State × Option Nat :=
  let t := s.stall n
  if t.service == .failed then (s, none)
  else match t.freed with
    | p :: ps => ((s.setStall n { t with freed := ps }).signalLow n, some (n * stallPages + p))
    | [] =>
      let c := rangeCount t.virgin
      if c = 0 then (s.raise Tag.stl 0x0002 Sev.info handle [n], none)
      else
        let (r, s) := s.draw
        match takeNth t.virgin (r % c) with
        | some (p, rs) => ((s.setStall n { t with virgin := rs }).signalLow n, some (n * stallPages + p))
        | none => (s, none)

/-- Hold count of a slot on a stall (R59): pages of the stall tagged to it. -/
def State.holdCount (s : State) (n : Nat) (slot : Bool) : Nat :=
  (s.holds.filter fun (p, x) => p / stallPages == n && x == slot).length

/-- Freeing a page clears its hold tag (R59). -/
def State.releaseHold (s : State) (page : Nat) : State := { s with holds := s.holds.del page }

/-- A page returns to its stall's free-page stack and loses its hold tag (R30, R59); a page that holds a poisoned line goes to
Farrier instead (R337), and keeps its tag until Farrier frees it. -/
def State.freePage (s : State) (page : Nat) : State :=
  let n := page / stallPages
  if s.stallFailed n then s
  else
    let lines := rangeFrom (page * 256) 256
    if lines.any fun l => s.marks.get? l == some .poison || s.marks.get? l == some .damaged then
      { s with far := { s.far with toReclaim := s.far.toReclaim ++ [page] } }
    else
      let s := (s.releaseHold page).updStall n fun t => { t with freed := page % stallPages :: t.freed }
      if s.allocLow n then s else { s with lowStalls := s.lowStalls.filter (· != n) }

end Sys2Proof.Machine
end

