-- ==== Sys2Proof/Machine/Pkt.lean ====
section
/-!
DEFINITION. Machine/Pkt.lean: the transport packet: header layout (Table HTP-1), CRC-32C trailer (R171), opcodes and credit
classes (Table HTP-2), and the OFFSET field by opcode (Table HTP-3).
-/
namespace Sys2Proof.Machine

/-- One byte into a reflected CRC-32C (polynomial 0x1EDC_6F41, reflected 0x82F6_3B78). -/
def crcByte (c : Nat) (b : Byte) : Nat :=
  (List.range 8).foldl (fun c _ => if c % 2 = 1 then (c / 2) ^^^ 0x82F63B78 else c / 2) (c ^^^ b.toNat)

/-- CRC-32C of RFC 3720. -/
def crc32c (bs : Bytes) : Nat := bs.foldl crcByte 0xFFFFFFFF ^^^ 0xFFFFFFFF

namespace Op
def store : Nat := 0x01
def load : Nat := 0x02
def fetchAdd : Nat := 0x03
def swap : Nat := 0x04
def cas : Nat := 0x05
def reduce : Nat := 0x06
def mstore : Nat := 0x07
def put : Nat := 0x08
def attn : Nat := 0x10
def append : Nat := 0x11
def record : Nat := 0x12
def ledger : Nat := 0x13
def pedigree : Nat := 0x14
def team : Nat := 0x15
def ack : Nat := 0x40
def loadResp : Nat := 0x41
def atomicResp : Nat := 0x42
def sync : Nat := 0x43
def syncAck : Nat := 0x44
end Op

/-! Courier opcodes (Table COU-2). -/
namespace Co
def send : Nat := 0x30
def write : Nat := 0x31
def writeImm : Nat := 0x32
def read : Nat := 0x33
def atomic : Nat := 0x34
def connect : Nat := 0x35
def close : Nat := 0x36
def ack : Nat := 0x38
def readResp : Nat := 0x39
def atomicResp : Nat := 0x3A
def connectResp : Nat := 0x3B
end Co

/-- Credit class of an opcode (Table HTP-2; Courier replies 0x38–0x3F in C1). -/
def opClass (op : Nat) : Nat :=
  if op = Op.record ∨ op = Op.team ∨ op = Op.sync then 3
  else if op = Op.attn ∨ op = Op.append ∨ op = Op.ledger ∨ op = Op.pedigree then 2
  else if 0x40 ≤ op ∨ (0x38 ≤ op ∧ op ≤ 0x3F) then 1
  else 0

/-- The opcode is one of the messages of R180. -/
def isMessage (op : Nat) : Bool := decide (0x10 ≤ op) && decide (op ≤ 0x15)

/-- The opcode is an atomic (R187). -/
def isAtomic (op : Nat) : Bool := op == Op.fetchAdd || op == Op.swap || op == Op.cas

/-- Bytes of payload that follow a header, by opcode (R171). -/
def payloadLen (op length : Nat) : Nat :=
  if isAtomic op || op == Op.atomicResp then 64
  else if op = Op.load ∨ op = Op.ack ∨ op = Op.sync ∨ op = Op.syncAck then 0
  else length

/-- The 32 header bytes (Table HTP-1), with HOPS as given. -/
def Pkt.header (p : Pkt) (hops : Nat) : Bytes :=
  toLE 2 p.dst ++ toLE 2 p.src ++ toLE 1 p.opcode ++ toLE 1 p.epoch ++ toLE 2 (p.team + 4096 * p.path) ++
    toLE 2 p.flow ++ toLE 2 p.length ++ toLE 4 p.seq ++ toLE 6 p.offset ++
    toLE 2 (b2n p.ordered + 2 * b2n p.nocomb + 4 * b2n p.retx + 8 * (p.rsv % 64) + 512 * b2n p.fwd + 1024 * hops) ++ toLE 4 p.key ++
    toLE 4 p.tse

/-- The trailer: CRC over header and payload, HOPS taken as zero (R171). -/
def Pkt.crc (p : Pkt) : Nat := crc32c (p.header 0 ++ p.payload)

/-- The packet as it travels. -/
def Pkt.wire (p : Pkt) : Bytes := p.header p.hops ++ p.payload ++ toLE 4 p.crc

/-- Read a packet from its bytes: the header delimits it (R171); none when the bytes end too soon. -/
def Pkt.parse (bs : Bytes) : Option (Pkt × Nat) :=
  let op := fld bs 4 1
  let len := fld bs 10 2
  let n := payloadLen op len
  if bs.length < 36 + n then none
  else
    let w6 := fld bs 6 2
    let w22 := fld bs 22 2
    some ({ dst := fld bs 0 2, src := fld bs 2 2, opcode := op, epoch := fld bs 5 1, path := w6 / 4096,
            team := w6 % 4096, flow := fld bs 8 2, length := len, seq := fld bs 12 4, offset := fld bs 16 6,
            hops := w22 / 1024, fwd := bit w22 9, rsv := bits w22 8 3, retx := bit w22 2, nocomb := bit w22 1, ordered := bit w22 0,
            key := fld bs 24 4, tse := fld bs 28 4, payload := slice bs 32 n }, fld bs (32 + n) 4)

/-- Link slots a packet occupies (R171). -/
def Pkt.slots (p : Pkt) : Nat := ceilDiv (36 + p.payload.length) 64

/-- OFFSET of a reply: UNSYNC, MC, STATUS, CSN (Table HTP-3). -/
def replyOffset (unsync mc : Bool) (status csn : Nat) : Nat :=
  csn % 2 ^ 32 + status % 256 * 2 ^ 32 + b2n mc * 2 ^ 40 + b2n unsync * 2 ^ 41

/-- OFFSET of a message packet: UNIT, MLEN, MOFF (Table HTP-3). -/
def msgOffset (unit mlen moff : Nat) : Nat := moff % 2 ^ 22 + mlen % 2 ^ 17 * 2 ^ 23 + unit % 256 * 2 ^ 40

def Pkt.unit (p : Pkt) : Nat := bits p.offset 47 40
def Pkt.mlen (p : Pkt) : Nat := bits p.offset 39 23
def Pkt.moff (p : Pkt) : Nat := bits p.offset 21 0
def Pkt.status (p : Pkt) : Nat := bits p.offset 39 32
def Pkt.csn (p : Pkt) : Nat := bits p.offset 31 0
def Pkt.unsync (p : Pkt) : Bool := bit p.offset 41
def Pkt.mc (p : Pkt) : Bool := bit p.offset 40
/-- Address of a memory opcode: REDUCE carries bits 47:6 (Table HTP-3). -/
def Pkt.addr (p : Pkt) : Nat := if p.opcode = Op.reduce then p.offset / 64 * 64 else p.offset

end Sys2Proof.Machine
end

