-- ==== Sys2Proof/Machine/Reins.lean ====
section
/-!
DEFINITION. Machine/Reins.lean: what other units need of teams and of Reins: team entries by number, queue-delay samples
(R240), the host shaper's fill (R235), the ingress meter (R236) and pace contributions (R241).
-/
namespace Sys2Proof.Machine

/-! ### Team entries -/


/-- The slot of this module's team entries that holds a valid entry for `team` (TEM_TEAM STATUS). -/
def State.teamSlot (s : State) (team : Nat) : Option Nat :=
  (List.range 16).find? fun k =>
    s.flag (Reg.TEM_TEAM_STATUS k) F.TEM_TEAM_STATUS_VALID && s.fld (Reg.TEM_TEAM_STATUS k) F.TEM_TEAM_STATUS_TEAM == team

/-- This module's map epoch for a team, zero when it holds no entry. -/
def State.teamEpoch (s : State) (team : Nat) : Nat :=
  match s.teamSlot team with
  | some k => s.fld (Reg.TEM_TEAM_STATUS k) F.TEM_TEAM_STATUS_EPOCH
  | none => 0

/-- This module holds an ACTIVE entry for the team (R213). -/
def State.teamActive (s : State) (team : Nat) : Bool :=
  match s.teamSlot team with
  | some k => s.fld (Reg.TEM_TEAM_STATUS k) F.TEM_TEAM_STATUS_STATE == 1
  | none => false

/-- Team state beside the entry. -/
def State.teamAux (s : State) (team : Nat) : TeamAux := s.tem.aux.getD team {}

/-- Change the team state beside the entry. -/
def State.updAux (s : State) (team : Nat) (f : TeamAux → TeamAux) : State :=
  { s with tem := { s.tem with aux := s.tem.aux.put team (f (s.teamAux team)) } }

/-- Members of the committed map. -/
def State.members (s : State) (team : Nat) : List Nat :=
  match (s.teamAux team).cur with
  | some m => m.members
  | none => []

/-! ### Queue delays (R240) -/

/-- The bin of a delay. -/
def histBin (delay : Nat) : Nat := if delay < 64 then 0 else min 15 (Nat.log2 delay - 5)

/-- An item with stamp `stamp` leaves a queue: the selected queue's delay is binned. -/
def histSample (s : State) (kind unit key stamp : Nat) : State :=
  if s.fld Reg.RNS_HIST_SEL F.RNS_HIST_SEL_KIND = kind ∧
      (2 < kind ∨ s.fld Reg.RNS_HIST_SEL F.RNS_HIST_SEL_UNIT = unit) ∧
      (0 < kind ∨ s.fld Reg.RNS_HIST_SEL F.RNS_HIST_SEL_KEY = key) then
    let r := Reg.RNS_HIST (histBin (s.nowH - stamp))
    s.setReg r (min (s.reg r + 1) (2 ^ 32 - 1))
  else s

/-! ### Host shaper (R235) -/

/-- F brought up to date. -/
def shaperFill (s : State) : State :=
  let x := s.rns
  let burst : Int := s.reg Reg.RNS_HOST_BURST
  let tot := x.fillRem + s.reg Reg.RNS_HOST_RATE * (s.nowH - x.fillTick)
  let f := x.fill + (tot / 1000 : Nat)
  let (f, rem) := if !s.flag Reg.RNS_CTRL F.RNS_CTRL_SHAPE_EN || decide (burst ≤ f) then (burst, 0) else (f, tot % 1000)
  { s with rns := { x with fill := f, fillRem := rem, fillTick := s.nowH } }

/-- A request of the given payload is charged. -/
def shaperCharge (s : State) (payload : Nat) : State :=
  if s.flag Reg.RNS_CTRL F.RNS_CTRL_SHAPE_EN then
    let cost : Int := (36 + payload + s.fld Reg.RNS_HOST_OVH F.RNS_HOST_OVH_OVH : Nat)
    { s with rns := { s.rns with fill := s.rns.fill - cost } }
  else s

/-- A write to a shaper parameter sets F to BURST (R238). -/
def shaperReset (s : State) : State :=
  { s with rns := { s.rns with fill := s.reg Reg.RNS_HOST_BURST, fillRem := 0, fillTick := s.nowH } }

/-! ### Ingress meter (R236) -/

/-- Colour of a packet. -/
inductive Colour where
  | green
  | yellow
  | red
  deriving DecidableEq, Repr

/-- Sizes of meter p in bytes: CBS and PBS, PBS at least CBS. -/
def meterSizes (s : State) (p : Nat) : Nat × Nat :=
  let c := 64 * s.fld (Reg.RNS_MTR_SIZES p) F.RNS_MTR_SIZES_CBS
  (c, max c (64 * s.fld (Reg.RNS_MTR_SIZES p) F.RNS_MTR_SIZES_PBS))

/-- Both buckets of meter p full (R238). -/
def meterReset (s : State) (p : Nat) : State :=
  let (c, q) := meterSizes s p
  { s with rns := { s.rns with meters := s.rns.meters.put p (1000 * c, 1000 * q, s.nowH) } }

/-- The colour meter p gives a packet of `len` payload bytes: the two-rate three-colour marker of RFC 2698, colour-blind. -/
def meterPacket (s : State) (p len : Nat) : State × Colour :=
  if !s.flag Reg.RNS_CTRL F.RNS_CTRL_METER_EN || !s.flag (Reg.RNS_MTR_CFG p) F.RNS_MTR_CFG_EN then (s, .green)
  else
    let (cbs, pbs) := meterSizes s p
    let cir := s.reg (Reg.RNS_MTR_CIR p)
    let pir := max cir (s.reg (Reg.RNS_MTR_PIR p))
    let (tc, tp, last) := s.rns.meters.getD p (1000 * cbs, 1000 * pbs, s.nowH)
    let tc := min (1000 * cbs) (tc + cir * (s.nowH - last))
    let tp := min (1000 * pbs) (tp + pir * (s.nowH - last))
    let b := 1000 * (36 + len + s.fld (Reg.RNS_MTR_CFG p) F.RNS_MTR_CFG_OVH)
    let (tc, tp, col) :=
      if tp < b then (tc, tp, Colour.red) else if tc < b then (tc, tp - b, .yellow) else (tc - b, tp - b, .green)
    ({ s with rns := { s.rns with meters := s.rns.meters.put p (tc, tp, s.nowH) } }, col)

/-! ### Pace (R241) -/

/-- Pace state of a team slot. -/
def State.paceAcc (s : State) (k : Nat) : PaceAcc := s.rns.pace.getD k {}

/-- Change the pace state of a team slot. -/
def State.updPace (s : State) (k : Nat) (f : PaceAcc → PaceAcc) : State :=
  { s with rns := { s.rns with pace := s.rns.pace.put k (f (s.paceAcc k)) } }

/-- A DECODE descriptor that completed OK on a stall of the team's span contributes service ticks and position-heads. -/
def paceAdd (s : State) (stall team ticks heads : Nat) : State :=
  match s.teamSlot team with
  | some k =>
    if bit (s.fld (Reg.TEM_TEAM_SPAN k) F.TEM_TEAM_SPAN_GROUPS) (stall / 8) then
      s.updPace k fun a => { a with stalls := a.stalls.upd stall (0, 0) fun (t, h) => (t + ticks, h + heads) }
    else s
  | none => s

/-- A line of a pace table of which this module is COORD has been written: member index noted (R242). -/
def paceNote (s : State) (off : Nat) : State :=
  forEach (List.range 16) s fun s k =>
    let st := Reg.TEM_TEAM_STATUS k
    let base := s.fld (Reg.RNS_TEAM_PACE_OFF k) F.RNS_TEAM_PACE_OFF_OFF * pageBytes
    let i := (off - base) / 64
    if s.flag st F.TEM_TEAM_STATUS_VALID && s.fld (Reg.TEM_TEAM_NODES k) F.TEM_TEAM_NODES_COORD == s.node &&
        decide (base + 64 ≤ off) && decide (i ≤ (s.members (s.fld st F.TEM_TEAM_STATUS_TEAM)).length) then
      s.updPace k fun a => if a.written.contains (i - 1) then a else { a with written := a.written ++ [i - 1] }
    else s

end Sys2Proof.Machine
end

