-- ==== Sys2Proof/Machine/Fp.lean ====
section
/-!
DEFINITION. Machine/Fp.lean: the arithmetic of the vector unit and the matrix engine (R18–R24), on exact dyadic numbers
rounded once. A number is a code (a natural number) of one of the formats of Table FMT-1.
-/
namespace Sys2Proof.Machine

/-- An exact value: a signed dyadic `±m·2^e` (zero keeps its sign), an infinity, or NaN. -/
inductive Num where
  | fin (neg : Bool) (m : Nat) (e : Int)
  | inf (neg : Bool)
  | nan
  deriving DecidableEq, Repr

/-- A binary floating format: exponent and mantissa widths. -/
structure FpFmt where
  eb : Nat
  mb : Nat
  deriving DecidableEq, Repr

namespace FpFmt
def f32 : FpFmt := ⟨8, 23⟩
def bf16 : FpFmt := ⟨8, 7⟩
def f16 : FpFmt := ⟨5, 10⟩
def bias (f : FpFmt) : Int := 2 ^ (f.eb - 1) - 1
/-- Canonical quiet NaN (Table FMT-2). -/
def qnan (f : FpFmt) : Nat := (2 ^ f.eb - 1) * 2 ^ f.mb + 2 ^ (f.mb - 1)
def infCode (f : FpFmt) (neg : Bool) : Nat := (2 ^ f.eb - 1) * 2 ^ f.mb + b2n neg * 2 ^ (f.eb + f.mb)
end FpFmt

/-- The value of an IEEE code (Table FMT-2). -/
def FpFmt.decode (f : FpFmt) (c : Nat) : Num :=
  let neg := bit c (f.eb + f.mb)
  let ex := bits c (f.eb + f.mb - 1) f.mb
  let ma := c % 2 ^ f.mb
  if ex = 2 ^ f.eb - 1 then if ma = 0 then .inf neg else .nan
  else if ex = 0 then .fin neg ma (1 - f.bias - f.mb)
  else .fin neg (2 ^ f.mb + ma) (ex - f.bias - f.mb)

/-- `m·2^(-k)` rounded to the nearest integer, ties to even; a negative `k` is exact. -/
def rneShift (m : Nat) (k : Int) : Nat :=
  if k ≤ 0 then m * 2 ^ k.natAbs
  else
    let d := 2 ^ k.natAbs
    let q := m / d
    let r := m % d
    if 2 * r < d then q else if d < 2 * r then q + 1 else q + q % 2

/-- Exponent of the last place kept when a magnitude `m·2^e` is rounded to `mb` fraction bits above the subnormal
threshold `emin`. -/
def lastPlace (mb : Nat) (emin : Int) (m : Nat) (e : Int) : Int :=
  max ((Nat.log2 m : Int) + e - mb) (emin - mb)

/-- Round a magnitude to the code grid of a format with `mb` mantissa bits: the code without sign, the exponent field
unbounded above. -/
def roundCode (mb : Nat) (bias : Int) (m : Nat) (e : Int) : Nat :=
  if m = 0 then 0
  else
    let k := lastPlace mb (1 - bias) m e
    let q := rneShift m (k - e)
    (k + mb + bias - 1).toNat * 2 ^ mb + q

/-- Round an exact value to an IEEE format, to nearest even; every NaN is the canonical quiet NaN. -/
def FpFmt.encode (f : FpFmt) : Num → Nat
  | .nan => f.qnan
  | .inf neg => f.infCode neg
  | .fin neg m e =>
    let c := roundCode f.mb f.bias m e
    if (2 ^ f.eb - 1) * 2 ^ f.mb ≤ c then f.infCode neg
    else c + b2n neg * 2 ^ (f.eb + f.mb)

/-- Sum of exact values; `inf − inf` is NaN, an exact zero is +0 unless both are −0. -/
def Num.add : Num → Num → Num
  | .nan, _ => .nan
  | _, .nan => .nan
  | .inf a, .inf b => if a = b then .inf a else .nan
  | .inf a, _ => .inf a
  | _, .inf b => .inf b
  | .fin n1 m1 e1, .fin n2 m2 e2 =>
    let e := min e1 e2
    let a : Int := (m1 * 2 ^ (e1 - e).toNat : Nat)
    let b : Int := (m2 * 2 ^ (e2 - e).toNat : Nat)
    let v := (if n1 then -a else a) + (if n2 then -b else b)
    if v = 0 then .fin (n1 && n2) 0 e else .fin (decide (v < 0)) v.natAbs e

/-- Product of exact values; `0 × inf` is NaN. -/
def Num.mul : Num → Num → Num
  | .nan, _ => .nan
  | _, .nan => .nan
  | .inf a, .inf b => .inf (a != b)
  | .inf a, .fin b m _ => if m = 0 then .nan else .inf (a != b)
  | .fin a m _, .inf b => if m = 0 then .nan else .inf (a != b)
  | .fin a m e, .fin b m' e' => .fin (a != b) (m * m') (e + e')

/-- Negation. -/
def Num.neg : Num → Num
  | .nan => .nan
  | .inf a => .inf (!a)
  | .fin a m e => .fin (!a) m e

/-- Multiply by a power of two. -/
def Num.scale (x : Num) (k : Int) : Num :=
  match x with
  | .fin a m e => .fin a m (e + k)
  | y => y

/-- The value of an FP32 code. -/
def f32v (c : Nat) : Num := FpFmt.f32.decode c

/-- FP32 addition, subtraction, multiplication and fused multiply-add, each rounded once (Table STL-3). -/
def f32add (a b : Nat) : Nat := FpFmt.f32.encode ((f32v a).add (f32v b))
def f32sub (a b : Nat) : Nat := FpFmt.f32.encode ((f32v a).add (f32v b).neg)
def f32mul (a b : Nat) : Nat := FpFmt.f32.encode ((f32v a).mul (f32v b))
def f32fma (a b c : Nat) : Nat := FpFmt.f32.encode (((f32v a).mul (f32v b)).add (f32v c))

/-- An FP32 code is NaN. -/
def f32isNan (c : Nat) : Bool := c % 2 ^ 31 > 0x7F800000

/-- An FP32 code is an infinity or NaN. -/
def f32nonfinite (c : Nat) : Bool := c % 2 ^ 31 ≥ 0x7F800000

/-- Order key of a non-NaN IEEE code of `w` bits: −0 below +0. -/
def fpKey (w c : Nat) : Int := if bit c (w - 1) then -(c % 2 ^ (w - 1) : Nat) - 1 else (c % 2 ^ (w - 1) : Nat)

/-- IEEE maximum and minimum, NaN-propagating, max(−0, +0) = +0 (Table STL-3). -/
def fpMax (f : FpFmt) (a b : Nat) : Nat :=
  let w := f.eb + f.mb + 1
  if f.decode a = .nan || f.decode b = .nan then f.qnan else if fpKey w a < fpKey w b then b else a
def fpMin (f : FpFmt) (a b : Nat) : Nat :=
  let w := f.eb + f.mb + 1
  if f.decode a = .nan || f.decode b = .nan then f.qnan else if fpKey w b < fpKey w a then b else a
def f32max (a b : Nat) : Nat := fpMax .f32 a b
def f32min (a b : Nat) : Nat := fpMin .f32 a b

def f32ninf : Nat := 0xFF800000
def f32pinf : Nat := 0x7F800000
def f32qnan : Nat := 0x7FC00000

/-- Conversions between the scalar formats, rounded once to nearest even (Table STL-3, R45). -/
def f32ToBf16 (c : Nat) : Nat := FpFmt.bf16.encode (f32v c)
def bf16ToF32 (c : Nat) : Nat := FpFmt.f32.encode (FpFmt.bf16.decode c)
def f16ToF32 (c : Nat) : Nat := FpFmt.f32.encode (FpFmt.f16.decode c)

/-- Reciprocal, correctly rounded: the quotient is formed with a sticky last bit far below the rounding place. -/
def f32recip (c : Nat) : Nat :=
  match f32v c with
  | .nan => f32qnan
  | .inf neg => b2n neg * 2 ^ 31
  | .fin neg m e =>
    if m = 0 then FpFmt.f32.infCode neg
    else
      let q := 2 ^ 128 / m
      let q' := 2 * q + b2n (2 ^ 128 % m != 0)
      FpFmt.f32.encode (.fin neg q' (-129 - e))

/-- Fraction bits of the fixed-point arithmetic behind exp2, cos and sin. -/
def fixBits : Nat := 192

/-- Integer square root by bits: the largest `r` with `r² ≤ n`, for `n < 4^fuel`. -/
def isqrt : Nat → Nat → Nat
  | 0, _ => 0
  | fuel + 1, n =>
    let r := 2 * isqrt fuel (n / 4)
    if (r + 1) * (r + 1) ≤ n then r + 1 else r

/-- `2^f` in fixed point for the fraction `f = F ÷ 2^w`, as the product of the repeated square roots of two that the bits
of `f` select; `root` is the present root and the remaining bits are taken from the top. -/
def exp2Frac : Nat → Nat → Nat → Nat → Nat
  | 0, _, _, acc => acc
  | w + 1, frac, root, acc =>
    let root := isqrt (fixBits + 1) (root * 2 ^ fixBits)
    let acc := if bit frac w then acc * root / 2 ^ fixBits else acc
    exp2Frac w (frac % 2 ^ w) root acc

/-- exp2: the exact power rounded once to binary32 (R23, R24, Table STL-3). -/
def f32exp2 (c : Nat) : Nat :=
  match f32v c with
  | .nan => f32qnan
  | .inf neg => if neg then 0 else f32pinf
  | .fin neg m e =>
    if m = 0 then 0x3F800000
    else
      let w := (-e).toNat
      let num : Int := if e < 0 then (m : Int) else (m : Int) * 2 ^ e.toNat
      let x : Int := if neg then -num else num
      let n := x / (2 ^ w : Int)
      let frac := (x % (2 ^ w : Int)).toNat
      if 128 ≤ n then f32pinf
      else if x < -149 * (2 ^ w : Int) then 0
      else if frac = 0 then FpFmt.f32.encode (.fin false 1 n)
      else
        -- the result is irrational: a sticky bit marks it above the truncated fixed-point value
        let v := exp2Frac w frac (2 * 2 ^ fixBits) (2 ^ fixBits)
        FpFmt.f32.encode (.fin false (2 * v + 1) (n - fixBits - 1))

/-- Pairwise lane sum of 64 values (Table STL-3): adjacent pairs at each of six levels. -/
def pairSum : Nat → List Nat → List Nat
  | 0, l => l
  | _ + 1, [] => []
  | _ + 1, [a] => [a]
  | fuel + 1, a :: b :: t => f32add a b :: pairSum fuel t

/-- Lane sum of up to 64 lanes, absent lanes being +0. -/
def laneSum (l : List Nat) : Nat :=
  let l := (l ++ List.replicate 64 0).take 64
  ((List.range 6).foldl (fun l _ => pairSum 64 l) l).headD 0

/-! ### cos and sin for rotary encoding (R52) -/

/-- π scaled by 2^160. -/
def piFix : Nat := 0x3243F6A8885A308D313198A2E03707344A4093822

/-- One series of `Σ (−1)^i θ^(2i+s) ÷ (2i+s)!` in fixed point: `term` is the present term, `k` its last factor. -/
def trigSeries (th2 : Nat) : Nat → Nat → Nat → Int
  | 0, _, _ => 0
  | fuel + 1, k, term =>
    (term : Int) - trigSeries th2 fuel (k + 2) (term * th2 / 2 ^ 160 / ((k + 1) * (k + 2)))

/-- cos and sin of the first-quadrant angle `2π·r ÷ 2^32`, scaled by 2^160. -/
def cosSinFix (r : Nat) : Int × Int :=
  let th := 2 * piFix * r / 2 ^ 32
  let th2 := th * th / 2 ^ 160
  (trigSeries th2 30 0 (2 ^ 160), trigSeries th2 30 1 th)

/-- An FP32 value within 1 ULP of the exact value `v ÷ 2^160`: which of the neighbours is the device's is open, and a
fixed function of the phase (R52), so the free value of Config chooses. -/
def withinUlp (v : Int) (exact : Bool) (pick : Nat) : Nat :=
  let m := v.natAbs
  let k := lastPlace 23 (-126) m (-160)
  let lo := (k + 23 + 127 - 1).toNat * 2 ^ 23 + m / 2 ^ (k + 160).toNat
  let c := if m = 0 then 0 else if exact then lo + pick % 3 - 1 else lo + pick % 2
  c + b2n (decide (v < 0)) * 2 ^ 31

/-- cos and sin of `2π·φ ÷ 2^32` in FP32 (R52). -/
def ropeCosSin (phi : Nat) : Nat × Nat :=
  let q := phi / 2 ^ 30 % 4
  let r := phi % 2 ^ 30
  let (c, s) := cosSinFix r
  let (c, s) := match q with
    | 0 => (c, s)
    | 1 => (-s, c)
    | 2 => (-c, -s)
    | _ => (s, -c)
  let exact := r == 0
  (withinUlp c exact (Config.ropeUlp 0 phi), withinUlp s exact (Config.ropeUlp 1 phi))

/-- Rotate one pair (R52 step 2): `t = b × s, a′ = fma(a, c, −t), u = b × c, b′ = fma(a, s, u)`. -/
def ropePair (a b c s : Nat) : Nat × Nat :=
  let t := f32mul b s
  let u := f32mul b c
  (f32fma a c (t ^^^ 0x80000000), f32fma a s u)

end Sys2Proof.Machine
end

