-- ==== Sys2Proof/Machine/Stl.lean ====
section
/-!
DEFINITION. Machine/Stl.lean: the stall array: service states (R42, R43), buffer partition, home controllers and their
store queues (R28, R29), the near-memory unit (R33–R37).
-/
namespace Sys2Proof.Machine

/-! ### Service requests and the buffer partition -/

/-- A service request acts on a stall or sets CTRL_CONFLICT (R43). -/
def serviceRequest (s : State) (n : Nat) (out inn : Bool) : State :=
  let conflict := s.setFld (Reg.STL_STATUS n) F.STL_STATUS_CTRL_CONFLICT 1
  match out, inn, (s.stall n).service with
  | false, false, _ => s
  | true, false, .inService => s.setService n .draining
  | false, true, .outOfService => s.setService n .inService
  | _, _, _ => conflict

/-- A write of STL_CTRL: NMU_EN takes the written value, and OUT_REQ and IN_REQ act at once. -/
def stlCtrlWrite (s : State) (n data : Nat) : State :=
  serviceRequest (s.setFld (Reg.STL_CTRL n) F.STL_CTRL_NMU_EN (bits data 2 2)) n (bit data 0) (bit data 1)

/-- A write of STL_BUF_PART: it takes effect only when the regions sum to 47, the stall is OUT_OF_SERVICE and the fields
are not locked; a wrong sum sets PART_ERR. -/
def bufPartWrite (s : State) (n data : Nat) : State :=
  if bits data 21 16 + bits data 13 8 + bits data 5 0 ≠ 47 then s.setFld (Reg.STL_STATUS n) F.STL_STATUS_PART_ERR 1
  else if (s.stall n).service == .outOfService && !s.locked then
    let s := s.setFld (Reg.STL_BUF_PART n) F.STL_BUF_PART_NMU (bits data 21 16)
    let s := s.setFld (Reg.STL_BUF_PART n) F.STL_BUF_PART_QRY (bits data 13 8)
    s.setFld (Reg.STL_BUF_PART n) F.STL_BUF_PART_COIN (bits data 5 0)
  else s

/-- OUT_REQ (R43). -/
def execOutReq (stall : Fin 128) (s : State) : Res := .next (serviceRequest s stall true false)

/-- IN_REQ (R43). -/
def execInReq (stall : Fin 128) (s : State) : Res := .next (serviceRequest s stall false true)

/-- A write of STL_BUF_PART (R25). -/
def execBufPartWrite (stall : Fin 128) (data : Word) (s : State) : Res := .next (bufPartWrite s stall data.toNat)

/-! ### Home store queue -/

/-- Queued stores that address a line. -/
def queuedFor (q : List HomeWrite) (line : Nat) : Nat := (q.filter (·.line == line)).length

/-- The controller applies its oldest queued line write; a line whose queued count falls below 8 ends its hot episode. The
controller of a FAILED stall has stopped (Table STL-6). -/
def applyOldest (s : State) (n : Nat) : State :=
  if s.stallFailed n then s
  else match (s.stall n).storeQ with
  | [] => s
  | w :: q =>
    let s := s.updStall n fun t => { t with
      storeQ := q, hot := if queuedFor q w.line < 8 then t.hot.filter (· != w.line) else t.hot }
    s.applyHome w

/-- A whole-line store arrives at its home controller: a full queue holds it back until the oldest write is applied, and
32 queued stores to one line open a hot episode (R29). -/
def enqueueHome (s : State) (line : Nat) (data : Bytes) : State × Nat :=
  let n := homeStall (64 * line)
  if s.stallFailed n then (s, St.uncorrectable)
  else
    let s := if 64 ≤ (s.stall n).storeQ.length then applyOldest s n else s
    let s := s.updStall n fun t => { t with storeQ := t.storeQ ++ [⟨line, data⟩] }
    let c := queuedFor (s.stall n).storeQ line
    if 32 ≤ c ∧ !(s.stall n).hot.contains line then
      let s := s.updStall n fun t => { t with hot := t.hot ++ [line] }
      ((s.bump (Reg.STL_HOT_LINE n)).raise Tag.stl 0x0003 Sev.info (64 * line) [c, c / 256, 0, 0], St.ok)
    else (s, St.ok)

/-- Whole lines stored from offset `o` in ascending order: the first status that is not OK. -/
def enqueueLines (s : State) (o : Nat) (data : Bytes) : State × Nat :=
  forEach (List.range (data.length / 64)) (s, St.ok) fun (s, st) i =>
    let (s, st') := enqueueHome s (o / 64 + i) (slice data (64 * i) 64)
    (s, if st = St.ok then st' else st)

/-- The home controller applies a queued write (R28). -/
def execHomeWriteApply (stall : Fin 128) (s : State) : Res := .next (s.ifRuns (applyOldest s stall))

/-! ### Completion rings of the near-memory unit's form (R37) -/

/-- The slot before the consumer's index is never written: the ring is full. An index at or beyond the ring's size counts modulo
the size (DESIGN CHOICE, log 209). -/
def ringFull (slot head log2 : Nat) : Bool := (slot + 1) % 2 ^ log2 == head % 2 ^ log2

/-! ### Near-memory unit -/

/-- Fields of a near-memory descriptor (Table STL-4). -/
def nmuOp (d : Bytes) : Nat := fld d 0 1
def nmuDtype (d : Bytes) : Nat := bits (fld d 1 1) 3 0
def nmuRedOp (d : Bytes) : Nat := bits (fld d 1 1) 7 4
def nmuFence (d : Bytes) : Bool := bit (fld d 2 2) 2
def nmuEvent (d : Bytes) : Bool := bit (fld d 2 2) 1
def nmuCqe (d : Bytes) : Bool := bit (fld d 2 2) 0
def nmuTag (d : Bytes) : Nat := fld d 4 4
def nmuDst (d : Bytes) : Nat := fld d 8 8
def nmuSrc (d : Bytes) : Nat := fld d 16 8
def nmuLen (d : Bytes) : Nat := fld d 24 4

/-- The OP codes of Table STL-4. -/
def opFill : Nat := 0x01
def opCopy : Nat := 0x02
def opCompare : Nat := 0x03
def opReduce : Nat := 0x04

/-- The checks of R34. A descriptor that fails both kinds ends with RIGHTS, and a reserved bit that is not zero fails no check
(DESIGN CHOICE, log 209). -/
def nmuCheck (d : Bytes) : Nat :=
  let op := nmuOp d
  if op = 0 ∨ 4 < op then St.rights
  else if op = opReduce ∧ (1 < nmuRedOp d ∨ 2 < nmuDtype d) then St.rights
  else
    let len := nmuLen d
    let bad := fun (o : Nat) => decide (o % 64 ≠ 0) || decide (2 ^ 48 ≤ o) || decide (hbmBytes < o + len)
    if len % 64 ≠ 0 ∨ len < 64 ∨ 0x1000000 < len then St.bounds
    else if bad (nmuDst d) || (op != opFill && bad (nmuSrc d)) then St.bounds
    else St.ok

/-- One element of a REDUCE (R35): RED_OP 0 add, 1 max; DTYPE 0 FP32, 1 BF16, 2 INT32. -/
def reduceElem (redop dtype a b : Nat) : Nat :=
  match dtype, redop with
  | 0, 0 => f32add a b
  | 0, _ => f32max a b
  | 1, 0 => f32ToBf16 (f32add (bf16ToF32 a) (bf16ToF32 b))
  | 1, _ => fpMax .bf16 a b
  | _, 0 => wrap32 (a + b)
  | _, _ => if (BitVec.ofNat 32 a).toInt < (BitVec.ofNat 32 b).toInt then b else a

/-- Combine a source run into a destination run, element by element. -/
def reduceBytes (redop dtype : Nat) (dst src : Bytes) : Bytes :=
  let w := if dtype = 1 then 2 else 4
  (List.range (dst.length / w)).flatMap fun i => toLE w (reduceElem redop dtype (fld dst (w * i) w) (fld src (w * i) w))

/-- FILL line by line (R35): state, status, bytes done. -/
def nmuFill (pat dst : Nat) : List Nat → State → Nat → State × Nat × Nat
  | [], s, k => (s, St.ok, k)
  | i :: is, s, k =>
    let (s, st) := s.writeMem (dst + 64 * i) ((List.range 8).flatMap fun _ => toLE 8 pat)
    if st = St.ok then nmuFill pat dst is s (k + 64) else (s, st, k)

/-- COPY or REDUCE line by line in the given order; a bad line writes the poison marker at the destination (R36). -/
def nmuMove (red : Option (Nat × Nat)) (dst src : Nat) : List Nat → State → Nat → State × Nat × Nat
  | [], s, k => (s, St.ok, k)
  | i :: is, s, k =>
    let (s, st, x) := s.readMem (src + 64 * i) 64
    if st ≠ St.ok then (s.poisonLine (dst + 64 * i), st, k)
    else
      let (s, st, y) := match red with
        | none => (s, St.ok, x)
        | some (redop, dtype) =>
          let (s, st, old) := s.readMem (dst + 64 * i) 64
          (s, st, reduceBytes redop dtype old x)
      if st ≠ St.ok then (s.poisonLine (dst + 64 * i), st, k)
      else
        let (s, st) := s.writeMem (dst + 64 * i) y
        if st = St.ok then nmuMove red dst src is s (k + 64) else (s, st, k)

/-- Index of the first differing byte. -/
def firstDiff : Bytes → Bytes → Nat → Option Nat
  | x :: xs, y :: ys, i => if x = y then firstDiff xs ys (i + 1) else some i
  | _, _, _ => none

/-- COMPARE line by line (R35, R36): state, status, bytes processed, result. The bytes processed include the line that holds the
first difference; a line of the destination is read before that of the source; a stopped COMPARE has RESULT 0 (DESIGN CHOICE, log
209). -/
def nmuCompare (dst src : Nat) : List Nat → State → Nat → State × Nat × Nat × Nat
  | [], s, k => (s, St.ok, k, 0xFFFFFFFF)
  | i :: is, s, k =>
    let (s, st, x) := s.readMem (dst + 64 * i) 64
    if st ≠ St.ok then (s, st, k, 0)
    else
      let (s, st, y) := s.readMem (src + 64 * i) 64
      if st ≠ St.ok then (s, st, k, 0)
      else match firstDiff x y (64 * i) with
        | some d => (s, St.ok, k + 64, d)
        | none => nmuCompare dst src is s (k + 64)

/-- The whole effect of a descriptor that passed its checks: state, status, DONE_BYTES, RESULT. -/
def nmuWork (s : State) (d : Bytes) : State × Nat × Nat × Nat :=
  let dst := nmuDst d
  let src := nmuSrc d
  let idx := List.range (nmuLen d / 64)
  if nmuOp d = opFill then
    let (s, st, k) := nmuFill src dst idx s 0
    (s, st, k, 0)
  else if nmuOp d = opCopy then
    let down := decide (src < dst) && decide (dst < src + nmuLen d)
    let (s, st, k) := nmuMove none dst src (if down then idx.reverse else idx) s 0
    (s, st, k, 0)
  else if nmuOp d = opCompare then nmuCompare dst src idx s 0
  else
    let (s, st, k) := nmuMove (some (nmuRedOp d, nmuDtype d)) dst src idx s 0
    (s, st, k, 0)

/-- Run a descriptor outside the queue, as an internal submission: checks, effect, status. -/
def nmuInternal (s : State) (d : Bytes) : State × Nat :=
  let st := nmuCheck d
  if st ≠ St.ok then (s, st)
  else
    let (s, st, _, _) := nmuWork s d
    (s, st)

/-- The stall's completion ring is enabled and full. -/
def nmuRingFull (s : State) (n : Nat) : Bool :=
  s.flag (Reg.STL_NMU_CQ_CTRL n) F.STL_NMU_CQ_CTRL_EN &&
    ringFull (s.stall n).nmuSlot (s.fld (Reg.STL_NMU_CQ_HEAD n) F.STL_NMU_CQ_HEAD_HEAD)
      (s.fld (Reg.STL_NMU_CQ_CTRL n) F.STL_NMU_CQ_CTRL_LOG2_SIZE)

/-- The destination ranges of two descriptors overlap (R33). -/
def nmuOverlap (a b : Bytes) : Bool :=
  decide (nmuDst a < nmuDst b + nmuLen b) && decide (nmuDst b < nmuDst a + nmuLen a)

/-- Descriptors in the four running places. -/
def nmuRunning (t : Stall) : Nat := (t.nmuRun.filter (·.ran)).length

/-- The descriptor at the head of the queue may start now (R33, R37, STL_CTRL.NMU_EN). -/
def nmuMayStart (s : State) (n : Nat) (d : Bytes) : Bool :=
  let t := s.stall n
  s.flag (Reg.STL_CTRL n) F.STL_CTRL_NMU_EN && decide (nmuRunning t < 4) &&
    !nmuRingFull s n &&
    !(nmuFence d && !t.nmuRun.isEmpty) && !(t.nmuRun.any fun r => r.ran && nmuOverlap r.desc d)

/-- A descriptor of operation `op`, or one with a reserved OP, reaches its turn: it leaves the queue, is checked, and has
its effect; its completion is then due (R33–R36). -/
def nmuTurn (s : State) (n op : Nat) : State :=
  match (s.stall n).nmuQ with
  | [] => s
  | d :: q =>
    if (nmuOp d = op ∨ nmuOp d = 0 ∨ 4 < nmuOp d) ∧ nmuMayStart s n d ∧ !s.stallFailed n then
      let s := s.updStall n fun t => { t with nmuQ := q }
      let st := nmuCheck d
      let (s, r) :=
        if st ≠ St.ok then (s, (⟨d, st, 0, 0, true⟩ : NmuDone))
        else
          let (s, st, k, res) := nmuWork s d
          (s, ⟨d, st, res, k, true⟩)
      s.updStall n fun t => { t with nmuRun := t.nmuRun ++ [r] }
    else s

/-- GO: the staged descriptor enters the queue, or is discarded with OVERFLOW when the queue is full; a stall not
IN_SERVICE refuses it with RIGHTS (R33, Table STL-6). -/
def nmuGo (s : State) (n : Nat) : State :=
  let d := s.staged (Reg.STL_NMU_DESC n 0) 8
  let t := s.stall n
  if 64 ≤ t.nmuQ.length then s.setFld (Reg.STL_NMU_STATUS n) F.STL_NMU_STATUS_OVERFLOW 1
  else if t.service == .inService then s.updStall n fun t => { t with nmuQ := t.nmuQ ++ [d] }
  else s.updStall n fun t => { t with nmuRun := t.nmuRun ++ [⟨d, St.rights, 0, 0, false⟩] }

/-- A completion entry (Table STL-5). -/
def nmuEntry (r : NmuDone) (phase : Bool) : Bytes :=
  toLE 4 (nmuTag r.desc) ++ toLE 1 r.status ++ toLE 1 (nmuOp r.desc) ++ toLE 2 (b2n phase) ++ toLE 4 r.result ++
    toLE 4 r.doneBytes

/-- The next slot of a ring and its phase, which inverts on each pass. -/
def ringNext (slot log2 : Nat) (phase : Bool) : Nat × Bool :=
  if slot + 1 = 2 ^ log2 then (0, !phase) else (slot + 1, phase)

/-- Write an entry to a stall's completion ring and raise vector 384 + n (R37, Table HST-5). -/
def nmuRingPush (s : State) (n : Nat) (e : Bool → Bytes) : State :=
  let t := s.stall n
  let s := s.ringWrite (s.base (Reg.STL_NMU_CQ_BASE_LO n)) (16 * t.nmuSlot) (e t.nmuPhase)
  let (slot, phase) := ringNext t.nmuSlot (s.fld (Reg.STL_NMU_CQ_CTRL n) F.STL_NMU_CQ_CTRL_LOG2_SIZE) t.nmuPhase
  let s := s.updStall n fun t => { t with nmuSlot := slot, nmuPhase := phase }
  s.msixRaise (384 + n)

/-- Indexes in `nmuRun` of the finished descriptors that may complete now: with the ring full, those that ask for no entry (R37). -/
def nmuDue (s : State) (n : Nat) : List Nat :=
  (List.range (s.stall n).nmuRun.length).filter fun i =>
    !(nmuRingFull s n && ((s.stall n).nmuRun[i]?.any fun r => nmuCqe r.desc))

/-- A finished descriptor completes. Which of them is a free value, for those that run at once complete in any order (R33): a
descriptor with FENCE started only when every earlier one had completed. Its entry is written when CQE asks for it and the ring is
enabled, and held while the ring is full; with the ring disabled there is no entry, now or later (DESIGN CHOICE, log 209). EVENT
also sends an INFO record (R37, Table STL-4). -/
def nmuComplete (s : State) (n : Nat) : State :=
  let due := nmuDue s n
  let (r, s') := if due.length ≤ 1 then (0, s) else s.draw
  let i := due.getD (r % due.length) 0
  match (if due.isEmpty then none else (s.stall n).nmuRun[i]?) with
  | none => s
  | some x =>
    let en := s'.flag (Reg.STL_NMU_CQ_CTRL n) F.STL_NMU_CQ_CTRL_EN
    let s' := s'.updStall n fun t => { t with nmuRun := t.nmuRun.eraseIdx i }
    let s' := if nmuCqe x.desc && en then nmuRingPush s' n (nmuEntry x) else s'
    if nmuEvent x.desc then s'.raise Tag.stl Config.nmuEventCode Sev.info (nmuDst x.desc) [] else s'

/-- A write of STL_NMU_GO (R33). -/
def execNmuGo (stall : Fin 128) (data : Word) (s : State) : Res :=
  .next (if bit data.toNat 0 then nmuGo s stall else s)

/-- A FILL reaches its turn (R35). -/
def execNmuFill (stall : Fin 128) (s : State) : Res := .next (s.ifStarts (nmuTurn s stall opFill))

/-- A COPY reaches its turn (R35). -/
def execNmuCopy (stall : Fin 128) (s : State) : Res := .next (s.ifStarts (nmuTurn s stall opCopy))

/-- A COMPARE reaches its turn (R35). -/
def execNmuCompare (stall : Fin 128) (s : State) : Res := .next (s.ifStarts (nmuTurn s stall opCompare))

/-- A REDUCE reaches its turn (R35). -/
def execNmuReduce (stall : Fin 128) (s : State) : Res := .next (s.ifStarts (nmuTurn s stall opReduce))

/-- A finished descriptor completes (R37). -/
def execNmuComplete (stall : Fin 128) (s : State) : Res := .next (s.ifRuns (nmuComplete s stall))

/-- Held completions are written while the ring has room. -/
def nmuFlush : Nat → State → Nat → State
  | 0, s, _ => s
  | fuel + 1, s, n =>
    if (s.stall n).nmuRun.isEmpty || nmuRingFull s n then s else nmuFlush fuel (nmuComplete s n) n

/-- A write of the consumer index frees slots; completions held by a full ring are written (R37). -/
def nmuCqHead (s : State) (n data : Nat) : State :=
  let wasFull := nmuRingFull s n
  let s := s.setFld (Reg.STL_NMU_CQ_HEAD n) F.STL_NMU_CQ_HEAD_HEAD data
  if wasFull then nmuFlush (s.stall n).nmuRun.length s n else s

/-- A write of STL_NMU_CQ_HEAD (R37). -/
def execNmuCqHeadWrite (stall : Fin 128) (data : Word) (s : State) : Res := .next (nmuCqHead s stall data.toNat)

/-- A write of STL_NMU_CQ_CTRL: EN from 0 to 1 resets the ring to slot 0 and PHASE 1; LOG2_SIZE outside 4–12 is left
unchanged (R37). -/
def nmuCqCtrl (s : State) (n data : Nat) : State :=
  let r := Reg.STL_NMU_CQ_CTRL n
  let was := s.flag r F.STL_NMU_CQ_CTRL_EN
  let l := bits data 3 0
  let s := if 4 ≤ l ∧ l ≤ 12 then s.setFld r F.STL_NMU_CQ_CTRL_LOG2_SIZE l else s
  let s := s.setFld r F.STL_NMU_CQ_CTRL_EN (bits data 31 31)
  if bit data 31 && !was then s.updStall n fun t => { t with nmuSlot := 0, nmuPhase := true } else s

/-- A write of STL_NMU_CQ_CTRL that enables the ring (R37). -/
def execNmuCqEnable (stall : Fin 128) (data : Word) (s : State) : Res := .next (nmuCqCtrl s stall data.toNat)

end Sys2Proof.Machine
end

