-- ==== Sys2Proof/Machine/HtpSend.lean ====
section
/-!
DEFINITION. Machine/HtpSend.lean: the sending side of the transport that every subsystem uses: routes and port outputs
(R182, R234), sequences, windows and SYNC (R174, R177, R183), messages (R180), PUT (R181), and local operations (R192).
-/
namespace Sys2Proof.Machine

/-! ### Ports and routes -/

/-- Harness port `p`. -/
def State.port (s : State) (p : Nat) : Port := s.ports.getD p {}

/-- Change harness port `p`. -/
def State.updPort (s : State) (p : Nat) (f : Port → Port) : State := { s with ports := s.ports.put p (f (s.port p)) }

/-- The port is UP. -/
def State.portUp (s : State) (p : Nat) : Bool := (s.port p).state == .up

/-- Ports of a route entry in list order (Table HTP-4). -/
def routePorts (e : Nat) : List Nat := (List.range (bits e 17 16 + 1)).map fun i => bits e (4 * i + 3) (4 * i)

/-- The output port for a packet: the UP ports of its destination's route entry, by PATH (R182); a request of a team that this
module issues keeps to the span's ports when some are among them (R213). -/
def State.choosePort (s : State) (p : Pkt) : Option Nat :=
  let e := s.htp.routes.getD p.dst 0
  if !bit e 31 then none
  else
    let u := (routePorts e).filter s.portUp
    let own := if p.src = s.node ∧ p.opcode < 0x40 ∧ opClass p.opcode ≠ 1 then
        match s.teamSlot p.team with
        | some k => u.filter fun i => bit (s.fld (Reg.TEM_TEAM_PORTS k) F.TEM_TEAM_PORTS_PORTS) i
        | none => []
      else []
    let u := if own.isEmpty then u else own
    if u.isEmpty then none else u[p.path % u.length]?

/-- Ports that copies of an MSTORE leave on: the UP ports of its group's list but the one it came in on (R188). -/
def State.groupPorts (s : State) (p : Pkt) (port : Nat) : List Nat :=
  let e := s.htp.groups.getD (p.dst % 4096) 0
  (List.range 16).filter fun i => bit e 31 && bit e i && i != port && s.portUp i

/-- A packet finds no usable route: discarded and counted; HTP 0x0001 at most once per destination per ms (R182). -/
def State.noRoute (s : State) (arrival : Nat) (p : Pkt) : State :=
  let s := s.bump Reg.HTP_NOROUTE
  let due := match s.htp.noRouteAt.get? p.dst with
    | some t => decide (t + 1000000 ≤ s.nowH)
    | none => true
  if due then
    let s := { s with htp := { s.htp with noRouteAt := s.htp.noRouteAt.put p.dst s.nowH } }
    s.raise Tag.htp 0x0001 Sev.degraded p.dst [arrival, 0, p.path, 0]
  else s

/-- Credits left in a class at a port: (G_c − S_c) mod 2¹⁶ with G_c the peer's freed count plus its share (R156). -/
def Port.credits (x : Port) (c : Nat) : Nat :=
  (x.peerFreed.getD c 0 + x.peerShare.getD c 0 + 65536 - x.sent.getD c 0 % 65536) % 65536

/-- Set element `i` of a list of four counters. -/
def setNth (l : List Nat) (i v : Nat) : List Nat := l.set i v

/-- The packet an output's destination queue sends next: its oldest green one, or its oldest yellow one where no queue of the output
holds a green one (R234). -/
def queueHead (items : List PortItem) (key : Nat) : Option PortItem :=
  if items.any (!·.yellow) then items.find? fun it => it.key == key && !it.yellow else items.find? (·.key == key)

/-- Deficit round-robin over the destination queues of an output (R234): the packet sent next, the queue whose turn it is and the
deficits. A queue whose packet may not go now, for want of credits, keeps its place and its deficit; an empty one has none. -/
def drrPick (items : List PortItem) (may : PortItem → Bool) : Nat → Nat → Tab Nat → Option (PortItem × Nat × Tab Nat)
  | 0, _, _ => none
  | fuel + 1, pos, defs =>
    let next := (pos + 1) % 64
    let grown := if (queueHead items next).any may then defs.upd next 0 (· + 65) else defs
    match queueHead items pos with
    | none => drrPick items may fuel next (if items.any (·.key == pos) then grown else grown.del pos)
    | some it =>
      let d := defs.getD pos 0
      if may it && decide (it.pkt.slots ≤ d) then some (it, pos, defs.put pos (d - it.pkt.slots))
      else drrPick items may fuel next grown

/-- A packet leaves its destination queue of a port output (R240). -/
def portLeave (s : State) (port : Nat) (it : PortItem) : State :=
  if it.cls = 0 ∨ it.cls = 2 then histSample s 0 port it.key it.stamp else s

/-- A packet leaves a port: its slots are counted as sent and its START as a sign of life. -/
def State.portEmit (s : State) (port : Nat) (it : PortItem) : State :=
  let s := s.updPort port fun x => { x with
    txq := x.txq.erase it
    sent := setNth x.sent it.cls ((x.sent.getD it.cls 0 + it.pkt.slots) % 65536)
    creditDirty := true
    sentStart := true }
  (portLeave s port it).emit (.packet port it.pkt)

/-- A port output sends what its credits allow: classes C1 and C3 uncharged by fairness, then the destination queues by
deficit round-robin, green before yellow (R234). -/
def State.portDrain : Nat → State → Nat → State
  | 0, s, _ => s
  | fuel + 1, s, port =>
    let x := s.port port
    if x.state != .up then s
    else
      let ready := x.txq.filter fun it => decide (it.pkt.slots ≤ x.credits it.cls)
      match ready.find? fun it => it.cls == 1 || it.cls == 3 with
      | some it => State.portDrain fuel (s.portEmit port it) port
      | none =>
        if !s.flag Reg.RNS_CTRL F.RNS_CTRL_FAIR_EN then
          match ready with
          | it :: _ => State.portDrain fuel (s.portEmit port it) port
          | [] => s
        else
          match drrPick (x.txq.filter fun it => it.cls == 0 || it.cls == 2) (ready.contains ·) 130 x.drrPos x.drrDef with
          | some (it, pos, defs) =>
            let s := s.updPort port fun x => { x with drrPos := pos, drrDef := defs }
            State.portDrain fuel (s.portEmit port it) port
          | none => s

/-- A packet enters a port output: a C0 or C2 packet that would exceed its destination queue's limit is discarded (R234). -/
def State.portQueue (s : State) (port : Nat) (yellow : Bool) (p : Pkt) : State :=
  let cls := opClass p.opcode
  let key := p.dst % 64
  let x := s.port port
  let inQ := (x.txq.filter fun it => it.key == key && (it.cls == 0 || it.cls == 2)).foldl (fun n it => n + it.pkt.slots) 0
  if s.flag Reg.RNS_CTRL F.RNS_CTRL_FAIR_EN && (cls == 0 || cls == 2) &&
      decide (s.fld Reg.RNS_FAIR_QMAX F.RNS_FAIR_QMAX_QMAX < inQ + p.slots) then
    s.bump Reg.RNS_FAIR_DROP
  else
    let s := s.updPort port fun x => { x with txq := x.txq ++ [⟨cls, key, yellow, p, s.nowH⟩] }
    s.portDrain ((s.port port).txq.length) port

/-- Queue key on the local path: UNIT of a message, the home stall of a memory opcode, mod 64 (R234). -/
def Pkt.localKey (p : Pkt) : Nat := (if isMessage p.opcode then p.unit else homeStall p.addr) % 64

/-- Fairness charges and queues the packet: classes C0 and C2 (R233). -/
def charged (p : Pkt) : Bool := opClass p.opcode == 0 || opClass p.opcode == 2

/-- A packet has a destination queue on the local path: R234 gives a key to memory opcodes and to messages, and none to Courier's. -/
def localCharged (p : Pkt) : Bool := charged p && decide (p.opcode < 0x30)

/-- Slots that wait in a destination queue of the local path. -/
def localSlots (s : State) (key : Nat) : Nat :=
  (s.htp.parked.filter fun x => localCharged x.2.pkt && x.2.key == key).foldl (fun n x => n + x.2.pkt.slots) 0

/-- A packet leaves its destination queue of the local path, which it entered at tick `stamp` (R240). -/
def localLeave (s : State) (p : Pkt) (stamp : Nat) : State :=
  if localCharged p then histSample s 0 16 p.localKey stamp else s

/-- Route a packet of this module, or in transit, to an output (R182). -/
def State.route (s : State) (arrival : Nat) (yellow : Bool) (p : Pkt) : State :=
  match s.choosePort p with
  | some port => s.portQueue port yellow p
  | none => s.noRoute arrival p

/-! ### Sending requests -/

/-- Send state of a destination. -/
def State.dest (s : State) (d : Nat) : Dest :=
  s.htp.dests.getD d { cwnd := s.fld Reg.HTP_CC_PARAM F.HTP_CC_PARAM_INIT * 256 }

/-- Change the send state of a destination. -/
def State.updDest (s : State) (d : Nat) (f : Dest → Dest) : State :=
  { s with htp := { s.htp with dests := s.htp.dests.put d (f (s.dest d)) } }

/-- The next path id of the spray mask after `last`, ascending and wrapping (R183). -/
def State.nextPath (s : State) (last : Nat) : Nat :=
  let mask := s.fld Reg.HTP_CTRL F.HTP_CTRL_SPRAY_MASK
  ((List.range 16).map fun i => (last + 1 + i) % 16).find? (fun p => bit mask p) |>.getD 0

/-- Window of a destination in packets: min(CWND, 4,096); with CC_EN = 0 CWND stays at INIT (R177, R190). -/
def State.window (s : State) (d : Dest) : Nat :=
  if s.flag Reg.HTP_CTRL F.HTP_CTRL_CC_EN then min (d.cwnd / 256) 4096
  else s.fld Reg.HTP_CC_PARAM F.HTP_CC_PARAM_INIT

/-- A SYNC leaves for a destination, carrying the incarnation and the start sequence; it is kept to be sent again unchanged (R174). -/
def State.emitSync (s : State) (d start : Nat) : State :=
  let path := s.nextPath (s.dest d).lastPath
  let p : Pkt := { dst := d, src := s.node, opcode := Op.sync, path := path, seq := start, offset := s.reg Reg.HTP_INCARN,
                   tse := s.nowH % 2 ^ 32 }
  (s.updDest d fun x => { x with lastPath := path, sync := .sent p 1 s.nowH }).route 0 false p

/-- Requests outstanding at a destination: of its pair, of Courier, and MSTOREs it has not answered (R177, R188, R203). -/
def State.outstanding (s : State) (d : Nat) : Nat :=
  (s.dest d).out.length + (s.dest d).courier +
    (s.htp.mstores.filter fun m => m.members.contains d && !m.uni.contains d).length

/-- One request leaves now: next path, fresh TSE (R177, R183). -/
def State.emitReq (s : State) (d : Nat) (r : Req) (retx : Bool) : State × Req :=
  let x := s.dest d
  let path := s.nextPath (if retx then r.pkt.path else x.lastPath)
  let s := if retx then s else s.updDest d fun x => { x with lastPath := path }
  let p := { r.pkt with path := path, retx := retx, tse := s.nowH % 2 ^ 32 }
  let r := { r with pkt := p, sends := r.sends + 1, lastSend := s.nowH, pathEpoch := (s.dest d).pathEpoch }
  (s.route 0 false p, r)

/-- A sender does not send its (n + 16)-th atomic to a destination while the n-th is outstanding (R178). -/
def atomicBlocked (x : Dest) (r : Req) : Bool :=
  isAtomic r.pkt.opcode && x.out.any fun o => isAtomic o.pkt.opcode && decide (o.atom + 16 ≤ x.atomics + 1)

/-- Waiting requests leave while the window allows, each taking the next SEQ and counting on the tally of the present
fence phase (R177, R185). -/
def State.pump : Nat → State → Nat → State
  | 0, s, _ => s
  | fuel + 1, s, d =>
    let x := s.dest d
    match x.waiting with
    | [] => s
    | r :: rest =>
      if x.sync != .done || decide (s.window x ≤ s.outstanding d) || atomicBlocked x r then s
      else
        let ph := s.htp.phase
        let at' := x.atomics + b2n (isAtomic r.pkt.opcode)
        let r := { r with pkt := { r.pkt with seq := x.nextSeq }, phase := ph, atom := at' }
        let s := s.updDest d fun x => { x with
          waiting := rest, nextSeq := (x.nextSeq + 1) % 2 ^ 32, atomics := at',
          t0 := x.t0 + b2n (!ph), t1 := x.t1 + b2n ph }
        let (s, r) := s.emitReq d r false
        let s := s.updDest d fun x => { x with out := x.out ++ [r] }
        State.pump fuel (s.bump Reg.HTP_TX_PKTS) d

/-! ### Courier's packets at the sender (R203) -/

/-- Change Courier's state. -/
def State.updCou (s : State) (f : Courier → Courier) : State := { s with cou := f s.cou }

/-- Connection c. -/
def State.conn (s : State) (c : Nat) : Conn := s.cou.conns.getD c {}

/-- Replace connection c. -/
def State.setConn (s : State) (c : Nat) (x : Conn) : State := s.updCou fun u => { u with conns := u.conns.put c x }

/-- Change connection c. -/
def State.updConn (s : State) (c : Nat) (f : Conn → Conn) : State := s.setConn c (f (s.conn c))

/-- A connection does not send its (n + 16)-th atomic while its n-th is outstanding (R202). -/
def connAtomicBlocked (x : Conn) (r : CouReq) : Bool :=
  r.req.pkt.opcode == Co.atomic && x.out.any fun o => o.req.pkt.opcode == Co.atomic && decide (o.req.atom + 16 ≤ x.atomics + 1)

/-- Courier packets of a connection leave while the destination's window, the connection's 65,536 and its 16 atomics allow. -/
def couPump : Nat → State → Nat → State
  | 0, s, _ => s
  | fuel + 1, s, c =>
    let x := s.conn c
    let d := s.dest x.peer
    match x.waiting with
    | [] => s
    | r :: rest =>
      if !s.htp.quietDone || decide (s.window d ≤ s.outstanding x.peer) || decide (65536 ≤ x.out.length) ||
          connAtomicBlocked x r then s
      else
        let ph := s.htp.phase
        let s := s.updDest x.peer fun d => { d with t0 := d.t0 + b2n (!ph), t1 := d.t1 + b2n ph, courier := d.courier + 1 }
        let k := x.atomics + b2n (r.req.pkt.opcode == Co.atomic)
        let (s, q) := s.emitReq x.peer { r.req with phase := ph, atom := k } false
        let s := s.updConn c fun x => { x with waiting := rest, out := x.out ++ [⟨q, r.wr⟩], atomics := k }
        couPump fuel (s.bump Reg.HTP_TX_PKTS) c

/-- Every connection's waiting packets leave as far as they may. -/
def couPumpAll (s : State) (c : Nat) : State := couPump (s.conn c).waiting.length s c

/-- What waits for a destination leaves as far as the window allows: the transport's requests, then Courier's packets of each
connection to it (R177, R203). -/
def State.pumpAll (s : State) (d : Nat) : State :=
  let s := s.pump ((s.dest d).waiting.length) d
  forEach (s.cou.conns.filter fun x => x.2.peer == d && !x.2.waiting.isEmpty) s fun s x => couPumpAll s x.1

/-- Start a SYNC where none is done or outstanding: none before the quiet time ends (R174). -/
def State.startSync (s : State) (d : Nat) : State :=
  let x := s.dest d
  if x.sync == .none && s.htp.quietDone then
    s.emitSync d ((x.nextSeq + 2 ^ 32 - 1) % 2 ^ 32)
  else s

/-- A request to another node joins those that wait for SYNC and window (R174, R177). -/
def State.enqueueReq (s : State) (d : Nat) (r : Req) : State :=
  let s := s.updDest d fun x => { x with waiting := x.waiting ++ [{ r with pkt := { r.pkt with dst := d, src := s.node } }] }
  let s := s.startSync d
  s.pump ((s.dest d).waiting.length) d

/-- Send a request to another node. -/
def State.sendReq (s : State) (d : Nat) (p : Pkt) (o : Origin) : State := s.enqueueReq d { pkt := p, origin := o }

/-- A FLOW no unanswered packet to the destination carries (R180). -/
def State.takeFlow (s : State) (d : Nat) : State × Nat :=
  let x := s.dest d
  let used := (x.out.map (·.pkt.flow)) ++ (x.waiting.map (·.pkt.flow))
  let f := ((List.range (used.length + 1)).map fun i => (x.nextFlow + i) % 65536).find? (fun f => !used.contains f) |>.getD
    x.nextFlow
  (s.updDest d fun x => { x with nextFlow := (f + 1) % 65536 }, f)

/-- Pieces of at most 4,096 bytes with their offsets. -/
def pieces (data : Bytes) : List (Nat × Bytes) :=
  (List.range (ceilDiv data.length 4096)).map fun i => (4096 * i, (data.drop (4096 * i)).take 4096)

/-- Bytes padded with zeros to whole 64-byte units. -/
def pad64 (bs : Bytes) : Bytes := padTo (64 * ceilDiv bs.length 64) bs

/-- Send a message (R180): to this module itself it is delivered at once (R192). -/
def State.sendMsgFrom (s : State) (d op team unit : Nat) (data : Bytes) (o : Origin) : State :=
  let data := pad64 data
  let ep := s.teamEpoch team
  if d = s.node then
    { s with inbox := s.inbox ++ [{ op := op, src := d, team := team, epoch := ep, unit := unit, data := data }] }
  else
    let (s, flow) := s.takeFlow d
    forEach (pieces data) s fun s (k, bs) =>
      s.sendReq d { opcode := op, epoch := ep, team := team, flow := flow, length := bs.length,
                    offset := msgOffset unit (data.length / 64) k, payload := bs } o

/-- Send a message nobody but the transport waits for. -/
def State.sendMsg (s : State) (d op team unit : Nat) (data : Bytes) : State := s.sendMsgFrom d op team unit data .control

/-- A store to this module itself is applied by the home controllers (R192). -/
def localStore (s : State) (off : Nat) (data : Bytes) : State × Nat :=
  let (s, st) := enqueueLines s off data
  (if st = St.ok then paceNote s off else s, st)

/-- Store bytes at an offset of a node as PUT packets of one FLOW (R181); on this module they are local writes (R192). -/
def State.sendPut (s : State) (d team off : Nat) (data : Bytes) (o : Origin) : State :=
  let data := pad64 data
  if d = s.node then
    let (s, st) := localStore s off data
    if o = .silent ∨ o = .control then s else { s with htp := { s.htp with answered := s.htp.answered ++ [(o, st, [])] } }
  else
    let (s, flow) := s.takeFlow d
    forEach (pieces data) s fun s (k, bs) =>
      s.sendReq d { opcode := Op.put, epoch := s.teamEpoch team, team := team, flow := flow, length := bs.length,
                    offset := off + k, payload := bs } o

/-- One STORE of whole lines (at most 4,096 bytes). -/
def State.sendStore (s : State) (d team off : Nat) (data : Bytes) (o : Origin) : State :=
  if d = s.node then
    let (s, st) := localStore s off data
    if o = .silent ∨ o = .control then s else { s with htp := { s.htp with answered := s.htp.answered ++ [(o, st, [])] } }
  else
    s.sendReq d { opcode := Op.store, epoch := s.teamEpoch team, team := team, length := data.length, offset := off,
                  payload := data } o

/-- One LOAD of whole lines (at most 4,096 bytes). -/
def State.sendLoad (s : State) (d team off len : Nat) (o : Origin) : State :=
  if d = s.node then
    let (s, st, bs) := s.readMem off len
    { s with htp := { s.htp with answered := s.htp.answered ++ [(o, st, bs)] } }
  else s.sendReq d { opcode := Op.load, epoch := s.teamEpoch team, team := team, length := len, offset := off } o

/-- A STORE or LOAD made elsewhere is issued; to this module itself it bypasses the harness (R192). -/
def State.issue (s : State) (d : Nat) (p : Pkt) (o : Origin) : State :=
  if d ≠ s.node then s.sendReq d p o
  else if p.opcode = Op.store then
    let (s, st) := localStore s p.offset p.payload
    { s with htp := { s.htp with answered := s.htp.answered ++ [(o, st, [])] } }
  else
    let (s, st, bs) := s.readMem p.offset p.length
    { s with htp := { s.htp with answered := s.htp.answered ++ [(o, st, bs)] } }

/-- Answer a request: replies echo its SEQ, TSE and PATH (Table HTP-1). -/
def State.reply (s : State) (req : Pkt) (op status csn : Nat) (unsync mc : Bool) (data : Bytes) : State :=
  s.route 0 false { dst := req.src, src := s.node, opcode := op, path := req.path, flow := req.flow,
                    length := if op = Op.loadResp then data.length else if op = Op.atomicResp then 64 else 0,
                    seq := req.seq, offset := replyOffset unsync mc status csn, tse := req.tse, payload := data }

/-- Take the first message of the inbox that satisfies `p`. -/
def State.takeMsg (s : State) (p : Msg → Bool) : Option (Msg × State) :=
  match s.inbox.find? p with
  | some m => some (m, { s with inbox := s.inbox.erase m })
  | none => none

end Sys2Proof.Machine
end

