-- ==== Sys2Proof/Machine/Mx.lean ====
section
/-!
DEFINITION. Machine/Mx.lean: the number formats of Table FMT-1, MX blocks (R46, R47), the mint's quantiser (R48–R51, R371)
and Coinpack coins (R54–R56, R63).
-/
namespace Sys2Proof.Machine

/-- An MX element format of Table FMT-3. `eb = 0` marks MXINT8. -/
structure MxFmt where
  w : Nat
  eb : Nat
  mb : Nat
  bias : Int
  emax : Int
  /-- code of the largest magnitude -/
  top : Nat
  deriving DecidableEq, Repr

/-- The MX format of a code of Table FMT-1, none for scalar and reserved codes. -/
def mxFmt : Nat → Option MxFmt
  | 0x3 => some ⟨8, 4, 3, 7, 8, 0x7E⟩
  | 0x4 => some ⟨8, 5, 2, 15, 15, 0x7B⟩
  | 0x5 => some ⟨6, 3, 2, 3, 4, 0x1F⟩
  | 0x6 => some ⟨6, 2, 3, 1, 2, 0x1F⟩
  | 0x7 => some ⟨4, 2, 1, 1, 2, 0x7⟩
  | 0x8 => some ⟨8, 0, 6, 0, 0, 127⟩
  | _ => none

/-- The scalar format of a code of Table FMT-1. -/
def scalarFmt : Nat → Option FpFmt
  | 0x0 => some .f32
  | 0x1 => some .bf16
  | 0x2 => some .f16
  | _ => none

/-- The code names an MX format. -/
def isMx (c : Nat) : Bool := (mxFmt c).isSome

/-- The code is not reserved (R44). -/
def fmtKnown (c : Nat) : Bool := decide (c ≤ 0x8)

/-- Bytes of one MX block: packed elements and the scale byte (R46). -/
def MxFmt.blockBytes (f : MxFmt) : Nat := 4 * f.w + 1

/-- Bytes of 32 elements in the storage of a format. -/
def blockBytes (c : Nat) : Nat :=
  match mxFmt c with
  | some f => f.blockBytes
  | none => match scalarFmt c with
    | some g => 4 * (g.eb + g.mb + 1)
    | none => 0

/-- The value of an element code, without the block scale (Table FMT-3). -/
def MxFmt.elem (f : MxFmt) (c : Nat) : Num :=
  if f.eb = 0 then
    let v : Int := if c < 128 then c else (c : Int) - 256
    .fin (decide (v < 0)) v.natAbs (-6)
  else
    let neg := bit c (f.w - 1)
    let mag := c % 2 ^ (f.w - 1)
    let ex := mag / 2 ^ f.mb
    let ma := mag % 2 ^ f.mb
    if f.eb = 4 ∧ f.mb = 3 ∧ mag = 0x7F then .nan
    else if f.eb = 5 ∧ ex = 31 then if ma = 0 then .inf neg else .nan
    else if ex = 0 then .fin neg ma (1 - f.bias - f.mb)
    else .fin neg (2 ^ f.mb + ma) (ex - f.bias - f.mb)

/-- The 32 element codes and the scale byte of a stored block (R46). -/
def MxFmt.unpack (f : MxFmt) (bs : Bytes) : List Nat × Nat :=
  let v := fld bs 0 (4 * f.w)
  ((List.range 32).map fun i => v / 2 ^ (f.w * i) % 2 ^ f.w, fld bs (4 * f.w) 1)

/-- The stored block of 32 element codes and a scale byte (R46). -/
def MxFmt.pack (f : MxFmt) (codes : List Nat) (scale : Nat) : Bytes :=
  toLE (4 * f.w) (codes.zipIdx.foldl (fun v (c, i) => v + c % 2 ^ f.w * 2 ^ (f.w * i)) 0) ++ toLE 1 scale

/-- The values of a block: scale times element, NaN throughout under scale 0xFF (R47). -/
def MxFmt.values (f : MxFmt) (codes : List Nat) (scale : Nat) : List Num :=
  codes.map fun c => if scale = 0xFF then .nan else (f.elem c).scale ((scale : Int) - 127)

/-! ### The mint -/

/-- One step of the stall's LFSR (R51). -/
def lfsrStep (s : Nat) : Nat := if s % 2 = 1 then (s / 2) ^^^ 0x80200003 else s / 2

/-- Sixteen steps; the draw is the low 16 bits of the result (R51). -/
def lfsr16 (s : Nat) : Nat := (List.range 16).foldl (fun s _ => lfsrStep s) s

/-- The block exponent of the largest magnitude (R48). -/
def blockExp (emax : Int) (xs : List Num) : Int :=
  let top := xs.foldl (fun (a : Option Int) x => match x with
    | .fin _ m e =>
      if m = 0 then a
      else
        let l := (Nat.log2 m : Int) + e
        match a with
        | some b => some (max b l)
        | none => some l
    | _ => a) none
  match top with
  | none => -127
  | some l => max (-127) (min 127 (l - emax))

/-- Magnitude code of `m·2^e` rounded to nearest even on the format's grid, unbounded above. -/
def MxFmt.rne (f : MxFmt) (m : Nat) (e : Int) : Nat :=
  if f.eb = 0 then rneShift m (-6 - e) else roundCode f.mb f.bias m e

/-- Magnitude code of `m·2^e` truncated to the format's grid, and the discarded part in 2^16 of one step (R50). -/
def MxFmt.trunc (f : MxFmt) (m : Nat) (e : Int) : Nat × Nat × Bool :=
  if m = 0 then (0, 0, true)
  else
    let k : Int := if f.eb = 0 then -6 else lastPlace f.mb (1 - f.bias) m e
    let sh := k - e
    if sh ≤ 0 then
      let q := m * 2 ^ sh.natAbs
      (if f.eb = 0 then q else (k + f.mb + f.bias - 1).toNat * 2 ^ f.mb + q, 0, true)
    else
      let d := 2 ^ sh.natAbs
      let q := m / d
      let r := m % d
      (if f.eb = 0 then q else (k + f.mb + f.bias - 1).toNat * 2 ^ f.mb + q, 65536 * r / d, r == 0)

/-- Convert one element (R49, R50): element code, next LFSR state, saturated. -/
def MxFmt.quant (f : MxFmt) (stochastic : Bool) (lfsr : Nat) (x : Num) (e : Int) : Nat × Nat × Bool :=
  let lfsr' := if stochastic then lfsr16 lfsr else lfsr
  match x.scale (-e) with
  | .fin neg m ex =>
    let mag :=
      if stochastic then
        let (lo, fr, exact) := f.trunc m ex
        if exact then lo else if lfsr' % 65536 < fr then lo + 1 else lo
      else f.rne m ex
    let sat := decide (f.top < mag)
    let mag := min mag f.top
    let code :=
      if f.eb = 0 then (if neg && mag != 0 then 256 - mag else mag)
      else mag + b2n neg * 2 ^ (f.w - 1)
    (code, lfsr', sat)
  | _ => (0, lfsr', false)

/-- Mint one block of 32 values (R48–R51): stored bytes, next LFSR state, elements saturated, non-finite. -/
def MxFmt.mint (f : MxFmt) (stochastic : Bool) (lfsr : Nat) (xs : List Num) : Bytes × Nat × Nat × Bool :=
  let bad := xs.any fun x => match x with
    | .fin .. => false
    | _ => true
  if bad then
    let lfsr' := if stochastic then xs.foldl (fun s _ => lfsr16 s) lfsr else lfsr
    (f.pack (xs.map fun _ => 0) 0xFF, lfsr', 0, true)
  else
    let e := blockExp f.emax xs
    let (codes, lfsr', sats) := xs.foldl (fun (cs, l, n) x =>
      let (c, l, sat) := f.quant stochastic l x e
      (cs ++ [c], l, n + b2n sat)) ([], lfsr, 0)
    (f.pack codes (e + 127).toNat, lfsr', sats, false)

/-- A scalar conversion of the mint (R371), from an exact value. -/
def mintScalar (g : FpFmt) (x : Num) : Bytes := toLE ((g.eb + g.mb + 1) / 8) (g.encode x)

/-! ### Coinpack -/

/-- Canonical codes (R56): symbol, length and code of every symbol with a code, by length and then symbol. -/
def buildCodes (lens : Bytes) : List (Nat × Nat × Nat) :=
  let ls := (lens.map BitVec.toNat).zipIdx
  let byLen := fun b => (ls.filter fun (l, _) => l == b).map (·.2)
  (List.range 16).foldl (fun (acc, c) b =>
    if b = 0 then (acc, c)
    else
      let c := c * 2
      let ss := byLen b
      (acc ++ ss.zipIdx.map (fun (s, i) => (s, b, c + i)), c + ss.length)) (([] : List (Nat × Nat × Nat)), 0) |>.1

/-- Bit `b` of a byte string (bit `b mod 8` of byte `⌊b ÷ 8⌋`). -/
def streamBit (bs : Bytes) (b : Nat) : Nat := (bs.getD (b / 8) 0).toNat / 2 ^ (b % 8) % 2

/-- Symbols of a block of 32 element codes (R55). -/
def symbolsOf (fmt : Nat) (codes : List Nat) : List Nat :=
  if fmt = 0x7 then (List.range 16).map fun j => codes.getD (2 * j) 0 + 16 * codes.getD (2 * j + 1) 0 else codes

/-- Bits of the code of a symbol, most significant first; none when the symbol has no code. -/
def codeBits (tab : List (Nat × Nat × Nat)) (sym : Nat) : Option (List Nat) :=
  (tab.find? fun (s, _, _) => s == sym).map fun (_, len, c) => (List.range len).map fun i => c / 2 ^ (len - 1 - i) % 2

/-- Stream bits packed into bytes, lowest bit first, zero-padded. -/
def packBits : Nat → List Nat → Bytes
  | 0, _ => []
  | fuel + 1, l =>
    if l.isEmpty then []
    else BitVec.ofNat 8 ((l.take 8).zipIdx.foldl (fun v (b, i) => v + b * 2 ^ i) 0) :: packBits fuel (l.drop 8)

/-- One sub-stream: the coded bytes of eight blocks. -/
def codeLane (fmt : Nat) (tab : List (Nat × Nat × Nat)) (blocks : List (List Nat)) : Option Bytes :=
  let syms := blocks.flatMap (symbolsOf fmt)
  let bs := syms.foldl (fun (acc : Option (List Nat)) s => match acc, codeBits tab s with
    | some a, some b => some (a ++ b)
    | _, _ => none) (some [])
  bs.map fun l => packBits (l.length / 8 + 1) l

/-- The MX blocks of a byte string. -/
def splitBlocks (f : MxFmt) (n : Nat) (bs : Bytes) : List Bytes :=
  (List.range n).map fun i => slice bs (i * f.blockBytes) f.blockBytes

/-- Code 32 MX blocks (stored bytes) into a coin (R53, R54): none when a symbol has no code or the length does not fit. -/
def encodeCoin (fmt : Nat) (slotB : Bool) (slot : Slot) (raw : Bool) (blocks : Bytes) : Option Bytes :=
  match mxFmt fmt with
  | none => none
  | some f =>
    let bl := splitBlocks f 32 blocks
    let un := bl.map f.unpack
    let tab := buildCodes slot.lens
    let lane := fun k => codeLane fmt tab (((un.map (·.1)).drop (8 * k)).take 8)
    match lane 0, lane 1, lane 2, lane 3 with
    | some l0, some l1, some l2, some l3 =>
      let body := l0 ++ l1 ++ l2 ++ l3
      let comp := ceilDiv (48 + body.length) 16
      if 4096 ≤ comp then none
      else
        let hdr := comp + 1024 * 2 ^ 12 + b2n slotB * 2 ^ 23 + slot.gen * 2 ^ 24 + fmt * 2 ^ 30 + b2n raw * 2 ^ 34
        let coded := padTo (comp * 16)
          (toLE 8 hdr ++ toLE 2 l0.length ++ toLE 2 l1.length ++ toLE 2 l2.length ++ toLE 2 l3.length ++
            un.map (fun u => BitVec.ofNat 8 u.2) ++ body)
        some (coded ++ if raw then padTo (16 * ceilDiv (32 * f.blockBytes) 16) blocks else [])
    | _, _, _, _ => none

/-- A whole code within `[bp, be)`: its symbol and length. -/
def codeFits (tab : List (Nat × Nat × Nat)) (c : Bytes) (bp be : Nat) : Option (Nat × Nat) :=
  let rec go : Nat → Nat → Nat → Option (Nat × Nat)
    | 0, _, _ => none
    | fuel + 1, len, v =>
      if be < bp + len + 1 then none
      else
        let v := 2 * v + streamBit c (bp + len)
        match tab.find? fun (_, l, cd) => l == len + 1 && cd == v with
        | some (s, l, _) => some (s, l)
        | none => go fuel (len + 1) v
  go 15 0 0

/-- One decoding lane of R63: element codes (short of `q` on a shortfall) and whether it counts as a mismatch. -/
def expandLane (fmt : Nat) (tab : List (Nat × Nat × Nat)) (c : Bytes) (q be : Nat) : Nat → Nat → List Nat → List Nat × Bool
  | 0, _, acc => (acc, true)
  | fuel + 1, bp, acc =>
    if q ≤ acc.length then (acc.take q, decide (8 ≤ be - bp))
    else
      let emit := fun (sym : Nat) => if fmt = 0x7 then acc ++ [sym % 16, sym / 16] else acc ++ [sym]
      match codeFits tab c bp be with
      | some (sym, len) => expandLane fmt tab c q be fuel (bp + len) (emit sym)
      | none => if 15 ≤ be - bp then expandLane fmt tab c q be fuel (bp + 15) (emit 0) else (acc, true)

/-- expand_coin of R63: 1,024 element codes, 32 scale bytes, and whether the coin counts as a length mismatch. -/
def expandCoin (fmt : Nat) (slot : Slot) (c : Bytes) (want : Nat) : List Nat × List Nat × Bool :=
  let h := fld c 0 8
  let comp := bits h 11 0
  let decl := min (bits h 22 12) 1024
  let lens := (List.range 4).map fun k => fld c (8 + 2 * k) 2
  let used := 48 + lens.foldl (· + ·) 0
  let endB := comp * 16
  let mis := decide (1024 < bits h 22 12) || decide (decl < want) || decide (comp < 3) || decide (endB < used) ||
    decide (16 ≤ endB - used)
  let tab := buildCodes slot.lens
  let (out, mis, _) := (List.range 4).foldl (fun (out, mis, pos) k =>
    let q := min (decl - 256 * k) 256
    let len := lens.getD k 0
    let (els, m) := expandLane fmt tab c q (min (pos + len) endB * 8) 300 (min pos endB * 8) []
    (out ++ els ++ List.replicate (256 - els.length) 0, mis || m, pos + len)) ([], mis, 48)
  (out, (List.range 32).map fun i => fld c (16 + i) 1, mis)

/-- A coin matches its slot and page (R61). -/
def coinMatches (slot : Slot) (pageFmt : Nat) (hdr : Nat) : Bool :=
  slot.valid && bits hdr 29 24 == slot.gen && bits hdr 33 30 == slot.format && bits hdr 33 30 == pageFmt

/-- Bytes of the raw copy of a coin (R54). -/
def rawCopyBytes (fmt : Nat) : Nat := 16 * ceilDiv (32 * blockBytes fmt) 16

/-- Bytes of a whole coin, from its header. -/
def coinBytes (hdr : Nat) : Nat := bits hdr 11 0 * 16 + if bit hdr 34 then rawCopyBytes (bits hdr 33 30) else 0

/-- The Kraft sum of R57. -/
def kraft (lens : Bytes) : Nat := lens.foldl (fun n l => if l = 0 then n else n + 2 ^ (15 - l.toNat)) 0

/-- The checks of R57 on a 320-byte record, in the order of FMT_TBL_RESULT.ERR: 0, or 3 FORMAT to 7 KRAFT. -/
def checkRecord (r : Bytes) : Nat :=
  let fmt := fld r 0 1 % 16
  let lens := slice r 64 256
  if !isMx fmt then 3
  else if lens.any fun l => 15 < l.toNat then 4
  else if lens.all (· == 0) then 5
  else if (fmt = 5 ∨ fmt = 6) ∧ (lens.drop 64).any (· != 0) then 6
  else if 32768 < kraft lens then 7
  else 0

end Sys2Proof.Machine
end

