-- ==== Sys2Proof/Machine/Fmt.lean ====
section
/-!
DEFINITION. Machine/Fmt.lean: a stall's code-table slots (R57–R60), its mint seed (R51) and rotary frequencies (R52).
-/
namespace Sys2Proof.Machine

/-- Number-format unit of stall `n`. -/
def State.fmtUnit (s : State) (n : Nat) : FmtUnit := s.fmts.getD n {}

/-- Change the number-format unit of stall `n`. -/
def State.updFmt (s : State) (n : Nat) (f : FmtUnit → FmtUnit) : State :=
  { s with fmts := s.fmts.put n (f (s.fmtUnit n)) }

/-- Slot A (false) or B (true). -/
def FmtUnit.slot (u : FmtUnit) (b : Bool) : Slot := if b then u.b else u.a

/-- Replace a slot. -/
def FmtUnit.setSlot (u : FmtUnit) (b : Bool) (x : Slot) : FmtUnit := if b then { u with b := x } else { u with a := x }

/-- A load starts: the record is read and checked into staging, and BUSY is set; a GO while BUSY is ignored (R60). -/
def tableLoadGo (s : State) (n : Nat) (slot : Bool) : State :=
  if s.flag (Reg.FMT_TBL_RESULT n) F.FMT_TBL_RESULT_BUSY then s
  else
    let src := s.base (Reg.FMT_TBL_SRC_LO n)
    let s := s.setFld (Reg.FMT_TBL_RESULT n) F.FMT_TBL_RESULT_BUSY 1
    if hbmBytes < src + 320 then s.updFmt n fun u => { u with load := some (slot, 0, [], 1) }
    else
      let (s, st, r) := s.readMem src 320
      let err := if st ≠ St.ok then 2 else checkRecord r
      s.updFmt n fun u => { u with load := some (slot, fld r 0 1 % 16, slice r 64 256, err) }

/-- Commit a checked table to a slot: VALID, FORMAT, and GEN advanced (R58). -/
def commitSlot (s : State) (n : Nat) (slot : Bool) (fmt : Nat) (lens : Bytes) : State :=
  s.updFmt n fun u => u.setSlot slot
    { valid := true, format := fmt, gen := ((u.slot slot).gen + 1) % 64, lens := lens }

/-- The staged load commits if the slot's HOLD is zero, or is refused (R60). -/
def tableLoadCommit (s : State) (n : Nat) : State :=
  match (s.fmtUnit n).load with
  | none => s
  | some (slot, fmt, lens, err) =>
    let err := if err = 0 ∧ s.holdCount n slot ≠ 0 then 8 else err
    let s := s.updFmt n fun u => { u with load := none }
    let r := Reg.FMT_TBL_RESULT n
    let s := ((s.setFld r F.FMT_TBL_RESULT_BUSY 0).setFld r F.FMT_TBL_RESULT_DONE 1).setFld r F.FMT_TBL_RESULT_ERR err
    if err = 0 then
      let s := commitSlot s n slot fmt lens
      s.raise Tag.fmt 0x0001 Sev.info n [b2n slot, ((s.fmtUnit n).slot slot).gen, fmt, 0]
    else s.raise Tag.fmt 0x0002 Sev.info n [b2n slot, err, 0, 0]

/-- A write of FMT_TBL_CTRL. -/
def tblCtrlWrite (s : State) (n data : Nat) : State :=
  let s := s.setFld (Reg.FMT_TBL_CTRL n) F.FMT_TBL_CTRL_SLOT (bits data 0 0)
  if bit data 1 then tableLoadGo s n (bit data 0) else s

/-- Writing FMT_TBL_CTRL.GO (R60). -/
def execTableLoadGo (stall : Fin 128) (data : Word) (s : State) : Res := .next (tblCtrlWrite s stall data.toNat)

/-- The staged load completes (R60). -/
def execTableLoadCommit (stall : Fin 128) (s : State) : Res := .next (s.ifRuns (tableLoadCommit s stall))

/-- A write of FMT_MINT_SEED loads the LFSR, zero loading 1 (R51). -/
def mintSeedWrite (s : State) (n data : Nat) : State :=
  s.setReg (Reg.FMT_MINT_SEED n) (if data = 0 then 1 else data)

/-- A write of FMT_MINT_SEED (R51). -/
def execMintSeedWrite (stall : Fin 128) (data : Word) (s : State) : Res := .next (mintSeedWrite s stall data.toNat)

/-- A write of FMT_ROPE_FREQ stores F[INDEX] and advances INDEX, from 127 to 0. -/
def ropeFreqWrite (s : State) (n data : Nat) : State :=
  let i := s.fld (Reg.FMT_ROPE_IDX n) F.FMT_ROPE_IDX_INDEX
  let s := s.updFmt n fun u => { u with rope := u.rope.put i data }
  s.setFld (Reg.FMT_ROPE_IDX n) F.FMT_ROPE_IDX_INDEX ((i + 1) % 128)

/-- A write of FMT_ROPE_FREQ (R52). -/
def execRopeFreqWrite (stall : Fin 128) (data : Word) (s : State) : Res := .next (ropeFreqWrite s stall data.toNat)

/-- A page is tagged when a CPK page is installed in its home memory (R59). -/
def State.tagPage (s : State) (page : Nat) (slot : Bool) : State := { s with holds := s.holds.put page slot }

end Sys2Proof.Machine
end

