-- ==== Sys2Proof/Machine/Kv.lean ====
section
/-!
DEFINITION. Machine/Kv.lean: the layout of KV pages and page tables (R86–R91): page table entries, root lines, pair headers
and page lists, the contents of pages, and the small operations over them that the append path, the edits, the walker,
Pedigree and Packhorse share.
-/
namespace Sys2Proof.Machine

/-! ### Page table entries (Table KVP-3) -/

def pteV (p : Nat) : Bool := bit p 63
def ptePoison (p : Nat) : Bool := bit p 62
def pteCpk (p : Nat) : Bool := bit p 61
def pteSlot (p : Nat) : Bool := bit p 60
def pteFmt (p : Nat) : Nat := bits p 59 56
def pteFill (p : Nat) : Nat := bits p 55 48
def pteNode (p : Nat) : Nat := bits p 47 32
def ptePage (p : Nat) : Nat := bits p 31 0

/-- A PTE from its fields. -/
def mkPte (v poison cpk slot : Bool) (fmt fill node page : Nat) : Nat :=
  page % 2 ^ 32 + node % 2 ^ 16 * 2 ^ 32 + fill % 256 * 2 ^ 48 + fmt % 16 * 2 ^ 56 + b2n slot * 2 ^ 60 + b2n cpk * 2 ^ 61 +
    b2n poison * 2 ^ 62 + b2n v * 2 ^ 63

/-- The PTE with another FILL. -/
def pteSetFill (p n : Nat) : Nat := setBits p 55 48 n

/-- The PTE with another page index. -/
def pteSetPage (p n : Nat) : Nat := setBits p 31 0 n

/-- First page index of the slower tiers. -/
def hbmPages : Nat := 18874368

/-- A page index lies in local HBM. -/
def isHbm (page : Nat) : Bool := decide (page < hbmPages)

/-! ### Shape (Table KVP-1) -/

/-- Head dimension of an HDIM code. -/
def hdimOf (c : Nat) : Nat := 64 * 2 ^ c

/-- Bytes per position of a format at head dimension d. -/
def posBytes (fmt d : Nat) : Nat := d / 16 * blockBytes fmt

/-- Raw positions per page: the whole positions that fit. -/
def rawCap (fmt d : Nat) : Nat := 0x4000 / posBytes fmt d

/-- Positions per coin. -/
def coinPos (d : Nat) : Nat := 512 / d

/-- Bytes of the tail area of a Coinpack page. -/
def tailBytes (fmt : Nat) : Nat := 64 * ceilDiv (32 * blockBytes fmt) 64

/-! ### Root line and pair headers (Tables KVP-5, KVP-6) -/

namespace Root
def epoch (r : Bytes) : Nat := fld r 0 2
def cur (r : Bytes) : Nat := fld r 2 2
def old (r : Bytes) : Nat := fld r 4 2
def lowered (r : Bytes) : Bool := bit (fld r 6 1) 2
def state (r : Bytes) : Nat := fld r 6 1 % 4
def handle (r : Bytes) : Nat := fld r 8 8
def layer0 (r : Bytes) : Nat := fld r 16 2
def nlayers (r : Bytes) : Nat := fld r 18 2
def kvh0 (r : Bytes) : Nat := fld r 20 1
def nkvh (r : Bytes) : Nat := fld r 21 1
def hdim (r : Bytes) : Nat := bits (fld r 22 1) 6 5
def fmt (r : Bytes) : Nat := fld r 22 1 % 16
def xpage (r : Bytes) (k : Nat) : Nat := fld r (24 + 4 * k) 4
def grace (r : Bytes) : Nat := fld r 40 4
def ngrace (r : Bytes) : Nat := fld r 44 2
def d (r : Bytes) : Nat := hdimOf (hdim r)
def pairs (r : Bytes) : Nat := nlayers r * nkvh r
def live : Nat := 1
def releasing : Nat := 2
def setTallies (r : Bytes) (c o : Nat) : Bytes := patch (patch r 2 (toLE 2 c)) 4 (toLE 2 o)
def setFlags (r : Bytes) (st : Nat) (low : Bool) : Bytes := patch r 6 (toLE 1 (st + 4 * b2n low))
end Root

/-- "none" in GRACE. -/
def noPage : Nat := 0xFFFFFFFF

/-- Offset of pair header i of the table at `root` (R90). -/
def pairOff (root : Nat) (r : Bytes) (i : Nat) : Nat :=
  if i < 255 then root + 64 + 64 * i else pageBytes * Root.xpage r ((i - 255) / 256) + 64 * ((i - 255) % 256)

/-- The pair index of a layer and KV head, when the table has it (R90). -/
def pairIdx (r : Bytes) (layer kvh : Nat) : Option Nat :=
  if Root.layer0 r ≤ layer ∧ layer < Root.layer0 r + Root.nlayers r ∧ Root.kvh0 r ≤ kvh ∧ kvh < Root.kvh0 r + Root.nkvh r then
    some ((layer - Root.layer0 r) * Root.nkvh r + (kvh - Root.kvh0 r))
  else none

namespace Pair
def len (h : Bytes) : Nat := fld h 0 4
def npages (h : Bytes) : Nat := fld h 4 2
def nshared (h : Bytes) : Nat := fld h 6 2
def patchIdx (h : Bytes) : Nat := fld h 8 2
def cpk (h : Bytes) : Bool := bit (fld h 10 1) 0
def list (h : Bytes) (k : Nat) : Nat := fld h (16 + 4 * k) 4
def patchEnt (h : Bytes) : Nat × Nat := (fld h 32 8, fld h 40 4)
def setLen (h : Bytes) (n : Nat) : Bytes := patch h 0 (toLE 4 n)
def setNpages (h : Bytes) (n : Nat) : Bytes := patch h 4 (toLE 2 n)
def setNshared (h : Bytes) (n : Nat) : Bytes := patch h 6 (toLE 2 n)
def setList (h : Bytes) (k p : Nat) : Bytes := patch h (16 + 4 * k) (toLE 4 p)
end Pair

/-- "no entry" in PATCH_IDX. -/
def noPatch : Nat := 0xFFFF

/-- The 16 bytes of a list entry (Table KVP-4). -/
def entryBytes (pte first : Nat) : Bytes := toLE 8 pte ++ toLE 4 first ++ zeros 4

/-- A pair header with PATCH set. -/
def Pair.setPatch (h : Bytes) (idx pte first : Nat) : Bytes := patch (patch h 8 (toLE 2 idx)) 32 (entryBytes pte first)

/-- A pair header with no PATCH. -/
def Pair.clearPatch (h : Bytes) : Bytes := patch (patch h 8 (toLE 2 noPatch)) 32 (zeros 16)

/-- The header of an empty pair. -/
def emptyPair (cpk : Bool) : Bytes := patch (patch (zeros 64) 8 (toLE 2 noPatch)) 10 (toLE 1 (b2n cpk))

/-- PT_ROOT names a page-aligned offset of local HBM (R100). -/
def rootOk (root : Nat) : Bool := decide (root % pageBytes = 0) && decide (root < hbmBytes)

/-! ### Reading and writing tables -/

/-- A table line is read; a bad line is reported as a lost structure (Table FAR-3). -/
def State.tableRead (s : State) (o n : Nat) : State × Nat × Bytes :=
  let (s, st, d) := s.readMem o n
  if st = St.ok then (s, st, d) else (s.structLost Tag.kvp st (o / pageBytes), st, d)

/-- The root line. -/
def State.readRoot (s : State) (root : Nat) : State × Nat × Bytes := s.tableRead root 64

/-- Pair header i. -/
def State.readPair (s : State) (root : Nat) (r : Bytes) (i : Nat) : State × Nat × Bytes := s.tableRead (pairOff root r i) 64

/-- Offset of list entry i of a pair. -/
def entryOff (h : Bytes) (i : Nat) : Nat := pageBytes * Pair.list h (i / 1024) + 16 * (i % 1024)

/-- List entry i: PATCH where it names the entry (R90). -/
def State.readEntry (s : State) (h : Bytes) (i : Nat) : State × Nat × Nat × Nat :=
  if i = Pair.patchIdx h then (s, St.ok, Pair.patchEnt h)
  else
    let (s, st, e) := s.tableRead (entryOff h i) 16
    (s, st, Machine.fld e 0 8, Machine.fld e 8 4)

/-- Entries `[i, n)` of a pair, stopping at the first bad line. -/
def State.readEntries : Nat → State → Bytes → Nat → List (Nat × Nat) → State × Nat × List (Nat × Nat)
  | 0, s, _, _, acc => (s, St.ok, acc)
  | k + 1, s, h, i, acc =>
    let (s, st, e) := s.readEntry h i
    if st = St.ok then State.readEntries k s h (i + 1) (acc ++ [e]) else (s, st, acc)

/-- The whole list of a pair. -/
def State.readList (s : State) (h : Bytes) : State × Nat × List (Nat × Nat) := s.readEntries (Pair.npages h) h 0 []

/-- Number of the last entry with FIRST ≤ p by binary search (R91). -/
def findEntry : Nat → State → Bytes → Nat → Nat → Nat → State × Nat × Nat
  | 0, s, _, _, lo, _ => (s, St.ok, lo)
  | fuel + 1, s, h, p, lo, hi =>
    if hi - lo ≤ 1 then (s, St.ok, lo)
    else
      let mid := (lo + hi) / 2
      let (s, st, e) := s.readEntry h mid
      if st ≠ St.ok then (s, st, lo)
      else if e.2 ≤ p then findEntry fuel s h p mid hi else findEntry fuel s h p lo mid

/-- find_page of R91: status, and the list index of the page that holds p with its entry. -/
def State.findPage (s : State) (h : Bytes) (p : Nat) : State × Nat × Option (Nat × Nat × Nat) :=
  if Pair.npages h = 0 then (s, St.ok, none)
  else
    let (s, st, i) := findEntry 13 s h p 0 (Pair.npages h)
    if st ≠ St.ok then (s, st, none)
    else
      let (s, st, e) := s.readEntry h i
      if st ≠ St.ok then (s, st, none)
      else if p < e.2 ∨ e.2 + pteFill e.1 ≤ p then (s, St.ok, none) else (s, St.ok, some (i, e))

/-- The base of owner words (R335). -/
def State.ownerBase (s : State) : Nat := s.base Reg.FAR_OWNER_BASE_LO

/-- The owner word of a KV page installed in a table (R335). -/
def State.writeOwner (s : State) (page root pair first : Nat) : State :=
  s.poke (s.ownerBase + 16 * page) (toLE 4 (root / pageBytes) ++ toLE 2 pair ++ toLE 1 1 ++ zeros 1 ++ toLE 4 first ++ zeros 4)

/-- A KV page is installed: its owner word, and its hold tag when it is a Coinpack page (R59, R335). -/
def State.installPage (s : State) (page root pair first : Nat) (cpk slot : Bool) : State :=
  let s := s.writeOwner page root pair first
  if cpk then s.tagPage page slot else s

/-- An enabled protected region holds page `p` (R357). -/
def State.protectedPage (s : State) (p : Nat) : Bool :=
  (List.range 16).any fun r =>
    let b := s.fld (Reg.ASY_PR_BASE r) F.ASY_PR_BASE_VALUE
    s.flag (Reg.ASY_PR_CTRL r) F.ASY_PR_CTRL_EN && decide (b ≤ p) &&
      decide (p < b + s.fld (Reg.ASY_PR_PAGES r) F.ASY_PR_PAGES_VALUE)

/-- Allocate `n` pages on a stall; a failure returns those already taken. -/
def State.allocPages : Nat → State → Nat → Nat → List Nat → State × Option (List Nat)
  | 0, s, _, _, acc => (s, some acc)
  | k + 1, s, n, handle, acc =>
    match s.allocPage n handle with
    | (s, some p) => State.allocPages k s n handle (acc ++ [p])
    | (s, none) => (acc.reverse.foldl State.freePage s, none)

/-- Free pages in order. -/
def State.freePages (s : State) (ps : List Nat) : State := ps.foldl State.freePage s

/-! ### Share counts (R110) -/

/-- Offset of the share count of a page: its stall's first 18 pages hold one 16-bit count per page. -/
def shareOff (page : Nat) : Nat := page / stallPages * stallBytes + 2 * (page % stallPages)

/-- The share count. -/
def State.share (s : State) (page : Nat) : State × Nat × Nat := s.readNat (shareOff page) 2

/-- Set a share count. -/
def State.setShare (s : State) (page n : Nat) : State := s.poke (shareOff page) (toLE 2 n)

/-- A failed attach takes back one count (R110). A page that the attach found with count zero is still named by its holder alone and
is not freed; any other page whose count reaches zero is. -/
def State.undoShare (s : State) (x : Nat × Bool) : State :=
  let (s, st, n) := s.share x.1
  if st ≠ St.ok then s
  else
    let s := s.setShare x.1 (n - 1)
    if n ≤ 1 ∧ !x.2 then s.freePage x.1 else s

/-! ### Page contents -/

/-- One position's values: K then V, each d elements (R87). -/
def rawValues (fmt d : Nat) (bs : Bytes) : List Num :=
  match mxFmt fmt with
  | some f => (List.range (d / 16)).flatMap fun i =>
      let (c, sc) := f.unpack (slice bs (i * f.blockBytes) f.blockBytes)
      f.values c sc
  | none => match scalarFmt fmt with
    | some g =>
      let w := (g.eb + g.mb + 1) / 8
      (List.range (2 * d)).map fun i => g.decode (fld bs (w * i) w)
    | none => []

/-- Event FMT 0x0003 or 0x0004 detail byte 3: older, newer, or slot not VALID or FORMAT differs, from the slot's or from the
FMT of the coin's page (R61, Table FMT-8). -/
def staleKind (slot : Slot) (fmt hdr : Nat) : Nat :=
  if !slot.valid || bits hdr 33 30 != slot.format || bits hdr 33 30 != fmt then 2
  else if isNewer 6 (bits hdr 29 24) slot.gen then 1 else 0

/-- What reading one coin gives: its 32 blocks as element codes and scales, or the status that ends the work item. -/
structure CoinRead where
  status : Nat
  blocks : List (List Nat × Nat)
  staleRaw : Bool
  staleEnd : Bool
  mismatch : Bool
  hdr : Nat
  deriving DecidableEq, Repr

/-- Read coin k of a page, elements 0 to want − 1 (R61, R63–R65): a coin that does not match gives its raw copy, or ends
the work item with TABLE_STALE. `unit` is the reading stall's number-format unit. Scale bytes beyond byte COMP_LEN × 16 of the
coded part, which a coin with COMP_LEN below 3 lacks, are taken as 0 (DESIGN CHOICE, log 307). -/
def State.readCoin (s : State) (unit : FmtUnit) (page fmt off want : Nat) : State × CoinRead :=
  let o := page * pageBytes + 16 * off
  let (s, st, hb) := s.readMem o 8
  if st ≠ St.ok then (s, ⟨st, [], false, false, false, 0⟩)
  else
    let hdr := leNat hb
    let slot := unit.slot (bit hdr 23)
    if coinMatches slot fmt hdr then
      let (s, st, c) := s.readMem o (bits hdr 11 0 * 16)
      if st ≠ St.ok then (s, ⟨st, [], false, false, false, hdr⟩)
      else
        let (els, scales, mis) := expandCoin fmt slot c want
        (s, ⟨St.ok, (List.range 32).map fun i => ((els.drop (32 * i)).take 32, scales.getD i 0), false, false, mis, hdr⟩)
    else if bit hdr 34 then
      match mxFmt fmt with
      | some f =>
        let (s, st, c) := s.readMem (o + bits hdr 11 0 * 16) (32 * f.blockBytes)
        if st ≠ St.ok then (s, ⟨st, [], false, false, false, hdr⟩)
        else
          let decl := min (bits hdr 22 12) 1024
          let mis := decide (1024 < bits hdr 22 12) || decide (decl < want)
          let bl := (splitBlocks f 32 c).map f.unpack
          let cut := bl.zipIdx.map fun ((c, sc), i) => (c.zipIdx.map fun (e, j) => if 32 * i + j < decl then e else 0, sc)
          (s, ⟨St.ok, cut, true, false, mis, hdr⟩)
      | none => (s, ⟨St.rights, [], false, false, false, hdr⟩)
    else (s, ⟨St.tableStale, [], false, true, false, hdr⟩)

/-- Stored bytes of the blocks of one position taken from a coin. -/
def coinPosBytes (f : MxFmt) (d : Nat) (blocks : List (List Nat × Nat)) (t : Nat) : Bytes :=
  ((blocks.drop (t * (d / 16))).take (d / 16)).flatMap fun (c, sc) => f.pack c sc

/-- What reading positions of a page gives. -/
structure PageRead where
  status : Nat
  /-- stored bytes of each position, in the raw layout of R87 -/
  rows : List Bytes
  /-- headers of the first coin presented from a raw copy, and of the coin that ended the item -/
  staleRaw : Option Nat
  staleEnd : Option Nat
  deriving DecidableEq, Repr

/-- Read the coins of a page for positions `[a, b)`; FMT_LEN_MISMATCH and FMT_STALE_RAW of the stall count per coin (R61, R64). -/
def readCoins (stall : Nat) (page fmt d a b : Nat) (dir : Bytes) : List Nat → State → PageRead → State × PageRead
  | [], s, r => (s, r)
  | k :: ks, s, r =>
    match mxFmt fmt with
    | none => (s, { r with status := St.rights })
    | some f =>
      let c := coinPos d
      let hi := min b ((k + 1) * c)
      let (s, x) := s.readCoin (s.fmtUnit stall) page fmt (fld dir (2 + 2 * k) 2) ((hi - k * c) * 2 * d)
      let s := if x.mismatch then s.bump (Reg.FMT_LEN_MISMATCH stall) else s
      let s := if x.staleRaw then s.bump (Reg.FMT_STALE_RAW stall) else s
      let r := { r with
        staleRaw := if x.staleRaw && r.staleRaw.isNone then some x.hdr else r.staleRaw
        staleEnd := if x.staleEnd then some x.hdr else r.staleEnd }
      if x.status ≠ St.ok then (s, { r with status := x.status })
      else
        let ts := (rangeFrom (k * c) c).filter fun t => decide (a ≤ t) && decide (t < b)
        readCoins stall page fmt d a b dir ks s
          { r with rows := r.rows ++ ts.map fun t => coinPosBytes f d x.blocks (t - k * c) }

/-- Read tail positions `[x, y)` of a Coinpack page: those beyond the group of c positions that the tail area holds are zero, and
the run then counts once in FMT_LEN_MISMATCH (R65, R88). -/
def State.readTail (s : State) (stall page fmt d x y : Nat) : State × Nat × List Bytes :=
  let sz := posBytes fmt d
  let n := min y (coinPos d) - x
  let (s, st, bs) := s.readMem (page * pageBytes + (pageBytes - tailBytes fmt) + x * sz) (n * sz)
  if st ≠ St.ok then (s, st, [])
  else
    let s := if coinPos d < y then s.bump (Reg.FMT_LEN_MISMATCH stall) else s
    (s, St.ok, ((List.range n).map fun i => slice bs (i * sz) sz) ++ List.replicate (y - x - n) (zeros sz))

/-- Read positions `[a, b)` of a page, counted from FIRST, as stall `stall` presents them (R65, R87, R88, R92). -/
def State.readPage (s : State) (stall pte d a b : Nat) : State × PageRead :=
  let page := ptePage pte
  let fmt := pteFmt pte
  let sz := posBytes fmt d
  let o := page * pageBytes
  let split := fun (bs : Bytes) (n : Nat) => (List.range n).map fun i => slice bs (i * sz) sz
  if b ≤ a then (s, ⟨St.ok, [], none, none⟩)
  else if !pteCpk pte then
    let (s, st, bs) := s.readMem (o + a * sz) ((b - a) * sz)
    (s, ⟨st, if st = St.ok then split bs (b - a) else [], none, none⟩)
  else
    let (s, st, dir) := s.readMem o 256
    if st ≠ St.ok then (s, ⟨st, [], none, none⟩)
    else
      let c := coinPos d
      let inCoins := Machine.fld dir 0 1 * c
      let ks := (List.range (Machine.fld dir 0 1)).filter fun k => decide (a < (k + 1) * c) && decide (k * c < b)
      let (s, r) := readCoins stall page fmt d a (min b inCoins) dir ks s ⟨St.ok, [], none, none⟩
      if r.status ≠ St.ok then (s, r)
      else if b ≤ inCoins then (s, r)
      else
        let (s, st, rows) := s.readTail stall page fmt d (max a inCoins - inCoins) (b - inCoins)
        (s, { r with status := st, rows := r.rows ++ rows })

end Sys2Proof.Machine
end

