-- ==== Sys2Proof/Machine/Append.lean ====
section
/-!
DEFINITION. Machine/Append.lean: the append path of a stall (R93–R95) and the mint's work on its rows (R48–R53, R371).
-/
namespace Sys2Proof.Machine

/-- Work of stall `n`. -/
def State.work (s : State) (n : Nat) : Work := s.works.getD n {}

/-- Change the work of stall `n`. -/
def State.updWork (s : State) (n : Nat) (f : Work → Work) : State := { s with works := s.works.put n (f (s.work n)) }

/-- The next arrival number of the append, edit and attention queues. -/
def State.nextOrd (s : State) : Nat × State := (s.kvp.ord, { s with kvp := { s.kvp with ord := s.kvp.ord + 1 } })

/-! ### Append descriptor (Table KVP-7) -/

namespace Ap
def khalf (m : Bytes) : Bool := bit (fld m 1 1) 2
def event (m : Bytes) : Bool := bit (fld m 1 1) 1
def ack (m : Bytes) : Bool := bit (fld m 1 1) 0
def ifmt (m : Bytes) : Nat := fld m 2 1 % 16
def nkv (m : Bytes) : Nat := fld m 3 1 % 8
def layer (m : Bytes) : Nat := fld m 4 2
def npos (m : Bytes) : Nat := fld m 6 2
def handle (m : Bytes) : Nat := fld m 8 8
def root (m : Bytes) : Nat := fld m 16 8
def pos (m : Bytes) : Nat := fld m 24 4
def kvh0 (m : Bytes) : Nat := fld m 28 1
def tag (m : Bytes) : Nat := fld m 32 4
def ackNode (m : Bytes) : Nat := fld m 36 2
def ackDest (m : Bytes) : Nat := fld m 40 8
end Ap

/-- Reserved values or bits of an append descriptor (check 2 of R93). -/
def appendReserved (m : Bytes) : Bool :=
  fld m 0 1 != 1 || fld m 1 1 / 8 != 0 || decide (2 < Ap.ifmt m) || fld m 2 1 / 16 != 0 || fld m 3 1 / 8 != 0 ||
    Ap.nkv m == 0 || decide (4 < Ap.nkv m) || fld m 29 3 != 0 || fld m 38 2 != 0 || fld m 48 16 != 0

/-- Bytes of an input element. -/
def ifmtBytes (f : Nat) : Nat := if f = 0 then 4 else 2

/-- An input element as FP32, exactly. -/
def inputF32 (fmt c : Nat) : Nat := if fmt = 0 then c else if fmt = 1 then bf16ToF32 c else f16ToF32 c

/-- The d input elements of half `u` of KV head `k` at position `i` (R93), as FP32 codes. -/
def inputHalf (m : Bytes) (d i k u : Nat) : List Nat :=
  let w := ifmtBytes (Ap.ifmt m)
  let base := 64 + ((i * Ap.nkv m + k) * 2 + u) * d * w
  (List.range d).map fun e => inputF32 (Ap.ifmt m) (fld m (base + e * w) w)

/-! ### The mint -/

/-- Settings and running state of the mint during one append. -/
structure Mint where
  stoch : Bool
  rope : Bool
  half : Bool
  pairs : Nat
  freq : Tab Nat
  lfsr : Nat
  sat : Nat := 0
  nonfin : Nat := 0
  deriving DecidableEq, Repr

/-- The mint's settings as the registers give them at the start of an append (R53). -/
def State.mint (s : State) (n : Nat) : Mint :=
  let r := Reg.FMT_MINT_CTRL n
  { stoch := s.flag r F.FMT_MINT_CTRL_ROUND, rope := s.flag r F.FMT_MINT_CTRL_ROPE_EN,
    half := s.flag r F.FMT_MINT_CTRL_ROPE_MODE, pairs := s.fld r F.FMT_MINT_CTRL_ROT_PAIRS, freq := (s.fmtUnit n).rope,
    lfsr := s.reg (Reg.FMT_MINT_SEED n) }

/-- Rotary encoding of d elements at position p (R52). -/
def Mint.rotate (m : Mint) (p d : Nat) (xs : List Nat) : List Nat :=
  (List.range (min m.pairs (d / 2))).foldl (fun xs i =>
    let (ia, ib) := if m.half then (i, i + d / 2) else (2 * i, 2 * i + 1)
    let (c, sn) := ropeCosSin (p * m.freq.getD i 0 % 2 ^ 32)
    let (a, b) := ropePair (xs.getD ia 0) (xs.getD ib 0) c sn
    (xs.set ia a).set ib b) xs

/-- Mint one half of a position into the storage of a format (R48–R51, R371). -/
def Mint.half1 (m : Mint) (fmt d : Nat) (xs : List Nat) : Bytes × Mint :=
  match mxFmt fmt with
  | some f =>
    (List.range (d / 32)).foldl (fun (out, m) b =>
      let (bs, l, sat, bad) := f.mint m.stoch m.lfsr (((xs.drop (32 * b)).take 32).map f32v)
      (out ++ bs, { m with lfsr := l, sat := m.sat + sat, nonfin := m.nonfin + b2n bad })) ([], m)
  | none => match scalarFmt fmt with
    | some g => (xs.flatMap fun x => mintScalar g (f32v x), m)
    | none => ([], m)

/-- Mint position `i`, KV head `k` of an append: K first, then V (R94). -/
def Mint.position (mt : Mint) (m : Bytes) (fmt d i k : Nat) : Bytes × Mint :=
  let u := b2n (Ap.khalf m)
  let kx := inputHalf m d i k u
  let kx := if mt.rope then mt.rotate (Ap.pos m + i) d kx else kx
  let (kb, mt) := mt.half1 fmt d kx
  let (vb, mt) := mt.half1 fmt d (inputHalf m d i k (1 - u))
  (kb ++ vb, mt)

/-- All rows of an append, in ascending position and then head: per position, one row per head. -/
def mintRows (mt : Mint) (m : Bytes) (fmt d : Nat) : List (List Bytes) × Mint :=
  (List.range (Ap.npos m)).foldl (fun (rows, mt) i =>
    let (row, mt) := (List.range (Ap.nkv m)).foldl (fun (row, mt) k =>
      let (b, mt) := mt.position m fmt d i k
      (row ++ [b], mt)) ([], mt)
    (rows ++ [row], mt)) ([], mt)

/-! ### Filling pages -/

/-- A page that takes rows. -/
structure OpenPage where
  page : Nat
  first : Nat
  fill : Nat
  cpk : Bool
  slot : Bool
  /-- Coinpack: coins, end of the last coin in bytes, rows in the tail, CLOSED -/
  ncoins : Nat
  coinEnd : Nat
  tail : List Bytes
  closed : Bool
  isNew : Bool
  deriving DecidableEq, Repr

/-- A pair being filled. -/
structure Filling where
  cur : Option OpenPage
  done : List OpenPage
  pages : List Nat
  writes : List (Nat × Bytes)
  len : Nat
  stale : Option Bool
  deriving DecidableEq, Repr

/-- What filling needs to know: format, head dimension, the table slots, CPK of new pages, their slot, raw copies. -/
structure FillEnv where
  fmt : Nat
  d : Nat
  unit : FmtUnit
  cpk : Bool
  slot : Bool
  raw : Bool
  deriving DecidableEq, Repr

/-- The slot can code pages of the format (R53 point 3). -/
def FillEnv.slotOk (e : FillEnv) (b : Bool) : Bool := (e.unit.slot b).valid && (e.unit.slot b).format == e.fmt

/-- The page takes another position. -/
def FillEnv.hasRoom (e : FillEnv) (p : OpenPage) : Bool :=
  if p.cpk then !p.closed && decide (p.fill < 255) else decide (p.fill < rawCap e.fmt e.d)

/-- Byte offset of tail position t of a Coinpack page (R88). -/
def FillEnv.tailOff (e : FillEnv) (page t : Nat) : Nat :=
  page * pageBytes + (pageBytes - tailBytes e.fmt) + t * posBytes e.fmt e.d

/-- Add one row to a page: the page, and the writes it makes (R87, R88). -/
def FillEnv.addRow (e : FillEnv) (p : OpenPage) (row : Bytes) : OpenPage × List (Nat × Bytes) :=
  if !p.cpk then
    ({ p with fill := p.fill + 1 }, [(p.page * pageBytes + p.fill * posBytes e.fmt e.d, row)])
  else
    let w := [(e.tailOff p.page p.tail.length, row)]
    let p := { p with fill := p.fill + 1, tail := p.tail ++ [row] }
    let c := coinPos e.d
    if p.tail.length < c then (p, w)
    else
      let o := p.page * pageBytes
      match encodeCoin e.fmt p.slot (e.unit.slot p.slot) e.raw p.tail.flatten with
      | some coin =>
        if p.coinEnd + coin.length ≤ pageBytes - tailBytes e.fmt then
          let k := p.ncoins
          let closed := k + 1 == 256 / c - 1
          ({ p with ncoins := k + 1, coinEnd := p.coinEnd + coin.length, tail := [], closed := closed },
            w ++ [(o + p.coinEnd, coin), (o + 2 + 2 * k, toLE 2 (p.coinEnd / 16)), (o, toLE 1 (k + 1) ++ toLE 1 (b2n closed))])
        else ({ p with closed := true }, w ++ [(o + 1, toLE 1 1)])
      | none => ({ p with closed := true }, w ++ [(o + 1, toLE 1 1)])

/-- Open a new page with FIRST = p (R53, R94). -/
def FillEnv.openNew (e : FillEnv) (f : Filling) (p : Nat) (row : Bytes) : Filling :=
  if e.cpk ∧ !e.slotOk e.slot then { f with stale := some e.slot }
  else
    let pg : OpenPage :=
      { page := f.pages.headD 0, first := p, fill := 0, cpk := e.cpk, slot := e.cpk && e.slot, ncoins := 0, coinEnd := 256,
        tail := [], closed := false, isNew := true }
    let w0 := if e.cpk then [(pg.page * pageBytes, zeros 64)] else []
    let (pg, w) := e.addRow pg row
    { f with cur := some pg, done := f.done ++ f.cur.toList, pages := f.pages.drop 1, writes := f.writes ++ w0 ++ w,
             len := p + 1 }

/-- Add the row of position p to a pair (R94 step 3): the current page takes it, or a new page opens. -/
def FillEnv.place (e : FillEnv) (f : Filling) (p : Nat) (row : Bytes) : Filling :=
  if f.stale.isSome then f
  else match f.cur with
    | some pg =>
      if p = f.len ∧ e.hasRoom pg then
        let (pg, w) := e.addRow pg row
        { f with cur := some pg, writes := f.writes ++ w, len := p + 1 }
      else e.openNew f p row
    | none => e.openNew f p row

/-- Fill a pair with the rows of positions pos, pos + 1, …. -/
def FillEnv.fillPair (e : FillEnv) (f : Filling) (pos : Nat) (rows : List Bytes) : Filling :=
  rows.zipIdx.foldl (fun f (r, i) => e.place f (pos + i) r) f

/-! ### Checks and reservation -/

/-- One named pair as the checks leave it. -/
structure NamedPair where
  idx : Nat
  hdr : Bytes
  /-- the last entry, when the first position continues it -/
  cont : Option OpenPage
  deriving DecidableEq, Repr

/-- The status check 6 of R93 gives to a pair (a last page whose PTE carries a reserved FMT is refused with RIGHTS, R44), with the page its first position would continue. -/
def State.contPage (s : State) (h : Bytes) (fmt d pos : Nat) : State × Nat × Option OpenPage :=
  let n := Pair.npages h
  if n = 0 then (s, St.ok, none)
  else
    let (s, st, e) := s.readEntry h (n - 1)
    let pte := e.1
    if st ≠ St.ok then (s, st, none)
    else if ptePoison pte then (s, St.poisoned, none)
    else if pteV pte ∧ !fmtKnown (pteFmt pte) then (s, St.rights, none)
    else if pos ≠ Pair.len h ∨ n ≤ Pair.nshared h ∨ !pteV pte ∨ pteNode pte ≠ s.node ∨ !isHbm (ptePage pte) ∨
        e.2 + pteFill pte ≠ pos then (s, St.ok, none)
    else
      let o := ptePage pte * pageBytes
      let sz := posBytes fmt d
      let pg : OpenPage :=
        { page := ptePage pte, first := e.2, fill := pteFill pte, cpk := pteCpk pte, slot := pteSlot pte, ncoins := 0,
          coinEnd := 256, tail := [], closed := false, isNew := false }
      if !pteCpk pte then
        let at0 := pteFill pte * sz
        if rawCap fmt d ≤ pteFill pte then (s, St.ok, none)
        else
          let (s, st, _) := s.readMem (o + at0 / 64 * 64) (at0 % 64)
          (s, st, some pg)
      else
        let (s, st, dir) := s.readMem o 256
        if st ≠ St.ok then (s, st, none)
        else
          let k := Machine.fld dir 0 1
          let closed := bit (Machine.fld dir 1 1) 0
          let t := pteFill pte - k * coinPos d
          let (s, st, tail) := s.readMem (o + (pageBytes - tailBytes fmt)) (t * sz)
          if st ≠ St.ok then (s, st, none)
          else if closed ∨ 255 ≤ pteFill pte then (s, St.ok, none)
          else
            let last := Machine.fld dir (2 + 2 * (k - 1)) 2 * 16
            let (s, st, hb) := if k = 0 then (s, St.ok, []) else s.readMem (o + last) 8
            let stop := if k = 0 then 256 else last + coinBytes (leNat hb)
            (s, st, some { pg with
              ncoins := k, coinEnd := stop, tail := (List.range t).map fun i => slice tail (i * sz) sz })

/-- Read the headers of the named pairs (check 5 of R93). -/
def State.pairHeaders (s : State) (root : Nat) (r : Bytes) (pos : Nat) : List Nat → List (Nat × Bytes) →
    State × Nat × List (Nat × Bytes)
  | [], acc => (s, St.ok, acc)
  | i :: is, acc =>
    let (s, st, h) := s.readPair root r i
    if st ≠ St.ok then (s, st, acc)
    else if pos < Pair.len h then (s, St.bounds, acc)
    else State.pairHeaders s root r pos is (acc ++ [(i, h)])

/-- Look at the last page of each named pair (check 6 of R93). -/
def State.pairTails (s : State) (fmt d pos : Nat) : List (Nat × Bytes) → List NamedPair → State × Nat × List NamedPair
  | [], acc => (s, St.ok, acc)
  | (i, h) :: hs, acc =>
    let (s, st, c) := s.contPage h fmt d pos
    if st ≠ St.ok then (s, st, acc) else State.pairTails s fmt d pos hs (acc ++ [⟨i, h, c⟩])

/-- The named pairs after checks 5 and 6 of R93. -/
def State.namedPairs (s : State) (root : Nat) (r : Bytes) (fmt d pos : Nat) (idxs : List Nat) : State × Nat × List NamedPair :=
  let (s, st, hs) := s.pairHeaders root r pos idxs []
  if st ≠ St.ok then (s, st, []) else s.pairTails fmt d pos hs []

/-- Pages reserved per pair (R94): ⌈NPOS ÷ P⌉ + 1. -/
def reserveCount (fmt d npos : Nat) (cpk : Bool) : Nat := ceilDiv npos (if cpk then 5 * coinPos d else rawCap fmt d) + 1

/-- List pages a pair has: the leading non-zero LIST entries. -/
def listPages (h : Bytes) : Nat := ((List.range 4).takeWhile fun k => Pair.list h k != 0).length

/-- A list page is needed when the new entries could pass the end of the last one (R94). -/
def needsList (h : Bytes) (res : Nat) : Bool := decide (1024 * listPages h < Pair.npages h + res)

/-- Reserve the pages of every named pair: data pages and list page of each. -/
def State.reservePairs (s : State) (n rootStall handle fmt d npos : Nat) : List NamedPair →
    List (List Nat × Option Nat) → State × Option (List (List Nat × Option Nat))
  | [], acc => (s, some acc)
  | p :: ps, acc =>
    let undo := fun (s : State) (x : List Nat) =>
      s.freePages (x ++ acc.flatMap fun (a, l) => a ++ l.toList)
    let res := reserveCount fmt d npos (Pair.cpk p.hdr)
    match s.allocPages res n handle [] with
    | (s, none) => (undo s [], none)
    | (s, some pages) =>
      if needsList p.hdr res && decide (listPages p.hdr < 4) then
        match s.allocPage rootStall handle with
        | (s, none) => (undo s pages, none)
        | (s, some l) => State.reservePairs s n rootStall handle fmt d npos ps (acc ++ [(pages, some l)])
      else State.reservePairs s n rootStall handle fmt d npos ps (acc ++ [(pages, none)])

/-- Fill every named pair from the given page supply. -/
def fillAll (e : FillEnv) (pos : Nat) (rows : List (List Bytes)) (ps : List NamedPair) (supply : List (List Nat)) :
    List Filling :=
  ps.zipIdx.map fun (p, k) =>
    let e := { e with cpk := Pair.cpk p.hdr }
    e.fillPair { cur := p.cont, done := [], pages := supply.getD k [], writes := [], len := Pair.len p.hdr, stale := none }
      pos (rows.map fun row => row.getD k [])

/-- Pages a filling opened, in order. -/
def Filling.opened (f : Filling) : List OpenPage := (f.done ++ f.cur.toList).filter (·.isNew)

/-- The continued page of a filling, as it ends. -/
def Filling.continued (f : Filling) : Option OpenPage := (f.done ++ f.cur.toList).find? fun p => !p.isNew

/-! ### Completion -/

/-- The stall reports an append (R93): tallies, event KVP 0x0002, and the STORE of ACK. -/
def appendDone (s : State) (n : Nat) (m : Bytes) (status bytes : Nat) : State :=
  let s := s.bump (if status = St.ok then Reg.KVP_APPENDS n else Reg.KVP_APPEND_ERR n)
  let l := Ap.layer m
  let s :=
    if status ≠ St.ok ∨ Ap.event m then
      s.raise Tag.kvp 0x0002 (if status = St.ok then Sev.info else Sev.contained) (Ap.handle m)
        [status, Ap.nkv m, l % 256, l / 256]
    else s
  if Ap.ack m then
    let e := toLE 4 (Ap.tag m) ++ toLE 1 status ++ toLE 1 1 ++ toLE 2 1 ++ toLE 4 0 ++ toLE 4 bytes
    s.sendStore (Ap.ackNode m) (Ap.handle m % 4096) (Ap.ackDest m) (padTo 64 e) .silent
  else s

/-- The head append of a stall leaves its queue with a status; a waiting APPEND message takes the place (R93). -/
def appendPop (s : State) (n : Nat) (status bytes : Nat) : State :=
  match (s.work n).appends with
  | [] => s
  | a :: rest =>
    let s := s.updWork n fun w => { w with appends := rest }
    appendDone s n a.msg status bytes

/-- Put an append into a stall's queue, or keep its message waiting while the queue holds 64 (R93); a FAILED stall refuses it
(Table STL-6). -/
def enqueueAppend (s : State) (n : Nat) (m : Msg) : State :=
  if s.stallFailed n then appendDone s n m.data St.rights 0
  else
    let (o, s) := s.nextOrd
    let svc := (s.stall n).service == .inService
    if 64 ≤ (s.work n).appends.length then s.updWork n fun w => { w with late := w.late ++ [⟨o, svc, m⟩] }
    else s.updWork n fun w => { w with appends := w.appends ++ [⟨o, m.data, svc, s.nowH, none⟩] }

/-- The first APPEND message that waits enters the queue when it has room, in the place its arrival gives it. -/
def admitLateAppend (s : State) (n : Nat) : State :=
  match (s.work n).late.find? fun x => x.msg.op == Op.append with
  | some x =>
    if (s.work n).appends.length < 64 then
      s.updWork n fun w =>
        { w with late := w.late.erase x, appends := w.appends ++ [⟨x.ord, x.msg.data, x.inSvc, s.nowH, none⟩] }
    else s
  | none => s

/-- Appends of a stall that are still to complete, queued or waiting for room: arrival number and message. -/
def Work.appendsDue (w : Work) : List (Nat × Bytes) :=
  w.appends.map (fun a => (a.ord, a.msg)) ++ (w.late.filter fun x => x.msg.op == Op.append).map fun x => (x.ord, x.msg.data)

/-- The descriptor at the head of the attention queue could start now: the queue is enabled, a running place is free, and no
append that names its handle and layer and arrived before it is still to complete (R68). -/
def attCould (s : State) (n : Nat) : Bool :=
  match (s.work n).att with
  | [] => false
  | it :: _ =>
    let w := s.work n
    s.flag (Reg.ATT_CTRL n) F.ATT_CTRL_EN && decide (w.run.length < 2) &&
      !(w.appendsDue.any fun a => decide (a.1 < it.ord) && Ap.handle a.2 == fld it.msg 8 8 && Ap.layer a.2 == fld it.msg 4 2)

/-- An earlier operation on the same table, still to end, goes first (R95); a COMPACT lets appends pass (R103). -/
def tableBusy (s : State) (root ord : Nat) (isAppend : Bool) : Bool :=
  (s.kvp.edits.any fun e => decide (e.ord < ord) && fld e.desc 8 8 == root && fld e.desc 0 1 != 0x10 &&
      !(isAppend && fld e.desc 0 1 == 0x14)) ||
    (s.works.any fun (_, w) => w.appendsDue.any fun a => decide (a.1 < ord) && Ap.root a.2 == root)

/-- An append ends TABLE_STALE: it counts in FMT_STALE_END, and event FMT 0x0004 has no coin to name: its coin GEN byte is 0
(DESIGN CHOICE, log 305; Table FMT-8). -/
def staleSlotEvent (s : State) (n handle : Nat) (slot : Bool) : State :=
  (s.bump (Reg.FMT_STALE_END n)).raise Tag.fmt 0x0004 Sev.contained handle [b2n slot, 0, ((s.fmtUnit n).slot slot).gen, 2]

/-- The checks, reservation, minting and data writes of an append that reaches its turn (R93, R94 steps 1 to 3): a refusal
status, or the run to commit. -/
def appendRun (s : State) (n : Nat) (a : AppendItem) : State × Nat × AppendRun :=
  let m := a.msg
  let no := (⟨[], []⟩ : AppendRun)
  let root := Ap.root m
  if s.role ≠ roleC ∨ !a.inSvc then (s, St.rights, no)
  else if appendReserved m then (s, St.rights, no)
  else if Ap.npos m = 0 ∨ 256 < Ap.npos m ∨ !rootOk root then (s, St.bounds, no)
  else
    let (s, st, r) := s.readRoot root
    if st ≠ St.ok then (s, st, no)
    else
      let d := Root.d r
      let fmt := Root.fmt r
      let idxs := (List.range (Ap.nkv m)).filterMap fun k => pairIdx r (Ap.layer m) (Ap.kvh0 m + k)
      if !fmtKnown fmt then (s, St.rights, no)
      else if idxs.length < Ap.nkv m ∨ m.length < 64 + Ap.npos m * Ap.nkv m * 2 * d * ifmtBytes (Ap.ifmt m) ∨
          (Ap.ack m ∧ (Ap.ackDest m % 64 ≠ 0 ∨ 2 ^ 48 ≤ Ap.ackDest m)) ∨ Root.state r ≠ Root.live then (s, St.bounds, no)
      else
        let (s, st, ps) := s.namedPairs root r fmt d (Ap.pos m) idxs
        if st ≠ St.ok then (s, st, no)
        else
          let ctrl := Reg.FMT_MINT_CTRL n
          let e : FillEnv :=
            { fmt := fmt, d := d, unit := s.fmtUnit n, cpk := false, slot := s.flag ctrl F.FMT_MINT_CTRL_ACTIVE_SLOT,
              raw := s.flag ctrl F.FMT_MINT_CTRL_RAW_COPY }
          let (rows, mt) := mintRows (s.mint n) m fmt d
          let notMx := fun (p : NamedPair) => match p.cont with
            | some c => c.cpk && !isMx fmt
            | none => false
          let contStale := ps.findSome? fun p => match p.cont with
            | some c => if c.cpk && !e.slotOk c.slot then some c.slot else none
            | none => none
          let trial := fillAll e (Ap.pos m) rows ps []
          if !isMx fmt ∧ (ps.any notMx ∨ ((ps.zip trial).any fun (p, f) => Pair.cpk p.hdr && !(f.opened.isEmpty && f.stale.isNone))) then
            (s, St.rights, no)
          else match (contStale.toList ++ trial.filterMap (·.stale)).head? with
          | some b => (staleSlotEvent s n (Ap.handle m) b, St.tableStale, no)
          | none =>
            if ps.any (fun p => match p.cont with
                | some c => c.cpk && s.protectedPage c.page
                | none => false) then (s, St.rights, no)
            else if (ps.zip trial).any fun (p, f) => decide (4096 < Pair.npages p.hdr + f.opened.length) then
              (s, St.bounds, no)
            else match s.reservePairs n (homeStall root) (Ap.handle m) fmt d (Ap.npos m) ps [] with
              | (s, none) => (s, St.bounds, no)
              | (s, some res) =>
                let fs := fillAll e (Ap.pos m) rows ps (res.map (·.1))
                let all := res.flatMap fun (x, l) => x ++ l.toList
                if fs.any fun f => f.opened.any fun pg => pg.cpk && s.protectedPage pg.page then
                  (s.freePages all, St.rights, no)
                else
                  let s := s.setReg (Reg.FMT_MINT_SEED n) mt.lfsr
                  let s := (s.bumpBy (Reg.FMT_MINT_SAT n) mt.sat).bumpBy (Reg.FMT_MINT_NONFINITE n) mt.nonfin
                  let s := forEach (fs.flatMap (·.writes)) s fun s (o, bs) => s.poke o bs
                  let pairs := ((ps.zip fs).zip res).map fun ((p, f), _, l) =>
                    ({ pair := p.idx, contFill := f.continued.map (·.fill),
                       entries := f.opened.map fun g => (mkPte true false g.cpk g.slot fmt g.fill s.node g.page, g.first),
                       len := f.len, listPage := l } : AppendPair)
                  let s := forEach (ps.zip fs) s fun s (p, f) => forEach f.opened s fun s g =>
                    s.installPage g.page root p.idx g.first g.cpk g.slot
                  (s, St.ok, ⟨pairs, fs.flatMap (·.pages)⟩)

/-- The append at the head of the queue could start now: it waits behind earlier operations on its table and while LOWERED
is set (R95). -/
def appendCould (s : State) (n : Nat) : Bool :=
  match (s.work n).appends with
  | [] => false
  | a :: _ =>
    a.run.isNone && !tableBusy s (Ap.root a.msg) a.ord true &&
      !(rootOk (Ap.root a.msg) && Root.lowered (s.peek (Ap.root a.msg) 64))

/-- The items that ran when a duty change was set have completed, so the change takes effect (R41). -/
def dutyDue (s : State) (n : Nat) : Bool :=
  let old := (s.stall n).dutyWait
  (s.work n).run.all (fun x => !old.contains x.item.ord) &&
    (s.work n).appends.all fun a => a.run.isNone || !old.contains a.ord

/-- The duty a stall is in: that of a change that waits, once it takes effect (R41). -/
def State.dutyNow (s : State) (n : Nat) : Duty :=
  match (s.stall n).dutyNext with
  | some d => if dutyDue s n then d else (s.stall n).duty
  | none => (s.stall n).duty

/-- The head descriptor may start: in INGEST duty an append that could start goes first (R41). -/
def attMayStart (s : State) (n : Nat) : Bool :=
  attCould s n && !(s.dutyNow n == .ingest && appendCould s n)

/-- A stall's append at the head of its queue reaches its turn (R93); in DECODE duty a descriptor that could start goes
first (R41). -/
def appendTurn (s : State) (n : Nat) : State :=
  match (s.work n).appends with
  | [] => s
  | a :: rest =>
    if s.stallFailed n || !appendCould s n || (s.dutyNow n == .decode && attCould s n) then s
    else
      let (s, st, run) := appendRun s n a
      let s := histSample s 2 n 0 a.stamp
      if st = St.ok then s.updWork n fun w => { w with appends := { a with run := some run } :: rest }
      else admitLateAppend (appendPop s n st 0) n

/-- Write the new entries of a pair, its continued entry, and then its header (R94 step 4). -/
def commitPair (s : State) (root : Nat) (r : Bytes) (p : AppendPair) : State × List Nat :=
  let (s, st, h) := s.readPair root r p.pair
  if st ≠ St.ok then (s, p.listPage.toList)
  else
    let n := Pair.npages h
    let lp := listPages h
    let uses := decide (1024 * lp < n + p.entries.length)
    let h := match p.listPage with
      | some l => if uses then Pair.setList h lp l else h
      | none => h
    let (s, h) := match p.contFill with
      | some f =>
        let (s, _, e) := s.readEntry h (n - 1)
        if Pair.patchIdx h = n - 1 then (s, Pair.setPatch h (n - 1) (pteSetFill e.1 f) e.2)
        else (s.poke (entryOff h (n - 1)) (entryBytes (pteSetFill e.1 f) e.2), h)
      | none => (s, h)
    let s := forEach p.entries.zipIdx s fun s (e, i) => s.poke (entryOff h (n + i)) (entryBytes e.1 e.2)
    let h := Pair.setNpages (Pair.setLen h p.len) (n + p.entries.length)
    (s.poke (pairOff root r p.pair) h, if uses then [] else p.listPage.toList)

/-- The append commits each pair, frees what it did not use, and completes (R94). -/
def appendCommit (s : State) (n : Nat) : State :=
  match (s.work n).appends with
  | [] => s
  | a :: _ =>
    match a.run with
    | none => s
    | some run =>
      let root := Ap.root a.msg
      let (s, st, r) := s.readRoot root
      let (s, left) := forEach run.pairs (s, run.unused) fun (s, left) p =>
        let (s, x) := if st = St.ok then commitPair s root r p else (s, p.listPage.toList)
        (s, left ++ x)
      let s := s.freePages left
      let bytes := Ap.npos a.msg * Ap.nkv a.msg * posBytes (Root.fmt r) (Root.d r)
      admitLateAppend (appendPop s n st (if st = St.ok then bytes else 0)) n

/-- An append reaches its turn (R93). -/
def execAppend (stall : Fin 128) (s : State) : Res := .next (s.ifStarts (appendTurn s stall))

/-- The append commits (R94). -/
def execAppendCommit (stall : Fin 128) (s : State) : Res := .next (s.ifRuns (appendCommit s stall))

end Sys2Proof.Machine
end

