-- ==== Sys2Proof/Machine/Sha512.lean ====
section
/-!
DEFINITION. Machine/Sha512.lean: SHA-512 (FIPS 180-4), MGF1, and the RSASSA-PSS check of RFC 8017 with 4,096-bit moduli
(R295, R349).
-/
namespace Sys2Proof.Machine

/-- A 64-bit word of SHA-512. -/
abbrev W64 := BitVec 64

/-- The initial hash value. -/
def shaInit : List W64 :=
  [
    0x6A09E667F3BCC908, 0xBB67AE8584CAA73B, 0x3C6EF372FE94F82B, 0xA54FF53A5F1D36F1,
    0x510E527FADE682D1, 0x9B05688C2B3E6C1F, 0x1F83D9ABFB41BD6B, 0x5BE0CD19137E2179
  ]

/-- The round constants, in four parts. -/
def shaK0 : List W64 :=
  [
    0x428A2F98D728AE22, 0x7137449123EF65CD, 0xB5C0FBCFEC4D3B2F, 0xE9B5DBA58189DBBC,
    0x3956C25BF348B538, 0x59F111F1B605D019, 0x923F82A4AF194F9B, 0xAB1C5ED5DA6D8118,
    0xD807AA98A3030242, 0x12835B0145706FBE, 0x243185BE4EE4B28C, 0x550C7DC3D5FFB4E2,
    0x72BE5D74F27B896F, 0x80DEB1FE3B1696B1, 0x9BDC06A725C71235, 0xC19BF174CF692694,
    0xE49B69C19EF14AD2, 0xEFBE4786384F25E3, 0x0FC19DC68B8CD5B5, 0x240CA1CC77AC9C65
  ]
def shaK1 : List W64 :=
  [
    0x2DE92C6F592B0275, 0x4A7484AA6EA6E483, 0x5CB0A9DCBD41FBD4, 0x76F988DA831153B5,
    0x983E5152EE66DFAB, 0xA831C66D2DB43210, 0xB00327C898FB213F, 0xBF597FC7BEEF0EE4,
    0xC6E00BF33DA88FC2, 0xD5A79147930AA725, 0x06CA6351E003826F, 0x142929670A0E6E70,
    0x27B70A8546D22FFC, 0x2E1B21385C26C926, 0x4D2C6DFC5AC42AED, 0x53380D139D95B3DF,
    0x650A73548BAF63DE, 0x766A0ABB3C77B2A8, 0x81C2C92E47EDAEE6, 0x92722C851482353B
  ]
def shaK2 : List W64 :=
  [
    0xA2BFE8A14CF10364, 0xA81A664BBC423001, 0xC24B8B70D0F89791, 0xC76C51A30654BE30,
    0xD192E819D6EF5218, 0xD69906245565A910, 0xF40E35855771202A, 0x106AA07032BBD1B8,
    0x19A4C116B8D2D0C8, 0x1E376C085141AB53, 0x2748774CDF8EEB99, 0x34B0BCB5E19B48A8,
    0x391C0CB3C5C95A63, 0x4ED8AA4AE3418ACB, 0x5B9CCA4F7763E373, 0x682E6FF3D6B2B8A3,
    0x748F82EE5DEFB2FC, 0x78A5636F43172F60, 0x84C87814A1F0AB72, 0x8CC702081A6439EC
  ]
def shaK3 : List W64 :=
  [
    0x90BEFFFA23631E28, 0xA4506CEBDE82BDE9, 0xBEF9A3F7B2C67915, 0xC67178F2E372532B,
    0xCA273ECEEA26619C, 0xD186B8C721C0C207, 0xEADA7DD6CDE0EB1E, 0xF57D4F7FEE6ED178,
    0x06F067AA72176FBA, 0x0A637DC5A2C898A6, 0x113F9804BEF90DAE, 0x1B710B35131C471B,
    0x28DB77F523047D84, 0x32CAAB7B40C72493, 0x3C9EBE0A15C9BEBC, 0x431D67C49C100D4C,
    0x4CC5D4BECB3E42B6, 0x597F299CFC657E2A, 0x5FCB6FAB3AD6FAEC, 0x6C44198C4A475817
  ]

/-- The 80 round constants. -/
def shaK : List W64 := shaK0 ++ shaK1 ++ shaK2 ++ shaK3

def bigSigma0 (x : W64) : W64 := x.rotateRight 28 ^^^ x.rotateRight 34 ^^^ x.rotateRight 39
def bigSigma1 (x : W64) : W64 := x.rotateRight 14 ^^^ x.rotateRight 18 ^^^ x.rotateRight 41
def smallSigma0 (x : W64) : W64 := x.rotateRight 1 ^^^ x.rotateRight 8 ^^^ x >>> 7
def smallSigma1 (x : W64) : W64 := x.rotateRight 19 ^^^ x.rotateRight 61 ^^^ x >>> 6

/-- The big-endian number of a byte string. -/
def beNat (bs : Bytes) : Nat := bs.foldl (fun n b => n * 256 + b.toNat) 0

/-- The `n` big-endian bytes of a number. -/
def toBE (n v : Nat) : Bytes := (toLE n v).reverse

/-- The message schedule grown to `n` more words; the newest word comes first. -/
def shaGrow : Nat → List W64 → List W64
  | 0, w => w
  | n + 1, w => shaGrow n ((smallSigma1 (w.getD 1 0) + w.getD 6 0 + smallSigma0 (w.getD 14 0) + w.getD 15 0) :: w)

/-- The 80 words of the schedule of a 128-byte block. -/
def shaSchedule (block : Bytes) : List W64 :=
  (shaGrow 64 ((List.range 16).map fun i => BitVec.ofNat 64 (beNat (slice block (8 * i) 8))).reverse).reverse

/-- The eight working variables. -/
structure ShaVars where
  a : W64
  b : W64
  c : W64
  d : W64
  e : W64
  f : W64
  g : W64
  h : W64

/-- One round. -/
def shaRound (v : ShaVars) (k w : W64) : ShaVars :=
  let t1 := v.h + bigSigma1 v.e + ((v.e &&& v.f) ^^^ (~~~v.e &&& v.g)) + k + w
  let t2 := bigSigma0 v.a + ((v.a &&& v.b) ^^^ (v.a &&& v.c) ^^^ (v.b &&& v.c))
  ⟨t1 + t2, v.a, v.b, v.c, v.d + t1, v.e, v.f, v.g⟩

/-- One block. -/
def shaBlock (h : List W64) (block : Bytes) : List W64 :=
  let g := fun (i : Nat) => h.getD i 0
  let v := (shaK.zip (shaSchedule block)).foldl (fun v (k, w) => shaRound v k w)
    (ShaVars.mk (g 0) (g 1) (g 2) (g 3) (g 4) (g 5) (g 6) (g 7))
  (h.zip [v.a, v.b, v.c, v.d, v.e, v.f, v.g, v.h]).map fun (x, y) => x + y

/-- Blocks of a padded message. -/
def shaBlocks : Nat → List W64 → Bytes → List W64
  | 0, h, _ => h
  | n + 1, h, bs => shaBlocks n (shaBlock h (bs.take 128)) (bs.drop 128)

/-- The message with its padding and length. -/
def shaPad (m : Bytes) : Bytes :=
  m ++ [0x80] ++ zeros ((239 - m.length % 128) % 128) ++ toBE 16 (8 * m.length)

/-- SHA-512. -/
def sha512 (m : Bytes) : Bytes :=
  let p := shaPad m
  (shaBlocks (p.length / 128) shaInit p).flatMap fun w => toBE 8 w.toNat

/-- MGF1 with SHA-512: `n` bytes. -/
def mgf1 (seed : Bytes) (n : Nat) : Bytes :=
  ((List.range (ceilDiv n 64)).flatMap fun c => sha512 (seed ++ toBE 4 c)).take n

/-- Bytewise exclusive or. -/
def xorBytes (a b : Bytes) : Bytes := (a.zip b).map fun (x, y) => x ^^^ y

/-- EMSA-PSS-VERIFY with SHA-512, a 64-byte salt and 4,095 bits. -/
def pssOk (m em : Bytes) : Bool :=
  let masked := em.take 447
  let h := slice em 447 64
  let top := decide ((fld masked 0 1) < 128)
  let db := xorBytes masked (mgf1 h 447)
  let db := match db with
    | b :: bs => (b &&& 0x7F) :: bs
    | [] => []
  let salt := db.drop 383
  em.length == 512 && fld em 511 1 == 0xBC && top && (db.take 382).all (· == 0) && fld db 382 1 == 1 &&
    h == sha512 (zeros 8 ++ sha512 m ++ salt)

/-- `b` raised to 2^k modulo `n`. -/
def sqMod (n : Nat) : Nat → Nat → Nat
  | 0, b => b
  | k + 1, b => sqMod n k (b * b % n)

/-- RSASSA-PSS verification under a 512-byte big-endian modulus and exponent 65,537. -/
def rsaVerify (modulus m signature : Bytes) : Bool :=
  let n := beNat modulus
  let s := beNat signature
  decide (s < n) && pssOk m (toBE 512 (sqMod n 16 s * s % n))

end Sys2Proof.Machine
end

