-- ==== Sys2Proof/Machine/Tier.lean ====
section
/-!
DEFINITION. Machine/Tier.lean: tiers as page ranges and their records (R245–R247), the grace page (R99, R372), and the tallies
of a table's walkers (R98).
-/
namespace Sys2Proof.Machine

/-- The tier of a page index and the page's number in it (Table PKH-1): 0 HBM, 1 REMOTE, 2 HOST, 3 VAULT. -/
def tierOf (page : Nat) : Option (Nat × Nat) :=
  if page < hbmPages then some (0, page)
  else if 67108864 ≤ page ∧ page < 134217728 then some (1, page - 67108864)
  else if 134217728 ≤ page ∧ page < 201326592 then some (2, page - 134217728)
  else if 268435456 ≤ page ∧ page < 402653184 then some (3, page - 268435456)
  else none

/-- First page index of a tier. -/
def tierBase (t : Nat) : Nat := if t = 1 then 67108864 else if t = 2 then 134217728 else if t = 3 then 268435456 else 0

/-- Pages of a tier (PKH_TIER_PAGES1 to 3). -/
def State.tierPages (s : State) (t : Nat) : Nat := if 1 ≤ t ∧ t ≤ 3 then s.reg (Reg.PKH_TIER_PAGES (t - 1)) else 0

/-- Offset of the record of page k of tier t (R247). -/
def State.trecOff (s : State) (t k : Nat) : Nat :=
  s.base Reg.PKH_TREC_BASE_LO + 16 * (k + (List.range t).foldl (fun n i => n + s.tierPages i) 0)

/-- The two words of a tier record. -/
def State.trec (s : State) (t k : Nat) : Nat × Nat :=
  let o := s.trecOff t k
  (leNat (s.peek o 8), leNat (s.peek (o + 8) 8))

/-- STATE of a tier record: 0 FREE, 1 KV, 2 WEIGHT, 3 RETIRED. -/
def trecState (w : Nat) : Nat := bits w 63 62

/-- Write a tier record. -/
def State.setTrec (s : State) (t k w0 w1 : Nat) : State := s.poke (s.trecOff t k) (toLE 8 w0 ++ toLE 8 w1)

/-- A tier page is freed (R249): its record becomes FREE, or RETIRED after a failed move, and a VAULT page joins the
deallocation list (R263). -/
def State.freeTier (s : State) (page : Nat) (retire : Bool) : State :=
  match tierOf page with
  | some (t, k) =>
    if t = 0 then s
    else
      let s := if t = 3 ∧ retire ∧ trecState (s.trec t k).1 ≠ 3 then s.bump Reg.PKH_VAULT_RETIRED else s
      let s := s.setTrec t k (if retire then 3 * 2 ^ 62 else 0) 0
      if t = 3 ∧ !retire then
        { s with dealloc := { pages := s.dealloc.pages ++ [k], since := some (s.dealloc.since.getD s.now) } }
      else s
  | none => s

/-- Grace entry (Table KVP-11). -/
def graceEntry (shared poison : Bool) (page : Nat) : Nat := page % 2 ^ 29 + b2n poison * 2 ^ 30 + b2n shared * 2 ^ 31

/-- A page that leaves a table for good (R99, R110, R249, R337). -/
def State.dropPage (s : State) (shared poison : Bool) (page : Nat) : State :=
  if !isHbm page then s.freeTier page poison
  else
    let gone := fun (s : State) =>
      if poison then { s with far := { s.far with toReclaim := s.far.toReclaim ++ [page] } } else s.freePage page
    if shared then
      let (s, st, n) := s.share page
      if st ≠ St.ok then s
      else
        let s := s.setShare page (n - 1)
        if n ≤ 1 then gone s else s
    else gone s

/-- The grace page of a table is emptied and freed and LOWERED cleared once OLD_TALLY is zero (R99, R372). -/
def graceEmpty (s : State) (root : Nat) : State :=
  if !rootOk root then s
  else
    let (s, st, r) := s.readRoot root
    if st ≠ St.ok ∨ Root.state r = 0 ∨ Root.state r = 3 ∨ Root.old r ≠ 0 then s
    else if Root.grace r = noPage ∧ !Root.lowered r then s
    else
      let g := Root.grace r
      let (s, es) :=
        if g = noPage then (s, [])
        else
          let (s, st, bs) := s.tableRead (g * pageBytes) (4 * Root.ngrace r)
          (s, if st = St.ok then (List.range (Root.ngrace r)).map fun i => Machine.fld bs (4 * i) 4 else [])
      let s := forEach es s fun s e => s.dropPage (bit e 31) (bit e 30) (bits e 28 0)
      let s := if g = noPage then s else s.freePage g
      let r := patch (patch (Root.setFlags r (Root.state r) false) 40 (toLE 4 noPage)) 44 (toLE 2 0)
      s.poke root r

/-- A walker picks up a table: one more on CUR_TALLY, and EPOCH is its snapshot (R98). -/
def walkerPickup (s : State) (root : Nat) : State × Nat × Bytes :=
  let (s, st, r) := s.readRoot root
  if st ≠ St.ok then (s, st, r)
  else if Root.state r ≠ Root.live then (s, St.bounds, r)
  else (s.poke root (Root.setTallies r (Root.cur r + 1) (Root.old r)), St.ok, r)

/-- A walker releases its snapshot (R98): from CUR_TALLY when its epoch is still EPOCH, from OLD_TALLY otherwise. -/
def walkerRelease (s : State) (root epoch : Nat) : State :=
  if s.stallFailed (homeStall root) then s
  else
    let (s, st, r) := s.readRoot root
    if st ≠ St.ok then s
    else
      s.poke root (if Root.epoch r = epoch then Root.setTallies r (Root.cur r - 1) (Root.old r)
        else Root.setTallies r (Root.cur r) (Root.old r - 1))

end Sys2Proof.Machine
end

