-- ==== Sys2Proof/Machine/Kvp.lean ====
section
/-!
DEFINITION. Machine/Kvp.lean: edits of page tables (R97–R101, R103): the edit queue, the six operations, their commit and
completion, and RELEASE.
-/
namespace Sys2Proof.Machine

/-! ### Edit descriptor (Table KVP-8) -/

namespace Ed
def op (d : Bytes) : Nat := fld d 0 1
def allPairs (d : Bytes) : Bool := bit (fld d 1 1) 4
def recode (d : Bytes) : Bool := bit (fld d 1 1) 3
def noExpect (d : Bytes) : Bool := bit (fld d 1 1) 2
def event (d : Bytes) : Bool := bit (fld d 1 1) 1
def cqe (d : Bytes) : Bool := bit (fld d 1 1) 0
def expect (d : Bytes) : Nat := fld d 2 2
def tag (d : Bytes) : Nat := fld d 4 4
def root (d : Bytes) : Nat := fld d 8 8
def handle (d : Bytes) : Nat := fld d 16 8
def layer (d : Bytes) : Nat := fld d 24 2
def kvh (d : Bytes) : Nat := fld d 26 1
def cpk (d : Bytes) : Bool := bit (fld d 27 1) 7
def hdim (d : Bytes) : Nat := bits (fld d 27 1) 6 5
def fmt (d : Bytes) : Nat := fld d 27 1 % 16
def pos (d : Bytes) : Nat := fld d 28 4
def index (d : Bytes) : Nat := fld d 32 4
def nlayers (d : Bytes) : Nat := fld d 36 2
def nkvh (d : Bytes) : Nat := fld d 38 1
def arg (d : Bytes) : Nat := fld d 40 8
def opOpen : Nat := 0x10
def opAttach : Nat := 0x11
def opReplace : Nat := 0x12
def opTruncate : Nat := 0x13
def opCompact : Nat := 0x14
def opRelease : Nat := 0x15

/-- An edit descriptor from its fields (internal submissions): OP, NOEXPECT set unless an epoch is given. -/
def make (op : Nat) (expect : Option Nat) (root layer kvh pos index arg : Nat) : Bytes :=
  toLE 1 op ++ toLE 1 (if expect.isNone then 4 else 0) ++ toLE 2 (expect.getD 0) ++ toLE 4 0 ++ toLE 8 root ++ toLE 8 0 ++
    toLE 2 layer ++ toLE 1 kvh ++ toLE 1 0 ++ toLE 4 pos ++ toLE 4 index ++ toLE 4 0 ++ toLE 8 arg ++ zeros 16
end Ed

/-- The stall an edit runs on: its table's root's home, or the stall it was submitted to (R100). -/
def EditItem.stall (e : EditItem) : Nat :=
  if Ed.op e.desc = Ed.opOpen ∨ !rootOk (Ed.root e.desc) then e.sub else homeStall (Ed.root e.desc)

/-! ### Completion -/

/-- An edit ends: software's completion entry goes to a stall's near-memory ring, held while the ring is full; an internal
submitter is told (R100). -/
def editReport (s : State) (e : EditItem) (ring status result count : Nat) : State :=
  match e.origin with
  | .software =>
    if !Ed.cqe e.desc || !s.flag (Reg.STL_NMU_CQ_CTRL ring) F.STL_NMU_CQ_CTRL_EN then s
    else
      let d := toLE 1 (Ed.op e.desc) ++ toLE 1 0 ++ toLE 2 1 ++ toLE 4 (Ed.tag e.desc)
      let r : NmuDone := ⟨d, status, result, count, false⟩
      if nmuRingFull s ring then s.updStall ring fun t => { t with nmuRun := t.nmuRun ++ [r] }
      else nmuRingPush s ring (nmuEntry r)
  | o => { s with kvp := { s.kvp with done := s.kvp.done ++ [⟨o, status, result, count⟩] } }

/-- Remove an edit from the queue and report it on the given stall's ring. -/
def editEndOn (s : State) (e : EditItem) (ring status result count : Nat) : State :=
  editReport { s with kvp := { s.kvp with edits := s.kvp.edits.filter (·.ord != e.ord) } } e ring status result count

/-- The edit ends on the stall that runs it. -/
def editEnd (s : State) (e : EditItem) (status result count : Nat) : State := editEndOn s e e.stall status result count

/-- Keep an edit in the queue with changed progress. -/
def editKeep (s : State) (e : EditItem) : State :=
  { s with kvp := { s.kvp with edits := replaceIf (·.ord == e.ord) (fun _ => e) s.kvp.edits } }

/-- Edits software holds in a stall's edit queue. -/
def editQueued (s : State) (n : Nat) : Nat := (s.kvp.edits.filter fun e => e.sub == n && e.origin == .software).length

/-- Software's edit is new work for a stall that takes none: the one it is submitted to, or its table's (R42; internal units' edits
finish work that runs, DEDUCED, log 511). -/
def editRefused (s : State) (n : Nat) (d : Bytes) (o : EditBy) : Bool :=
  o == .software && ((s.stall n).service != .inService ||
    (Ed.op d != Ed.opOpen && rootOk (Ed.root d) && (s.stall (homeStall (Ed.root d))).service != .inService))

/-- An edit is submitted (R100): a module that is not C-role refuses it, and so do a reserved OP and a stall out of service. -/
def editSubmitWith (s : State) (n : Nat) (d : Bytes) (o : EditBy) (given : List (Nat × Nat)) : State :=
  let (ord, s) := s.nextOrd
  let e : EditItem := { sub := n, desc := d, ord := ord, origin := o, given := given }
  if s.role ≠ roleC ∨ Ed.op d < Ed.opOpen ∨ Ed.opRelease < Ed.op d ∨ editRefused s n d o then editReport s e n St.rights 0 0
  else { s with kvp := { s.kvp with edits := s.kvp.edits ++ [e] } }

/-- An edit without list entries of its own is submitted. -/
def editSubmit (s : State) (n : Nat) (d : Bytes) (o : EditBy) : State := editSubmitWith s n d o []

/-- GO: the staged edit joins the queue, or is discarded with OVERFLOW when SPACE is zero. -/
def kvpEditGo (s : State) (n : Nat) : State :=
  if 32 ≤ editQueued s n then s.setFld (Reg.KVP_STATUS n) F.KVP_STATUS_OVERFLOW 1
  else editSubmit s n (s.staged (Reg.KVP_EDIT_DESC n 0) 16) .software

/-- Writing KVP_EDIT_GO (R100). -/
def execKvpEditGo (stall : Fin 128) (data : Word) (s : State) : Res :=
  .next (if bit data.toNat 0 then kvpEditGo s stall else s)

/-! ### OPEN and ATTACH -/

/-- A stall lies in a RETIRE group of some span (R223). -/
def State.inRetire (s : State) (n : Nat) : Bool :=
  (List.range 16).any fun k =>
    s.flag (Reg.TEM_TEAM_STATUS k) F.TEM_TEAM_STATUS_VALID && bit (s.fld (Reg.TEM_TEAM_SPAN k) F.TEM_TEAM_SPAN_RETIRE) (n / 8)

/-- OPEN (Table KVP-9). -/
def editOpen (s : State) (e : EditItem) : State :=
  let d := e.desc
  let n := e.sub
  let np := Ed.nlayers d * Ed.nkvh d
  if !fmtKnown (Ed.fmt d) ∨ Ed.hdim d = 3 ∨ (Ed.cpk d ∧ !isMx (Ed.fmt d)) then editEnd s e St.rights 0 0
  else if np = 0 ∨ 1279 < np ∨ s.inRetire n then editEnd s e St.bounds 0 0
  else
    let nx := ceilDiv (np - 255) 256
    match s.allocPages (1 + nx) n (Ed.handle d) [] with
    | (s, none) => editEnd s e St.bounds 0 0
    | (s, some ps) =>
      let rp := ps.headD 0
      let xs := ps.drop 1
      let root := rp * pageBytes
      let r := zeros 6 ++ toLE 1 Root.live ++ zeros 1 ++ toLE 8 (Ed.handle d) ++ toLE 2 (Ed.layer d) ++ toLE 2 (Ed.nlayers d) ++
        toLE 1 (Ed.kvh d) ++ toLE 1 (Ed.nkvh d) ++ toLE 1 (Ed.fmt d + 32 * Ed.hdim d) ++ zeros 1 ++
        ((List.range 4).flatMap fun k => toLE 4 (xs.getD k 0)) ++ toLE 4 noPage ++ zeros 20
      let s := forEach (List.range np) s fun s i => s.poke (pairOff root r i) (emptyPair (Ed.cpk d))
      let s := s.poke root r
      let s := if Ed.event d then s.raise Tag.kvp 0x0001 Sev.info (Ed.handle d) [Ed.op d, 0, 0, 0] else s
      editEnd s e St.ok rp 0

/-- FIRST strictly ascending. -/
def ascending : List (Nat × Nat) → Bool
  | a :: b :: t => decide (a.2 < b.2) && ascending (b :: t)
  | _ => true

/-- Write a list of entries into fresh list pages, one entry after another. -/
def writeEntries (s : State) (h : Bytes) (es : List (Nat × Nat)) : State :=
  forEach es.zipIdx s fun s (x, i) => s.poke (entryOff h i) (entryBytes x.1 x.2)

/-- A header with its first LIST entries naming the given pages, the others zero. -/
def setLists (h : Bytes) (ps : List Nat) : Bytes := (List.range 4).foldl (fun h k => Pair.setList h k (ps.getD k 0)) h

/-- ATTACH (Table KVP-9, R112): in place; list pages that an emptied pair still has are used first. -/
def editAttach (s : State) (e : EditItem) (root : Nat) (r : Bytes) : State :=
  let d := e.desc
  let n := Ed.index d
  let ep := Root.epoch r
  match pairIdx r (Ed.layer d) (Ed.kvh d) with
  | none => editEnd s e St.bounds ep 0
  | some i =>
    let (s, st, h) := s.readPair root r i
    if st ≠ St.ok then editEnd s e st ep 0
    else if Pair.npages h ≠ 0 ∨ n = 0 ∨ 4096 < n ∨ (e.given.isEmpty ∧ hbmBytes < Ed.arg d + 16 * n) then
      editEnd s e St.bounds ep 0
    else
      let (s, st, bs) := if e.given.isEmpty then s.readMem (Ed.arg d) (16 * n) else (s, St.ok, [])
      if st ≠ St.ok then editEnd s e st ep 0
      else
        let es := if e.given.isEmpty then
            (List.range n).map fun k => (Machine.fld bs (16 * k) 8, Machine.fld bs (16 * k + 8) 4)
          else e.given
        if es.any fun x => pteV x.1 && !fmtKnown (pteFmt x.1) then editEnd s e St.rights ep 0
        else if !ascending es then editEnd s e St.bounds ep 0
        else match s.allocPages (ceilDiv n 1024 - listPages h) (homeStall root) (Root.handle r) [] with
          | (s, none) => editEnd s e St.bounds ep 0
          | (s, some ps) =>
            let last := es.getLastD (0, 0)
            let h := setLists (Pair.clearPatch h) ((List.range (listPages h)).map (Pair.list h) ++ ps)
            let s := writeEntries s h es
            let h := Pair.setNshared (Pair.setNpages (Pair.setLen h (last.2 + pteFill last.1)) n) n
            let s := s.poke (pairOff root r i) h
            let s := if Ed.event d then s.raise Tag.kvp 0x0001 Sev.info (Root.handle r) [Ed.op d, 0, ep % 256, ep / 256] else s
            editEnd s e St.ok ep 0

/-! ### Building REPLACE, TRUNCATE and COMPACT -/

/-- The list write that folds a PATCH back, unless it is the entry replaced or lies beyond the new list (R99). -/
def foldPatch (h : Bytes) (idx keep : Nat) : List (Nat × Nat × Nat) :=
  let p := Pair.patchIdx h
  if p = noPatch ∨ p = idx ∨ keep ≤ p then [] else [(p, Pair.patchEnt h)]

/-- The edit is the REPLACE of a promotion or of a pedigree spill, to which the refusal of a shared target does not apply (R251). -/
def mayReplaceShared (s : State) (e : EditItem) : Bool :=
  match e.origin with
  | .packhorse id => s.pkh.moves.any fun m => m.id == id && (isHbm m.dst || m.spill)
  | _ => false

/-- REPLACE (Table KVP-9): the status of a refusal, or what commits. -/
def buildReplace (s : State) (e : EditItem) (root : Nat) (r : Bytes) : State × Nat × Build :=
  let no : Build := { pairs := [], grace := [], lowered := false, fresh := [] }
  let d := e.desc
  let i := Ed.index d
  let new := Ed.arg d
  match pairIdx r (Ed.layer d) (Ed.kvh d) with
  | none => (s, St.bounds, no)
  | some k =>
    let (s, st, h) := s.readPair root r k
    if st ≠ St.ok then (s, st, no)
    else if Pair.npages h ≤ i then (s, St.bounds, no)
    else if i < Pair.nshared h ∧ !mayReplaceShared s e then (s, St.rights, no)
    else if i + 1 = Pair.npages h then (s, St.bounds, no)
    else
      let (s, st, old) := s.readEntry h i
      if st ≠ St.ok then (s, st, no)
      else
        let cap := decide (pteCpk new = false) && decide (rawCap (Root.fmt r) (Root.d r) < pteFill new)
        if !pteV new ∨ pteNode new ≠ s.node then (s, St.bounds, no)
        else if !fmtKnown (pteFmt new) then (s, St.rights, no)
        else if pteFmt new ≠ Root.fmt r ∨ pteFill new = 0 ∨ cap ∨ pteFill new ≠ pteFill old.1 then
          (s, St.bounds, no)
        else
          let shared := decide (i < Pair.nshared h)
          (s, St.ok, { pairs := [.inPlace k (Pair.setPatch h i new old.2) (foldPatch h i (Pair.npages h))],
                       grace := [graceEntry shared (ptePoison old.1) (ptePage old.1)], lowered := false, fresh := [] })

/-- Copy the first `keep` positions of a page into a new page of the same kind (R101): status, and the new page's
tail and coins are written. A stale coin counts in FMT_STALE_RAW or FMT_STALE_END of the root's stall, but an edit raises no event
FMT 0x0003 or 0x0004, which name work items and appends (DESIGN CHOICE, log 306). -/
def copyHead (s : State) (stall pte new d keep : Nat) : State × Nat :=
  let fmt := pteFmt pte
  let sz := posBytes fmt d
  let src := ptePage pte * pageBytes
  let dst := new * pageBytes
  if !pteCpk pte then
    let (s, st, bs) := s.readMem src (keep * sz)
    if st ≠ St.ok then (s, st) else (s.poke dst bs, St.ok)
  else if !isMx fmt || s.protectedPage (ptePage pte) || s.protectedPage new then (s, St.rights)
  else
    let (s, st, dir) := s.readMem src 256
    if st ≠ St.ok then (s, st)
    else
      let c := coinPos d
      let k := min (fld dir 0 1) (keep / c)
      let last := fld dir (2 + 2 * (k - 1)) 2 * 16
      let (s, st, hb) := if k = 0 then (s, St.ok, []) else s.readMem (src + last) 8
      let stop := if k = 0 then 256 else last + coinBytes (leNat hb)
      let (s, st', coins) := if k = 0 then (s, St.ok, []) else s.readMem (src + 256) (stop - 256)
      if st ≠ St.ok ∨ st' ≠ St.ok then (s, if st ≠ St.ok then st else st')
      else
        let (s, x) := s.readPage stall pte d (k * c) keep
        if x.status ≠ St.ok then (if x.staleEnd.isSome then s.bump (Reg.FMT_STALE_END stall) else s, x.status)
        else
          let s := s.poke dst (toLE 1 k ++ zeros 1 ++ slice dir 2 (2 * k))
          let s := s.poke (dst + 256) coins
          (s.poke (dst + (pageBytes - tailBytes fmt)) x.rows.flatten, St.ok)

/-- What TRUNCATE does to one pair: refusal status, or a pair's part of the edit; a tier page in the way is named. -/
structure TruncPair where
  status : Nat
  build : Option PairBuild
  grace : List Nat
  fresh : List Nat
  tier : Option PromReq
  deriving DecidableEq, Repr

/-- TRUNCATE of one pair to LEN = pos (R101). -/
def truncPair (s : State) (e : EditItem) (root : Nat) (r : Bytes) (k pos : Nat) : State × TruncPair :=
  let fail := fun (st : Nat) => (⟨st, none, [], [], none⟩ : TruncPair)
  let (s, st, h) := s.readPair root r k
  if st ≠ St.ok then (s, fail st)
  else if Pair.len h ≤ pos then (s, fail St.ok)
  else
    let (s, st, es) := s.readList h
    if st ≠ St.ok then (s, fail st)
    else
      let ns := Pair.nshared h
      let keep := es.takeWhile fun x => decide (x.2 < pos)
      let gone := (es.zipIdx.drop keep.length).map fun (x, i) => graceEntry (decide (i < ns)) (ptePoison x.1) (ptePage x.1)
      let n := keep.length
      let last := keep.getLastD (0, 0)
      let h := Pair.setLen h pos
      if n = 0 ∨ last.2 + pteFill last.1 ≤ pos then
        let h' := Pair.setNshared (Pair.setNpages (Pair.clearPatch h) n) (min ns n)
        (s, ⟨St.ok, some (.inPlace k h' (foldPatch h noPatch n)), gone, [], none⟩)
      else
        let pte := last.1
        let i := n - 1
        if !pteV pte ∨ pteNode pte ≠ s.node then (s, fail St.bounds)
        else if !ptePoison pte ∧ !isHbm (ptePage pte) then
          (s, ⟨St.ok, none, [], [], some ⟨ptePage pte, root, k, last.2⟩⟩)
        else if ptePoison pte ∧ e.promoting.isSome ∧ !isHbm (ptePage pte) then (s, fail St.tierFail)
        else match s.allocPage (homeStall root) (Root.handle r) with
          | (s, none) => (s, fail St.bounds)
          | (s, some p) =>
            let fill := pos - last.2
            let (s, st) := if ptePoison pte then (s, St.ok) else copyHead s (homeStall root) pte p (Root.d r) fill
            if st ≠ St.ok then (s.freePage p, fail st)
            else
              let s := s.installPage p root k last.2 (pteCpk pte) (pteSlot pte)
              let new := pteSetPage (pteSetFill pte fill) p
              let h' := Pair.setNshared (Pair.setNpages (Pair.setPatch h i new last.2) n) (min ns i)
              let h' := if ns ≤ i then Pair.setNshared h' ns else h'
              (s, ⟨St.ok, some (.inPlace k h' (foldPatch h i n)),
                graceEntry (decide (i < ns)) (ptePoison pte) (ptePage pte) :: gone, [p], none⟩)

/-- The pairs an edit names: its own, or all under ALLPAIRS. -/
def editPairs (r d : Bytes) : Option (List Nat) :=
  if Ed.allPairs d then some (List.range (Root.pairs r))
  else (pairIdx r (Ed.layer d) (Ed.kvh d)).map fun k => [k]

/-- TRUNCATE of the named pairs: the first refusal undoes the pages already made. -/
def truncPairs (s : State) (e : EditItem) (root : Nat) (r : Bytes) : List Nat → Build → State × Nat × Option PromReq × Build
  | [], b => (s, St.ok, none, b)
  | k :: ks, b =>
    let (s, t) := truncPair s e root r k (Ed.pos e.desc)
    if t.status ≠ St.ok ∨ t.tier.isSome then (s.freePages b.fresh, t.status, t.tier, b)
    else
      truncPairs s e root r ks { b with
        pairs := b.pairs ++ t.build.toList, grace := b.grace ++ t.grace, lowered := b.lowered || t.build.isSome,
        fresh := b.fresh ++ t.fresh }

/-- A maximal run of pages COMPACT repacks together (R103). -/
structure PackRun where
  cpk : Bool
  slot : Bool
  entries : List (Nat × Nat)
  deriving DecidableEq, Repr

/-- The entry may be repacked: valid, here, in HBM, not poisoned, and for a Coinpack page with an empty tail. -/
def packable (s : State) (d : Nat) (x : Nat × Nat) : Bool :=
  let p := x.1
  pteV p && !ptePoison p && pteNode p == s.node && isHbm (ptePage p) &&
    (!pteCpk p || leNat (s.peek (ptePage p * pageBytes) 1) * coinPos d == pteFill p)

/-- Split a list of entries into runs: repackable ones joined while kind, slot and positions continue; others alone. -/
def packRuns (s : State) (d : Nat) : List (Nat × Nat) → List (PackRun × Bool)
  | [] => []
  | x :: xs =>
    let rest := packRuns s d xs
    let me : PackRun := ⟨pteCpk x.1, pteSlot x.1, [x]⟩
    if !packable s d x then (me, false) :: rest
    else match rest with
      | (y, true) :: more =>
        let n := y.entries.headD (0, 0)
        if y.cpk == me.cpk && y.slot == me.slot && n.2 == x.2 + pteFill x.1 then
          (⟨me.cpk, me.slot, x :: y.entries⟩, true) :: more
        else (me, true) :: rest
      | _ => (me, true) :: rest

/-- What repacking has done so far: new list, pages made, pages for grace, status. -/
structure Packed where
  entries : List (Nat × Nat)
  fresh : List Nat
  grace : List Nat
  status : Nat
  deriving DecidableEq, Repr

/-- Allocate a page for COMPACT and install it. -/
def packPage (s : State) (root k first handle : Nat) (cpk slot : Bool) (a : Packed) : State × Packed × Option Nat :=
  match s.allocPage (homeStall root) handle with
  | (s, none) => (s, { a with status := St.bounds }, none)
  | (s, some p) => (s.installPage p root k first cpk slot, { a with fresh := a.fresh ++ [p] }, some p)

/-- Put raw rows into new raw pages filled to capacity. -/
def packRaw (root k handle fmt d : Nat) : Nat → State → List Bytes → Nat → Packed → State × Packed
  | 0, s, _, _, a => (s, a)
  | fuel + 1, s, rows, first, a =>
    if rows.isEmpty ∨ a.status ≠ St.ok then (s, a)
    else
      let chunk := rows.take (rawCap fmt d)
      match packPage s root k first handle false false a with
      | (s, a, none) => (s, a)
      | (s, a, some p) =>
        let s := s.poke (p * pageBytes) chunk.flatten
        packRaw root k handle fmt d fuel s (rows.drop (rawCap fmt d)) (first + chunk.length)
          { a with entries := a.entries ++ [(mkPte true false false false fmt chunk.length s.node p, first)] }

/-- Code raw rows into new Coinpack pages (RECODE). -/
def packRecode (e : FillEnv) (root k handle first : Nat) (rows : List Bytes) (s : State) (a : Packed) : State × Packed :=
  let empty : Filling := { cur := none, done := [], pages := [], writes := [], len := 0, stale := none }
  let need := (e.fillPair empty first rows).opened.length
  match s.allocPages need (homeStall root) handle [] with
  | (s, none) => (s, { a with status := St.bounds })
  | (s, some ps) =>
    if ps.any s.protectedPage then (s.freePages ps, { a with status := St.rights })
    else
      let f := e.fillPair { empty with pages := ps } first rows
      let s := forEach f.writes s fun s (o, bs) => s.poke o bs
      let s := forEach f.opened s fun s g => s.installPage g.page root k g.first true g.slot
      (s, { a with
        fresh := a.fresh ++ ps
        entries := a.entries ++ f.opened.map fun g => (mkPte true false true g.slot e.fmt g.fill s.node g.page, g.first) })

/-- Whole coins of a run: bytes of each, in order. -/
def runCoins (s : State) : List (Nat × Nat) → List Bytes → State × Nat × List Bytes
  | [], acc => (s, St.ok, acc)
  | x :: xs, acc =>
    let o := ptePage x.1 * pageBytes
    let (s, st, dir) := s.readMem o 256
    if st ≠ St.ok then (s, st, acc)
    else
      let (s, st, cs) := forEach (List.range (fld dir 0 1)) (s, St.ok, ([] : List Bytes)) fun (s, st, cs) k =>
        if st ≠ St.ok then (s, st, cs)
        else
          let at0 := o + 16 * fld dir (2 + 2 * k) 2
          let (s, st, hb) := s.readMem at0 8
          if st ≠ St.ok then (s, st, cs)
          else
            let (s, st, c) := s.readMem at0 (coinBytes (leNat hb))
            (s, st, cs ++ [c])
      if st ≠ St.ok then (s, st, acc) else runCoins s xs (acc ++ cs)

/-- Coins that fit one Coinpack page, from the front. -/
def fitCoins (room : Nat) : Nat → List Bytes → List Bytes
  | 0, _ => []
  | _ + 1, [] => []
  | k + 1, c :: cs => if c.length ≤ room then c :: fitCoins (room - c.length) k cs else []

/-- Put whole coins into new Coinpack pages. -/
def packCoins (root k handle fmt d : Nat) (slot : Bool) : Nat → State → List Bytes → Nat → Packed → State × Packed
  | 0, s, _, _, a => (s, a)
  | fuel + 1, s, coins, first, a =>
    if coins.isEmpty ∨ a.status ≠ St.ok then (s, a)
    else
      let c := coinPos d
      let now := fitCoins (pageBytes - tailBytes fmt - 256) (256 / c - 1) coins
      match packPage s root k first handle true slot a with
      | (s, a, none) => (s, a)
      | (s, a, some p) =>
        if s.protectedPage p then (s, { a with status := St.rights })
        else
          let offs := (List.range now.length).map fun i => 16 + (now.take i).foldl (fun n x => n + x.length) 0 / 16
          let s := s.poke (p * pageBytes) (toLE 1 now.length ++ toLE 1 1 ++ offs.flatMap (toLE 2))
          let s := s.poke (p * pageBytes + 256) now.flatten
          packCoins root k handle fmt d slot fuel s (coins.drop now.length) (first + now.length * c)
            { a with entries := a.entries ++ [(mkPte true false true slot fmt (now.length * c) s.node p, first)] }

/-- Raw rows of a run. -/
def runRows (s : State) (stall d : Nat) : List (Nat × Nat) → List Bytes → State × Nat × List Bytes
  | [], acc => (s, St.ok, acc)
  | x :: xs, acc =>
    let (s, r) := s.readPage stall x.1 d 0 (pteFill x.1)
    if r.status ≠ St.ok then (s, r.status, acc) else runRows s stall d xs (acc ++ r.rows)

/-- The run is repacked: it may be, and something is gained by it. -/
def packs (recode : Bool) (x : PackRun × Bool) : Bool := x.2 && ((!x.1.cpk && recode) || decide (1 < x.1.entries.length))

/-- The header and entries of a pair, and the runs of the closed, unshared ones (R103). -/
def pairRuns (s : State) (root : Nat) (r : Bytes) (k : Nat) : State × Nat × Bytes × List (Nat × Nat) × List (PackRun × Bool) :=
  let (s, st, h) := s.readPair root r k
  if st ≠ St.ok then (s, st, h, [], [])
  else
    let (s, st, es) := s.readList h
    let ns := Pair.nshared h
    (s, st, h, es, if st = St.ok then packRuns s (Root.d r) ((es.drop ns).take (es.length - 1 - ns)) else [])

/-- A COMPACT of the named pairs would copy a Coinpack page that lies in a protected region or whose FMT is no MX code (R66). -/
def compactRefused (s : State) (recode : Bool) (root : Nat) (r : Bytes) (ks : List Nat) : Bool :=
  ks.any fun k =>
    let (_, _, _, _, runs) := pairRuns s root r k
    runs.any fun x => packs recode x && x.1.cpk &&
      x.1.entries.any fun e => !isMx (pteFmt e.1) || !isMx (Root.fmt r) || s.protectedPage (ptePage e.1)

/-- Repack the runs of one pair in order; a run that would pass the grace limit, and all after it, stay as they are. -/
def packAll (e : FillEnv) (recode : Bool) (root k handle room : Nat) : List (PackRun × Bool) → State → Packed → State × Packed
  | [], s, a => (s, a)
  | (r, ok) :: rs, s, a =>
    if a.status ≠ St.ok then (s, a)
    else
      let keep := { a with entries := a.entries ++ r.entries }
      if !packs recode (r, ok) || decide (room < a.grace.length + r.entries.length) then packAll e recode root k handle room rs s keep
      else
        let first := (r.entries.headD (0, 0)).2
        let (s, a) :=
          if r.cpk then
            let (s, st, cs) := runCoins s r.entries []
            if st ≠ St.ok then (s, { a with status := st })
            else packCoins root k handle e.fmt e.d r.slot (cs.length + 1) s cs first a
          else
            let (s, st, rows) := runRows s (homeStall root) e.d r.entries []
            if st ≠ St.ok then (s, { a with status := st })
            else if recode then packRecode { e with cpk := true } root k handle first rows s a
            else packRaw root k handle e.fmt e.d (rows.length + 1) s rows first a
        packAll e recode root k handle room rs s
          { a with grace := a.grace ++ r.entries.map fun x => graceEntry false false (ptePage x.1) }

/-- COMPACT of the named pairs (R103): status, stale seen, what commits. -/
def compactPairs (s : State) (e : FillEnv) (recode : Bool) (root : Nat) (r : Bytes) : List Nat → Bool → Build →
    State × Nat × Bool × Build
  | [], stale, b => (s, St.ok, stale, b)
  | k :: ks, stale, b =>
    if recode ∧ !e.slotOk e.slot then compactPairs s e recode root r ks true b
    else
      let (s, st, h, es, runs) := pairRuns s root r k
      if st ≠ St.ok then (s, st, stale, b)
      else
        let n := es.length
        let ns := Pair.nshared h
        if n ≤ ns + 1 then compactPairs s e recode root r ks stale b
        else
          let room := 4096 - b.grace.length - 4 * (b.pairs.length + 1)
          let (s, a) := packAll e recode root k (Root.handle r) room runs s ⟨es.take ns, [], [], St.ok⟩
          let b' := { b with fresh := b.fresh ++ a.fresh }
          if a.status ≠ St.ok then (s, a.status, stale, b')
          else if a.grace.isEmpty then compactPairs s e recode root r ks stale b'
          else
            compactPairs s e recode root r ks stale { b' with
              pairs := b.pairs ++ [.repack k a.entries (n - 1)], grace := b.grace ++ a.grace,
              lowered := b.lowered || decide (a.entries.length + 1 < n), before := b.before + n,
              after := b.after + a.entries.length + 1 }

/-! ### Starting an edit -/

/-- The stall works on COMPACT: both queues empty, COMPACT_EN, and not at WALK (R103, R315). -/
def mayCompact (s : State) (n : Nat) : Bool :=
  let w := s.work n
  s.flag (Reg.KVP_CTRL n) F.KVP_CTRL_COMPACT_EN && !s.walk && w.appends.isEmpty && w.att.isEmpty && w.run.isEmpty

/-- An edit may start now: edits enabled, not already begun, and nothing earlier on its table to end (R95). -/
def mayEdit (s : State) (e : EditItem) : Bool :=
  let packhorse := match e.origin with
    | .packhorse _ => true
    | _ => false
  let busy := (s.kvp.edits.any fun x => decide (x.ord < e.ord) && Ed.root x.desc == Ed.root e.desc &&
      Ed.op x.desc != Ed.opOpen && !(packhorse && x.promoting.isSome)) ||
    (s.works.any fun (_, w) => w.appends.any fun a => decide (a.ord < e.ord) && Ap.root a.msg == Ed.root e.desc)
  s.flag (Reg.KVP_CTRL e.stall) F.KVP_CTRL_EDIT_EN && e.build.isNone && e.releasing.isNone &&
    (Ed.op e.desc == Ed.opOpen || !busy) && (Ed.op e.desc != Ed.opCompact || mayCompact s e.stall)

/-- Queue a promotion request once (R250). -/
def State.askPromote (s : State) (q : PromReq) : State :=
  if s.kvp.promote.contains q then s else { s with kvp := { s.kvp with promote := s.kvp.promote ++ [q] } }

/-- The built edit waits to commit; one that finds OLD_TALLY not zero counts as waiting (R99). -/
def editBuilt (s : State) (e : EditItem) (r : Bytes) (b : Build) : State :=
  let waits := decide (Root.old r ≠ 0)
  let s := if waits && !e.waited then s.bump (Reg.KVP_EDIT_WAITS e.stall) else s
  editKeep s { e with build := some b, promoting := none, passed := true, waited := e.waited || waits }

/-- An edit gives up what it has built, to be built again at its next turn. -/
def editUnbuild (s : State) (e : EditItem) : State :=
  match e.build with
  | some b => editKeep (s.freePages b.fresh) { e with build := none }
  | none => s

/-- POISON has been set in place in an entry of a table: the edits built on the table from the entry as it was are built again, so
that their commit cannot clear it (R102). -/
def rebuildEdits (s : State) (root : Nat) : State :=
  forEach (s.kvp.edits.filter fun e => Ed.root e.desc == root && e.build.isSome) s editUnbuild

/-- An edit starts: the checks of R100 on its table, then its operation. One that starts again has
passed the EXPECT check, and the REPLACE of the promotion a TRUNCATE waited for does not make it stale (R101, R250). -/
def editStart (s : State) (e : EditItem) : State :=
  let d := e.desc
  let op := Ed.op d
  if op = Ed.opOpen then if s.stallFailed e.sub then editEnd s e St.rights 0 0 else editOpen s e
  else if !rootOk (Ed.root d) then editEndOn s e e.sub St.bounds 0 0
  else
    let root := Ed.root d
    let (s, st, r) := s.readRoot root
    let ep := Root.epoch r
    if st ≠ St.ok then editEnd s e st 0 0
    else if Root.state r = 0 ∨ Root.state r = 3 then editEndOn s e e.sub St.bounds ep 0
    else if Root.state r = Root.releasing then editEnd s e (if op = Ed.opRelease then St.noEffect else St.bounds) ep 0
    else if !Ed.noExpect d ∧ !e.passed ∧ Ed.expect d ≠ ep then
      let s := s.bump (Reg.KVP_STALE e.stall)
      let x := Ed.expect d
      let s := s.raise Tag.kvp 0x0005 Sev.info (Root.handle r) [x % 256, x / 256, b2n (isNewer 16 x ep), op]
      editEnd s e St.epochStale ep 0
    else if op = Ed.opAttach then editAttach s e root r
    else if op = Ed.opRelease then
      let s := s.poke root (Root.setFlags r Root.releasing (Root.lowered r))
      editKeep s { e with releasing := some ep }
    else if op = Ed.opReplace then
      let (s, st, b) := buildReplace s e root r
      if st = St.ok then editBuilt s e r b else editEnd s e st ep 0
    else match editPairs r d with
      | none => editEnd s e St.bounds ep 0
      | some ks =>
        let none0 : Build := { pairs := [], grace := [], lowered := false, fresh := [] }
        if op = Ed.opTruncate then
          match truncPairs s e root r ks none0 with
          | (s, st, some q, _) =>
            if st = St.ok then editKeep (s.askPromote q) { e with promoting := some q.page, passed := true } else editEnd s e st ep 0
          | (s, st, none, b) =>
            if st ≠ St.ok then editEnd s e st ep 0
            else if b.pairs.isEmpty then editEnd s e St.noEffect ep 0
            else if 4096 < b.grace.length then editEnd (s.freePages b.fresh) e St.bounds ep 0
            else editBuilt s e r b
        else
          let ctrl := Reg.FMT_MINT_CTRL e.stall
          let env : FillEnv :=
            { fmt := Root.fmt r, d := Root.d r, unit := s.fmtUnit e.stall, cpk := false,
              slot := s.flag ctrl F.FMT_MINT_CTRL_ACTIVE_SLOT, raw := s.flag ctrl F.FMT_MINT_CTRL_RAW_COPY }
          if compactRefused s (Ed.recode d) root r ks then editEnd s e St.rights ep 0
          else
          let (s, st, stale, b) := compactPairs s env (Ed.recode d) root r ks false none0
          if st ≠ St.ok then editEnd (s.freePages b.fresh) e st ep 0
          else if b.pairs.isEmpty ∧ stale then editEnd s e St.tableStale ep 0
          else editBuilt s e r b

/-- The first edit of an operation that may start on a stall. -/
def editTurn (s : State) (n op : Nat) : State :=
  match s.kvp.edits.find? fun e => e.stall == n && Ed.op e.desc == op && mayEdit s e with
  | some e => editStart s e
  | none => s

/-! ### Commit -/

/-- What a commit writes for one pair, in order: list entries, then the header; the list pages it takes and those it leaves. -/
structure PairPlan where
  writes : List (Nat × Bytes)
  taken : List Nat
  left : List Nat
  deriving DecidableEq, Repr

/-- Plan the commit of one pair: COMPACT carries over the entries appended since its build began (R99, R103). -/
def planPair (s : State) (root : Nat) (r : Bytes) : PairBuild → State × Nat × PairPlan
  | .inPlace k h ws =>
    (s, St.ok, ⟨(ws.map fun (i, x) => (entryOff h i, entryBytes x.1 x.2)) ++ [(pairOff root r k, h)], [], []⟩)
  | .repack k es carry =>
    let (s, st, h) := s.readPair root r k
    let (s, st', tail) := s.readEntries (Pair.npages h - carry) h carry []
    if st ≠ St.ok ∨ st' ≠ St.ok then (s, if st ≠ St.ok then st else st', ⟨[], [], []⟩)
    else
      let all := es ++ tail
      match s.allocPages (ceilDiv all.length 1024) (homeStall root) (Root.handle r) [] with
      | (s, none) => (s, St.bounds, ⟨[], [], []⟩)
      | (s, some ps) =>
        let h' := setLists (Pair.clearPatch h) ps
        (s, St.ok, ⟨(all.zipIdx.map fun (x, i) => (entryOff h' i, entryBytes x.1 x.2)) ++
          [(pairOff root r k, Pair.setNpages h' all.length)], ps, (List.range (listPages h)).map (Pair.list h)⟩)

/-- Plan every pair of an edit; a failure returns the list pages already taken. -/
def planPairs (root : Nat) (r : Bytes) : List PairBuild → State → PairPlan → State × Nat × PairPlan
  | [], s, a => (s, St.ok, a)
  | p :: ps, s, a =>
    let (s, st, x) := planPair s root r p
    if st ≠ St.ok then (s.freePages a.taken, st, a)
    else planPairs root r ps s ⟨a.writes ++ x.writes, a.taken ++ x.taken, a.left ++ x.left⟩

/-- The new HBM page of a REPLACE is installed: owner word, hold tag, and share count 1 where Packhorse's promoted page
takes a shared entry (R59, R249, R335). -/
def installReplace (s : State) (e : EditItem) (root : Nat) : PairBuild → State
  | .inPlace k h _ =>
    let i := Pair.patchIdx h
    let x := Pair.patchEnt h
    if Ed.op e.desc ≠ Ed.opReplace ∨ !isHbm (ptePage x.1) then s
    else
      let s := s.installPage (ptePage x.1) root k x.2 (pteCpk x.1) (pteSlot x.1)
      match e.origin with
      | .packhorse _ => if i < Pair.nshared h then s.setShare (ptePage x.1) 1 else s
      | _ => s
  | .repack .. => s

/-- A built edit commits once OLD_TALLY is zero (R99). -/
def editCommit (s : State) (e : EditItem) (b : Build) : State :=
  let root := Ed.root e.desc
  let s := graceEmpty s root
  let (s, st, r) := s.readRoot root
  let ep := Root.epoch r
  if st ≠ St.ok then editEnd (s.freePages b.fresh) e st ep 0
  else if Root.old r ≠ 0 then s
  else
    let (s, st, plan) := planPairs root r b.pairs s ⟨[], [], []⟩
    let hasGrace := !b.grace.isEmpty
    let (s, g) := if hasGrace && st == St.ok then s.allocPage (homeStall root) (Root.handle r) else (s, some noPage)
    match g with
    | none => editEnd (s.freePages (plan.taken ++ b.fresh)) e St.bounds ep 0
    | some g =>
      if st ≠ St.ok then editEnd (s.freePages b.fresh) e st ep 0
      else
      let s := forEach b.pairs s fun s p => installReplace s e root p
      let s := forEach plan.writes s fun s (o, bs) => s.poke o bs
      let grace := b.grace ++ plan.left.map fun l => graceEntry false false l
      let s := if hasGrace then s.poke (g * pageBytes) (grace.flatMap (toLE 4)) else s
      let ep' := (ep + 1) % 65536
      let r := patch r 0 (toLE 2 ep')
      let r := Root.setTallies r 0 (Root.cur r)
      let r := Root.setFlags r (Root.state r) b.lowered
      let r := patch (patch r 40 (toLE 4 g)) 44 (toLE 2 (if hasGrace then grace.length else 0))
      let s := s.poke root r
      let s := s.bump (Reg.KVP_EDITS e.stall)
      let s := if Ed.event e.desc then s.raise Tag.kvp 0x0001 Sev.info (Root.handle r) [Ed.op e.desc, 0, ep' % 256, ep' / 256]
        else s
      let s := if Ed.op e.desc = Ed.opCompact then
          s.raise Tag.kvp 0x0006 Sev.info (Root.handle r) [b.before % 256, b.before / 256, b.after % 256, b.after / 256]
        else s
      editEnd s e St.ok ep' (if hasGrace then grace.length else 0)

/-- A built edit may go on to its commit: a COMPACT makes progress only while both its stall's queues are empty and COMPACT_EN is 1,
and not while an append to its table runs (R95, R103). -/
def mayCommit (s : State) (e : EditItem) : Bool :=
  e.build.isSome && (Ed.op e.desc != Ed.opCompact || (mayCompact s e.stall &&
    !(s.works.any fun (_, w) => w.appends.any fun a => a.run.isSome && Ap.root a.msg == Ed.root e.desc)))

/-- The first built edit of a stall that may commit does so if it can. -/
def editCommitTurn (s : State) (n : Nat) : State :=
  match s.kvp.edits.find? fun e => e.stall == n && mayCommit s e with
  | some e => match e.build with
    | some b => editCommit s e b
    | none => s
  | none => s

/-! ### RELEASE -/

/-- Free everything one pair names; the list entries released are counted, each a page of this module freed or a reference given up:
an entry that is not valid or names another node names none (R100, Table KVP-9). -/
def releasePair (s : State) (root : Nat) (r : Bytes) (k : Nat) : State × Nat :=
  let (s, st, h) := s.readPair root r k
  if st ≠ St.ok then (s, 0)
  else
    let (s, _, es) := s.readList h
    let mine := es.zipIdx.filter fun (x, _) => pteV x.1 && pteNode x.1 == s.node
    let s := forEach mine s fun s (x, i) => s.dropPage (decide (i < Pair.nshared h)) (ptePoison x.1) (ptePage x.1)
    let s := forEach (List.range (listPages h)) s fun s j => s.freePage (Pair.list h j)
    (s, mine.length)

/-- Operations queued behind a RELEASE end without reading the freed root (R100). -/
def flushTable (s : State) (root ord : Nat) : State :=
  let behind := s.kvp.edits.filter fun x => decide (ord < x.ord) && Ed.root x.desc == root && Ed.op x.desc != Ed.opOpen
  let s := forEach behind s fun s x => editEnd s x (if Ed.op x.desc = Ed.opRelease then St.noEffect else St.bounds) 0 0
  forEach s.works s fun s (n, w) =>
    let behind := fun (o : Nat) (m : Bytes) => decide (ord < o) && Ap.root m == root
    let (gone, stay) := w.appends.partition fun a => behind a.ord a.msg
    let (gone', stay') := w.late.partition fun x => x.msg.op == Op.append && behind x.ord x.msg.data
    let s := s.updWork n fun w => { w with appends := stay, late := stay' }
    let s := forEach gone s fun s a => appendDone s n a.msg St.bounds 0
    let s := forEach gone' s fun s x => appendDone s n x.msg.data St.bounds 0
    forEach gone s fun s _ => admitLateAppend s n

/-- A RELEASING table with both tallies zero frees its pages and completes the RELEASE (R97, Table KVP-9). -/
def releaseFree (s : State) (e : EditItem) (found : Nat) : State :=
  let root := Ed.root e.desc
  let s := graceEmpty s root
  let (s, st, r) := s.readRoot root
  if st ≠ St.ok then flushTable (editEnd s e st found 0) root e.ord
  else if Root.cur r ≠ 0 ∨ Root.old r ≠ 0 then s
  else
    let (s, n) := forEach (List.range (Root.pairs r)) (s, 0) fun (s, n) k =>
      let (s, m) := releasePair s root r k
      (s, n + m)
    let nx := ceilDiv (Root.pairs r - 255) 256
    let s := forEach (List.range nx) s fun s k => s.freePage (Root.xpage r k)
    let s := (s.poke root (zeros 64)).freePage (root / pageBytes)
    let s := if Ed.event e.desc then s.raise Tag.kvp 0x0001 Sev.info (Root.handle r) [Ed.op e.desc, 0, found % 256, found / 256]
      else s
    flushTable (editEnd s e St.ok found n) root e.ord

/-- A RELEASE has set RELEASING and no walker holds its table, or its root line cannot be read (R97). -/
def releaseReady (s : State) (e : EditItem) : Bool :=
  let (_, st, r) := s.readRoot (Ed.root e.desc)
  e.releasing.isSome && (st != St.ok || (Root.cur r == 0 && Root.old r == 0))

/-- The first RELEASE of a stall whose table no walker holds any longer frees it. -/
def releaseTurn (s : State) (n : Nat) : State :=
  match s.kvp.edits.find? fun e => e.stall == n && releaseReady s e with
  | some e => releaseFree s e (e.releasing.getD 0)
  | none => s

/-! ### Commands -/

/-- OPEN reaches its turn (R100). -/
def execEditOpen (stall : Fin 128) (s : State) : Res := .next (s.ifRuns (editTurn s stall Ed.opOpen))
/-- ATTACH reaches its turn (R100). -/
def execEditAttach (stall : Fin 128) (s : State) : Res := .next (s.ifRuns (editTurn s stall Ed.opAttach))
/-- REPLACE reaches its turn (R100). -/
def execEditReplace (stall : Fin 128) (s : State) : Res := .next (s.ifRuns (editTurn s stall Ed.opReplace))
/-- TRUNCATE reaches its turn (R101). -/
def execEditTruncate (stall : Fin 128) (s : State) : Res := .next (s.ifRuns (editTurn s stall Ed.opTruncate))
/-- COMPACT reaches its turn (R103). -/
def execEditCompact (stall : Fin 128) (s : State) : Res := .next (s.ifRuns (editTurn s stall Ed.opCompact))
/-- RELEASE reaches its turn (R97). -/
def execEditRelease (stall : Fin 128) (s : State) : Res := .next (s.ifRuns (editTurn s stall Ed.opRelease))
/-- A structural edit commits (R99). -/
def execEditCommit (stall : Fin 128) (s : State) : Res := .next (s.ifRuns (editCommitTurn s stall))
/-- A RELEASING table frees its pages (R97). -/
def execReleaseFree (stall : Fin 128) (s : State) : Res := .next (s.ifRuns (releaseTurn s stall))
/-- A grace page is emptied (R99). -/
def execGraceEmpty (root : Nat) (s : State) : Res := .next (s.ifRuns (graceEmpty s root))

end Sys2Proof.Machine
end

