-- ==== Sys2Proof/Machine/Ped.lean ====
section
/-!
DEFINITION. Machine/Ped.lean: Pedigree (R105–R118): block keys, buckets, node and holder records, lookups and attaches,
inserts, eviction, withdrawal and rehash.
-/
namespace Sys2Proof.Machine

/-- Change Pedigree's state. -/
def State.updPed (s : State) (f : Pedigree → Pedigree) : State := { s with ped := f s.ped }

/-! ### Keys (R106) -/

/-- ped_mix. -/
def pedMix (x : Nat) : Nat :=
  let x := x ^^^ (x / 2 ^ 29)
  let x := x * 0x8F2E6B4D35C19A57 % 2 ^ 64
  let x := x ^^^ (x / 2 ^ 32)
  let x := x * 0xB7D31E096A4CF2E1 % 2 ^ 64
  x ^^^ (x / 2 ^ 29)

/-- ped_start: key and check before block 1. -/
def pedStart (team salt : Nat) : Nat × Nat :=
  let k := pedMix (team * 2 ^ 32 + salt)
  (k, pedMix (k ^^^ 0x5A5A5A5A5A5A5A5A))

/-- ped_block: key and check after a block's tokens. -/
def pedBlock (toks : List Nat) (kc : Nat × Nat) : Nat × Nat :=
  toks.zipIdx.foldl (fun (k, c) (t, i) => (pedMix (k ^^^ t), pedMix (c ^^^ (t * 2 ^ 32) ^^^ i))) kc

/-! ### Teams -/

/-- The enabled entry that names a team (R105). -/
def State.pedTeam (s : State) (team : Nat) : Option Nat :=
  (List.range 16).find? fun t => s.flag (Reg.PED_TEAM t) F.PED_TEAM_EN && s.fld (Reg.PED_TEAM t) F.PED_TEAM_TEAM == team

/-- Block size of entry t. -/
def State.pedBlk (s : State) (t : Nat) : Nat := 16 * 2 ^ s.fld (Reg.PED_TEAM t) F.PED_TEAM_BLK

/-- Block size of a team whose nodes exist: that of the enabled entry that names it, or of a disabled one. -/
def State.blkOf (s : State) (team : Nat) : Nat :=
  match (s.pedTeam team).orElse fun _ => (List.range 16).find? fun t => s.fld (Reg.PED_TEAM t) F.PED_TEAM_TEAM == team with
  | some t => s.pedBlk t
  | none => 32

/-! ### Node records (Table PED-2) -/

namespace Nd
def key (b : Bytes) : Nat := fld b 0 8
def check (b : Bytes) : Nat := fld b 8 4
def depth (b : Bytes) : Nat := fld b 12 2
def use (b : Bytes) : Bool := bit (fld b 14 2) 14
def state (b : Bytes) : Nat := bits (fld b 14 2) 13 12
def team (b : Bytes) : Nat := fld b 14 2 % 4096
def parent (b : Bytes) : Nat := fld b 16 4
def nchild (b : Bytes) : Nat := fld b 20 2
def nlive (b : Bytes) : Nat := fld b 22 2
def pins (b : Bytes) : Nat := fld b 24 2
def holder (b : Bytes) : Nat := fld b 26 2
def free : Nat := 0
def live : Nat := 1
def spilled : Nat := 2
def withdrawn : Nat := 3
def setFlags (b : Bytes) (use : Bool) (st : Nat) : Bytes := patch b 14 (toLE 2 (team b + st * 4096 + b2n use * 16384))
def setChildren (b : Bytes) (n l : Nat) : Bytes := patch (patch b 20 (toLE 2 n)) 22 (toLE 2 l)
def setPins (b : Bytes) (n : Nat) : Bytes := patch b 24 (toLE 2 n)
end Nd

/-- "none" for node indices. -/
def noNode : Nat := 0xFFFFFFFF

/-- Offset of a node record. -/
def State.nodeOff (s : State) (i : Nat) : Nat := s.base Reg.PED_NODE_BASE_LO + 64 * i

/-- Node records there are. -/
def State.nodeCap (s : State) : Nat := min (s.fld Reg.PED_NODE_CAP F.PED_NODE_CAP_CAP) (2 ^ 20)

/-- The bytes of a node record as they stand. -/
def State.nodeAt (s : State) (i : Nat) : Bytes := s.peek (s.nodeOff i) 64

/-- Write a node record. -/
def State.pokeNode (s : State) (i : Nat) (b : Bytes) : State := s.poke (s.nodeOff i) b

/-- Nodes that are not FREE. -/
def State.nodes (s : State) : List (Nat × Bytes) :=
  ((List.range s.nodeCap).map fun i => (i, s.nodeAt i)).filter fun x => Nd.state x.2 != Nd.free

/-- Free node records. -/
def State.nodeFree (s : State) : Nat := s.nodeCap - s.nodes.length

/-- Some element of a list, the choice open: a free value. -/
def State.drawFrom (s : State) (l : List Nat) : State × Option Nat :=
  if l.isEmpty then (s, none)
  else
    let (r, s) := s.draw
    (s, l[r % l.length]?)

/-! ### Buckets (R107, R117) -/

/-- Size of the table in use. -/
def State.pedLog2 (s : State) : Nat := s.fld Reg.PED_STATUS F.PED_STATUS_LOG2

/-- Migration cursor. -/
def State.pedCursor (s : State) : Nat := s.fld Reg.PED_CURSOR F.PED_CURSOR_CURSOR

/-- The entry of a bucket that matches. -/
def bucketFind (l : List PedEntry) (kc : Nat × Nat) : Option PedEntry :=
  l.find? fun e => e.key == kc.1 && e.check == kc.2 % 2 ^ 32

/-- Probe a key: the new table first while a rehash runs, the old one only where its bucket has not migrated (R117). -/
def State.pedProbe (s : State) (kc : Nat × Nat) : Option PedEntry :=
  let c := kc.1 % 2 ^ s.pedLog2
  let old := bucketFind (s.ped.table.getD c []) kc
  match s.ped.rehash with
  | none => old
  | some (n, t, _) =>
    match bucketFind (t.getD (kc.1 % 2 ^ n) []) kc with
    | some e => some e
    | none => if c < s.pedCursor then none else old

/-- A bucket without a node's entry; an empty bucket is not listed. -/
def bucketDrop (t : Tab (List PedEntry)) (c node : Nat) : Tab (List PedEntry) :=
  let l := (t.getD c []).filter (·.node != node)
  if l.isEmpty then t.del c else t.put c l

/-- Remove a node's entry from whichever table holds it. -/
def State.pedUnlink (s : State) (i : Nat) (key : Nat) : State :=
  s.updPed fun p => { p with
    table := bucketDrop p.table (key % 2 ^ s.pedLog2) i
    rehash := p.rehash.map fun (n, t, d) => (n, bucketDrop t (key % 2 ^ n) i, d) }

/-- Put an entry in the table that takes inserts; false when its bucket already holds four. -/
def State.pedLink (s : State) (e : PedEntry) : State × Bool :=
  match s.ped.rehash with
  | some (n, t, d) =>
    let l := t.getD (e.key % 2 ^ n) []
    if 4 ≤ l.length then (s, false)
    else (s.updPed fun p => { p with rehash := some (n, t.put (e.key % 2 ^ n) (l ++ [e]), d) }, true)
  | none =>
    let c := e.key % 2 ^ s.pedLog2
    let l := s.ped.table.getD c []
    if 4 ≤ l.length then (s, false) else (s.updPed fun p => { p with table := p.table.put c (l ++ [e]) }, true)

/-! ### Messages between Pedigrees: a layout of the model's own (the spec gives none) -/

namespace Pm
def attach : Nat := 1
def attachReply : Nat := 2
def keep : Nat := 3
def keepReply : Nat := 4
def trim : Nat := 5
def release : Nat := 6
def promote : Nat := 7
def promoted : Nat := 8
def spill : Nat := 9
def poisoned : Nat := 10
def kind (m : Bytes) : Nat := fld m 0 1
def status (m : Bytes) : Nat := fld m 1 1
def count (m : Bytes) : Nat := fld m 4 2
def handle (m : Bytes) : Nat := fld m 8 8
def holder (m : Bytes) : Nat := fld m 16 8
def pos (m : Bytes) : Nat := fld m 24 4
def roots (m : Bytes) : List (Nat × Nat) :=
  (List.range (count m)).map fun i => (bits (fld m (64 + 8 * i) 8) 63 56, bits (fld m (64 + 8 * i) 8) 47 0)
end Pm

/-- Root words in the ROOT layout of Table LDG-4. -/
def rootWords (rs : List (Nat × Nat)) : Bytes := rs.flatMap fun (n, o) => toLE 8 (o + n * 2 ^ 56)

/-- Send a Pedigree message about a request or a holder. -/
def pedSend (s : State) (node kind status handle holder pos : Nat) (rs : List (Nat × Nat)) : State :=
  s.sendMsg node Op.pedigree (handle % 4096) 0xFF
    (toLE 1 kind ++ toLE 1 status ++ toLE 2 s.node ++ toLE 2 rs.length ++ zeros 2 ++ toLE 8 handle ++ toLE 8 holder ++
      toLE 4 pos ++ zeros 36 ++ rootWords rs)

/-! ### Root lists (Table LDG-4) -/

/-- Modules of root lists with their (stall, PT_ROOT) pairs. -/
def rootLists (b : Bytes) : List (Nat × List (Nat × Nat)) :=
  (List.range (fld b 0 1)).map fun k =>
    (fld b (2 + 2 * k) 2, (List.range (fld b (34 + k) 1)).map fun i =>
      let w := fld b (64 + 1024 * k + 8 * i) 8
      (bits w 63 56, bits w 47 0))

/-- Read root lists: header first, then the lists it names. -/
def State.readRoots (s : State) (o : Nat) : State × Nat × Bytes :=
  let (s, st, h) := s.readMem o 64
  if st ≠ St.ok then (s, st, h)
  else
    let (s, st, b) := s.readMem (o + 64) (1024 * min (Machine.fld h 0 1) 16)
    (s, st, h ++ b)

/-- Root lists keep to Table LDG-4. -/
def rootsOk (b : Bytes) : Bool :=
  let n := fld b 0 1
  decide (1 ≤ n) && decide (n ≤ 16) &&
    (List.range n).all fun k => decide (1 ≤ fld b (34 + k) 1) && decide (fld b (34 + k) 1 ≤ 128) &&
      (List.range (fld b (34 + k) 1)).all fun i => bits (fld b (64 + 1024 * k + 8 * i) 8) 55 48 == 0

/-- Roots a holder has on this module. -/
def State.holderRoots (s : State) (handle : Nat) : List (Nat × Nat) :=
  match s.ped.roots.find? (·.1 == handle) with
  | some x => x.2
  | none => []

/-! ### Work on this module's tables for a holder -/

/-- An internal edit of Pedigree on a table, for edit `id` (zero: nobody waits). -/
def pedEdit (s : State) (op root layer kvh pos index id : Nat) (all : Bool) (given : List (Nat × Nat)) : State :=
  let d := Ed.make op none root layer kvh pos index 0
  let d := if all then patch d 1 (toLE 1 (Machine.fld d 1 1 + 16)) else d
  editSubmitWith s (homeStall root % 128) d (.pedigree id) given

/-- Step 3 of an insert on this module (R113): every pair becomes shared in place, and pages not already shared take share
count 1. -/
def keepTables (s : State) (handle : Nat) (rs : List (Nat × Nat)) : State :=
  let s := s.updPed fun p => { p with roots := (p.roots.filter (·.1 != handle)) ++ [(handle, rs)] }
  forEach rs s fun s (_, root) =>
    let (s, st, r) := s.readRoot root
    if st ≠ St.ok then s
    else forEach (List.range (Root.pairs r)) s fun s k =>
      let (s, st, h) := s.readPair root r k
      if st ≠ St.ok then s
      else
        let (s, _, es) := s.readList h
        let s := forEach (es.drop (Pair.nshared h)) s fun s x => s.setShare (ptePage x.1) 1
        s.poke (pairOff root r k) (Pair.setNshared h (Pair.npages h))

/-- The holder's tables on this module are truncated to `pos` (R101). -/
def trimTables (s : State) (handle pos : Nat) : State :=
  forEach (s.holderRoots handle) s fun s (_, root) => pedEdit s Ed.opTruncate root 0 0 pos 0 0 true []

/-- The holder's tables on this module are released. -/
def releaseTables (s : State) (handle : Nat) : State :=
  let s := forEach (s.holderRoots handle) s fun s (_, root) => pedEdit s Ed.opRelease root 0 0 0 0 0 false []
  s.updPed fun p => { p with roots := p.roots.filter (·.1 != handle) }

/-- List entries of the holder's tables on this module, with their places. -/
def holderEntries (s : State) (handle : Nat) : List (Nat × Nat × Nat × Nat) :=
  (s.holderRoots handle).flatMap fun (_, root) =>
    let r := s.peek root 64
    (List.range (Root.pairs r)).flatMap fun k =>
      let (s, _, h) := s.readPair root r k
      let (_, _, es) := s.readList h
      es.map fun x => (root, k, x.1, x.2)

/-- The tier pages of a holder's tables on this module are asked for (R111). -/
def promoteHolder (s : State) (handle : Nat) : State :=
  forEach (holderEntries s handle) s fun s (root, k, pte, first) =>
    if pteV pte && !isHbm (ptePage pte) then s.askPromote ⟨ptePage pte, root, k, first⟩ else s

/-- Packhorse is asked to demote the holder's pages from position `pos` on (R114). -/
def spillHolder (s : State) (handle pos : Nat) : State :=
  forEach (holderEntries s handle) s fun s (root, k, pte, first) =>
    if pteV pte && isHbm (ptePage pte) && decide (pos ≤ first) then
      s.updPed fun p => { p with spills := p.spills ++ [(root, k, first)] }
    else s

/-- Do something to a holder's tables on every module of its list: here directly, elsewhere by message. -/
def onHolder (s : State) (h : Holder) (kind pos : Nat) (here : State → State) : State :=
  forEach h.mods s fun s m => if m = s.node then here s else pedSend s m kind 0 h.handle h.handle pos []

/-! ### Nodes -/

/-- Change a holder record. -/
def State.updHolder (s : State) (k : Nat) (f : Holder → Holder) : State :=
  match s.ped.holders.get? k with
  | some h => s.updPed fun p => { p with holders := p.holders.put k (f h) }
  | none => s

/-- Children counts of a node's parent fall. -/
def dropChild (s : State) (parent : Nat) (child live : Bool) : State :=
  if s.nodeCap ≤ parent then s
  else
    let b := s.nodeAt parent
    s.pokeNode parent (Nd.setChildren b (Nd.nchild b - b2n child) (Nd.nlive b - b2n live))

/-- The node leaves LIVE: its holder's deepest LIVE node is now above it. -/
def leaveLive (s : State) (b : Bytes) : State :=
  s.updHolder (Nd.holder b) fun h => { h with hi := min h.hi (Nd.depth b - 1) }

/-- The holder's tables are released on every module and its record is freed (R113, R114). -/
def releaseHolder (s : State) (k : Nat) (h : Holder) : State :=
  (onHolder s h Pm.release 0 fun s => releaseTables s h.handle).updPed fun p => { p with holders := p.holders.del k }

/-- Evict a node (R114). -/
def evictNode (s : State) (i : Nat) (b : Bytes) : State :=
  let live := Nd.state b == Nd.live
  let s := s.pedUnlink i (Nd.key b)
  let s := s.pokeNode i (Nd.setFlags b false Nd.free)
  let s := dropChild s (Nd.parent b) true live
  let s := leaveLive s b
  let s := s.bump Reg.PED_EVICTS
  let k := Nd.holder b
  match s.ped.holders.get? k with
  | none => s
  | some h =>
    let n := h.nodes - 1
    let pos := (Nd.depth b - 1) * s.blkOf (Nd.team b)
    let s := onHolder s h Pm.trim pos fun s => trimTables s h.handle pos
    if n = 0 then releaseHolder s k h else s.updHolder k fun h => { h with nodes := n }

/-- Descendants of a set of nodes, by the PARENT field. -/
def descendants (all : List (Nat × Bytes)) : Nat → List Nat → List Nat
  | 0, set => set
  | fuel + 1, set =>
    let more := (all.filter fun x => set.contains (Nd.parent x.2) && !set.contains x.1).map (·.1)
    if more.isEmpty then set else descendants all fuel (set ++ more)

/-- Withdraw nodes with all their descendants (R116): entries removed, STATE WITHDRAWN, one event for the holder. -/
def withdrawNodes (s : State) (handle : Nat) (start : List Nat) : State :=
  let all := s.nodes
  let set := descendants all 4096 start
  let hit := all.filter fun x => set.contains x.1 && Nd.state x.2 != Nd.withdrawn
  let s := forEach hit s fun s (i, _) =>
    let b := s.nodeAt i
    let s := s.pedUnlink i (Nd.key b)
    let s := if Nd.state b = Nd.live then leaveLive (dropChild s (Nd.parent b) false true) b else s
    s.pokeNode i (Nd.setFlags b (Nd.use b) Nd.withdrawn)
  let n := hit.length
  if n = 0 then s else s.raise Tag.ped 0x0003 Sev.info handle [n % 256, n / 256 % 256, n / 65536 % 256, 0]

/-- Farrier reports a poisoned page of a holder's table, its entry's FIRST given (R116). -/
def pedWithdraw (s : State) (handle first : Nat) : State :=
  match s.ped.holders.find? (·.2.handle == handle) with
  | none => s
  | some (k, _) =>
    let hit := s.nodes.filter fun x => Nd.holder x.2 == k && decide (first < Nd.depth x.2 * s.blkOf (Nd.team x.2))
    withdrawNodes s handle (hit.map (·.1))

/-- Farrier has poisoned a page of a table of this module: when the table's handle is a holder, the Pedigree of the holder's home is
told (R116). -/
def pedReport (s : State) (handle first : Nat) : State :=
  if s.ped.holders.any (·.2.handle == handle) then pedWithdraw s handle first
  else if (s.holderRoots handle).isEmpty || handle / 2 ^ 48 == s.node then s
  else pedSend s (handle / 2 ^ 48) Pm.poisoned 0 handle handle first []

/-- A node record is read; an uncorrectable or poisoned one is lost with its descendants (Table FAR-3). -/
def readNode (s : State) (i : Nat) : State × Option Bytes :=
  let (s, st, b) := s.readMem (s.nodeOff i) 64
  if st = St.ok then (s, some b)
  else
    let s := s.structLost Tag.ped st i
    let lost := s.nodeAt i
    let s := withdrawNodes s ((s.ped.holders.get? (Nd.holder lost)).map (·.handle) |>.getD 0) [i]
    (s.updPed fun p => { p with table := p.table.map fun (c, l) => (c, l.filter (·.node != i)) }, none)

/-! ### Lookup (R111) -/

/-- Token i of a sequence (R121). -/
def tokenOff (tokens prompt i : Nat) : Nat :=
  if i < prompt then tokens + 4 * i else tokens + 64 * ceilDiv prompt 16 + 4 * (i - prompt)

/-- Tokens `[a, a+n)` of a sequence: status and values. -/
def readTokens (s : State) (tokens prompt a n : Nat) : State × Nat × List Nat :=
  forEach (rangeFrom a n) (s, St.ok, ([] : List Nat)) fun (s, st, ts) i =>
    if st ≠ St.ok then (s, st, ts)
    else
      let (s, st, v) := s.readNat (tokenOff tokens prompt i) 4
      (s, st, ts ++ [v])

/-- What probing a prompt found: J, J_all, the nodes of both, the status of a bad token line. -/
structure Probe where
  j : Nat
  jall : Nat
  node : Nat
  nodeAll : Nat
  status : Nat
  deriving DecidableEq, Repr

/-- Hash and probe blocks k … until one does not match. -/
def probeBlocks (tokens prompt blk : Nat) : Nat → State → Nat → Nat × Nat → Probe → State × Probe
  | 0, s, _, _, p => (s, p)
  | fuel + 1, s, k, kc, p =>
    let (s, st, ts) := readTokens s tokens prompt ((k - 1) * blk) blk
    if st ≠ St.ok then (s, { p with status := st })
    else
      let kc := pedBlock ts kc
      match s.pedProbe kc with
      | none => (s, p)
      | some e => match readNode s e.node with
        | (s, none) => (s, p)
        | (s, some b) =>
          if Nd.state b = Nd.live then
            let p := { p with jall := k, nodeAll := e.node }
            probeBlocks tokens prompt blk fuel s (k + 1) kc
              (if p.j + 1 = k then { p with j := k, node := e.node } else p)
          else if Nd.state b = Nd.spilled then
            probeBlocks tokens prompt blk fuel s (k + 1) kc { p with jall := k, nodeAll := e.node }
          else (s, p)

/-- A lookup ends: its result goes to the ledger. -/
def lookupEnd (s : State) (r : LookupResult) : State :=
  let s := s.bump Reg.PED_LOOKUPS
  let s := if 0 < r.matched then s.bump Reg.PED_HITS else s
  { s with ldg := { s.ldg with results := s.ldg.results ++ [r] } }

/-- A lookup starts (R111). -/
def lookupStart (s : State) (l : Lookup) : State :=
  let miss := fun (st blk : Nat) => (⟨l.handle, 0, 0, noNode, st, blk, 0⟩ : LookupResult)
  if !s.flag Reg.PED_CTRL F.PED_CTRL_EN then lookupEnd s (miss St.ok 0)
  else match s.pedTeam (l.handle % 4096) with
    | none => lookupEnd s (miss St.rights 0)
    | some t =>
      let blk := s.pedBlk t
      let k := min ((l.len - 1) / blk) 4096
      let (s, p) := probeBlocks l.tokens l.len blk k s 1 (pedStart (l.handle % 4096) (s.reg (Reg.PED_SALT t)))
        ⟨0, 0, noNode, noNode, St.ok⟩
      let s := if p.j < p.jall then
          match s.ped.holders.get? (Nd.holder (s.nodeAt p.nodeAll)) with
          | some h => onHolder s h Pm.promote 0 fun s => promoteHolder s h.handle
          | none => s
        else s
      if p.status ≠ St.ok ∧ p.j = 0 then lookupEnd s (miss p.status blk)
      else if p.j = 0 then lookupEnd s { miss St.ok blk with spill := p.jall * blk }
      else
        let b := s.nodeAt p.node
        let s := s.pokeNode p.node (patch (Nd.setFlags (Nd.setPins b (Nd.pins b + 1)) true (Nd.state b)) 32 (toLE 8 s.now))
        let hk := Nd.holder b
        match s.ped.holders.get? hk with
        | none => lookupEnd s (miss St.internal blk)
        | some h =>
          let (s, st, rb) := s.readRoots l.roots
          let lists := if st = St.ok then rootLists rb else []
          let s := forEach h.mods s fun s m =>
            let rs := match lists.find? (·.1 == m) with
              | some x => x.2
              | none => []
            pedSend s m Pm.attach 0 l.handle h.handle (p.j * blk) rs
          s.updPed fun q => { q with attaching := q.attaching ++ [⟨l.handle, blk, p.j, p.jall, p.node, hk, St.ok, h.mods⟩] }

/-- A lookup's attach is answered by a module (R111). -/
def attachAnswered (s : State) (handle node status : Nat) : State :=
  match s.ped.attaching.find? fun a => a.handle == handle && a.waiting.contains node with
  | none => s
  | some a =>
    let a' := { a with waiting := a.waiting.erase node, status := if a.status = St.ok then status else a.status }
    if !a'.waiting.isEmpty then
      s.updPed fun p => { p with attaching := replaceIf (· == a) (fun _ => a') p.attaching }
    else
      let s := s.updPed fun p => { p with attaching := p.attaching.erase a }
      let b := s.nodeAt a.node
      let s := s.pokeNode a.node (Nd.setPins b (Nd.pins b - 1))
      let ok := a'.status = St.ok
      let s := if ok then s
        else s.raise Tag.ped 0x0002 Sev.contained handle [a'.status, 0, a.holder % 256, a.holder / 256]
      lookupEnd s ⟨handle, if ok then a.j * a.blk else 0, (a.jall - a.j) * a.blk, a.node, if ok then St.ok else St.bounds,
        a.blk, a.holder⟩

/-! ### Attach at a module (R112) -/

/-- Take share counts of pages, undoing them all when one cannot be raised (R110): each page taken, and whether its count was
zero. -/
def raiseShares : List Nat → State → List (Nat × Bool) → State × Nat × List (Nat × Bool)
  | [], s, done => (s, St.ok, done)
  | p :: ps, s, done =>
    let (s, st, n) := s.share p
    let bad := if st ≠ St.ok then st else if 65535 ≤ n then St.bounds else St.ok
    if bad ≠ St.ok then (done.foldl State.undoShare s, bad, [])
    else raiseShares ps (s.setShare p (n + 1)) (done ++ [(p, n == 0)])

/-- The entries a pair takes from the holder's: FIRST < M, FILL lowered to M − FIRST. -/
def takeEntries (es : List (Nat × Nat)) (m : Nat) : List (Nat × Nat) :=
  (es.filter fun x => decide (x.2 < m)).map fun x => (pteSetFill x.1 (min (pteFill x.1) (m - x.2)), x.2)

/-- The checks of R112 on one new table against the holder's, and the entries of each pair. -/
def attachPlan (s : State) (hroot root m : Nat) : State × Nat × List (Nat × Nat × List (Nat × Nat)) :=
  let (s, st1, hr) := s.readRoot hroot
  let (s, st2, r) := s.readRoot root
  if st1 ≠ St.ok ∨ st2 ≠ St.ok then (s, St.bounds, [])
  else if slice r 16 6 ≠ slice hr 16 6 ∨ Root.hdim r ≠ Root.hdim hr ∨ Root.fmt r ≠ Root.fmt hr then (s, St.bounds, [])
  else forEach (List.range (Root.pairs r)) (s, St.ok, []) fun (s, st, acc) k =>
    if st ≠ St.ok then (s, st, acc)
    else
      let (s, st1, h) := s.readPair root r k
      let (s, st2, hh) := s.readPair hroot hr k
      let (s, st3, es) := if st2 = St.ok then s.readList hh else (s, st2, [])
      if st1 ≠ St.ok ∨ st3 ≠ St.ok ∨ Pair.npages h ≠ 0 then (s, St.bounds, acc)
      else (s, St.ok, acc ++ [(Root.layer0 r + k / Root.nkvh r, Root.kvh0 r + k % Root.nkvh r, takeEntries es m)])

/-- Serve one attach request: checks, share counts, ATTACH edits (R112). -/
def attachServe (s : State) (m : Msg) : State :=
  let handle := Pm.handle m.data
  let held := s.holderRoots (Pm.holder m.data)
  let (s, st, plans) := forEach (Pm.roots m.data) (s, St.ok, []) fun (s, st, acc) (n, root) =>
    if st ≠ St.ok then (s, st, acc)
    else match held.find? (·.1 == n) with
      | none => (s, St.bounds, acc)
      | some (_, hroot) =>
        let (s, st, ps) := attachPlan s hroot root (Pm.pos m.data)
        (s, st, acc ++ ps.map fun x => (root, x))
  let plans := plans.filter fun x => !x.2.2.2.isEmpty
  let (s, st, taken) := if st ≠ St.ok then (s, st, [])
    else raiseShares (plans.flatMap fun x => x.2.2.2.map fun e => ptePage e.1) s []
  if st ≠ St.ok ∨ plans.isEmpty then pedSend s m.src Pm.attachReply st handle (Pm.holder m.data) 0 []
  else
    let (s, ids, _) := forEach plans (s, ([] : List (Nat × List (Nat × Bool))), taken) fun (s, ids, taken) (root, l, k, es) =>
      let id := s.ped.editId + 1
      let s := s.updPed fun p => { p with editId := id }
      (pedEdit s Ed.opAttach root l k 0 es.length id false es, ids ++ [(id, taken.take es.length)], taken.drop es.length)
    s.updPed fun p => { p with jobs := p.jobs ++ [⟨m.src, handle, St.ok, ids⟩] }

/-- Finished internal edits are noted: one that failed gives back its share counts, and a job with none left answers. -/
def pedSettle (s : State) : State :=
  let done := s.kvp.done.filterMap fun d => match d.origin with
    | .pedigree id => some (id, d.status)
    | _ => none
  let rest := s.kvp.done.filter fun d => match d.origin with
    | .pedigree _ => false
    | _ => true
  let s := { s with kvp := { s.kvp with done := rest } }
  let s := forEach done s fun s (id, st) =>
    match s.ped.jobs.find? fun j => j.edits.any (·.1 == id) with
    | none => s
    | some j =>
      let pages := match j.edits.find? (·.1 == id) with
        | some x => x.2
        | none => []
      let s := if st = St.ok then s else pages.foldl State.undoShare s
      let j' := { j with edits := j.edits.filter (·.1 != id), status := if j.status = St.ok then st else j.status }
      s.updPed fun p => { p with jobs := replaceIf (· == j) (fun _ => j') p.jobs }
  let ended := s.ped.jobs.filter (·.edits.isEmpty)
  let s := s.updPed fun p => { p with jobs := p.jobs.filter fun j => !j.edits.isEmpty }
  forEach ended s fun s j => pedSend s j.src Pm.attachReply j.status j.handle 0 0 []

/-! ### Insert (R113) -/

/-- The blocks of a sequence that are indexed, as the index of the first that is not, its parent, and the hash before it. -/
def insertProbe (tokens prompt blk : Nat) : Nat → State → Nat → Nat × Nat → Nat → State × Nat × Nat × Nat × (Nat × Nat)
  | 0, s, k, kc, par => (s, St.ok, k, par, kc)
  | fuel + 1, s, k, kc, par =>
    let (s, st, ts) := readTokens s tokens prompt ((k - 1) * blk) blk
    if st ≠ St.ok then (s, st, k, par, kc)
    else
      let kc' := pedBlock ts kc
      match s.pedProbe kc' with
      | none => (s, St.ok, k, par, kc)
      | some e => insertProbe tokens prompt blk fuel s (k + 1) kc' e.node

/-- Create nodes k … K under `par` (R113 steps 4 and 5): the depth reached and the nodes made. -/
def createNodes (x : Insert) (holder blk : Nat) : Nat → State → Nat → Nat → Nat × Nat → Nat → State × Nat × Nat
  | 0, s, k, _, _, made => (s, k - 1, made)
  | fuel + 1, s, k, par, kc, made =>
    let (s, st, ts) := readTokens s x.tokens x.prompt ((k - 1) * blk) blk
    if st ≠ St.ok then (s, k - 1, made)
    else
      let kc := pedBlock ts kc
      match s.pedProbe kc with
      | some e => createNodes x holder blk fuel s (k + 1) e.node kc made
      | none =>
        let used := s.nodes.map (·.1)
        let (s, i) := s.drawFrom ((List.range s.nodeCap).filter fun i => !used.contains i)
        match i with
        | none => (s, k - 1, made)
        | some i =>
          let (s', ok) := s.pedLink ⟨kc.1, kc.2 % 2 ^ 32, i⟩
          if !ok then (s, k - 1, made)
          else
            let b := toLE 8 kc.1 ++ toLE 4 kc.2 ++ toLE 2 k ++ toLE 2 (x.handle % 4096 + Nd.live * 4096) ++ toLE 4 par ++
              toLE 2 0 ++ toLE 2 0 ++ toLE 2 0 ++ toLE 2 holder ++ zeros 36
            let s := s'.pokeNode i b
            let s := if par < s.nodeCap then
                let pb := s.nodeAt par
                s.pokeNode par (Nd.setChildren pb (Nd.nchild pb + 1) (Nd.nlive pb + 1))
              else s
            createNodes x holder blk fuel (s.bump Reg.PED_INSERTS) (k + 1) i kc (made + 1)

/-- An insert ends: the ledger is told. -/
def insertEnd (s : State) (x : Insert) (status : Nat) : State :=
  let s := s.updPed fun p => { p with inserts := p.inserts.filter (·.handle != x.handle) }
  { s with ldg := { s.ldg with inserted := s.ldg.inserted ++ [(x.handle, status)] } }

/-- Steps 4 to 6 of an insert whose modules have all kept their tables. -/
def insertNodes (s : State) (x : Insert) (hk t : Nat) : State :=
  let blk := s.pedBlk t
  let k := min (x.len / blk) 4096
  let (s, st, j0, par, kc) := insertProbe x.tokens x.prompt blk k s 1
    (pedStart (x.handle % 4096) (s.reg (Reg.PED_SALT t))) noNode
  let (s, k', made) := if st = St.ok then createNodes x hk blk (k + 1 - j0) s j0 par kc 0 else (s, j0 - 1, 0)
  let s := if k' < k then
      (s.bump Reg.PED_INS_FULL).raise Tag.ped 0x0004 Sev.info x.handle [k' % 256, k' / 256, k % 256, k / 256]
    else s
  match s.ped.holders.get? hk with
  | none => insertEnd s x St.internal
  | some h =>
    if made = 0 then insertEnd (releaseHolder s hk h) x St.bounds
    else
      let s := s.updHolder hk fun h => { h with nodes := made, lo := j0, hi := k' }
      let s := onHolder s h Pm.trim (k' * blk) fun s => trimTables s h.handle (k' * blk)
      insertEnd s x St.ok

/-- An insert starts, or goes on once every module has kept its tables (R113); one whose team lost its entry meanwhile gives up
its holder. -/
def insertTurn (s : State) (x : Insert) : State :=
  if x.holder.isNone && !s.flag Reg.PED_CTRL F.PED_CTRL_EN then insertEnd s x St.noEffect
  else match s.pedTeam (x.handle % 4096) with
  | none => match x.holder.bind fun hk => (s.ped.holders.get? hk).map fun h => (hk, h) with
    | some (hk, h) => insertEnd (releaseHolder s hk h) x St.rights
    | none => insertEnd s x St.rights
  | some t =>
    match x.holder with
    | some hk => insertNodes s x hk t
    | none =>
      let blk := s.pedBlk t
      let k := min (x.len / blk) 4096
      let (s, st, j0, _, _) := insertProbe x.tokens x.prompt blk k s 1
        (pedStart (x.handle % 4096) (s.reg (Reg.PED_SALT t))) noNode
      if st ≠ St.ok then insertEnd s x st
      else if k = 0 ∨ k < j0 then insertEnd s x St.noEffect
      else
        let (s, st, rb) := s.readRoots x.roots
        if st ≠ St.ok then insertEnd s x st
        else
          let lists := rootLists rb
          let (s, hk) := s.drawFrom ((List.range 65536).filter fun i => !s.ped.holders.has i)
          match hk with
          | none => insertEnd s x St.bounds
          | some hk =>
            let h : Holder := ⟨x.handle, 0, 0, 0, lists.map (·.1)⟩
            let s := s.updPed fun p => { p with holders := p.holders.put hk h }
            let s := forEach lists s fun s (m, rs) =>
              if m = s.node then keepTables s x.handle rs else pedSend s m Pm.keep 0 x.handle x.handle 0 rs
            let waiting := (lists.map (·.1)).filter (· != s.node)
            let x' := { x with holder := some hk, waiting := waiting }
            let s := s.updPed fun p => { p with inserts := replaceIf (· == x) (fun _ => x') p.inserts }
            if waiting.isEmpty then insertNodes s x' hk t else s

/-- A SPILLED node of a holder whose pages are all in HBM again returns to LIVE (R115). -/
def pedPromoted (s : State) (handle : Nat) : State :=
  match s.ped.holders.find? (·.2.handle == handle) with
  | none => s
  | some (k, _) =>
    let hit := s.nodes.filter fun x => Nd.holder x.2 == k && Nd.state x.2 == Nd.spilled
    forEach hit s fun s (i, b) =>
      let s := s.pokeNode i (Nd.setFlags b (Nd.use b) Nd.live)
      let s := if Nd.parent b < s.nodeCap then
          let pb := s.nodeAt (Nd.parent b)
          s.pokeNode (Nd.parent b) (Nd.setChildren pb (Nd.nchild pb) (Nd.nlive pb + 1))
        else s
      s.updHolder k fun h => { h with hi := max h.hi (Nd.depth b) }

/-- This module has promoted the last tier page of a holder's tables: the home is told (R250). -/
def holderPromoted (s : State) (handle : Nat) : State :=
  if (holderEntries s handle).any fun (_, _, pte, _) => pteV pte && !isHbm (ptePage pte) then s
  else if (s.holderRoots handle).isEmpty then s
  else
    let home := handle / 2 ^ 48
    if home = s.node then pedPromoted s handle else pedSend s home Pm.promoted 0 handle handle 0 []

/-- A Pedigree message other than an attach request or reply acts as it is delivered; a module that is not C-role answers RIGHTS and
changes nothing (R14). -/
def pedDeliver (s : State) (m : Msg) : State :=
  let k := Pm.kind m.data
  let h := Pm.holder m.data
  if s.role ≠ roleC then
    if k = Pm.attach then pedSend s m.src Pm.attachReply St.rights (Pm.handle m.data) h 0 []
    else if k = Pm.keep then pedSend s m.src Pm.keepReply St.rights h h 0 []
    else s
  else if k = Pm.attach ∨ k = Pm.attachReply then { s with inbox := s.inbox ++ [m] }
  else if k = Pm.keep then pedSend (keepTables s h (Pm.roots m.data)) m.src Pm.keepReply 0 h h 0 []
  else if k = Pm.keepReply then
    let f := fun (x : Insert) => { x with waiting := x.waiting.erase m.src }
    s.updPed fun p => { p with inserts := replaceIf (·.handle == h) f p.inserts }
  else if k = Pm.trim then trimTables s h (Pm.pos m.data)
  else if k = Pm.release then releaseTables s h
  else if k = Pm.promote then promoteHolder s h
  else if k = Pm.promoted then pedPromoted s h
  else if k = Pm.spill then spillHolder s h (Pm.pos m.data)
  else if k = Pm.poisoned then pedWithdraw s h (Pm.pos m.data)
  else s

/-! ### Commands -/

/-- The first attach message of a kind in the inbox. -/
def State.takePed (s : State) (kind : Nat) : Option (Msg × State) :=
  s.takeMsg fun m => m.op == Op.pedigree && Pm.kind m.data == kind

/-- A lookup starts while fewer than 64 run (R111). -/
def pedLookupRow (s : State) : State :=
  match s.ped.lookups with
  | l :: rest =>
    if 64 ≤ s.ped.attaching.length then s
    else lookupStart (s.updPed fun p => { p with lookups := rest }) l
  | [] => s

/-- The command as a step. -/
def execPedLookup (s : State) : Res := .next (s.ifRuns (pedLookupRow s))

/-- An attach request is served (R112), and finished attaches are answered. -/
def pedAttachRow (s : State) : State :=
  let s := pedSettle s
  match s.takePed Pm.attach with
  | some (m, s) => pedSettle (attachServe s m)
  | none => s

/-- The command as a step. -/
def execPedAttach (s : State) : Res := .next (s.ifRuns (pedAttachRow s))

/-- An attach reply is tallied (R111). -/
def pedAttachReplyRow (s : State) : State :=
  match s.takePed Pm.attachReply with
  | some (m, s) => attachAnswered s (Pm.handle m.data) m.src (Pm.status m.data)
  | none => s

/-- The command as a step. -/
def execPedAttachReply (s : State) : Res := .next (s.ifRuns (pedAttachReplyRow s))

/-- The first insert that may go on does (R113). -/
def pedInsertRow (s : State) : State :=
  match s.ped.inserts.find? (·.waiting.isEmpty) with
  | some x => insertTurn s x
  | none => s

/-- The command as a step. -/
def execPedInsert (s : State) : Res := .next (s.ifRuns (pedInsertRow s))

/-- The eviction hand may run: on a C module (R14), with EVICT_EN, and free records are short or Packhorse asks for pages (R114,
R253). -/
def handRuns (s : State) : Bool :=
  s.role == roleC && s.flag Reg.PED_CTRL F.PED_CTRL_EVICT_EN && !s.walk &&
    (decide (s.nodeFree < s.fld Reg.PED_NODE_FREE F.PED_NODE_FREE_LOW * 512) || !s.lowStalls.isEmpty)

/-- The cartridge is present. -/
def State.vaultPresent (s : State) : Bool := s.flag Reg.PKH_VAULT_STATUS F.PKH_VAULT_STATUS_PRESENT

/-- The hand visits node `i` (R114). -/
def handVisit (s : State) (i : Nat) : State :=
  match readNode s i with
  | (s, none) => s
  | (s, some b) =>
    if Nd.state b = Nd.live ∧ Nd.use b then s.pokeNode i (Nd.setFlags b false Nd.live)
    else if Nd.pins b ≠ 0 ∨ Nd.use b then s
    else if Nd.state b = Nd.live ∧ Nd.nlive b = 0 then
      if s.flag Reg.PED_CTRL F.PED_CTRL_SPILL_EN && s.vaultPresent then
        let s := s.pokeNode i (Nd.setFlags b false Nd.spilled)
        let s := leaveLive (dropChild s (Nd.parent b) false true) b
        match s.ped.holders.get? (Nd.holder b) with
        | some h =>
          let pos := (Nd.depth b - 1) * s.blkOf (Nd.team b)
          onHolder s h Pm.spill pos fun s => spillHolder s h.handle pos
        | none => s
      else evictNode s i b
    else if Nd.state b = Nd.spilled ∧ Nd.nchild b = 0 then evictNode s i b
    else s

/-- The hand visits the next node record in ascending index (R114). -/
def evictionHandVisitRow (s : State) : State :=
  if !handRuns s || s.nodeCap == 0 then s
  else
    let i := s.ped.hand % s.nodeCap
    handVisit (s.updPed fun p => { p with hand := (i + 1) % s.nodeCap }) i

/-- The command as a step. -/
def execEvictionHandVisit (s : State) : Res := .next (s.ifRuns (evictionHandVisitRow s))

/-- The deepest withdrawn node without pins is evicted (R116). -/
def withdrawnNodeEvictRow (s : State) : State :=
  if s.role ≠ roleC then s else
  let hit := s.nodes.filter fun x => Nd.state x.2 == Nd.withdrawn && Nd.pins x.2 == 0
  match hit.foldl (fun (b : Option (Nat × Bytes)) x => match b with
    | none => some x
    | some y => if Nd.depth y.2 < Nd.depth x.2 then some x else b) none with
  | some (i, b) => evictNode s i b
  | none => s

/-- The command as a step. -/
def execWithdrawnNodeEvict (s : State) : Res := .next (s.ifRuns (withdrawnNodeEvictRow s))

/-- GO of a rehash (R117); a module that is not C-role has no prefix index to rehash, and the GO changes no state (R14). -/
def pedRehash (s : State) (data : Nat) : State :=
  let n := bits data 4 0
  let s := s.setFld Reg.PED_REHASH F.PED_REHASH_NEW_LOG2 n
  if !bit data 31 || s.role != roleC then s
  else if s.ped.rehash.isSome ∨ n < 10 ∨ 18 < n ∨ 2 ^ 19 < 2 ^ s.pedLog2 + 2 ^ n then
    s.setFld Reg.PED_STATUS F.PED_STATUS_REHASH_REFUSED 1
  else
    let s := s.setFld Reg.PED_CURSOR F.PED_CURSOR_CURSOR 0
    let s := s.setFld Reg.PED_STATUS F.PED_STATUS_REHASH 1
    s.updPed fun p => { p with rehash := some (n, [], 0) }

/-- A write of PED_REHASH (R117). -/
def execPedRehashGo (data : Word) (s : State) : Res := .next (pedRehash s data.toNat)

/-- One old bucket migrates (R117); the last one ends the rehash. An entry whose node was withdrawn as a descendant of an earlier
entry of the bucket is gone already (R116). -/
def migrate (s : State) : State :=
  match s.ped.rehash with
  | none => s
  | some (n, _, _) =>
    let c := s.pedCursor
    let es := s.ped.table.getD c []
    let s := s.updPed fun p => { p with table := p.table.del c }
    let s := forEach es s fun s e =>
      let (s', ok) := s.pedLink e
      if Nd.state (s.nodeAt e.node) = Nd.withdrawn then s
      else if ok then s'
      else
        let s := s.bump Reg.PED_REHASH_DROP
        let s := s.updPed fun p => { p with rehash := p.rehash.map fun (n, t, d) => (n, t, d + 1) }
        let h := (s.ped.holders.get? (Nd.holder (s.nodeAt e.node))).map (·.handle) |>.getD 0
        withdrawNodes s h [e.node]
    let old := s.pedLog2
    if c + 1 < 2 ^ old then s.setFld Reg.PED_CURSOR F.PED_CURSOR_CURSOR (c + 1)
    else match s.ped.rehash with
      | none => s
      | some (_, t, d) =>
        let s := s.updPed fun p => { p with table := t, rehash := none }
        let s := s.setFld Reg.PED_STATUS F.PED_STATUS_LOG2 n
        let s := s.setFld Reg.PED_STATUS F.PED_STATUS_REHASH 0
        let s := s.setFld Reg.PED_CURSOR F.PED_CURSOR_CURSOR (c + 1)
        s.raise Tag.ped 0x0001 Sev.info 0 [old, n, d % 256, d / 256 % 256]

/-- The migrator moves one bucket (R117); not at WALK (R315). -/
def execRehashMigrate (s : State) : Res := .next (s.ifRuns (if s.walk then s else migrate s))

end Sys2Proof.Machine
end

