-- ==== Sys2Proof/Machine/Merge.lean ====
section
/-!
DEFINITION. Machine/Merge.lean: partial records (R76), the merge of two records (R77, R78), normalisation (R81) and merge
contexts (R79, R373).
-/
namespace Sys2Proof.Machine

/-! ### Attention descriptor (Table ATT-1) -/

namespace At
def op (m : Bytes) : Nat := fld m 0 1
def event (m : Bytes) : Bool := bit (fld m 1 1) 7
def qmx8 (m : Bytes) : Bool := bit (fld m 1 1) 6
def outF32 (m : Bytes) : Bool := bit (fld m 1 1) 5
def norm (m : Bytes) : Bool := bit (fld m 1 1) 4
def obf16 (m : Bytes) : Bool := bit (fld m 1 1) 3
def causal (m : Bytes) : Bool := bit (fld m 1 1) 0
def shape (m : Bytes) : Nat := fld m 2 1
def hdim (m : Bytes) : Nat := bits (fld m 2 1) 7 6
def glog2 (m : Bytes) : Nat := bits (fld m 2 1) 5 3
def g (m : Bytes) : Nat := 2 ^ glog2 m
def nkv (m : Bytes) : Nat := fld m 2 1 % 8
def d (m : Bytes) : Nat := hdimOf (hdim m)
def kvh0 (m : Bytes) : Nat := fld m 3 1
def layer (m : Bytes) : Nat := fld m 4 2
def nqrows (m : Bytes) : Nat := fld m 6 2
def handle (m : Bytes) : Nat := fld m 8 8
def tag (m : Bytes) : Nat := fld m 16 4
def pidx (m : Bytes) : Nat := fld m 20 2
def pcount (m : Bytes) : Nat := fld m 22 2
def root (m : Bytes) : Nat := fld m 24 8
def lo (m : Bytes) : Nat := fld m 32 4
def hi (m : Bytes) : Nat := fld m 36 4
def qpos (m : Bytes) : Nat := fld m 40 4
def window (m : Bytes) : Nat := fld m 44 4
def qscale (m : Bytes) : Nat := fld m 48 4
def dscale (m : Bytes) : Nat := fld m 52 4
def qsrc (m : Bytes) : Nat := fld m 56 8
def dest (m : Bytes) : Nat := fld m 64 8
def mnode (m : Bytes) : Nat := fld m 72 2
def mstall (m : Bytes) : Nat := fld m 74 1
def lpm (m : Bytes) : Nat := fld m 75 1 % 8
def sbase (m : Bytes) : Nat := fld m 76 1
def sstride (m : Bytes) : Nat := fld m 77 1
def doSrc (m : Bytes) : Nat := fld m 80 8
def ostSrc (m : Bytes) : Nat := fld m 88 8
def dkvDst (m : Bytes) : Nat := fld m 96 8
def dqDst (m : Bytes) : Nat := fld m 104 8
def opDecode : Nat := 1
def opPrefill : Nat := 2
def opBackward : Nat := 3
/-- Entries of the record: NQROWS × NKV × G. -/
def entries (m : Bytes) : Nat := nqrows m * nkv m * g m
/-- Local index of the leaf: PIDX mod 2^LPM_LOG. -/
def local' (m : Bytes) : Nat := pidx m % 2 ^ lpm m
end At

/-- Trailing zero bits of a positive number, at most `fuel`. -/
def trailingZeros : Nat → Nat → Nat
  | 0, _ => 0
  | fuel + 1, n => if n % 2 = 0 then trailingZeros fuel (n / 2) + 1 else 0

/-- The level up to which the stall of this leaf merges (R78). -/
def leafLevel (m : Bytes) : Nat := if At.local' m = 0 then At.lpm m else trailingZeros (At.lpm m) (At.local' m)

/-! ### Partial records (Table ATT-3) -/

/-- One entry: m, l and its vector, as FP32 codes. -/
structure Entry where
  m : Nat
  l : Nat
  o : List Nat
  deriving DecidableEq, Repr

namespace Rec
def handle (r : Bytes) : Nat := fld r 0 8
def tag (r : Bytes) : Nat := fld r 8 4
def layer (r : Bytes) : Nat := fld r 12 2
def pidx (r : Bytes) : Nat := fld r 14 2
def pcount (r : Bytes) : Nat := fld r 16 2
def level (r : Bytes) : Nat := fld r 18 1
def status (r : Bytes) : Nat := fld r 19 1
def nonfinite (r : Bytes) : Bool := bit (fld r 20 1) 3
def outF32 (r : Bytes) : Bool := bit (fld r 20 1) 2
def norm (r : Bytes) : Bool := bit (fld r 20 1) 1
def obf16 (r : Bytes) : Bool := bit (fld r 20 1) 0
def shape (r : Bytes) : Nat := fld r 21 1
def kvh0 (r : Bytes) : Nat := fld r 22 1
def op (r : Bytes) : Nat := fld r 23 1
def nqrows (r : Bytes) : Nat := fld r 24 2
def d (r : Bytes) : Nat := hdimOf (bits (shape r) 7 6)
/-- Entries of the record. -/
def count (r : Bytes) : Nat := nqrows r * (shape r % 8) * 2 ^ bits (shape r) 5 3
/-- The vectors are BF16. -/
def half (r : Bytes) : Bool := if norm r then !outF32 r else obf16 r
/-- Bytes of one entry. -/
def entryLen (r : Bytes) : Nat := 8 + d r * (if half r then 2 else 4)
/-- Bytes of the record, unpadded and padded. -/
def len (r : Bytes) : Nat := 32 + count r * entryLen r
def padded (r : Bytes) : Nat := 64 * ceilDiv (len r) 64
/-- Entry i. -/
def entry (r : Bytes) (i : Nat) : Entry :=
  let b := slice r (32 + i * entryLen r) (entryLen r)
  ⟨fld b 0 4, fld b 4 4, (List.range (d r)).map fun k =>
    if half r then bf16ToF32 (fld b (8 + 2 * k) 2) else fld b (8 + 4 * k) 4⟩
/-- The key of a merge context (R79). -/
def key (r : Bytes) : List Nat := [handle r, layer r, tag r, kvh0 r]
end Rec

/-- Bytes of an entry in a record whose vectors are BF16 (`half`) or FP32. -/
def Entry.bytes (half : Bool) (e : Entry) : Bytes :=
  toLE 4 e.m ++ toLE 4 e.l ++ e.o.flatMap fun x => if half then toLE 2 (f32ToBf16 x) else toLE 4 x

/-- The empty entry. -/
def emptyEntry (d : Nat) : Entry := ⟨f32ninf, 0, List.replicate d 0⟩

/-- The header bytes of a record with given PIDX, LEVEL, STATUS and flag byte, the rest from another record's header. -/
def recHeader (r : Bytes) (level status flags : Nat) : Bytes :=
  slice r 0 18 ++ toLE 1 level ++ toLE 1 status ++ toLE 1 flags ++ slice r 21 11

/-- The record of a descriptor: header from the descriptor, entries as given. -/
def makeRecord (m : Bytes) (status : Nat) (norm obf16 : Bool) (nonfin : Bool) (es : List Entry) : Bytes :=
  let flags := 8 * b2n nonfin + 4 * b2n (At.outF32 m) + 2 * b2n norm + b2n obf16
  toLE 8 (At.handle m) ++ toLE 4 (At.tag m) ++ toLE 2 (At.layer m) ++ toLE 2 (At.pidx m) ++ toLE 2 (At.pcount m) ++ toLE 1 0 ++
    toLE 1 status ++ toLE 1 flags ++ toLE 1 (At.shape m) ++ toLE 1 (At.kvh0 m) ++ toLE 1 (At.op m) ++ toLE 2 (At.nqrows m) ++
    zeros 2 ++ toLE 4 (At.qpos m) ++ es.flatMap (Entry.bytes (if norm then !At.outF32 m else obf16))

/-- A record of the same shape with every entry empty (R71). -/
def emptied (r : Bytes) (level status : Nat) : Bytes :=
  let flags := 4 * b2n (Rec.outF32 r) + 2 * b2n (Rec.norm r) + b2n (Rec.obf16 r)
  recHeader r level status flags ++
    (List.range (Rec.count r)).flatMap fun _ => Entry.bytes (Rec.half r) (emptyEntry (Rec.d r))

/-- merge_entry of R77. -/
def mergeEntry (x y : Entry) : Entry :=
  if f32isNan x.m || f32isNan y.m then ⟨f32qnan, f32qnan, x.o.map fun _ => f32qnan⟩
  else if y.m = f32ninf then x
  else if x.m = f32ninf then y
  else
    let (h, l) := if fpKey 32 x.m < fpKey 32 y.m ∧ !(x.m % 2 ^ 31 = 0 ∧ y.m % 2 ^ 31 = 0) then (y, x) else (x, y)
    let a := f32exp2 (f32sub l.m h.m)
    ⟨h.m, f32fma l.l a h.l, (l.o.zip h.o).map fun (p, q) => f32fma p a q⟩

/-- The merge of a left and a right child into the node one level up (R77, R79). -/
def mergeRecords (l r : Bytes) : Bytes :=
  let st := if Rec.status l ≠ St.ok then Rec.status l else Rec.status r
  let lv := Rec.level l + 1
  if st ≠ St.ok then emptied l lv st
  else
    let flags := 8 * b2n (Rec.nonfinite l || Rec.nonfinite r) + fld l 20 1 % 8
    recHeader l lv St.ok flags ++
      (List.range (Rec.count l)).flatMap fun i => Entry.bytes (Rec.half l) (mergeEntry (Rec.entry l i) (Rec.entry r i))

/-- A node equal to its left child, one level up (R78). -/
def liftRecord (l : Bytes) : Bytes := patch l 18 (toLE 1 (Rec.level l + 1))

/-- Normalise the final record (R81). -/
def normalise (outF32 : Bool) (r : Bytes) : Bytes :=
  let flags := 8 * b2n (Rec.nonfinite r) + 4 * b2n outF32 + 2 + b2n (Rec.obf16 r)
  recHeader r (Rec.level r) (Rec.status r) flags ++
    (List.range (Rec.count r)).flatMap fun i =>
      let e := Rec.entry r i
      let o :=
        if f32isNan e.m then e.o.map fun _ => f32qnan
        else if e.m = f32ninf then e.o.map fun _ => 0
        else
          let k := f32recip e.l
          e.o.map fun x => f32mul x k
      Entry.bytes (!outF32) { e with o := o }

/-! ### Sending records on -/

/-- Put a record in the MRG class of a stall of this module. -/
def State.toMrg (s : State) (n : Nat) (it : MrgItem) : State := s.updWork n fun w => { w with mrg := w.mrg ++ [it] }

/-- Write a record to a destination of Table ATT-1's form: node in bits 63:48, offset below. -/
def putRecord (s : State) (dest : Nat) (r : Bytes) : State :=
  s.sendPut (dest / 2 ^ 48 % 65536) (Rec.handle r % 4096) (dest % 2 ^ 48) (padTo (Rec.padded r) r) .control

/-- The merge line of a descriptor (Table ATT-6). -/
def mergeLine (m : Bytes) : Bytes := padTo 64 (toLE 8 (At.dest m) ++ toLE 1 (b2n (At.norm m) + 2 * b2n (At.outF32 m)))

/-- The node a stall has merged for its leaf goes on (R78): to the parent stall, or as a module root. Stall numbers beyond 127, which
MSTALL may name and which the place of a descriptor refused by checks 1 to 6 may give, are taken modulo 128 (DESIGN CHOICE,
log 408). -/
def sendNode (s : State) (m r : Bytes) : State :=
  let j := At.local' m
  let b := leafLevel m
  if j ≠ 0 then s.toMrg ((At.sbase m + (j - 2 ^ b) * At.sstride m) % 128) { line := none, record := r }
  else if At.pcount m ≤ 2 ^ At.lpm m then
    putRecord s (At.dest m) (if At.norm m then normalise (At.outF32 m) r else r)
  else if At.mstall m ≠ 0xFF then
    if At.mnode m = s.node then s.toMrg (At.mstall m % 128) { line := some (mergeLine m), record := r }
    else s.sendMsg (At.mnode m) Op.record (At.handle m % 4096) (At.mstall m) (mergeLine m ++ padTo (Rec.padded r) r)
  else
    putRecord s (At.dest m + At.pidx m / 2 ^ At.lpm m * Rec.padded r) r

/-! ### Merge contexts -/

/-- Merge the stall's own leaf with its children as far as level b: the node and the number of merges, once complete. -/
def localNode (m own : Bytes) (kids : Tab Bytes) : Option (Bytes × Nat) :=
  (List.range (leafLevel m)).foldl (fun acc k => match acc with
    | none => none
    | some (r, c) =>
      if At.pcount m ≤ At.pidx m + 2 ^ k then some (liftRecord r, c)
      else match kids.get? k with
        | some y => some (mergeRecords r y, c + 1)
        | none => none) (some (own, 0))

/-- Merge module roots up to the node that covers every leaf: `n` roots from root `i` at step `lv` of the tree. -/
def crossNode (roots : Tab Bytes) (count : Nat) : Nat → Nat → Option (Bytes × Nat)
  | 0, i => (roots.get? i).map fun r => (r, 0)
  | lv + 1, i =>
    match crossNode roots count lv (2 * i) with
    | none => none
    | some (l, c) =>
      if count ≤ (2 * i + 1) * 2 ^ lv then some (liftRecord l, c)
      else match crossNode roots count lv (2 * i + 1) with
        | some (r, c') => some (mergeRecords l r, c + c' + 1)
        | none => none

/-- Levels of the tree above `count` module roots. -/
def levelsOf (count : Nat) : Nat := if count ≤ 1 then 0 else Nat.log2 (count - 1) + 1

/-- Number of module roots of a cross-module merge, from its first record. -/
def rootCount (r : Bytes) : Nat := ceilDiv (Rec.pcount r) (2 ^ Rec.level r)

/-- The final record of a cross-module merge goes to DEST of its merge line (R373). -/
def putFinal (s : State) (line r : Bytes) : State :=
  let f := fld line 8 1
  putRecord s (fld line 0 8) (if bit f 0 then normalise (bit f 1) r else r)

/-- Replace, or remove, the context of a key on a stall. -/
def setCtx (s : State) (n : Nat) (key : List Nat) (c : Option MergeCtx) : State :=
  s.updWork n fun w => { w with ctxs := w.ctxs.filter (fun x => x.key != key) ++ c.toList }

/-- Send on whatever a context has completed, and close it when nothing of it is open (R79). -/
def ctxAdvance (s : State) (n : Nat) (c : MergeCtx) : State :=
  let (s, c) := match c.own with
    | some (m, own) =>
      if c.ownDone then (s, c)
      else match localNode m own c.kids with
        | some (r, k) => (sendNode (s.bumpBy (Reg.ATT_MERGES n) k) m r, { c with ownDone := true, kids := [] })
        | none => (s, c)
    | none => (s, c)
  let (s, crossDone) := match c.line, c.roots with
    | some line, (_, r0) :: _ =>
      let k := rootCount r0
      match crossNode c.roots k (levelsOf k) 0 with
      | some (r, j) => (putFinal (s.bumpBy (Reg.ATT_MERGES n) j) line r, true)
      | none => (s, false)
    | _, _ => (s, false)
  let localOpen := !c.ownDone && (c.own.isSome || !c.kids.isEmpty)
  let crossOpen := c.line.isSome && !crossDone
  if localOpen || crossOpen then setCtx s n c.key (some (if crossDone then { c with line := none, roots := [] } else c))
  else setCtx s n c.key none

/-- A record fits the context: the same OP, SHAPE, NQROWS and PCOUNT as its first record, and a child it awaits (R79). -/
def ctxAccepts (c : MergeCtx) (it : MrgItem) : Bool :=
  let r := it.record
  let same := Rec.op r == Rec.op c.head && Rec.shape r == Rec.shape c.head && Rec.nqrows r == Rec.nqrows c.head &&
    Rec.pcount r == Rec.pcount c.head
  let p := Rec.pidx r
  let k := Rec.level r
  let place := match it.own, it.line with
    | some _, _ => c.own.isNone && (c.left.isNone || c.left == some p)
    | none, some line =>
      let lineOk := match c.line with
        | some x => x == line
        | none => true
      let levelOk := match c.roots with
        | (_, x) :: _ => Rec.level x == k
        | [] => true
      lineOk && levelOk && decide (p % 2 ^ k = 0) && decide (p < Rec.pcount r) && !c.roots.has (p / 2 ^ k)
    | none, none =>
      let top := match c.own with
        | some (m, _) => leafLevel m
        | none => 8
      decide (2 ^ k ≤ p) && decide ((p - 2 ^ k) % 2 ^ (k + 1) = 0) && (c.left.isNone || c.left == some (p - 2 ^ k)) &&
        !c.kids.has k && decide (k < top) && !c.ownDone && decide (p < Rec.pcount r)
  same && place

/-- Add an accepted record to its context. -/
def ctxAdd (c : MergeCtx) (it : MrgItem) : MergeCtx :=
  let r := it.record
  let p := Rec.pidx r
  match it.own, it.line with
  | some m, _ => { c with own := some (m, r), left := some p }
  | none, some line => { c with line := some line, roots := c.roots.put (p / 2 ^ Rec.level r) r }
  | none, none => { c with kids := c.kids.put (Rec.level r) r, left := some (p - 2 ^ Rec.level r) }

/-- Event ATT with TAG in DETAIL bytes 4–7 (R85). -/
def attEvent (s : State) (code sev handle tag : Nat) (d : List Nat) : State :=
  s.raise Tag.att code sev handle (d ++ [tag % 256, tag / 256 % 256, tag / 65536 % 256, tag / 16777216 % 256])

/-- A merge context opens (R79). -/
def ctxOpen (s : State) (n : Nat) (it : MrgItem) : State :=
  ctxAdvance s n (ctxAdd { key := Rec.key it.record, head := it.record, opened := s.now } it)

/-- A record reaches its merge stall (R79): merged in its context, discarded, or held while 64 contexts are open. The first packets of
a RECORD open its context, and do no more (R180 point 5). -/
def mergeTake (s : State) (n : Nat) (it : MrgItem) : State :=
  let r := it.record
  let w := s.work n
  match w.ctxs.find? fun c => c.key == Rec.key r with
  | some c =>
    if it.part then s
    else if c.tomb.isSome then s.bump (Reg.ATT_LATE n)
    else if ctxAccepts c it then ctxAdvance s n (ctxAdd c it)
    else attEvent s 0x0004 Sev.contained (Rec.handle r) (Rec.tag r) [Rec.level r, 0, Rec.pidx r % 256, Rec.pidx r / 256]
  | none =>
    if s.stallFailed n then s
    else if 64 ≤ w.ctxs.length then s.updWork n fun w => { w with mrgWait := w.mrgWait ++ [it] }
    else
      let c0 : MergeCtx := { key := Rec.key r, head := r, opened := s.now }
      if ctxAccepts c0 it then
        if it.part then setCtx s n c0.key (some { c0 with line := it.line }) else ctxOpen s n it
      else if it.part then s
      else attEvent s 0x0004 Sev.contained (Rec.handle r) (Rec.tag r) [Rec.level r, 0, Rec.pidx r % 256, Rec.pidx r / 256]

/-- The stall's own leaf record: sent on at once when it has nothing to merge, otherwise taken to its context (R78). -/
def leafRecord (s : State) (n : Nat) (m r : Bytes) : State :=
  match localNode m r [] with
  | some (x, _) => sendNode s m x
  | none => mergeTake s n { line := none, own := some m, record := r }

/-- A partial record that has arrived at a merge stall is taken (R79). -/
def execMergeRecord (stall : Fin 128) (s : State) : Res :=
  .next (s.ifRuns (match (s.work stall).mrg with
    | [] => s
    | it :: rest => mergeTake (s.updWork stall fun w => { w with mrg := rest }) stall it))

/-- A record that waited opens a context once one is free (R79). -/
def execMergeContextOpen (stall : Fin 128) (s : State) : Res :=
  .next (s.ifRuns (match (s.work stall).mrgWait with
    | [] => s
    | it :: rest =>
      if (s.work stall).ctxs.length < 64 then mergeTake (s.updWork stall fun w => { w with mrgWait := rest }) stall it else s))

/-- The descriptor of a context's own leaf, while it is still queued, running or waiting on the stall. -/
def ctxOwner (s : State) (n : Nat) (c : MergeCtx) : Option Bytes :=
  let w := s.work n
  (w.att.map (·.msg) ++ w.run.map (·.item.msg) ++ w.late.map (·.msg.data)).find? fun m =>
    [At.handle m, At.layer m, At.tag m, At.kvh0 m] == c.key && c.left == some (At.pidx m) && At.op m != At.opBackward

/-- The header of a module root of a cross-module merge: of one that is whole, or of the one whose first packets opened the context. -/
def MergeCtx.rootHead (c : MergeCtx) : Bytes :=
  match c.roots with
  | (_, r) :: _ => r
  | [] => c.head

/-- The node a context owes, with a status and every entry empty: its local node, and the final record of a cross-module merge. The
place of a local node comes from the descriptor of the context's own leaf, whose record need not have come; while no such descriptor
has reached the stall the node has no place the stall could know, and none is sent (DESIGN CHOICE, log 411). -/
def ctxEmit (s : State) (n : Nat) (c : MergeCtx) (status : Nat) : State :=
  let s := match c.own with
    | some (m, own) => if c.ownDone then s else sendNode s m (emptied own (leafLevel m) status)
    | none => if c.kids.isEmpty then s
      else match ctxOwner s n c with
        | some m => sendNode s m (emptied (makeRecord m status false (At.obf16 m) false []) (leafLevel m) status)
        | none => s
  match c.line with
  | some line =>
    let r0 := c.rootHead
    putFinal s line (emptied (patch r0 14 (toLE 2 0)) (Rec.level r0 + levelsOf (rootCount r0)) status)
  | none => s

/-- LEVEL and PIDX of the node a context stands for. -/
def ctxNode (s : State) (n : Nat) (c : MergeCtx) : Nat × Nat :=
  match (c.own.map (·.1)).orElse fun _ => if c.kids.isEmpty then none else ctxOwner s n c with
  | some m => (leafLevel m, At.pidx m)
  | none =>
    if c.line.isSome then (Rec.level c.rootHead + levelsOf (rootCount c.rootHead), 0) else (Rec.level c.head, c.left.getD 0)

/-- The oldest context open for ATT_MERGE_TMO emits its node with MEMBER_LOST and stays as a tombstone (R79). -/
def mergeTimeout (s : State) (n : Nat) : State :=
  let tmo := s.reg (Reg.ATT_MERGE_TMO n)
  match (s.work n).ctxs.find? fun c => c.tomb.isNone && decide (c.opened + tmo ≤ s.now) with
  | none => s
  | some c =>
    let s := setCtx s n c.key (some { c with tomb := some s.now })
    let s := ctxEmit s n c St.memberLost
    let (lv, p) := ctxNode s n c
    let s := s.bump (Reg.ATT_MERGE_LOST n)
    attEvent s 0x0003 Sev.contained (Rec.handle c.head) (Rec.tag c.head) [lv, 0, p % 256, p / 256]

/-- A merge context times out (R79). -/
def execMergeTimeout (stall : Fin 128) (s : State) : Res := .next (mergeTimeout s stall)

/-- A merge tombstone is freed after a further ATT_MERGE_TMO (R79). -/
def execTombstoneExpiry (stall : Fin 128) (s : State) : Res :=
  .next (s.updWork stall fun w => { w with ctxs := w.ctxs.filter fun c => match c.tomb with
    | some t => !decide (t + s.reg (Reg.ATT_MERGE_TMO stall) ≤ s.now)
    | none => true })

end Sys2Proof.Machine
end

