-- ==== Sys2Proof/Machine/Att.lean ====
section
/-!
DEFINITION. Machine/Att.lean: attention at the cache: descriptors and their checks (R68–R71), visibility (R72), the forward
scan (R73–R75, R82), BACKWARD (R83), the end of a descriptor, and what Farrier answers for a FAILED stall (R341).
-/
namespace Sys2Proof.Machine

/-! ### What a descriptor owes -/

/-- The place in the merge tree is unknown (checks 7 and 8). -/
def badPlace (n : Nat) (m : Bytes) : Bool :=
  At.pcount m == 0 || decide (4096 < At.pcount m) || decide (At.pcount m ≤ At.pidx m) || At.sstride m == 0 ||
    n != At.sbase m + At.local' m * At.sstride m

/-- The empty record of a descriptor that ended with a status. -/
def attEmpty (m : Bytes) (status : Nat) : Bytes :=
  emptied (makeRecord m status false (At.obf16 m && At.op m != At.opBackward) false []) 0 status

/-- The reports of a descriptor that ends: tallies and events ATT 0x0001, 0x0002 and 0x0005 (R71, R75, R85). -/
def attReport (s : State) (n : Nat) (m : Bytes) (status : Nat) (nonfin : Option Nat) : State :=
  let h := At.handle m
  let t := At.tag m
  let s := s.bump (if status = St.ok then Reg.ATT_DONE n else Reg.ATT_ERR n)
  let s := if status = St.ok then s else attEvent s 0x0001 Sev.contained h t [status, At.op m, n, 0]
  let s := match nonfin with
    | some e =>
      let l := At.layer m
      attEvent (s.bump (Reg.ATT_NONFINITE n)) 0x0002 Sev.info h t [l % 256, l / 256, e % 256, e / 256]
    | none => s
  if At.event m then attEvent s 0x0005 Sev.info h t [status, At.op m, n, 0] else s

/-- The key of a descriptor's merge context. -/
def attKey (m : Bytes) : List Nat := [At.handle m, At.layer m, At.tag m, At.kvh0 m]

/-- A tombstone for a key Farrier has answered (R341). -/
def farTomb (s : State) (n : Nat) (key : List Nat) (head : Bytes) : State :=
  setCtx s n key (some { key := key, head := head, opened := s.now, tomb := some s.now })

/-- Farrier emits the node a stall would have sent on for a descriptor, with a status and every entry empty (R341): the level-b node
of R78, or BACKWARD's record to DQ_DST; a descriptor whose place is unknown has none (R71). -/
def farEmit (s : State) (n : Nat) (m : Bytes) (status : Nat) : State :=
  if badPlace n m then s
  else if At.op m = At.opBackward then putRecord s (At.dqDst m) (attEmpty m status)
  else sendNode s m (emptied (attEmpty m status) (leafLevel m) status)

/-- Farrier answers for a descriptor of a FAILED stall (R341): its node, a tombstone for its key, and the reports of R71. -/
def farNode (s : State) (n : Nat) (m : Bytes) (status : Nat) : State :=
  attReport (farTomb (farEmit s n m status) n (attKey m) (attEmpty m status)) n m status none

/-! ### Queue -/

/-- Put an attention descriptor into a stall's queue, or keep its message waiting while the queue holds 64 (R68); one that arrives for
a FAILED stall is refused RIGHTS, and Farrier answers for it (R341). -/
def enqueueAtt (s : State) (n : Nat) (m : Msg) : State :=
  if s.stallFailed n then farNode s n m.data St.rights
  else
    let (o, s) := s.nextOrd
    let svc := (s.stall n).service == .inService
    if 64 ≤ (s.work n).att.length then s.updWork n fun w => { w with late := w.late ++ [⟨o, svc, m⟩] }
    else s.updWork n fun w => { w with att := w.att ++ [⟨o, m.data, svc, s.nowH⟩] }

/-- GO: the staged descriptor joins the queue, or is discarded with OVERFLOW. -/
def attGo (s : State) (n : Nat) : State :=
  let d := s.staged (Reg.ATT_DESC n 0) 32
  if 64 ≤ (s.work n).att.length then s.setFld (Reg.ATT_STATUS n) F.ATT_STATUS_OVERFLOW 1
  else enqueueAtt s n ⟨Op.attn, s.node, At.handle d % 4096, 0, n, d⟩

/-- Writing ATT_GO (R68). -/
def execAttGo (stall : Fin 128) (data : Word) (s : State) : Res := .next (if bit data.toNat 0 then attGo s stall else s)

/-! ### Checks (Table ATT-2) -/

/-- Reserved values or bits (check 2). -/
def attReserved (m : Bytes) : Bool :=
  At.op m == 0 || decide (3 < At.op m) || At.hdim m == 3 || At.glog2 m == 7 || At.nkv m == 0 || decide (4 < At.nkv m) ||
    bits (fld m 1 1) 2 1 != 0 || fld m 75 1 / 8 != 0 || fld m 78 2 != 0 || fld m 112 16 != 0

/-- Inline operands. -/
def inlineSrc : Nat := 0xFFFFFFFFFFFFFFFF

/-- Bytes of the query (or dO) rows. -/
def rowBytes (m : Bytes) : Nat := At.entries m * At.d m * 2

/-- Bytes of the forward's normalised record. -/
def ostBytes (m : Bytes) : Nat := 64 * ceilDiv (32 + At.entries m * (8 + At.d m * (if At.outF32 m then 4 else 2))) 64

/-- Bytes of the record the descriptor produces. -/
def attRecordBytes (m : Bytes) : Nat :=
  64 * ceilDiv (32 + At.entries m * (8 + At.d m * (if At.op m = At.opBackward ∨ !At.obf16 m then 4 else 2))) 64

/-- A local source or destination of `n` bytes is misaligned or out of range (check 11). -/
def badLocal (o n : Nat) : Bool := decide (o % 64 ≠ 0) || decide (hbmBytes < o + n)

/-- Byte offsets in the message of the inline query rows, dO rows and OST record. -/
def inlineOffs (m : Bytes) : Nat × Nat × Nat :=
  let q := if At.qsrc m = inlineSrc then rowBytes m else 0
  let o := if At.op m = At.opBackward ∧ At.doSrc m = inlineSrc then rowBytes m else 0
  (128, 128 + q, 128 + q + o)

/-- The stall lies in a span of the team (R169). -/
def State.teamHasStall (s : State) (team n : Nat) : Bool :=
  match s.teamSlot team with
  | some k => bit (s.fld (Reg.TEM_TEAM_SPAN k) F.TEM_TEAM_SPAN_GROUPS) (n / 8)
  | none => false

/-- Checks 1 to 6 of Table ATT-2. -/
def attFirst (s : State) (it : AttItem) : Nat :=
  let m := it.msg
  let back := At.op m == At.opBackward
  let train := match s.teamSlot (At.handle m % 4096) with
    | some k => s.flag (Reg.TEM_TEAM_STATUS k) F.TEM_TEAM_STATUS_KIND
    | none => false
  if s.role ≠ roleC ∨ !it.inSvc then St.rights
  else if attReserved m then St.rights
  else if (2 < At.nkv m ∧ At.g m = 16) ∨ (1 < At.nkv m ∧ 32 ≤ At.g m) then St.rights
  else if (At.op m = At.opDecode ∧ At.nqrows m ≠ 1) ∨ At.nqrows m = 0 ∨ 256 < At.nqrows m then St.rights
  else if back && !train then St.rights
  else if f32nonfinite (At.qscale m) || (back && f32nonfinite (At.dscale m)) then St.rights
  else St.ok

/-- The checks of Table ATT-2. -/
def attCheck (s : State) (n : Nat) (it : AttItem) : Nat :=
  let m := it.msg
  let back := At.op m == At.opBackward
  let team := At.handle m % 4096
  let (_, _, o3) := inlineOffs m
  let need := o3 + if back ∧ At.ostSrc m = inlineSrc then ostBytes m else 0
  if attFirst s it ≠ St.ok then attFirst s it
  else if badPlace n m then St.bounds
  else if !s.teamHasStall team n then St.bounds
  else if At.hi m ≤ At.lo m then St.bounds
  else if (At.qsrc m ≠ inlineSrc ∧ badLocal (At.qsrc m) (rowBytes m)) ∨
      (back ∧ ((At.doSrc m ≠ inlineSrc ∧ badLocal (At.doSrc m) (rowBytes m)) ∨
        (At.ostSrc m ≠ inlineSrc ∧ badLocal (At.ostSrc m) (ostBytes m)) ∨
        badLocal (At.dkvDst m) ((At.hi m - At.lo m) * At.nkv m * 8 * At.d m))) ∨
      2 ^ 48 ≤ At.root m ∨ it.msg.length < need then St.bounds
  else
    let used := rowBytes m + (if back then rowBytes m + ostBytes m else 0) + attRecordBytes m
    if s.fld (Reg.STL_BUF_PART n) F.STL_BUF_PART_QRY * 65536 < used then St.bounds else St.ok

/-- A descriptor is refused by check 7 or 8, so that it produces no record (R71). -/
def attNoPlace (s : State) (n : Nat) (it : AttItem) : Bool := attFirst s it == St.ok && badPlace n it.msg

/-! ### The walker's scan of one KV head -/

/-- What a scan of one pair gives: status and the position it occurred at, the stored rows of held positions, stale coins
and a tier page met. -/
structure HeadScan where
  status : Nat
  stop : Nat
  rows : List (Nat × Bytes)
  staleRaw : Option Nat
  staleEnd : Option Nat
  tier : Option PromReq
  poison : Option Nat
  deriving DecidableEq, Repr

/-- The walker's checks of an entry (R89). A page whose FMT is a reserved code is refused with RIGHTS under R44, taken before check 4
compares the FMT (DEDUCED, log 308). -/
def resolveEntry (s : State) (fmt d pte : Nat) : Nat :=
  if !pteV pte then St.bounds
  else if pteNode pte ≠ s.node then St.bounds
  else if !isHbm (ptePage pte) then St.bounds
  else if !fmtKnown (pteFmt pte) then St.rights
  else if pteFmt pte ≠ fmt ∨ pteFill pte = 0 ∨ (!pteCpk pte ∧ rawCap fmt d < pteFill pte) then St.bounds
  else if pteCpk pte ∧ (!isMx (pteFmt pte) ∨ s.protectedPage (ptePage pte)) then St.rights
  else if ptePoison pte then St.poisoned
  else St.ok

/-- Scan entries i, i + 1, … of a pair for positions `[lo, hi)`. -/
def scanEntries (stall root k fmt d : Nat) (h : Bytes) (lo hi : Nat) : Nat → State → Nat → HeadScan → State × HeadScan
  | 0, s, _, a => (s, a)
  | fuel + 1, s, i, a =>
    if Pair.npages h ≤ i then (s, a)
    else
      let (s, st, e) := s.readEntry h i
      let first := e.2
      let fill := pteFill e.1
      if st ≠ St.ok then (s, { a with status := st, stop := max lo first })
      else if hi ≤ first then (s, a)
      else if first + fill ≤ lo ∧ first ≤ lo then scanEntries stall root k fmt d h lo hi fuel s (i + 1) a
      else
        let p := max lo first
        let st := resolveEntry s fmt d e.1
        if st ≠ St.ok then
          let tier := if pteV e.1 && pteNode e.1 == s.node && !isHbm (ptePage e.1) then some ⟨ptePage e.1, root, k, first⟩ else none
          (s, { a with status := st, stop := p, tier := tier,
                       poison := if st = St.poisoned then some (ptePage e.1) else none })
        else
          let x := p - first
          let y := min (hi - first) fill
          let (s, r) := s.readPage stall e.1 d x y
          let a := { a with
            rows := a.rows ++ r.rows.zipIdx.map fun (b, j) => (p + j, b)
            staleRaw := if a.staleRaw.isNone then r.staleRaw else a.staleRaw
            staleEnd := if a.staleEnd.isNone then r.staleEnd else a.staleEnd }
          if r.status ≠ St.ok then (s, { a with status := r.status, stop := p + r.rows.length })
          else scanEntries stall root k fmt d h lo hi fuel s (i + 1) a

/-- Scan one pair (R91): positions no page holds are left out; a position at or beyond LEN ends the item with BOUNDS. -/
def scanHead (s : State) (stall root : Nat) (r : Bytes) (k lo hi : Nat) : State × HeadScan :=
  let a0 : HeadScan := ⟨St.ok, hi, [], none, none, none, none⟩
  let (s, st, h) := s.readPair root r k
  if st ≠ St.ok then (s, { a0 with status := st, stop := lo })
  else
    let top := min hi (Pair.len h)
    let (s, a) :=
      if Pair.npages h = 0 ∨ top ≤ lo then (s, a0)
      else
        let (s, st, i) := findEntry 13 s h lo 0 (Pair.npages h)
        if st ≠ St.ok then (s, { a0 with status := st, stop := lo })
        else scanEntries stall root k (Root.fmt r) (Root.d r) h lo top 4097 s i a0
    if a.status = St.ok ∧ Pair.len h < hi then (s, { a with status := St.bounds, stop := max lo (Pair.len h) }) else (s, a)

/-- Scan every pair of the descriptor; a later head reads no further than the tile an earlier head ended in. -/
def scanHeads (stall root : Nat) (r : Bytes) (lo : Nat) : List Nat → Nat → State → List HeadScan → State × List HeadScan
  | [], _, s, acc => (s, acc)
  | k :: ks, hi, s, acc =>
    let (s, a) := scanHead s stall root r k lo hi
    let hi := if a.status = St.ok then hi else max (lo + 1) (min hi (a.stop / 32 * 32 + 32))
    scanHeads stall root r lo ks hi s (acc ++ [a])

/-- The head whose scan ended the item first: by tile, and then by head. -/
def firstStop (hs : List HeadScan) : Option HeadScan :=
  hs.foldl (fun (b : Option HeadScan) a =>
    if a.status = St.ok then b
    else match b with
      | some x => if a.stop / 32 < x.stop / 32 then some a else b
      | none => some a) none

/-- The reports of a scan over a table of format `fmt`: stale coins, at most one of each per item, and the ended item once in
FMT_STALE_END; a tier page once, and a poisoned entry (R61, R67, R89, R104). -/
def scanReport (s : State) (stall handle fmt : Nat) (hs : List HeadScan) (stop : Option HeadScan) : State :=
  let s := match hs.findSome? (·.staleRaw) with
    | some hdr =>
      let sl := (s.fmtUnit stall).slot (bit hdr 23)
      s.raise Tag.fmt 0x0003 Sev.info handle
        [b2n (bit hdr 23), bits hdr 29 24, sl.gen, b2n (isNewer 6 (bits hdr 29 24) sl.gen)]
    | none => s
  match stop with
  | none => s
  | some a =>
    let s := match a.staleEnd with
      | some hdr =>
        let sl := (s.fmtUnit stall).slot (bit hdr 23)
        (s.bump (Reg.FMT_STALE_END stall)).raise Tag.fmt 0x0004 Sev.contained handle
          [b2n (bit hdr 23), bits hdr 29 24, sl.gen, staleKind sl fmt hdr]
      | none => s
    let s := match a.tier with
      | some q =>
        let s := s.askPromote q
        let s := s.bump (Reg.KVP_PROMOTE_REQ stall)
        s.raise Tag.kvp 0x0003 Sev.info handle (toLE 4 q.page |>.map BitVec.toNat)
      | none => s
    match a.poison with
    | some p => s.raise Tag.kvp 0x0004 Sev.contained handle (toLE 4 p |>.map BitVec.toNat)
    | none => s

/-! ### Numerics -/

/-- Position p is visible to query row r (R72). -/
def visible (m : Bytes) (r p : Nat) : Bool :=
  let q := At.qpos m + r
  decide (At.lo m ≤ p) && decide (p < At.hi m) && (!At.causal m || decide (p ≤ q)) &&
    (At.window m == 0 || decide ((q : Int) - At.window m < p))

/-- An engine operand: scalar formats are converted to BF16, MX values stand as they are (R22, R73). -/
def operand (fmt : Nat) (x : Num) : Num := if isMx fmt then x else FpFmt.bf16.decode (FpFmt.bf16.encode x)

/-- V and other BF16 presentations. -/
def asBf16 (x : Num) : Num := FpFmt.bf16.decode (FpFmt.bf16.encode x)

/-- A stored row as K operands and V operands. -/
def rowOperands (fmt d : Nat) (b : Bytes) : List Num × List Num :=
  let v := rawValues fmt d b
  ((v.take d).map (operand fmt), (v.drop d).map asBf16)

/-- Exact dot product. -/
def dotExact (a b : List Num) : Num := (a.zip b).foldl (fun x (p, q) => x.add (p.mul q)) (.fin false 0 0)

/-- The engine accumulates a contraction in blocks of 32, one rounding per block (R21). -/
def dotEngine : Nat → Nat → List Num → List Num → Nat
  | 0, acc, _, _ => acc
  | fuel + 1, acc, a, b =>
    if a.isEmpty then acc
    else dotEngine fuel (FpFmt.f32.encode ((f32v acc).add (dotExact (a.take 32) (b.take 32)))) (a.drop 32) (b.drop 32)

/-- Query elements of entry e as received. -/
def queryRaw (rows : Bytes) (d e : Nat) : List Nat := (List.range d).map fun i => fld rows ((e * d + i) * 2) 2

/-- Score operands of a query row: each element times QSCALE, rounded once to BF16 or to MXFP8 blocks (R73). -/
def queryOperand (m : Bytes) (xs : List Nat) : List Num :=
  let sc := f32v (At.qscale m)
  let ps := xs.map fun x => (FpFmt.bf16.decode x).mul sc
  if At.qmx8 m then
    match mxFmt 0x3 with
    | some f => (List.range (ps.length / 32)).flatMap fun b =>
        let (bs, _) := f.mint false 0 ((ps.drop (32 * b)).take 32)
        let (c, e) := f.unpack bs
        f.values c e
    | none => ps
  else ps.map fun p => FpFmt.bf16.decode (FpFmt.bf16.encode p)

/-- The score operands of every entry. -/
def queryOperands (m rows : Bytes) : List (List Num) :=
  (List.range (At.entries m)).map fun e => queryOperand m (queryRaw rows (At.d m) e)

/-- KV head of entry e, and its query row. -/
def entryHead (m : Bytes) (e : Nat) : Nat := e / At.g m % At.nkv m
def entryRow (m : Bytes) (e : Nat) : Nat := e / At.g m / At.nkv m

/-- Rows of one head as operands, with positions. -/
def headOperands (fmt d : Nat) (h : HeadScan) : List (Nat × List Num × List Num) :=
  h.rows.map fun (p, b) => (p, rowOperands fmt d b)

/-- Tiles of `[lo, hi)`. -/
def tilesOf (lo hi : Nat) : List Nat := rangeFrom (lo / 32) ((hi - 1) / 32 + 1 - lo / 32)

/-- Running state of an entry's scan: m, l, O, and NaN met. -/
structure ScanAcc where
  m : Nat
  l : Nat
  o : List Nat
  bad : Bool
  deriving DecidableEq, Repr

/-- One tile of scan_entry (R74, R75): visible positions with score and V, at their places in the tile. -/
def scanTile (d : Nat) (a : ScanAcc) (ps : List (Nat × Nat × List Num)) : ScanAcc :=
  if a.bad || ps.any (fun (_, sc, _) => f32isNan sc || sc == f32pinf) then { a with bad := true }
  else
    let mn := ps.foldl (fun x (_, sc, _) => f32max x sc) a.m
    if mn = f32ninf then a
    else
      let r := f32exp2 (f32sub a.m mn)
      let pv := ps.map fun (i, sc, v) => (i, f32ToBf16 (f32exp2 (f32sub sc mn)), sc, v)
      let lanes := (List.range 32).map fun i => match pv.find? fun x => x.1 == i with
        | some (_, p, _) => bf16ToF32 p
        | none => 0
      let ts := laneSum lanes
      let live := pv.filter fun (_, _, sc, _) => sc != f32ninf
      let o := (List.range d).zip a.o |>.map fun (k, x) =>
        let acc := live.foldl (fun y (_, p, _, v) => y.add ((FpFmt.bf16.decode p).mul (v.getD k (.fin false 0 0)))) (.fin false 0 0)
        FpFmt.f32.encode ((f32v (f32mul x r)).add acc)
      { m := mn, l := f32add (f32mul a.l r) ts, o := o, bad := false }

/-- scan_entry of R74 for one entry. -/
def scanEntry (m : Bytes) (q : List Num) (row : Nat) (rows : List (Nat × List Num × List Num)) : ScanAcc :=
  let d := At.d m
  (tilesOf (At.lo m) (At.hi m)).foldl (fun a t =>
    let ps := (rows.filter fun x => x.1 / 32 == t && visible m row x.1).map fun (p, k, v) =>
      (p % 32, dotEngine (d / 32) 0 q k, v)
    scanTile d a ps) ⟨f32ninf, 0, List.replicate d 0, false⟩

/-- The result of one entry: canonical NaN throughout when a visible score was NaN or +∞ (R75). -/
def ScanAcc.entry (a : ScanAcc) : Entry :=
  if a.bad then ⟨f32qnan, f32qnan, a.o.map fun _ => f32qnan⟩ else ⟨a.m, a.l, a.o⟩

/-! ### Running a descriptor -/

/-- Operand rows of a source: inline or local HBM. -/
def readRows (s : State) (m : Bytes) (src off n : Nat) : State × Nat × Bytes :=
  if src = inlineSrc then (s, St.ok, slice m off n) else s.readMem src n

/-- What running a descriptor leaves: the snapshot held, status, record, first NaN entry. -/
structure AttResult where
  snap : Option (Nat × Nat)
  status : Nat
  record : Option Bytes
  nonfin : Option Nat
  deriving DecidableEq, Repr

/-- Pick up the table (R98) and read its shape: the root line and pair numbers, or the status. -/
def attPickup (s : State) (m : Bytes) : State × Nat × Option (Nat × Nat) × Bytes × List Nat :=
  let root := At.root m
  if !rootOk root then (s, St.bounds, none, [], [])
  else
    let (s, st, r) := walkerPickup s root
    if st ≠ St.ok then (s, st, none, r, [])
    else
      let ks := (List.range (At.nkv m)).filterMap fun k => pairIdx r (At.layer m) (At.kvh0 m + k)
      let snap := some (root, Root.epoch r)
      if Root.hdim r ≠ At.hdim m ∨ ks.length < At.nkv m then (s, St.bounds, snap, r, ks) else (s, St.ok, snap, r, ks)

/-- Forward scan of a descriptor (R73, R82). -/
def attForward (s : State) (n : Nat) (m : Bytes) : State × AttResult :=
  let no := fun (snap : Option (Nat × Nat)) (st : Nat) => (⟨snap, st, some (attEmpty m st), none⟩ : AttResult)
  let (s, st, snap, r, ks) := attPickup s m
  if st ≠ St.ok then (s, no snap st)
  else
    let (s, st, rows) := readRows s m (At.qsrc m) 128 (rowBytes m)
    if st ≠ St.ok then (s, no snap st)
    else
      let (s, hs) := scanHeads n (At.root m) r (At.lo m) ks (At.hi m) s []
      let stop := firstStop hs
      let s := scanReport s n (At.handle m) (Root.fmt r) hs stop
      match stop with
      | some a => (s, no snap a.status)
      | none =>
        let heads := hs.map (headOperands (Root.fmt r) (Root.d r))
        let es := (queryOperands m rows).zipIdx.map fun (q, e) =>
          scanEntry m q (entryRow m e) (heads.getD (entryHead m e) [])
        let bad := es.findIdx? (·.bad)
        (s, ⟨snap, St.ok, some (makeRecord m St.ok false (At.obf16 m) bad.isSome (es.map ScanAcc.entry)), bad⟩)

/-- Pairwise sum of a power of two of FP32 values (R83). -/
def treeSum : Nat → List Nat → Nat
  | 0, l => l.headD 0
  | fuel + 1, l => if l.length ≤ 1 then l.headD 0 else treeSum fuel (pairSum l.length l)

/-- Add two FP32 vectors. -/
def vecAdd (a b : List Nat) : List Nat := (a.zip b).map fun (x, y) => f32add x y

/-- One BACKWARD entry's fixed operands. -/
structure BackEntry where
  q : List Num
  qraw : List Num
  dO : List Num
  m : Nat
  r : Nat
  dd : Nat
  deriving DecidableEq, Repr

/-- p and ds of one entry at one position, as BF16 codes (R83). -/
def backPair (d : Nat) (e : BackEntry) (vis : Bool) (k v : List Num) : Nat × Nat :=
  let sc := dotEngine (d / 32) 0 e.q k
  let p := if vis ∧ sc ≠ f32ninf then f32mul (f32exp2 (f32sub sc e.m)) e.r else 0
  let dp := dotEngine (d / 32) 0 e.dO v
  let ds := f32mul p (f32sub dp e.dd)
  if vis then (f32ToBf16 p, f32ToBf16 ds) else (0, 0)

/-- Column sums of the engine over entries in blocks of 32: element k of Σ w·x. -/
def backColumn (d : Nat) (ws : List Nat) (xs : List (List Num)) : List Nat :=
  (List.range d).map fun k =>
    dotEngine (ws.length / 32 + 1) 0 (ws.map FpFmt.bf16.decode) (xs.map fun x => x.getD k (.fin false 0 0))

/-- BACKWARD over one KV head (R83): dK and dV per held position, and dQ of the head's entries. -/
def backHead (m : Bytes) (es : List (Nat × BackEntry)) (rows : List (Nat × List Num × List Num)) :
    List (Nat × List Nat × List Nat) × List (List Nat) :=
  let d := At.d m
  let pairs := rows.map fun (p, k, v) => (p, k, es.map fun (row, e) => backPair d e (visible m row p) k v)
  let grads := pairs.map fun (p, _, ws) =>
    (p, (backColumn d (ws.map (·.2)) (es.map fun x => x.2.qraw)).map fun x => f32mul x (At.dscale m),
      backColumn d (ws.map (·.1)) (es.map fun x => x.2.dO))
  let dq := es.zipIdx.map fun (_, i) =>
    let acc := (tilesOf (At.lo m) (At.hi m)).foldl (fun acc t =>
      let tile := pairs.filter fun x => x.1 / 32 == t
      if tile.isEmpty then acc
      else (List.range d).zip acc |>.map fun (k, a) =>
        let sum := tile.foldl (fun y (_, kk, ws) =>
          y.add ((FpFmt.bf16.decode (ws.getD i (0, 0)).2).mul (kk.getD k (.fin false 0 0)))) (.fin false 0 0)
        FpFmt.f32.encode ((f32v a).add sum)) (List.replicate d 0)
    acc.map fun x => f32mul x (At.dscale m)
  (grads, dq)

/-- BACKWARD (R83). The OST record's entries are read by the flags of its own header, though the descriptor's OUTF32 gives its length
(DESIGN CHOICE, log 409); an m that is NaN there counts as a non-finite entry of R75: NONFINITE, ATT_NONFINITE and event ATT 0x0002
(DESIGN CHOICE, log 410). -/
def attBackward (s : State) (n : Nat) (m : Bytes) : State × AttResult :=
  let no := fun (snap : Option (Nat × Nat)) (st : Nat) => (⟨snap, st, some (attEmpty m st), none⟩ : AttResult)
  let (s, st, snap, r, ks) := attPickup s m
  if st ≠ St.ok then (s, no snap st)
  else
    let (o1, o2, o3) := inlineOffs m
    let (s, st1, rows) := readRows s m (At.qsrc m) o1 (rowBytes m)
    let (s, st2, dos) := if st1 ≠ St.ok then (s, st1, []) else readRows s m (At.doSrc m) o2 (rowBytes m)
    let (s, st3, ost) := if st2 ≠ St.ok then (s, st2, []) else readRows s m (At.ostSrc m) o3 (ostBytes m)
    if st3 ≠ St.ok then (s, no snap st3)
    else
      let d := At.d m
      let lo := At.lo m
      let (s, hs) := scanHeads n (At.root m) r lo ks (At.hi m) s []
      let stop := firstStop hs
      let s := scanReport s n (At.handle m) (Root.fmt r) hs stop
      match stop with
      | some a => (s, no snap a.status)
      | none =>
        let qs := queryOperands m rows
        let es := (List.range (At.entries m)).map fun e =>
          let x := Rec.entry ost e
          let dO := queryRaw dos d e
          let prods := (dO.zip x.o).map fun (a, b) => f32mul (bf16ToF32 a) b
          ({ q := qs.getD e [], qraw := (queryRaw rows d e).map FpFmt.bf16.decode, dO := dO.map FpFmt.bf16.decode, m := x.m,
             r := f32recip x.l, dd := treeSum 8 prods } : BackEntry)
        let outs := hs.zipIdx.map fun (h, k) =>
          let mine := es.zipIdx.filter fun (_, e) => entryHead m e == k
          backHead m (mine.map fun (x, e) => (entryRow m e, x)) (headOperands (Root.fmt r) d h)
        let kv := (List.range (At.hi m - lo)).flatMap fun i => outs.flatMap fun (g, _) =>
          let (_, dk, dv) := (g.find? fun x => x.1 == lo + i).getD (lo + i, List.replicate d 0, List.replicate d 0)
          (dk ++ dv).flatMap (toLE 4)
        let s := s.poke (At.dkvDst m) kv
        let ents := (List.range (At.entries m)).map fun e =>
          let k := entryHead m e
          let pos := ((List.range e).filter fun x => entryHead m x == k).length
          let x := Rec.entry ost e
          (⟨x.m, x.l, ((outs.getD k ([], [])).2).getD pos []⟩ : Entry)
        let bad := es.findIdx? fun x => f32isNan x.m
        (s, ⟨snap, St.ok, some (makeRecord m St.ok false false bad.isSome ents), bad⟩)

/-- An item met an uncorrectable stall-buffer word, or one of a table slot (R332, R341, Table FAR-3): the structure is lost, the
slot takes VALID = 0, and the stall's buffer errors are counted. -/
def bufferError (s : State) (n : Nat) (slot : Option Bool) : State :=
  let s := s.structLost Tag.stb St.uncorrectable n
  let s := match slot with
    | some b => s.updFmt n fun u => u.setSlot b { u.slot b with valid := false }
    | none => s
  let ticks := ueWindow s (s.far.bufUe.getD n [])
  let s := { s with far := { s.far with bufUe := s.far.bufUe.put n ticks } }
  if s.fld Reg.FAR_STALL_LIMIT F.FAR_STALL_LIMIT_BUF_UE ≤ ticks.length then s.failStall n 2 else s

/-- A descriptor of the given OP at the head of the queue reaches its turn: it is checked and runs (R68–R70), unless it uses a
damaged stall-buffer word. A descriptor with a reserved OP is refused at its turn whichever of the three commands reports it. -/
def attTurn (s : State) (n op : Nat) (damage : Option (Option Bool)) : State :=
  match (s.work n).att with
  | [] => s
  | it :: rest =>
    let o := At.op it.msg
    if s.stallFailed n || !attMayStart s n || !(o == op || o == 0 || decide (3 < o)) then s
    else
      let s := histSample (s.updWork n fun w => { w with att := rest }) 1 n 0 it.stamp
      let st := attCheck s n it
      let m := it.msg
      let s := match damage with
        | some slot => if st = St.ok then bufferError s n slot else s
        | none => s
      let st := if st = St.ok ∧ damage.isSome then St.uncorrectable else st
      let (s, x) :=
        if st ≠ St.ok then (s, (⟨none, st, if attNoPlace s n it then none else some (attEmpty m st), none⟩ : AttResult))
        else if o = At.opBackward then attBackward s n m
        else attForward s n m
      s.updWork n fun w => { w with run := w.run ++ [⟨it, x.snap, x.status, x.record, x.nonfin, s.now⟩] }

/-- A DECODE descriptor reaches its turn (R73). -/
def execAttDecode (stall : Fin 128) (damage : Option (Option Bool)) (s : State) : Res :=
  .next (s.ifStarts (attTurn s stall At.opDecode damage))
/-- A PREFILL descriptor reaches its turn (R82). -/
def execAttPrefill (stall : Fin 128) (damage : Option (Option Bool)) (s : State) : Res :=
  .next (s.ifStarts (attTurn s stall At.opPrefill damage))
/-- A BACKWARD descriptor reaches its turn (R83). -/
def execAttBackward (stall : Fin 128) (damage : Option (Option Bool)) (s : State) : Res :=
  .next (s.ifStarts (attTurn s stall At.opBackward damage))

/-- The first ATTN message that waits enters the queue when it has room, in the place its arrival gives it. -/
def admitLateAtt (s : State) (n : Nat) : State :=
  match (s.work n).late.find? fun x => x.msg.op == Op.attn with
  | some x =>
    if (s.work n).att.length < 64 then
      s.updWork n fun w => { w with late := w.late.erase x, att := w.att ++ [⟨x.ord, x.msg.data, x.inSvc, s.nowH⟩] }
    else s
  | none => s

/-- A running descriptor ends: its snapshot is released, its leaf record goes on, and its events are raised (R71, R98). -/
def attEnd (s : State) (n idx : Nat) : State :=
  match (s.work n).run[idx]? with
  | none => s
  | some x =>
    let s := s.updWork n fun w => { w with run := w.run.eraseIdx idx }
    let s := match x.snap with
      | some (root, e) => walkerRelease s root e
      | none => s
    let m := x.item.msg
    let s := match x.record with
      | some r => if At.op m = At.opBackward then putRecord s (At.dqDst m) r else leafRecord s n m r
      | none => s
    let s := if At.op m = At.opDecode ∧ x.status = St.ok then
        paceAdd s n (At.handle m % 4096) (s.now - x.start) ((At.hi m - At.lo m) * At.nkv m)
      else s
    admitLateAtt (attReport s n m x.status x.nonfin) n

/-- An attention descriptor completes or ends (R71). -/
def execAttDescriptorEnd (stall : Fin 128) (which : Fin 2) (s : State) : Res := .next (s.ifRuns (attEnd s stall which))

end Sys2Proof.Machine
end

