-- ==== Sys2Proof/Machine/RegAccess.lean ====
section
/-!
DEFINITION. Machine/RegAccess.lean: a software write of a register by the access codes of its fields and their stated ranges
(R3–R5, Table GLB-1). Effects beyond the stored value belong to the registers' own commands.
-/
namespace Sys2Proof.Machine

/-- A software write of one field: a value outside the stated range leaves the field unchanged; RW-L obeys GLB_LOCK. -/
def State.writeField (s : State) (o : Nat) (d : FieldDesc) (data : Nat) : State :=
  let f : Field := ⟨d.hi, d.lo⟩
  let v := bits data d.hi d.lo
  let inRange := decide (d.min ≤ v) && decide (v ≤ d.max)
  match d.acc with
  | .rw => if inRange then s.setFld o f v else s
  | .rwl => if inRange && !s.locked then s.setFld o f v else s
  | .wo => s.setFld o f v
  | .w1s => if v = 0 then s else s.setFld o f 1
  | .w1c => if v = 0 then s else s.setFld o f 0
  | .ro => s

/-- A software write of every field of the register at offset `o`; an offset that no block occupies ignores it (R7). -/
def State.rawWrite (s : State) (o data : Nat) : State :=
  match regAt o with
  | some (d, _) => d.fields.foldl (fun s f => s.writeField o f data) s
  | none => s

/-- The dwords of a byte string written to consecutive registers from offset `o`, hardware's doing. -/
def State.fillRegs (s : State) (o : Nat) (data : Bytes) : State :=
  forEach (List.range (data.length / 4)) s fun s k => s.setReg (o + 4 * k) (Machine.fld data (4 * k) 4)

end Sys2Proof.Machine
end

