-- ==== Sys2Proof/Machine/Rns.lean ====
section
/-!
DEFINITION. Machine/Rns.lean: Reins' commands: the host shaper (R235), parameter writes (R238), tenant entries (R237), the
timing wheel (R239), histograms (R240) and pace windows (R241–R243).
-/
namespace Sys2Proof.Machine

/-! ### Shaper and parameter writes -/

/-- Waiting BAR2 requests leave in order while F is not negative, each taking its cost (R235); none at WALK (R315). -/
def shaperRelease : Nat → State → State
  | 0, s => s
  | fuel + 1, s =>
    match s.rns.waiting with
    | [] => s
    | it :: rest =>
      if s.rns.fill < 0 ∨ s.walk then s
      else
        let s := shaperCharge { s with rns := { s.rns with waiting := rest } } it.pkt.payload.length
        let s := histSample s 4 0 0 it.stamp
        let s := if it.pkt.dst = s.node then localLeave s it.pkt s.nowH else s
        shaperRelease fuel (s.issue it.pkt.dst it.pkt it.origin)

/-- A BAR2 request enters the host shaper: it proceeds when F ≥ 0 and nothing waits, and waits in order otherwise (R235). -/
def shaperEnter (s : State) (p : Pkt) (o : Origin) : State :=
  let s := shaperFill s
  let held := decide (s.rns.fill < 0) || !s.rns.waiting.isEmpty || s.walk
  let s := { s with rns := { s.rns with waiting := s.rns.waiting ++ [⟨p, o, s.nowH⟩] } }
  let s := if held then s.bump Reg.RNS_HOST_HELD else s
  shaperRelease s.rns.waiting.length s

/-- The three parameter registers of the host shaper. -/
def hostShaperWrite (s : State) (reg data : Nat) : State :=
  shaperReset (s.rawWrite (if reg = 0 then Reg.RNS_HOST_RATE else if reg = 1 then Reg.RNS_HOST_BURST else Reg.RNS_HOST_OVH) data)

/-- A write of RNS_HOST_RATE, BURST or OVH (registers 0 to 2) resets F (R238). -/
def execHostShaperWrite (reg : Fin 3) (data : Word) (s : State) : Res := .next (hostShaperWrite s reg data.toNat)

/-- A write of register `reg` of meter `p` refills both buckets (R238). -/
def meterWrite (s : State) (p reg data : Nat) : State := meterReset (s.rawWrite (Reg.RNS_MTR_CIR p + 4 * reg) data) p

/-- A write of a meter register (R238). -/
def execMeterWrite (port : Fin 16) (reg : Fin 4) (data : Word) (s : State) : Res := .next (meterWrite s port reg data.toNat)

/-! ### Tenants -/

/-- Offset of a tenant entry. -/
def State.tenOff (s : State) (t : Nat) : Nat := s.base Reg.RNS_TEN_BASE_LO + 32 * t

/-- A write of RNS_TEN_DATA7 stores the entry with a full bucket and LAST = now (R238). -/
def tenData7 (s : State) (data : Nat) : State :=
  let s := s.rawWrite (Reg.RNS_TEN_DATA 7) data
  let e := s.staged (Reg.RNS_TEN_DATA 0) 8
  let e := patch (patch e 0 (toLE 4 (Machine.fld e 8 4 * 256))) 16 (toLE 8 s.nowH)
  s.poke (s.tenOff (s.fld Reg.RNS_TEN_IDX F.RNS_TEN_IDX_IDX)) e

/-- A write of RNS_TEN_DATA7 (R238). -/
def execTenData7Write (data : Word) (s : State) : Res := .next (tenData7 s data.toNat)

/-- A read of RNS_TEN_DATA0 loads all eight registers from the entry. -/
def tenData0 (s : State) : State :=
  let (s, _, e) := s.readMem (s.tenOff (s.fld Reg.RNS_TEN_IDX F.RNS_TEN_IDX_IDX)) 32
  s.fillRegs (Reg.RNS_TEN_DATA 0) e

/-- Sign of a 32-bit fill. -/
def signed32 (v : Nat) : Int := (BitVec.ofNat 32 v).toInt

/-- Check 4 of R145 for a tenant (R237): refused, or the entry's new FILL to write when the ADMIT completes OK. -/
def tenantCheck (s : State) (tenant team promptLen : Nat) : State × Bool × Nat :=
  let (s, st, e) := s.readMem (s.tenOff tenant) 32
  let burst : Int := (Machine.fld e 8 4 * 256 : Nat)
  let gain := Machine.fld e 4 4 * 256 * (s.nowH - Machine.fld e 16 8)
  let f' := min burst ((signed32 (Machine.fld e 0 4) * 1000000 + (gain : Nat)).tdiv 1000000)
  let cost : Int := ((promptLen + Machine.fld e 12 2) * 256 : Nat)
  let w := Machine.fld e 14 2
  let ok := st == St.ok && bit w 15 && w % 4096 == team && decide (cost ≤ f')
  (s, ok, (f' - cost).toNat)

/-- A refusal by a tenant bucket is counted, and reported at most once per tenant per millisecond (R237). -/
def tenantRefused (s : State) (tenant tag : Nat) : State :=
  let s := s.bump Reg.RNS_TEN_REFUSED
  let due := match s.rns.refusedAt.get? tenant with
    | some t => decide (t + 1000000 ≤ s.nowH)
    | none => true
  if due then
    let s := { s with rns := { s.rns with refusedAt := s.rns.refusedAt.put tenant s.nowH } }
    s.raise Tag.rns 0x0002 Sev.info tag [tenant % 256, tenant / 256, 0, 0]
  else s

/-- The charge of an ADMIT that completed OK. -/
def tenantCharge (s : State) (tenant fill : Nat) : State :=
  let s := s.poke (s.tenOff tenant) (toLE 4 fill)
  s.poke (s.tenOff tenant + 16) (toLE 8 s.nowH)

/-! ### Timing wheel -/

/-- Wheel budget of the team of a handle, in ticks. -/
def State.wheelBudget (s : State) (team : Nat) : Nat :=
  match s.teamSlot team with
  | some k => s.fld (Reg.RNS_TEAM_CFG k) F.RNS_TEAM_CFG_BUDGET * 1000
  | none => 0

/-- The wheel's slot for a due tick: 1,024 slots of RNS_WHEEL_SLOT ticks, the farthest 1,023 slots ahead (R239 point 2). -/
def wheelSlot (s : State) (due : Nat) : Nat :=
  let w := max 1 (s.fld Reg.RNS_WHEEL_SLOT F.RNS_WHEEL_SLOT_SLOT_W)
  min (due / w) (s.nowH / w + 1023) % 1024

/-- An ATTN message that was complete at tick `whole` enters the wheel (R239). -/
def wheelEnter (s : State) (m : Msg) (whole : Nat) : State :=
  let x := s.rns
  let team := Machine.fld m.data 8 8 % 4096
  let due := whole + s.wheelBudget team
  let it : WheelItem :=
    { due := due, slot := wheelSlot s due, stall := m.unit, msg := m.data, src := m.src, team := m.team, stamp := s.nowH,
      order := x.wheelOrder }
  { s with rns := { x with wheel := x.wheel ++ [it], wheelOrder := x.wheelOrder + 1 } }

/-- The entry of a stall that leaves next: earliest due, then completion order; completion order alone with WHEEL_EN = 0. -/
def wheelPick (s : State) (n : Nat) : Option WheelItem :=
  let due := s.flag Reg.RNS_CTRL F.RNS_CTRL_WHEEL_EN
  (s.rns.wheel.filter (·.stall == n)).foldl (fun (b : Option WheelItem) x => match b with
    | none => some x
    | some y => if due && decide (x.due < y.due) then some x else b) none

/-- A complete ATTN message that waits for the wheel takes an entry that has come free (R239). -/
def wheelAdmit (s : State) : State :=
  match s.htp.msgs.find? (·.whole) with
  | none => s
  | some c =>
    if 8192 ≤ s.rns.wheel.length then s
    else wheelEnter { s with htp := { s.htp with msgs := s.htp.msgs.erase c } } ⟨c.op, c.src, c.team, c.epoch, c.unit, c.data⟩
      c.opened

/-- The wheel releases a stall's entry when the stall's queue has room (R239). -/
def wheelRelease (s : State) (n : Nat) : State :=
  match wheelPick s n with
  | none => s
  | some it =>
    if 64 ≤ (s.work n).att.length then s
    else
      let s := wheelAdmit { s with rns := { s.rns with wheel := s.rns.wheel.erase it } }
      let s := if it.due < s.nowH then s.bump Reg.RNS_LATE else s
      let s := histSample s 3 0 0 it.stamp
      enqueueAtt s n ⟨Op.attn, it.src, it.team, 0, n, it.msg⟩

/-- The wheel releases an entry (R239). -/
def execWheelRelease (stall : Fin 128) (s : State) : Res := .next (wheelRelease s stall)

/-! ### Histograms -/

/-- A write of RNS_HIST_SEL selects a queue and clears the bins and MAXD (R240). -/
def histSel (s : State) (data : Nat) : State :=
  let s := s.rawWrite Reg.RNS_HIST_SEL data
  forEach (List.range 16) (s.setReg Reg.RNS_HIST_MAXD 0) fun s k => s.setReg (Reg.RNS_HIST k) 0

/-- A write of RNS_HIST_SEL (R240). -/
def execHistSelWrite (data : Word) (s : State) : Res := .next (histSel s data.toNat)

/-- Depth of the selected queue. -/
def histDepth (s : State) : Nat :=
  let unit := s.fld Reg.RNS_HIST_SEL F.RNS_HIST_SEL_UNIT
  let key := s.fld Reg.RNS_HIST_SEL F.RNS_HIST_SEL_KEY
  match s.fld Reg.RNS_HIST_SEL F.RNS_HIST_SEL_KIND with
  | 0 =>
    if unit = 16 then (s.htp.parked.filter fun x => charged x.2.pkt && x.2.key == key).length
    else ((s.port unit).txq.filter fun it => it.key == key && (it.cls == 0 || it.cls == 2)).length
  | 1 => (s.work unit).att.length
  | 2 => ((s.work unit).appends.filter (·.run.isNone)).length
  | 3 => s.rns.wheel.length
  | 4 => s.rns.waiting.length
  | _ => 0

/-- Every 1 µs the depth of the selected queue updates MAXD (R240). -/
def execHistDepthSample (s : State) : Res :=
  .next (s.setReg Reg.RNS_HIST_MAXD (max (s.reg Reg.RNS_HIST_MAXD) (histDepth s)))

/-! ### Pace -/

/-- Insert into an ascending list. -/
def insertAsc (x : Nat) : List Nat → List Nat
  | [] => [x]
  | y :: ys => if x ≤ y then x :: y :: ys else y :: insertAsc x ys

/-- Lower median of a list. -/
def lowerMedian (l : List Nat) : Nat := (l.foldl (fun a x => insertAsc x a) []).getD ((l.length - 1) / 2) 0

/-- COORD reads the member lines written since its last read and writes the median into line 0 (R242). -/
def paceCoord (s : State) (k : Nat) : State :=
  let base := s.fld (Reg.RNS_TEAM_PACE_OFF k) F.RNS_TEAM_PACE_OFF_OFF * pageBytes
  let idx := (s.paceAcc k).written
  let (s, ps) := forEach idx (s, ([] : List Nat)) fun (s, ps) i =>
    let (s, st, b) := s.readMem (base + 64 * (i + 1)) 64
    (s, if st = St.ok then ps ++ [Machine.fld b 0 4] else ps)
  let m := if 3 ≤ idx.length then lowerMedian ps else 0
  (s.poke base (toLE 4 m)).updPace k fun a => { a with written := [] }

/-- The span's pace: the largest stall pace, when a stall contributed (R241). -/
def spanPace (a : PaceAcc) : Option Nat :=
  (a.stalls.filter fun x => x.2.2 != 0).foldl (fun (b : Option Nat) (_, t, h) =>
    some (max (b.getD 0) (t * 1024 / h))) none

/-- A median has been loaded: the run count is updated, and LAGGARD raised when it reaches RUN (R243). -/
def paceMedian (s : State) (k m : Nat) : State :=
  let a := s.paceAcc k
  let cfg := Reg.RNS_TEAM_CFG k
  let s := s.setFld (Reg.RNS_TEAM_PACE k) F.RNS_TEAM_PACE_MEDIAN (min m 65535)
  let p := a.pace
  if m = 0 then s
  else if p * 16 > m * s.fld cfg F.RNS_TEAM_CFG_RATIO then
    let run := a.runs + 1
    if s.fld cfg F.RNS_TEAM_CFG_RUN ≤ run then
      let s := s.updPace k fun a => { a with runs := 0 }
      let team := s.fld (Reg.TEM_TEAM_STATUS k) F.TEM_TEAM_STATUS_TEAM
      let s := s.raise Tag.rns 0x0001 Sev.degraded team
        [min p 65535 % 256, min p 65535 / 256, min m 65535 % 256, min m 65535 / 256]
      (s.bump Reg.RNS_LAGGARDS).setFld (Reg.TEM_TEAM_STATUS k) F.TEM_TEAM_STATUS_LAGGED 1
    else s.updPace k fun a => { a with runs := run }
  else s.updPace k fun a => { a with runs := 0 }

/-- Take the answer of a local operation that has just been issued (R192). -/
def State.takeAnswer (s : State) (o : Origin) : Option (State × Nat × Bytes) :=
  match s.htp.answered.find? (·.1 == o) with
  | some (o', st, d) => some ({ s with htp := { s.htp with answered := s.htp.answered.filter (·.1 != o') } }, st, d)
  | none => none

/-- A window of a team slot ends (R241, R242): the pace is computed, this member's line stored and line 0 loaded; COORD first
writes the median. -/
def paceWindow (s : State) (k : Nat) : State :=
  let a := s.paceAcc k
  let st := Reg.TEM_TEAM_STATUS k
  let period := s.fld (Reg.RNS_TEAM_PERIOD k) F.RNS_TEAM_PERIOD_PERIOD
  if !s.flag st F.TEM_TEAM_STATUS_VALID || decide (s.nowH < a.windowStart + period) then s
  else
    let team := s.fld st F.TEM_TEAM_STATUS_TEAM
    let coord := s.fld (Reg.TEM_TEAM_NODES k) F.TEM_TEAM_NODES_COORD
    let base := s.fld (Reg.RNS_TEAM_PACE_OFF k) F.RNS_TEAM_PACE_OFF_OFF * pageBytes
    let lag := s.flag Reg.RNS_CTRL F.RNS_CTRL_LAG_EN
    let p := spanPace a
    let s := s.updPace k fun a => { a with stalls := [], windowStart := s.nowH, pace := p.getD a.pace }
    let s := if lag && coord == s.node then paceCoord s k else s
    match p with
    | none => s
    | some p =>
      let s := s.setFld (Reg.RNS_TEAM_PACE k) F.RNS_TEAM_PACE_PACE (min p 65535)
      match lag, (s.members team).findIdx? (· == s.node) with
      | true, some i =>
        let s := s.sendStore coord team (base + 64 * (i + 1)) (padTo 64 (toLE 4 p ++ toLE 2 s.node)) .silent
        let s := s.sendLoad coord team base 64 (.pace k)
        match s.takeAnswer (.pace k) with
        | some (s, st, d) => if st = St.ok then paceMedian s k (Machine.fld d 0 4) else s
        | none => s
      | _, _ => s

/-- A pace window ends (R241). -/
def execPaceWindowEnd (slot : Fin 16) (s : State) : Res := .next (paceWindow s slot)

end Sys2Proof.Machine
end

