-- ==== Sys2Proof/Machine/LdgHome.lean ====
section
/-!
DEFINITION. Machine/LdgHome.lean: the ledger at a request's home (R119–R132, R135, R142–R146): records, messages, admission
queues, transitions, escrow, closing and the duty split.
-/
namespace Sys2Proof.Machine

/-- Change the ledger's state. -/
def State.updLdg (s : State) (f : Ledger → Ledger) : State := { s with ldg := f s.ldg }

/-! ### Handles and records (Tables LDG-1, LDG-2) -/

def hHome (h : Nat) : Nat := bits h 63 48
def hSlot (h : Nat) : Nat := bits h 47 30
def hGen (h : Nat) : Nat := bits h 29 16
def hTeam (h : Nat) : Nat := bits h 11 0

/-- A handle from its fields. -/
def mkHandle (home slot gen team : Nat) : Nat := team + gen * 2 ^ 16 + slot * 2 ^ 30 + home * 2 ^ 48

namespace Lr
def handle (r : Bytes) : Nat := fld r 0 8
def state (r : Bytes) : Nat := fld r 8 1
def endStatus (r : Bytes) : Nat := fld r 9 1
def reason (r : Bytes) : Nat := fld r 10 1 % 16
def keep (r : Bytes) : Bool := bit (fld r 11 1) 7
def cancelPend (r : Bytes) : Bool := bit (fld r 11 1) 6
def phase (r : Bytes) : Nat := b2n (bit (fld r 11 1) 5)
def owner (r : Bytes) : Nat := fld r 12 2
def seq (r : Bytes) : Nat := fld r 14 2
def pending (r : Bytes) : Nat := fld r 16 2
def pNode (r : Bytes) : Nat := fld r 18 2
def frontNode (r : Bytes) : Nat := fld r 20 2
def fe (r : Bytes) : Nat := fld r 22 1
def rlog2 (r : Bytes) : Nat := fld r 23 1
def deadline (r : Bytes) : Nat := fld r 24 8
def grantTick (r : Bytes) : Nat := fld r 32 8
def promptLen (r : Bytes) : Nat := fld r 40 4
def matched (r : Bytes) : Nat := fld r 44 4
def maxNew (r : Bytes) : Nat := fld r 48 4
def ngen (r : Bytes) : Nat := fld r 52 4
def tokens (r : Bytes) : Nat := fld r 56 8
def streamDest (r : Bytes) : Nat := fld r 64 8
def stopBlk (r : Bytes) : Nat := fld r 72 8
def roots (r : Bytes) : Nat := fld r 80 8
def tag (r : Bytes) : Nat := fld r 96 4
def aq (r : Bytes) : Nat := fld r 102 1
def firstToken (r : Bytes) : Nat := fld r 104 4
def setState (r : Bytes) (v : Nat) : Bytes := patch r 8 (toLE 1 v)
def setOwner (r : Bytes) (owner seq : Nat) : Bytes := patch (patch r 12 (toLE 2 owner)) 14 (toLE 2 seq)
def setPending (r : Bytes) (v : Nat) : Bytes := patch r 16 (toLE 2 v)
def setNgen (r : Bytes) (v : Nat) : Bytes := patch r 52 (toLE 4 v)
def setFlags (r : Bytes) (cancel : Bool) (phase : Nat) : Bytes :=
  patch r 11 (toLE 1 (128 * b2n (keep r) + 64 * b2n cancel + 32 * phase))
def free : Nat := 0
def lookup : Nat := 1
def held : Nat := 2
def escrow : Nat := 3
def prefill : Nat := 4
def decode : Nat := 5
def closing : Nat := 6
end Lr

/-- "none" for nodes and for tokens. -/
def noNode16 : Nat := 0xFFFF
def noToken : Nat := 0xFFFFFFFF

/-- Offset of a slot's record. -/
def State.recOff (s : State) (slot : Nat) : Nat := s.base Reg.LDG_REC_BASE_LO + 128 * slot

/-- Write a record. -/
def State.setRec (s : State) (slot : Nat) (r : Bytes) : State := s.poke (s.recOff slot) (padTo 128 r)

/-- Generation of a slot. -/
def State.slotGen (s : State) (slot : Nat) : Nat := s.ldg.gens.getD slot 0

/-- Change what the home keeps beside a record. -/
def State.updHome (s : State) (slot : Nat) (f : HomeAux → HomeAux) : State :=
  match s.ldg.homes.get? slot with
  | some h => s.updLdg fun l => { l with homes := l.homes.put slot (f h) }
  | none => s

/-- R119 and Table FAR-3 on a handle. -/
def handleStatus (s : State) (h : Nat) : Nat :=
  if hHome h ≠ s.node then St.bounds
  else if s.ldg.retired.contains (hSlot h) then St.uncorrectable
  else if !s.ldg.homes.has (hSlot h) ∨ hGen h ≠ s.slotGen (hSlot h) then St.epochStale
  else St.ok

/-! ### Completion rings of admission queues (R144, Table LDG-13) -/

/-- Admission queue q. -/
def State.aq (s : State) (q : Nat) : AdmitQueue := s.ldg.queues.getD q {}

/-- Change admission queue q. -/
def State.updAq (s : State) (q : Nat) (f : AdmitQueue → AdmitQueue) : State :=
  s.updLdg fun l => { l with queues := l.queues.put q (f (s.aq q)) }

/-- A completion entry with PHASE zero. -/
def cqEntry (tag status op state handle owner seq matched ngen reason : Nat) : Bytes :=
  toLE 4 tag ++ toLE 1 status ++ toLE 1 op ++ toLE 1 0 ++ toLE 1 state ++ toLE 8 handle ++ toLE 2 owner ++ toLE 2 seq ++
    toLE 4 matched ++ toLE 4 ngen ++ toLE 1 reason ++ zeros 3

/-- The completion ring of queue q is full. -/
def cqFull (s : State) (q : Nat) : Bool :=
  let x := s.aq q
  ringFull x.cqSlot x.cqHead (s.fld (Reg.LDG_AQ_CTRL q) F.LDG_AQ_CTRL_CQ_LOG2)

/-- Write an entry at the ring's next slot and raise vector 64 + q. -/
def cqWrite (s : State) (q : Nat) (e : Bytes) : State :=
  let x := s.aq q
  let s := s.ringWrite (s.base (Reg.LDG_AQ_CQ_BASE_LO q)) (32 * x.cqSlot) (patch e 6 (toLE 1 (b2n x.phase)))
  let (slot, ph) := ringNext x.cqSlot (s.fld (Reg.LDG_AQ_CTRL q) F.LDG_AQ_CTRL_CQ_LOG2) x.phase
  (s.updAq q fun x => { x with cqSlot := slot, phase := ph }).msixRaise (64 + q)

/-- A completion of queue q, held while the ring is full. -/
def cqPut (s : State) (q : Nat) (e : Bytes) : State :=
  if !s.flag (Reg.LDG_AQ_CTRL q) F.LDG_AQ_CTRL_EN then s
  else if cqFull s q || !(s.aq q).held.isEmpty then s.updAq q fun x => { x with held := x.held ++ [e] }
  else cqWrite s q e

/-- A notice of queue q: up to 256 are held while the ring is full, then NOTICE_LOST. -/
def cqNotice (s : State) (q : Nat) (e : Bytes) : State :=
  if !s.flag (Reg.LDG_AQ_CTRL q) F.LDG_AQ_CTRL_EN then s
  else if cqFull s q || !(s.aq q).held.isEmpty || !(s.aq q).notices.isEmpty then
    if 256 ≤ (s.aq q).notices.length then s.setFld Reg.LDG_STATUS F.LDG_STATUS_NOTICE_LOST 1
    else s.updAq q fun x => { x with notices := x.notices ++ [e] }
  else cqWrite s q e

/-- Held completions, then held notices, are written while there is room. -/
def cqFlush : Nat → State → Nat → State
  | 0, s, _ => s
  | fuel + 1, s, q =>
    if cqFull s q then s
    else
      let x := s.aq q
      match x.held, x.notices with
      | e :: es, _ => cqFlush fuel (cqWrite (s.updAq q fun x => { x with held := es }) q e) q
      | [], e :: es => cqFlush fuel (cqWrite (s.updAq q fun x => { x with notices := es }) q e) q
      | [], [] => s

/-- A notice about a record. -/
def recNotice (s : State) (r : Bytes) (op status : Nat) : State :=
  cqNotice s (Lr.aq r)
    (cqEntry (Lr.tag r) status op (Lr.state r) (Lr.handle r) (Lr.owner r) (Lr.seq r) (Lr.matched r) (Lr.ngen r) (Lr.reason r))

/-- Completion of a command that names a record: MATCH, NGEN and REASON are the record's, OWNER and OWNSEQ zero (Table LDG-13). -/
def recEntry (h : Nat) (r : Bytes) (tag status op : Nat) : Bytes :=
  cqEntry tag status op (Lr.state r) h 0 0 (Lr.matched r) (Lr.ngen r) (Lr.reason r)

/-- A pending cancel command of a slot completes. -/
def cancelDone (s : State) (slot : Nat) (r : Bytes) (status : Nat) : State :=
  match (s.ldg.homes.get? slot).bind (·.cancel) with
  | none => s
  | some c =>
    let s := s.updHome slot fun h => { h with cancel := none }
    cqPut s c.aq (recEntry c.handle r c.tag status 2)

/-- Read a slot's record; a poisoned or uncorrectable one retires the slot (Table FAR-3). -/
def readRec (s : State) (slot : Nat) : State × Nat × Bytes :=
  let (s, st, r) := s.readMem (s.recOff slot) 128
  if st = St.ok then (s, st, r)
  else
    let s := s.structLost Tag.ldg st slot
    let s := cancelDone s slot r St.uncorrectable
    (s.updLdg fun l => { l with retired := l.retired ++ [slot], homes := l.homes.del slot }, St.uncorrectable, r)

/-- The record a handle names: its status under R119 and Table FAR-3, and its bytes. -/
def findRec (s : State) (h : Nat) : State × Nat × Bytes :=
  let st := handleStatus s h
  if st ≠ St.ok then (s, st, []) else readRec s (hSlot h)

/-! ### Messages (Table LDG-6) -/

namespace Lm
def offer : Nat := 0x01
def grant : Nat := 0x02
def accept : Nat := 0x03
def commit : Nat := 0x04
def revert : Nat := 0x05
def whoOwns : Nat := 0x06
def ownerIs : Nat := 0x07
def refuse : Nat := 0x08
def cancel : Nat := 0x09
def cancelReply : Nat := 0x0A
def step : Nat := 0x0B
def release : Nat := 0x0C
def released : Nat := 0x0D
def kind (m : Bytes) : Nat := fld m 0 1
def status (m : Bytes) : Nat := fld m 1 1
def src (m : Bytes) : Nat := fld m 2 2
def target (m : Bytes) : Nat := fld m 4 2
def seq (m : Bytes) : Nat := fld m 6 2
def handle (m : Bytes) : Nat := fld m 8 8
def remain (m : Bytes) : Nat := fld m 16 8
def ngen (m : Bytes) : Nat := fld m 24 4
def token (m : Bytes) : Nat := fld m 28 4
def endStatus (m : Bytes) : Nat := fld m 32 1
def state (m : Bytes) : Nat := bits (fld m 33 1) 7 4
def reason (m : Bytes) : Nat := fld m 33 1 % 16
def nent (m : Bytes) : Nat := fld m 34 2
end Lm

/-- The fields of a ledger message that a KIND may use. -/
structure LdgFields where
  status : Nat := 0
  target : Nat := 0
  seq : Nat := 0
  remain : Nat := 0
  ngen : Nat := 0
  token : Nat := 0
  endStatus : Nat := 0
  state : Nat := 0
  reason : Nat := 0
  nent : Nat := 0
  payload : Bytes := []
  deriving DecidableEq, Repr

/-- A ledger message. -/
def ldgMsg (src kind handle : Nat) (f : LdgFields) : Bytes :=
  toLE 1 kind ++ toLE 1 f.status ++ toLE 2 src ++ toLE 2 f.target ++ toLE 2 f.seq ++ toLE 8 handle ++ toLE 8 f.remain ++
    toLE 4 f.ngen ++ toLE 4 f.token ++ toLE 1 f.endStatus ++ toLE 1 (16 * f.state + f.reason) ++ toLE 2 f.nent ++
    toLE 2 f.payload.length ++ zeros 26 ++ f.payload

/-- Send a ledger message. -/
def sendLdg (s : State) (node kind handle : Nat) (f : LdgFields) : State :=
  s.sendMsg node Op.ledger (hTeam handle) 0xFF (ldgMsg s.node kind handle f)

/-- The first ledger message of a KIND in the inbox. -/
def State.takeLdg (s : State) (kind : Nat) : Option (Msg × State) :=
  s.takeMsg fun m => m.op == Op.ledger && Lm.kind m.data == kind

/-- OWNER_IS in answer to a message (R126, R129, Table FAR-3): the record's owner, or, where this module holds no record for the
handle, the reason it is refused (R119, R14) under the message's own OWNSEQ. -/
def sendOwnerIs (s : State) (m : Bytes) (found : Nat) (r : Bytes) (status : Nat) : State :=
  let node := Lm.src m
  let h := Lm.handle m
  if found = St.ok then
    sendLdg s node Lm.ownerIs h
      { status := status, target := Lr.owner r, seq := Lr.seq r, state := Lr.state r, ngen := Lr.ngen r }
  else
    sendLdg s node Lm.ownerIs h
      { status := if s.role ≠ roleC then St.rights else found, target := noNode16, seq := Lm.seq m }

/-- A stale message or entry is dropped: counted and reported (R126, R133, Table LDG-14). -/
def ldgStale (s : State) (h kind seq : Nat) : State :=
  (s.bump Reg.LDG_STALE).raise Tag.ldg 0x0005 Sev.info h [kind, 0, seq % 256, seq / 256]

/-! ### Token records (Table LDG-11) -/

/-- A token record without PHASE. -/
def tokenRec (s : State) (h token index step status reason : Nat) (final phase : Bool) : Bytes :=
  toLE 8 h ++ toLE 4 token ++ toLE 4 index ++ toLE 4 step ++ toLE 1 status ++ toLE 1 reason ++
    toLE 1 (2 * b2n final + b2n phase) ++ zeros 1 ++ toLE 8 s.now

/-- PHASE of position p in a ring of 2^log2 slots (R141). -/
def passPhase (i log2 : Nat) : Bool := i / 2 ^ log2 % 2 == 0

/-- A record in per-token layout at position p of the request's ring (R141). -/
def streamRec (s : State) (r : Bytes) (p : Nat) (mk : Bool → Bytes) : State :=
  let i := p - 1
  s.sendPut (Lr.frontNode r) (hTeam (Lr.handle r)) (bits (Lr.streamDest r) 47 0 + i % 2 ^ Lr.rlog2 r * 64)
    (padTo 64 (mk (passPhase i (Lr.rlog2 r)))) .control

/-- The FINAL record a home writes for a request it ends itself (R142). -/
def homeFinal (s : State) (r : Bytes) (status : Nat) : State :=
  streamRec s r (Lr.ngen r + 1) fun ph => tokenRec s (Lr.handle r) noToken 0 0 status 0 true ph

/-! ### Closing (R143) -/

/-- Release every root of a record's root lists (R143 step 2). -/
def releaseRoots (s : State) (slot : Nat) (r : Bytes) : State :=
  let (s, st, b) := s.readRoots (Lr.roots r)
  if st ≠ St.ok then s.structLost Tag.ldg st slot
  else
    forEach (rootLists b) s fun s (m, rs) =>
      if m = s.node then
        forEach rs s fun s (_, root) =>
          let s := s.updHome slot fun h => { h with close := h.close.map fun c => { c with edits := c.edits + 1 } }
          editSubmit s (homeStall root % 128) (Ed.make Ed.opRelease none root 0 0 0 0 0) (.ledger slot)
      else
        let s := s.updHome slot fun h => { h with close := h.close.map fun c => { c with waiting := c.waiting ++ [m] } }
        sendLdg s m Lm.release (Lr.handle r) { nent := rs.length, payload := rootWords rs }

/-- A record enters CLOSING, owned by the home (R122, Table LDG-3, R143): ending noted, FINAL written when the home ends it, close
begun. -/
def toClosing (s : State) (slot : Nat) (r : Bytes) (status reason : Nat) (final : Bool) : State :=
  let before := Lr.state r
  let n := Lr.ngen r
  let s := if final then homeFinal s r status else s
  let s := if status = St.ok then s.bump Reg.LDG_COMPLETE
    else (s.bump Reg.LDG_ENDED_ERR).raise Tag.ldg 0x0002 Sev.contained (Lr.handle r) [status, before, n % 256, n / 256 % 256]
  let r := Lr.setOwner (Lr.setPending (Lr.setState r Lr.closing) noNode16) s.node (Lr.seq r)
  let r := patch (patch r 9 (toLE 1 status)) 10 (toLE 1 reason)
  let s := s.setRec slot r
  let insert := Lr.keep r && status == St.ok
  let s := s.updHome slot fun h => { h with close := some { insert := insert }, prior := none, lostAt := none }
  if insert then
    s.updPed fun p => { p with inserts := p.inserts ++
      [{ handle := Lr.handle r, len := Lr.promptLen r + Lr.ngen r - 1, prompt := Lr.promptLen r, tokens := Lr.tokens r,
         roots := Lr.roots r }] }
  else releaseRoots s slot r

/-- REVERT to the granted node and to the prior owner (R127). -/
def sendReverts (s : State) (slot : Nat) (r : Bytes) (status : Nat) : State :=
  let f : LdgFields := { status := status, target := Lr.pending r, seq := (Lr.seq r + 1) % 65536 }
  let s := sendLdg s (Lr.pending r) Lm.revert (Lr.handle r) f
  match (s.ldg.homes.get? slot).bind (·.prior) with
  | some p => if p = s.node then s else sendLdg s p Lm.revert (Lr.handle r) f
  | none => s

/-- The home ends a record it owns, in LOOKUP, HELD or ESCROW (Table LDG-5); the REVERT of an ESCROW record uses g (R124). -/
def endHome (s : State) (slot : Nat) (r : Bytes) (status : Nat) : State :=
  if Lr.state r = Lr.escrow then
    toClosing (sendReverts s slot r status) slot (Lr.setOwner r s.node ((Lr.seq r + 1) % 65536)) status 0 true
  else toClosing s slot r status 0 true

/-- The slot returns to FREE and its GEN advances (R120). -/
def freeSlot (s : State) (slot : Nat) (r : Bytes) : State :=
  let s := s.setRec slot (Lr.setState r Lr.free)
  let g := (s.slotGen slot + 1) % 2 ^ 14
  s.updLdg fun l => { l with
    gens := if g = 0 then l.gens.del slot else l.gens.put slot g
    homes := l.homes.del slot
    freed := l.freed ++ [slot] }

/-- Finished inserts, edits and RELEASE jobs are noted. -/
def ldgSettle (s : State) : State :=
  let done := s.kvp.done.filterMap fun d => match d.origin with
    | .ledger id => some (id, d.status)
    | _ => none
  let rest := s.kvp.done.filter fun d => match d.origin with
    | .ledger _ => false
    | _ => true
  let s := { s with kvp := { s.kvp with done := rest } }
  let s := forEach done s fun s (id, st) =>
    if id < 262144 then s.updHome id fun h => { h with close := h.close.map fun c => { c with edits := c.edits - 1 } }
    else s.updLdg fun l => { l with releases := replaceIf (·.id == id) (fun j => { j with
      left := j.left - 1, released := j.released + b2n (st == St.ok),
      status := if j.status = St.ok then st else j.status }) l.releases }
  let ins := s.ldg.inserted
  let s := s.updLdg fun l => { l with inserted := [] }
  let s := forEach ins s fun s (h, st) =>
    let slot := hSlot h
    let s := s.updHome slot fun x => { x with close := x.close.map fun c => { c with insert := false } }
    if st = St.ok then s
    else
      let (s, st, r) := readRec s slot
      if st = St.ok then releaseRoots s slot r else s
  let ended := s.ldg.releases.filter (·.left == 0)
  let s := s.updLdg fun l => { l with releases := l.releases.filter (·.left != 0) }
  forEach ended s fun s j => sendLdg s j.src Lm.released j.handle { status := j.status, nent := j.released }

/-- A close whose insert, edits and answers are all in ends: end notice, slot FREE (R143 step 3). -/
def closeTurn (s : State) : State :=
  let s := ldgSettle s
  match s.ldg.homes.find? fun (_, h) => match h.close with
    | some c => !c.insert && c.edits == 0 && c.waiting.isEmpty
    | none => false with
  | none => s
  | some (slot, _) =>
    let (s, st, r) := readRec s slot
    if st ≠ St.ok then s
    else
      let s := cancelDone s slot r (if Lr.endStatus r = St.cancelled then St.ok else St.noEffect)
      let s := recNotice s r 0x80 (Lr.endStatus r)
      freeSlot s slot r

/-- Close completion (R143). -/
def execCloseComplete (s : State) : Res := .next (s.ifRuns (closeTurn s))

/-- RELEASE at a module (R143): edits for the live tables of the handle. -/
def serveRelease (s : State) (m : Msg) : State :=
  let h := Lm.handle m.data
  let rs := (List.range (Lm.nent m.data)).map fun i => bits (Machine.fld m.data (64 + 8 * i) 8) 47 0
  let (s, live) := forEach rs (s, ([] : List Nat)) fun (s, acc) root =>
    if !rootOk root then (s, acc)
    else
      let (s, st, r) := s.readRoot root
      (s, if st = St.ok ∧ Root.handle r = h ∧ Root.state r = Root.live then acc ++ [root] else acc)
  let id := 262144 + s.ldg.releaseId
  let s := s.updLdg fun l => { l with
    releaseId := l.releaseId + 1, releases := l.releases ++ [⟨id, m.src, h, live.length, 0, St.ok⟩] }
  ldgSettle (forEach live s fun s root =>
    editSubmit s (homeStall root % 128) (Ed.make Ed.opRelease none root 0 0 0 0 0) (.ledger id))

/-- A RELEASE message (R143). -/
def ldgReleaseRow (s : State) : State :=
  match s.takeLdg Lm.release with
  | some (m, s) => serveRelease s m
  | none => ldgSettle s

/-- The command as a step. -/
def execLdgRelease (s : State) : Res := .next (s.ifRuns (ldgReleaseRow s))

/-- A module has answered, or been given up, for a close (R143). -/
def closeAnswered (s : State) (h node : Nat) : State :=
  if handleStatus s h ≠ St.ok then s
  else s.updHome (hSlot h) fun x => { x with close := x.close.map fun c => { c with waiting := c.waiting.erase node } }

/-- A RELEASED answer (R143). -/
def releasedRow (s : State) : State :=
  match s.takeLdg Lm.released with
  | some (m, s) => closeAnswered s (Lm.handle m.data) (Lm.src m.data)
  | none => s

/-- The command as a step. -/
def execReleased (s : State) : Res := .next (s.ifRuns (releasedRow s))

/-! ### Escrow at the home -/

/-- REMAIN of a GRANT (R132). -/
def grantRemain (s : State) (r : Bytes) : Nat := if Lr.deadline r = 0 then 2 ^ 64 - 1 else Lr.deadline r - s.now

/-- Send the outstanding GRANT; one whose stop block cannot be read is not sent (R334). -/
def sendGrant (s : State) (slot : Nat) (r : Bytes) : State :=
  let s := s.updHome slot fun h => { h with grantSent := s.now }
  let (s, st, b) := s.readMem (Lr.stopBlk r) 1152
  if st ≠ St.ok then s
  else
    sendLdg s (Lr.pending r) Lm.grant (Lr.handle r)
      { target := Lr.pending r, seq := (Lr.seq r + 1) % 65536, remain := grantRemain s r,
        token := Lr.firstToken r, payload := r ++ b }

/-- The home grants a record to a node: ESCROW (R124). -/
def grantTo (s : State) (slot : Nat) (r : Bytes) (node : Nat) (prior : Option Nat) : State :=
  let r := patch (Lr.setPending (Lr.setState r Lr.escrow) node) 32 (toLE 8 s.now)
  let s := s.setRec slot r
  sendGrant (s.updHome slot fun h => { h with prior := prior }) slot r

/-- An ESCROW record reverts to HELD (R127). -/
def revertEscrow (s : State) (slot : Nat) (r : Bytes) (status : Nat) : State :=
  let node := Lr.pending r
  let s := sendReverts s slot r status
  let r := Lr.setPending (Lr.setOwner (Lr.setState r Lr.held) s.node ((Lr.seq r + 1) % 65536)) noNode16
  let s := s.setRec slot r
  let s := s.updHome slot fun h => { h with prior := none }
  let s := recNotice s r 0x81 status
  let s := s.raise Tag.ldg 0x0001 Sev.info (Lr.handle r) [status, Lr.phase r, node % 256, node / 256]
  s.bump Reg.LDG_REVERTS

/-- The escrow of a record has timed out. -/
def escrowOver (s : State) (r : Bytes) : Bool := decide (Lr.grantTick r + s.reg Reg.LDG_ESCROW_TMO ≤ s.now)

/-- CANCEL to the owner (R135). -/
def sendCancel (s : State) (slot : Nat) (r : Bytes) : State :=
  let s := s.updHome slot fun h => { h with cancel := h.cancel.map fun c => { c with sent := some s.now } }
  sendLdg s (Lr.owner r) Lm.cancel (Lr.handle r) { seq := Lr.seq r }

/-- After its team's END a record keeps only an OFFER that names the home and comes within LDG_ESCROW_TMO (Table TEM-5). -/
def offerLost (s : State) (slot : Nat) (m : Bytes) : Bool :=
  match (s.ldg.homes.get? slot).bind (·.lostAt) with
  | some t => decide (Lm.target m ≠ s.node) || decide (t + s.reg Reg.LDG_ESCROW_TMO ≤ s.now)
  | none => false

/-- OFFER at the home (R124, R128, Tables LDG-5 and TEM-5). -/
def takeOffer (s : State) (m : Bytes) : State :=
  let h := Lm.handle m
  let (s, st, r) := findRec s h
  let slot := hSlot h
  if st ≠ St.ok then sendOwnerIs s m st r St.epochStale
  else if Lm.src m = Lr.owner r ∧ Lm.seq m = Lr.seq r ∧ (Lr.state r = Lr.prefill ∨ Lr.state r = Lr.decode) then
    let r0 := Lr.setOwner r s.node ((Lr.seq r + 1) % 65536)
    if offerLost s slot m then toClosing s slot r0 St.memberLost 0 true
    else if Lm.target m = s.node then
      let r1 := Lr.setNgen r0 (Lm.ngen m)
      let s := toClosing s slot r1 (Lm.endStatus m) (Lm.reason m) false
      sendLdg s (Lm.src m) Lm.commit h { target := s.node, seq := Lr.seq r0 }
    else
      let r1 := Lr.setFlags r0 (Lr.cancelPend r) 1
      let r1 := if Lr.state r = Lr.prefill then patch r1 104 (toLE 4 (Lm.token m))
        else patch (Lr.setNgen r1 (Lm.ngen m)) 104 (toLE 4 noToken)
      grantTo s slot r1 (Lm.target m) (some (Lm.src m))
  else if Lr.state r = Lr.escrow ∧ (Lm.seq m + 1) % 65536 = Lr.seq r then s
  else ldgStale (sendOwnerIs s m st r St.epochStale) h Lm.offer (Lm.seq m)

/-- An OFFER message (R124). -/
def offerRow (s : State) : State :=
  match s.takeLdg Lm.offer with
  | some (m, s) => takeOffer s m.data
  | none => s

/-- The command as a step. -/
def execOffer (s : State) : Res := .next (s.ifRuns (offerRow s))

/-- ACCEPT at the home (R126); an expiry in the same tick wins (R127). -/
def takeAccept (s : State) (m : Bytes) : State :=
  let h := Lm.handle m
  let slot := hSlot h
  let (s, st, r) := findRec s h
  let late := st == St.ok && Lr.state r == Lr.escrow && escrowOver s r
  let (s, st, r) := if late then findRec (revertEscrow s slot r St.escrowTimeout) h else (s, st, r)
  if st ≠ St.ok then sendOwnerIs s m st r St.epochStale
  else
    let g := (Lr.seq r + 1) % 65536
    if Lr.state r = Lr.escrow ∧ Lm.src m = Lr.pending r ∧ Lm.seq m = g then
      let node := Lr.pending r
      let st' := if Lr.phase r = 0 then Lr.prefill else Lr.decode
      let r1 := Lr.setPending (Lr.setOwner (Lr.setState r st') node g) noNode16
      let prior := (s.ldg.homes.get? slot).bind (·.prior)
      let s := (s.setRec slot r1).bump Reg.LDG_ESCROWS
      let s := s.updHome slot fun x => { x with prior := none }
      let s := sendLdg s node Lm.commit h { target := node, seq := g }
      let s := match prior with
        | some p => if p = s.node then s else sendLdg s p Lm.commit h { target := node, seq := g }
        | none => s
      if Lr.cancelPend r then sendCancel s slot r1 else s
    else if (Lr.state r = Lr.prefill ∨ Lr.state r = Lr.decode) ∧ Lm.src m = Lr.owner r ∧ Lm.seq m = Lr.seq r then
      sendLdg s (Lm.src m) Lm.commit h { target := Lm.src m, seq := Lr.seq r }
    else ldgStale (sendOwnerIs s m st r St.epochStale) h Lm.accept (Lm.seq m)

/-- An ACCEPT message (R126). -/
def acceptRow (s : State) : State :=
  match s.takeLdg Lm.accept with
  | some (m, s) => takeAccept s m.data
  | none => s

/-- The command as a step. -/
def execAccept (s : State) : Res := .next (s.ifRuns (acceptRow s))

/-- REFUSE at the home: of a GRANT it reverts the escrow (R127, R130); of a CANCEL it makes the home send again (R135). -/
def takeRefuse (s : State) (m : Bytes) : State :=
  let h := Lm.handle m
  let slot := hSlot h
  let (s, st, r) := findRec s h
  if st ≠ St.ok then s
  else if Lr.state r = Lr.escrow ∧ Lm.src m = Lr.pending r ∧ Lm.seq m = (Lr.seq r + 1) % 65536 then
    let n := Lm.src m
    let s := s.raise Tag.ldg 0x0004 Sev.info h [Lm.status m, Lr.phase r, n % 256, n / 256]
    revertEscrow s slot r (Lm.status m)
  else if (Lr.state r = Lr.prefill ∨ Lr.state r = Lr.decode) ∧ Lr.cancelPend r then sendCancel s slot r
  else s

/-- A REFUSE message (R127). -/
def refuseRow (s : State) : State :=
  match s.takeLdg Lm.refuse with
  | some (m, s) => takeRefuse s m.data
  | none => s

/-- The command as a step. -/
def execRefuse (s : State) : Res := .next (s.ifRuns (refuseRow s))

/-- WHO_OWNS at the home (R129). -/
def takeWhoOwns (s : State) (m : Bytes) : State :=
  let (s, st, r) := findRec s (Lm.handle m)
  sendOwnerIs s m st r St.ok

/-- A WHO_OWNS message (R129). -/
def whoOwnsRow (s : State) : State :=
  match s.takeLdg Lm.whoOwns with
  | some (m, s) => takeWhoOwns s m.data
  | none => s

/-- The command as a step. -/
def execWhoOwns (s : State) : Res := .next (s.ifRuns (whoOwnsRow s))

/-- CANCEL_REPLY at the home (R135). -/
def takeCancelReply (s : State) (m : Bytes) : State :=
  let h := Lm.handle m
  let slot := hSlot h
  let (s, st, r) := findRec s h
  if st ≠ St.ok then s
  else if ((s.ldg.homes.get? slot).bind (·.cancel)).isNone then s
  else
    let r' := Lr.setFlags r false (Lr.phase r)
    cancelDone (s.setRec slot r') slot r' (Lm.status m)

/-- A CANCEL_REPLY message (R135). -/
def cancelReplyRow (s : State) : State :=
  match s.takeLdg Lm.cancelReply with
  | some (m, s) => takeCancelReply s m.data
  | none => s

/-- The command as a step. -/
def execCancelReply (s : State) : Res := .next (s.ifRuns (cancelReplyRow s))

/-- The first slot in use whose record satisfies a test, with its record. -/
def findSlot (s : State) (p : Nat → HomeAux → Bytes → Bool) : Option Nat :=
  (s.ldg.homes.find? fun (k, h) => p k h (s.peek (s.recOff k) 128)).map (·.1)

/-- Do something to the first slot whose record satisfies a test. -/
def onSlot (s : State) (p : Nat → HomeAux → Bytes → Bool) (f : State → Nat → Bytes → State) : State :=
  match findSlot s p with
  | none => s
  | some k =>
    let (s, st, r) := readRec s k
    if st = St.ok then f s k r else s

/-- An escrow timeout (R127). -/
def execEscrowTimeout (s : State) : Res :=
  .next (s.ifRuns (onSlot s (fun _ _ r => Lr.state r == Lr.escrow && escrowOver s r) fun s k r => revertEscrow s k r St.escrowTimeout))

/-- The GRANT is sent again every LDG_ESCROW_RETRY (R128). -/
def execGrantRetry (s : State) : Res :=
  .next (s.ifRuns (onSlot s (fun _ h r => Lr.state r == Lr.escrow && !escrowOver s r &&
      decide (h.grantSent + s.reg Reg.LDG_ESCROW_RETRY ≤ s.now)) sendGrant))

/-- The CANCEL is sent again every LDG_ESCROW_RETRY (R135). -/
def execCancelRetry (s : State) : Res :=
  .next (s.ifRuns (onSlot s (fun _ h r => (Lr.state r == Lr.prefill || Lr.state r == Lr.decode) && match h.cancel with
      | some ⟨_, _, _, some t⟩ => decide (t + s.reg Reg.LDG_ESCROW_RETRY ≤ s.now)
      | _ => false) sendCancel))

/-- A home-owned record's DEADLINE passes (R122, R132). -/
def execHomeDeadline (s : State) : Res :=
  .next (s.ifRuns (onSlot s (fun _ _ r => (Lr.state r == Lr.held || Lr.state r == Lr.escrow) && Lr.deadline r != 0 &&
      decide (Lr.deadline r ≤ s.now)) fun s k r => endHome s k r St.deadline))

/-- No OFFER came from the owner of a request whose team ended (Table TEM-5). -/
def execLostMemberOfferTimeout (s : State) : Res :=
  .next (s.ifRuns (onSlot s (fun _ h r => (Lr.state r == Lr.prefill || Lr.state r == Lr.decode) && match h.lostAt with
      | some t => decide (t + s.reg Reg.LDG_ESCROW_TMO ≤ s.now)
      | none => false) fun s k r => toClosing s k r St.memberLost 0 true))

/-! ### Lookup results -/

/-- A lookup result moves its record on (Table LDG-5, R135). -/
def takeResult (s : State) (x : LookupResult) : State :=
  let (s, st, r) := findRec s x.handle
  let slot := hSlot x.handle
  if st ≠ St.ok ∨ Lr.state r ≠ Lr.lookup then s
  else
    let r := patch r 44 (toLE 4 x.matched)
    if Lr.cancelPend r then
      let s := endHome s slot r St.cancelled
      cancelDone s slot (Lr.setState r Lr.closing) St.ok
    else if Lr.deadline r ≠ 0 ∧ Lr.deadline r ≤ s.now then endHome s slot r St.deadline
    else if Lr.pNode r = noNode16 then
      let r := Lr.setState r Lr.held
      recNotice (s.setRec slot r) r 0x82 x.status
    else grantTo s slot r (Lr.pNode r) none

/-- A lookup result (R122). -/
def lookupResultRow (s : State) : State :=
  match s.ldg.results with
  | x :: rest => takeResult (s.updLdg fun l => { l with results := rest }) x
  | [] => s

/-- The command as a step. -/
def execLookupResult (s : State) : Res := .next (s.ifRuns (lookupResultRow s))

/-! ### Commands (R144, R145, Table LDG-10) -/

namespace Lc
def op (c : Bytes) : Nat := fld c 0 1
def keep (c : Bytes) : Bool := bit (fld c 1 1) 1
def team (c : Bytes) : Nat := fld c 2 2 % 4096
def tag (c : Bytes) : Nat := fld c 4 4
def handle (c : Bytes) : Nat := fld c 8 8
def tokens (c : Bytes) : Nat := fld c 16 8
def roots (c : Bytes) : Nat := fld c 24 8
def stopBlk (c : Bytes) : Nat := fld c 32 8
def streamDest (c : Bytes) : Nat := fld c 40 8
def deadline (c : Bytes) : Nat := fld c 48 8
def promptLen (c : Bytes) : Nat := fld c 56 4
def maxNew (c : Bytes) : Nat := fld c 60 4
def pNode (c : Bytes) : Nat := fld c 64 2
def frontNode (c : Bytes) : Nat := fld c 66 2
def tenant (c : Bytes) : Nat := fld c 68 2
def fe (c : Bytes) : Nat := fld c 70 1
def rlog2 (c : Bytes) : Nat := fld c 71 1
def opAdmit : Nat := 1
def cancel : Nat := 2
def retarget : Nat := 3
def whoOwns : Nat := 4
/-- Reserved OP, bits or values. -/
def reserved (c : Bytes) : Bool :=
  op c == 0 || decide (4 < op c) || fld c 1 1 % 2 != 0 || fld c 1 1 / 4 != 0 || fld c 2 2 / 4096 != 0 ||
    (if op c == opAdmit then streamDest c / 2 ^ 48 != 0 else bits (handle c) 15 12 != 0) || fld c 72 56 != 0
end Lc

/-- The enabled LDG_TEAM entry of a team. -/
def State.ldgTeam (s : State) (team : Nat) : Option Nat :=
  (List.range 16).find? fun t => s.flag (Reg.LDG_TEAM t) F.LDG_TEAM_EN && s.fld (Reg.LDG_TEAM t) F.LDG_TEAM_TEAM == team

/-- A stop block keeps to R139. -/
def stopOk (b : Bytes) : Bool :=
  decide (fld b 0 1 ≤ 16) && decide (fld b 1 1 ≤ 8) &&
    (List.range (fld b 1 1)).all fun j => decide (1 ≤ fld b (2 + j) 1) && decide (fld b (2 + j) 1 ≤ 32)

/-- An offset is a line of local HBM. -/
def lineOk (o : Nat) : Bool := decide (o % 64 = 0) && decide (o < hbmBytes)

/-- The next free slot, first in first out (R120); the order of slots never used is open. -/
def takeSlot (s : State) : State × Option Nat :=
  let c := rangeCount s.ldg.virgin
  if c ≠ 0 then
    let (r, s) := s.draw
    match takeNth s.ldg.virgin (r % c) with
    | some (k, rs) => (s.updLdg fun l => { l with virgin := rs }, some k)
    | none => (s, none)
  else match s.ldg.freed with
    | k :: ks => (s.updLdg fun l => { l with freed := ks }, some k)
    | [] => (s, none)

/-- Checks 3 to 6 of an ADMIT: status, and the tenant's new fill (R145). -/
def admitCheck (s : State) (c : Bytes) : State × Nat × Nat :=
  if (s.ldgTeam (Lc.team c)).isNone then (s, St.rights, 0)
  else
    let (s, st, _) := s.readMem (s.tenOff (Lc.tenant c)) 32
    if st ≠ St.ok then (s, st, 0)
    else
      let (s, ok, fill) := tenantCheck s (Lc.tenant c) (Lc.team c) (Lc.promptLen c)
      if !ok then (tenantRefused s (Lc.tenant c) (Lc.tag c), St.violation, 0)
      else if Lc.promptLen c = 0 ∨ Lc.maxNew c = 0 ∨ Lc.rlog2 c < 4 ∨ 16 < Lc.rlog2 c ∨ 63 < Lc.fe c ∨
          !lineOk (Lc.tokens c) ∨ !lineOk (Lc.roots c) ∨ !lineOk (Lc.stopBlk c) then (s, St.bounds, 0)
      else
        let (s, st, sb) := s.readMem (Lc.stopBlk c) 1152
        let (s, st', rb) := if st = St.ok then s.readRoots (Lc.roots c) else (s, st, [])
        if st' ≠ St.ok then (s, st', 0)
        else if !stopOk sb || !rootsOk rb then (s, St.bounds, 0)
        else (s, St.ok, fill)

/-- ADMIT (R145). -/
def doAdmit (s : State) (q : Nat) (c : Bytes) : State :=
  let fail := fun (s : State) (st : Nat) => cqPut s q (cqEntry (Lc.tag c) st Lc.opAdmit 0 0 0 0 0 0 0)
  let (s, st, fill) := admitCheck s c
  if st ≠ St.ok then fail s st
  else match takeSlot s with
    | (s, none) => fail s St.bounds
    | (s, some k) =>
      let h := mkHandle s.node k (s.slotGen k) (Lc.team c)
      let s := tenantCharge s (Lc.tenant c) fill
      let r := toLE 8 h ++ toLE 1 Lr.lookup ++ toLE 1 0 ++ toLE 1 0 ++ toLE 1 (128 * b2n (Lc.keep c)) ++ toLE 2 s.node ++
        toLE 2 0 ++ toLE 2 noNode16 ++ toLE 2 (Lc.pNode c) ++ toLE 2 (Lc.frontNode c) ++ toLE 1 (Lc.fe c) ++
        toLE 1 (Lc.rlog2 c) ++ toLE 8 (if Lc.deadline c = 0 then 0 else s.now + Lc.deadline c) ++ toLE 8 0 ++
        toLE 4 (Lc.promptLen c) ++ toLE 4 0 ++ toLE 4 (Lc.maxNew c) ++ toLE 4 0 ++ toLE 8 (Lc.tokens c) ++
        toLE 8 (Lc.streamDest c) ++ toLE 8 (Lc.stopBlk c) ++ toLE 8 (Lc.roots c) ++ toLE 8 s.now ++ toLE 4 (Lc.tag c) ++
        toLE 2 (Lc.tenant c) ++ toLE 1 q ++ toLE 1 0 ++ toLE 4 noToken ++ zeros 20
      let s := s.setRec k r
      let s := s.updLdg fun l => { l with homes := l.homes.put k {} }
      let s := s.updPed fun p => { p with lookups := p.lookups ++ [⟨h, Lc.promptLen c, Lc.tokens c, Lc.roots c⟩] }
      let s := s.bump Reg.LDG_ADMITS
      cqPut s q (cqEntry (Lc.tag c) St.ok Lc.opAdmit Lr.lookup h 0 0 0 0 0)

/-- CANCEL (R135, R145). -/
def doCancel (s : State) (q : Nat) (c : Bytes) : State :=
  let h := Lc.handle c
  let slot := hSlot h
  let (s, st, r) := findRec s h
  let done := fun (s : State) (st : Nat) (r : Bytes) => cqPut s q (recEntry h r (Lc.tag c) st Lc.cancel)
  if st ≠ St.ok then cqPut s q (cqEntry (Lc.tag c) st Lc.cancel 0 h 0 0 0 0 0)
  else if Lr.state r = Lr.held ∨ Lr.state r = Lr.escrow then
    done (endHome s slot r St.cancelled) St.ok (patch (Lr.setState r Lr.closing) 10 (toLE 1 0))
  else if Lr.state r = Lr.closing ∨ Lr.cancelPend r then done s St.noEffect r
  else
    let r' := Lr.setFlags r true (Lr.phase r)
    let s := (s.setRec slot r').updHome slot fun x => { x with cancel := some ⟨q, Lc.tag c, h, none⟩ }
    if Lr.state r = Lr.lookup then s else sendCancel s slot r'

/-- RETARGET (R122, R145). -/
def doRetarget (s : State) (q : Nat) (c : Bytes) : State :=
  let h := Lc.handle c
  let (s, st, r) := if Lc.pNode c = noNode16 then (s, St.bounds, []) else findRec s h
  let done := fun (s : State) (st : Nat) (r : Bytes) => cqPut s q (recEntry h r (Lc.tag c) st Lc.retarget)
  if st ≠ St.ok then cqPut s q (cqEntry (Lc.tag c) st Lc.retarget 0 h 0 0 0 0 0)
  else if Lr.state r ≠ Lr.held then done s St.noEffect r
  else done (grantTo s (hSlot h) r (Lc.pNode c) none) St.ok (Lr.setState r Lr.escrow)

/-- WHO_OWNS (R129, R145). -/
def doWhoOwns (s : State) (q : Nat) (c : Bytes) : State :=
  let h := Lc.handle c
  let (s, st, r) := findRec s h
  cqPut s q (if st ≠ St.ok then cqEntry (Lc.tag c) st Lc.whoOwns 0 h 0 0 0 0 0
    else cqEntry (Lc.tag c) St.ok Lc.whoOwns (Lr.state r) h (Lr.owner r) (Lr.seq r) (Lr.matched r) (Lr.ngen r) (Lr.reason r))

/-- Read the command in ring slot `i` of queue q; a ring in host memory gives what the host port's read returned. -/
def readCmd (s : State) (q i : Nat) (x : HostRead) : State × Nat × Bytes :=
  let b := s.base (Reg.LDG_AQ_SQ_BASE_LO q)
  if bit b 63 then
    if !s.hostOpen then (s.blocked, St.uncorrectable, [])
    else match x with
      | .data bs => (s, St.ok, padTo 128 bs)
      | .poisoned => (s, St.poisoned, [])
      | .timeout => (s, St.uncorrectable, [])
  else s.readMem (b + 128 * i) 128

/-- The next command of queue q: ring slot, status of its read, bytes. At WALK an ADMIT is passed over; afterwards passed
ADMITs come first (R144). -/
def nextCmd (q : Nat) (x : HostRead) : Nat → State → State × Option (Nat × Nat × Bytes)
  | 0, s => (s, none)
  | fuel + 1, s =>
    let y := s.aq q
    let n := 2 ^ s.fld (Reg.LDG_AQ_CTRL q) F.LDG_AQ_CTRL_SQ_LOG2
    match s.walk, y.passed with
    | false, i :: rest =>
      let (s, st, c) := readCmd s q i x
      (s.updAq q fun y => { y with passed := rest }, some (i, st, c))
    | w, _ =>
      if y.head % n = y.tail % n then (s, none)
      else
        let i := y.head % n
        let (s, st, c) := readCmd s q i x
        let s := s.updAq q fun y => { y with head := (i + 1) % n }
        if w ∧ st = St.ok ∧ Lc.op c = Lc.opAdmit then
          let s := s.updAq q fun y => { y with passed := y.passed ++ [i] }
          if bit (s.base (Reg.LDG_AQ_SQ_BASE_LO q)) 63 then (s, none) else nextCmd q x fuel s
        else (s, some (i, st, c))

/-- The ledger may take a command from queue q. -/
def mayTake (s : State) (q : Nat) : Bool :=
  s.flag Reg.LDG_CTRL F.LDG_CTRL_ADMIT_EN && s.flag (Reg.LDG_AQ_CTRL q) F.LDG_AQ_CTRL_EN && !cqFull s q &&
    (s.aq q).held.isEmpty

/-- Take the next command of queue q if its OP is `want`, or if it is one that fails whatever its OP (R144, R145). -/
def takeCmd (s : State) (q : Nat) (x : HostRead) (want : Nat) (run : State → Nat → Bytes → State) : State :=
  if !mayTake s q then s
  else match nextCmd q x 4096 s with
    | (s, none) => s
    | (s', some (_, st, c)) =>
      if st ≠ St.ok then cqPut s' q (cqEntry 0 st 0 0 0 0 0 0 0 0)
      else if s.role ≠ roleC ∨ Lc.reserved c then cqPut s' q (cqEntry (Lc.tag c) St.rights (Lc.op c) 0 0 0 0 0 0 0)
      else if Lc.op c = want then run s' q c
      else s

/-- An ADMIT command (R145). -/
def execLdgAdmit (queue : Fin 64) (read : HostRead) (s : State) : Res := .next (s.ifRuns (takeCmd s queue read Lc.opAdmit doAdmit))
/-- A CANCEL command (R135). -/
def execLdgCancelCmd (queue : Fin 64) (read : HostRead) (s : State) : Res := .next (s.ifRuns (takeCmd s queue read Lc.cancel doCancel))
/-- A RETARGET command (R122). -/
def execRetarget (queue : Fin 64) (read : HostRead) (s : State) : Res := .next (s.ifRuns (takeCmd s queue read Lc.retarget doRetarget))
/-- A WHO_OWNS command (R129). -/
def execLdgWhoOwnsCmd (queue : Fin 64) (read : HostRead) (s : State) : Res :=
  .next (s.ifRuns (takeCmd s queue read Lc.whoOwns doWhoOwns))

/-- SQ_TAIL doorbell of queue q (R144, R274). -/
def aqTail (s : State) (q v : Nat) : State :=
  s.updAq q fun y => { y with tail := v % 2 ^ s.fld (Reg.LDG_AQ_CTRL q) F.LDG_AQ_CTRL_SQ_LOG2 }

/-- CQ_HEAD doorbell of queue q: held entries are written (R144). -/
def aqHead (s : State) (q v : Nat) : State :=
  let s := s.updAq q fun y => { y with cqHead := v % 2 ^ s.fld (Reg.LDG_AQ_CTRL q) F.LDG_AQ_CTRL_CQ_LOG2 }
  cqFlush ((s.aq q).held.length + (s.aq q).notices.length) s q

/-- A write of LDG_AQq CTRL: EN from 0 to 1 resets both rings. -/
def aqCtrl (s : State) (q data : Nat) : State :=
  let was := s.flag (Reg.LDG_AQ_CTRL q) F.LDG_AQ_CTRL_EN
  let s := s.rawWrite (Reg.LDG_AQ_CTRL q) data
  if !was && s.flag (Reg.LDG_AQ_CTRL q) F.LDG_AQ_CTRL_EN then s.updAq q fun _ => {} else s

/-! ### Ingest and decode duty (R146) -/

/-- Stalls of a team's span, ascending. -/
def State.spanStalls (s : State) (team : Nat) : List Nat :=
  match s.teamSlot team with
  | some k => (List.range 128).filter fun n => bit (s.fld (Reg.TEM_TEAM_SPAN k) F.TEM_TEAM_SPAN_GROUPS) (n / 8)
  | none => []

/-- A stall's duty is to become `d`; the change waits for the items that run now (R41). -/
def setDuty (s : State) (n : Nat) (d : Duty) : State :=
  let now := s.dutyNow n
  if (s.stall n).dutyNext = some d then s
  else s.updStall n fun t => { t with
    duty := now, dutyNext := if now = d then none else some d,
    dutyWait := (s.work n).run.map (·.item.ord) ++ ((s.work n).appends.filter (·.run.isSome)).map (·.ord) }

/-- The highest-numbered `i` stalls of a span take INGEST duty, the others DECODE. -/
def applySplit (s : State) (team i : Nat) : State :=
  let l := s.spanStalls team
  forEach l.zipIdx s fun s (n, k) => setDuty s n (if l.length ≤ k + i then .ingest else .decode)

/-- Split state of entry t. -/
def State.split (s : State) (t : Nat) : Split := s.ldg.splits.getD t {}

/-- Change the split state of entry t. -/
def State.setSplit (s : State) (t : Nat) (x : Split) : State := s.updLdg fun l => { l with splits := l.splits.put t x }

/-- A write of LDG_TEAMt (R146): enabling the entry on a C-role module sets the initial ingest count. -/
def ldgTeamWrite (s : State) (t data : Nat) : State :=
  let o := Reg.LDG_TEAM t
  let was := s.flag o F.LDG_TEAM_EN
  let old := s.reg o
  let imin := bits data 20 16
  let imax := bits data 25 21
  let keep := fun (x : Nat) => setBits (setBits x 31 31 (bits data 31 31)) 15 12 (bits data 15 12)
  let new := if was then keep old
    else
      let v := setBits (setBits (keep old) 30 30 (bits data 30 30)) 11 0 (bits data 11 0)
      let v := if imax ≤ 16 then setBits v 25 21 imax else v
      if imin ≤ bits v 25 21 then setBits v 20 16 imin else v
  let s := s.setReg o new
  if was || !s.flag o F.LDG_TEAM_EN || s.role != roleC then s
  else
    let team := s.fld o F.LDG_TEAM_TEAM
    let i := min (8 * s.fld o F.LDG_TEAM_IMIN) (s.spanStalls team).length
    applySplit (s.setSplit t { i := i, start := s.now, sampled := s.now }) team i

/-- A write that enables an LDG_TEAM entry (R146). -/
def execLdgTeamEnable (entry : Fin 16) (data : Word) (s : State) : Res := .next (ldgTeamWrite s entry data.toNat)

/-- Every 1 µs, 1,000 ticks, the queues of an enabled entry's span stalls are summed (R146). -/
def dutySample (s : State) : State :=
  if s.role ≠ roleC then s
  else forEach (List.range 16) s fun s t =>
    if !s.flag (Reg.LDG_TEAM t) F.LDG_TEAM_EN || decide (s.now < (s.split t).sampled + 1000) then s
    else
      let l := s.spanStalls (s.fld (Reg.LDG_TEAM t) F.LDG_TEAM_TEAM)
      let a := l.foldl (fun x n => x + (s.work n).appends.length) 0
      let q := l.foldl (fun x n => x + (s.work n).att.length) 0
      let x := s.split t
      s.setSplit t { x with a := x.a + a, q := x.q + q, n := x.n + 1, sampled := s.now }

/-- A duty sample (R146). -/
def execDutySample (s : State) : Res := .next (dutySample s)

/-- The new ingest count of R146's procedure. -/
def splitNext (x : Split) (st imin imax hyst : Nat) : Nat :=
  let lo := min (8 * imin) st
  let hi := min (8 * imax) st
  let h := hyst * x.n * st
  if x.q + h < x.a ∧ x.i + 8 ≤ hi then x.i + 8
  else if x.a + h < x.q ∧ lo + 8 ≤ x.i then x.i - 8
  else if x.i < lo then lo
  else if hi < x.i then hi
  else x.i

/-- The ingest count of entry t is adjusted at the end of its period (R146). -/
def dutyAdjust (s : State) (t : Nat) : State :=
  let o := Reg.LDG_TEAM t
  let x := s.split t
  if s.role ≠ roleC ∨ !s.flag o F.LDG_TEAM_EN ∨ s.now < x.start + s.reg Reg.LDG_SPLIT_PERIOD then s
  else
    let team := s.fld o F.LDG_TEAM_TEAM
    let n := (s.spanStalls team).length
    let i := if s.flag Reg.LDG_CTRL F.LDG_CTRL_SPLIT_EN then
        splitNext x n (s.fld o F.LDG_TEAM_IMIN) (s.fld o F.LDG_TEAM_IMAX) (s.fld o F.LDG_TEAM_HYST)
      else x.i
    let s := s.setSplit t { i := i, start := s.now, sampled := x.sampled }
    if i = x.i then s
    else (applySplit s team i).raise Tag.ldg 0x0003 Sev.info team [x.i, i, n % 256, n / 256]

/-- The duty split of an entry is adjusted (R146). -/
def execDutySplitAdjust (entry : Fin 16) (s : State) : Res := .next (dutyAdjust s entry)

end Sys2Proof.Machine
end

