-- ==== Sys2Proof/Machine/Owner.lean ====
section
/-!
DEFINITION. Machine/Owner.lean: owner contexts and the finisher (R125, R128–R142): GRANT, COMMIT, REVERT and OWNER_IS at a
module, steps, the stop check, token records and the token array.
-/
namespace Sys2Proof.Machine

/-! ### Contexts -/

/-- The context of a handle. -/
def State.ctx (s : State) (h : Nat) : Option OwnerCtx := s.ldg.ctxs.find? (·.handle == h)

/-- Replace the context of its handle. -/
def State.setCtx (s : State) (c : OwnerCtx) : State :=
  s.updLdg fun l => { l with ctxs := replaceIf (·.handle == c.handle) (fun _ => c) l.ctxs }

/-- Discard the context of a handle. -/
def State.dropCtx (s : State) (h : Nat) : State := s.updLdg fun l => { l with ctxs := l.ctxs.filter (·.handle != h) }

/-- Offset of a place of the context table (R131). -/
def State.ctxOff (s : State) (place : Nat) : Nat := s.base Reg.LDG_CTX_BASE_LO + 2048 * place

/-! ### Stop check (R140) -/

/-- E[j] for token t. -/
def stopMask (stop : Bytes) (j t : Nat) : Nat :=
  (List.range (fld stop (2 + j) 1)).foldl (fun m i => m + b2n (fld stop (128 + 128 * j + 4 * i) 4 == t) * 2 ^ i) 0

/-- The match states after token t. -/
def stopStep (stop : Bytes) (d : List Nat) (t : Nat) : List Nat :=
  d.zipIdx.map fun (x, j) => (x * 2 % 2 ^ 32 ||| 1) &&& stopMask stop j t

/-- REASON after a committed token: 1 STOP_TOKEN, 2 STOP_SEQ, 3 MAX_TOKENS, 0 none. -/
def stopReason (stop : Bytes) (d : List Nat) (t ngen maxNew : Nat) : Nat :=
  if (List.range (fld stop 0 1)).any fun i => fld stop (64 + 4 * i) 4 == t then 1
  else if (List.range (fld stop 1 1)).any fun j => bit (d.getD j 0) (fld stop (2 + j) 1 - 1) then 2
  else if ngen = maxNew then 3
  else 0

/-! ### Streaming (R141, R142) -/

/-- A record for a front-end batch: FE and the record without PHASE. -/
abbrev Batched := List (Nat × Bytes)

/-- The finisher streams per step for a team (R141). -/
def perStep (s : State) (team : Nat) : Bool :=
  let batch := (List.range 16).any fun t =>
    s.fld (Reg.LDG_TEAM t) F.LDG_TEAM_TEAM == team && s.flag (Reg.LDG_TEAM t) F.LDG_TEAM_EN &&
      s.flag (Reg.LDG_TEAM t) F.LDG_TEAM_BATCH
  let g := match s.teamSlot team with
    | some k => s.fld (Reg.TEM_TEAM_PORTS k) F.TEM_TEAM_PORTS_GCOUNT
    | none => 0
  batch || decide (64 < g)

/-- Write one batch of at most 127 records to front-end FE (Table LDG-12). -/
def putBatch (s : State) (team fe : Nat) (rs : List Bytes) : State :=
  let b := s.ldg.batches.getD fe 0
  let cfg := Reg.LDG_FE_CFG fe
  let log2 := s.fld cfg F.LDG_FE_CFG_LOG2
  let node := s.fld cfg F.LDG_FE_CFG_NODE
  let ph := passPhase b log2
  let s := s.updLdg fun l => { l with batches := l.batches.put fe (wrap32 (b + 1)) }
  if node = noNode16 then s
  else
    let head := toLE 2 s.node ++ toLE 2 rs.length ++ toLE 4 b ++ toLE 8 s.now ++ toLE 1 (b2n ph) ++ zeros 15
    let body := rs.flatMap fun r => patch r 22 (toLE 1 (Machine.fld r 22 1 / 2 * 2 + b2n ph))
    s.sendPut node team (s.base (Reg.LDG_FE_BASE_LO fe) + b % 2 ^ log2 * 4096) (head ++ body) .control

/-- Write gathered records, one batch per front-end in the order of their first records. -/
def putBatches (s : State) (team : Nat) : Nat → Batched → State
  | 0, _ => s
  | fuel + 1, bs => match bs with
    | [] => s
    | (fe, _) :: _ =>
      let mine := (bs.filter (·.1 == fe)).map (·.2)
      putBatches (putBatch s team fe (mine.take 127)) team fuel
        ((mine.drop 127).map (fun r => (fe, r)) ++ bs.filter (·.1 != fe))

/-- emit of R134: one token record, at once in per-token mode and gathered in per-step mode. -/
def emitToken (s : State) (c : OwnerCtx) (tok : Nat) (ended : Bool) (status reason : Nat) (bs : Batched) : State × Batched :=
  let n := Lr.ngen c.record
  let idx := if tok = noToken then 0 else n
  let p := if tok = noToken then n + 1 else n
  let st := if ended then status else St.ok
  let mk := tokenRec s c.handle tok idx c.step st (if ended then reason else 0) ended
  if perStep s (hTeam c.handle) then (s, bs ++ [(Lr.fe c.record, mk false)])
  else (streamRec s c.record p mk, bs)

/-- A FINAL record without a token, written directly (R136, R142). -/
def ownerFinal (s : State) (c : OwnerCtx) (status : Nat) : State :=
  let (s, bs) := emitToken s c noToken true status 0 []
  putBatches s (hTeam c.handle) (bs.length + 1) bs

/-- Line `k` of the token array at the home is written, entries beyond `toks` filled with ones (R142). -/
def putTokens (s : State) (c : OwnerCtx) (k : Nat) (toks : List Nat) : State :=
  let r := c.record
  let off := Lr.tokens r + 64 * ceilDiv (Lr.promptLen r) 16 + 64 * k
  s.sendStore (hHome c.handle) (hTeam c.handle) off ((List.range 16).flatMap fun i => toLE 4 (toks.getD i noToken)) .control

/-- A token is committed: count, line, and the full line written. -/
def commitToken (s : State) (c : OwnerCtx) (tok : Nat) : State × OwnerCtx :=
  let n := (Lr.ngen c.record + 1) % 2 ^ 32
  let c := { c with record := Lr.setNgen c.record n, line := c.line ++ [tok], d := stopStep c.stop c.d tok }
  let s := s.bump Reg.LDG_TOKENS
  if c.line.length < 16 then (s, c) else (putTokens s c (n / 16 - 1) c.line, { c with line := [] })

/-! ### Offers -/

/-- Send a context's OFFER: it stops acting and waits (R125). -/
def sendOffer (s : State) (c : OwnerCtx) (f : LdgFields) : State :=
  let f := { f with seq := c.seq, ngen := Lr.ngen c.record }
  let m := ldgMsg s.node Lm.offer c.handle f
  let s := s.setCtx { c with acting := false, offer := some (f.target, m), offerAt := s.now }
  s.sendMsg (hHome c.handle) Op.ledger (hTeam c.handle) 0xFF m

/-- OFFER naming the home: the final part-line first (R142). -/
def offerHome (s : State) (c : OwnerCtx) (status reason : Nat) : State :=
  let s := if c.line.isEmpty then s else putTokens s c (Lr.ngen c.record / 16) c.line
  sendOffer s c { target := hHome c.handle, endStatus := status, reason := reason }

/-- CANCEL_REPLY (R135). -/
def sendCancelReply (s : State) (c : OwnerCtx) (status : Nat) : State :=
  sendLdg s (hHome c.handle) Lm.cancelReply c.handle { status := status, seq := c.seq }

/-! ### Steps (R133–R137) -/

/-- step_end of R134 at a G owner. -/
def stepEnd (s : State) (c : OwnerCtx) (status token : Nat) (bs : Batched) : State × Batched :=
  let c := { c with step := (c.step + 1) % 2 ^ 32 }
  let take := status == St.ok && token != noToken
  let (s, c) := if take then commitToken s c token else (s, c)
  let tok := if take then token else noToken
  let why := if take then stopReason c.stop c.d token (Lr.ngen c.record) (Lr.maxNew c.record) else 0
  let (ended, st) := if status ≠ St.ok then (true, status) else (decide (why ≠ 0), St.ok)
  let s := if c.cancel then sendCancelReply s c (if ended then St.noEffect else St.ok) else s
  let (ended, st) := if c.cancel && !ended then (true, St.cancelled) else (ended, st)
  let c := { c with cancel := false }
  let late := match c.deadline with
    | some t => decide (t ≤ s.now)
    | none => false
  let (ended, st) := if !ended && late then (true, St.deadline) else (ended, st)
  let (s, bs) := emitToken s c tok ended st why bs
  (if ended then offerHome s c st why else s.setCtx c, bs)

/-- A P owner resolves the end of prefill (R137). -/
def prefillEnd (s : State) (c : OwnerCtx) (status token target : Nat) : State :=
  let late := match c.deadline with
    | some t => decide (t ≤ s.now)
    | none => false
  let st := if status ≠ St.ok then status else if c.cancel then St.cancelled else if late then St.deadline else St.ok
  let s := if c.cancel then sendCancelReply s c (if status ≠ St.ok then St.noEffect else St.ok) else s
  let c := { c with cancel := false }
  if st = St.ok then sendOffer s c { target := target, token := token }
  else offerHome (ownerFinal s c st) c st 0

/-- A context whose lines are bad is lost: the request ends with UNCORRECTABLE and no token (Table FAR-3). -/
def ctxLost (s : State) (c : OwnerCtx) (status : Nat) : State :=
  let s := s.structLost Tag.ldg status c.place
  offerHome (ownerFinal s c St.uncorrectable) c St.uncorrectable 0

/-- The acting context of a handle, its lines read. -/
def actingCtx (s : State) (h : Nat) : State × Option OwnerCtx :=
  match s.ctx h with
  | none => (s, none)
  | some c =>
    if !c.acting then (s, none)
    else
      let (s, st, _) := touchLines (linesOf (s.ctxOff c.place) 2048) s 0
      if st = St.ok then (s, some c) else (ctxLost s c st, none)

/-- One commit entry (Table LDG-8); the flag says whether one of the message has been dropped before. -/
def stepEntry (s : State) (e : Bytes) (dropped : Bool) (bs : Batched) : State × Bool × Batched :=
  let h := fld e 0 8
  let pre := bit (fld e 11 1) 0
  let (s, c) := actingCtx s h
  let drop := fun (s : State) =>
    let s := s.bump Reg.LDG_STALE
    let q := Machine.fld e 8 2
    (if dropped then s else s.raise Tag.ldg 0x0005 Sev.info h [Lm.step, 0, q % 256, q / 256], true, bs)
  match c with
  | none => drop s
  | some c =>
    if Machine.fld e 8 2 ≠ c.seq ∨ (!pre ∧ Machine.fld e 16 4 ≠ (c.step + 1) % 2 ^ 32) then drop s
    else if pre then
      if s.role = roleP then (prefillEnd s c (Machine.fld e 10 1) (Machine.fld e 12 4) (Machine.fld e 20 2), dropped, bs)
      else drop s
    else if s.role = roleG then
      let (s, bs) := stepEnd s c (Machine.fld e 10 1) (Machine.fld e 12 4) bs
      (s, dropped, bs)
    else drop s

/-- A STEP message: entries in order, then the gathered records (R133, R141). -/
def takeStep (s : State) (m : Msg) : State :=
  let n := Lm.nent m.data
  let (s, _, bs) := forEach (List.range n) (s, false, ([] : Batched)) fun (s, dropped, bs) i =>
    stepEntry s (slice m.data (64 + 32 * i) 32) dropped bs
  putBatches s m.team (bs.length + 1) bs

/-- A STEP message is taken while FIN_EN is 1 (R133). -/
def stepRow (s : State) : State :=
  if !s.flag Reg.LDG_CTRL F.LDG_CTRL_FIN_EN then s
  else match s.takeLdg Lm.step with
    | some (m, s) => takeStep s m
    | none => s

/-- The command as a step. -/
def execStep (s : State) : Res := .next (s.ifRuns (stepRow s))

/-! ### GRANT, COMMIT, REVERT, OWNER_IS, CANCEL -/

/-- Draws for a list whose values the model does not know, each below its bound. -/
def drawList : List Nat → State → List Nat → State × List Nat
  | [], s, acc => (s, acc)
  | b :: bs, s, acc =>
    let (r, s) := s.draw
    drawList bs s (acc ++ [r % b])

/-- Bounds of the match states: D[j] has bits below SLEN[j] only, and none for a sequence that is not there (R140). -/
def stopBounds (stop : Bytes) : List Nat :=
  (List.range 8).map fun j => if j < fld stop 1 1 then 2 ^ fld stop (2 + j) 1 else 1

/-- Install a context from a GRANT: the record and the stop block as granted (R130–R132). A request already generating brings match
states and a part-line of its last owner, which the GRANT does not carry: they are open values. -/
def installCtx (s : State) (m : Msg) : State :=
  let h := Lm.handle m.data
  let r := slice m.data 64 128
  let stop := slice m.data 192 1152
  let n := Lr.ngen r
  let (s, place) := s.drawFrom ((List.range 65536).filter fun i => !(s.ldg.ctxs.any (·.place == i)))
  let (s, d) := if n = 0 then (s, List.replicate 8 0) else drawList (stopBounds stop) s []
  let (s, line) := drawList (List.replicate (n % 16) (2 ^ 32)) s []
  let rem := Lm.remain m.data
  let c : OwnerCtx :=
    { handle := h, place := place.getD 0, record := r, stop := stop, d := d, step := 2 ^ 32 - 1, seq := Lm.seq m.data,
      deadline := if rem = 2 ^ 64 - 1 then none else some (s.now + rem), line := line, heard := s.now }
  let s := s.poke (s.ctxOff c.place) (padTo 2048 (c.record ++ c.stop))
  s.updLdg fun l => { l with ctxs := l.ctxs.filter (·.handle != h) ++ [c] }

/-- GRANT at a module (R128, R130). -/
def takeGrant (s : State) (m : Msg) : State :=
  let h := Lm.handle m.data
  let seq := Lm.seq m.data
  let phase := Lr.phase (slice m.data 64 128)
  let say := fun (s : State) (kind status : Nat) => sendLdg s m.src kind h { status := status, seq := seq }
  let old := s.ctx h
  match old with
  | some c =>
    if isNewer 16 seq c.seq then
      if s.role ≠ phase ∨ (s.ldgTeam (hTeam h)).isNone then say s Lm.refuse St.rights
      else say (installCtx s m) Lm.accept St.ok
    else say (s.setCtx { c with heard := s.now }) Lm.accept St.ok
  | none =>
    if s.role ≠ phase then say s Lm.refuse St.rights
    else if 65536 ≤ s.ldg.ctxs.length then say s Lm.refuse St.bounds
    else if (s.ldgTeam (hTeam h)).isNone then say s Lm.refuse St.rights
    else say (installCtx s m) Lm.accept St.ok

/-- A GRANT message (R128). -/
def grantRow (s : State) : State :=
  match s.takeLdg Lm.grant with
  | some (m, s) => takeGrant s m
  | none => s

/-- The command as a step. -/
def execGrant (s : State) : Res := .next (s.ifRuns (grantRow s))

/-- COMMIT at a module (R125, R131, R134). -/
def takeCommit (s : State) (m : Bytes) : State :=
  match s.ctx (Lm.handle m) with
  | none => s
  | some c =>
    if Lm.target m = s.node ∧ hHome c.handle ≠ s.node then
      if Lm.seq m ≠ c.seq ∨ c.offer.isSome ∨ c.acting then s.setCtx { c with heard := s.now }
      else
        let c := { c with acting := true, heard := s.now }
        let s := s.setCtx c
        if s.role = roleG then
          let (s, bs) := stepEnd s c St.ok (Lr.firstToken c.record) []
          putBatches s (hTeam c.handle) (bs.length + 1) bs
        else s
    else if isNewer 16 (Lm.seq m) c.seq then s.dropCtx c.handle
    else s.setCtx { c with heard := s.now }

/-- A COMMIT message (R125). -/
def ldgCommitRow (s : State) : State :=
  match s.takeLdg Lm.commit with
  | some (m, s) => takeCommit s m.data
  | none => s

/-- The command as a step. -/
def execLdgCommit (s : State) : Res := .next (s.ifRuns (ldgCommitRow s))

/-- REVERT at a module: its context is discarded unless it is of a later grant (R127, R131). -/
def takeRevert (s : State) (m : Bytes) : State :=
  match s.ctx (Lm.handle m) with
  | none => s
  | some c => if isNewer 16 c.seq (Lm.seq m) then s.setCtx { c with heard := s.now } else s.dropCtx c.handle

/-- A REVERT message (R127). -/
def revertRow (s : State) : State :=
  match s.takeLdg Lm.revert with
  | some (m, s) => takeRevert s m.data
  | none => s

/-- The command as a step. -/
def execRevert (s : State) : Res := .next (s.ifRuns (revertRow s))

/-- The request has been this module's and its FINAL record is still to be written: it acts, or has offered it to another owner
(R142). -/
def finalDue (c : OwnerCtx) : Bool :=
  c.acting || match c.offer with
    | some (t, _) => t != hHome c.handle
    | none => false

/-- A context is given up, with the FINAL record if that is still due (R142). -/
def abandonCtx (s : State) (c : OwnerCtx) (status : Nat) : State :=
  (if finalDue c then ownerFinal s c status else s).dropCtx c.handle

/-- OWNER_IS at a module (R128, R129, Table FAR-3): one that keeps the context ends the retries of its OFFER. -/
def takeOwnerIs (s : State) (m : Bytes) : State :=
  match s.ctx (Lm.handle m) with
  | none => s
  | some c =>
    if Lm.status m = St.uncorrectable then abandonCtx s c St.uncorrectable
    else if isNewer 16 c.seq (Lm.seq m) then s
    else if Lm.target m ≠ s.node ∨ isOlder 16 c.seq (Lm.seq m) then s.dropCtx c.handle
    else if c.offer.isSome then s.setCtx { c with offerOver := true }
    else s

/-- An OWNER_IS message (R129). -/
def ownerIsRow (s : State) : State :=
  match s.takeLdg Lm.ownerIs with
  | some (m, s) => takeOwnerIs s m.data
  | none => s

/-- The command as a step. -/
def execOwnerIs (s : State) : Res := .next (s.ifRuns (ownerIsRow s))

/-- CANCEL at a module (R135). -/
def takeCancel (s : State) (m : Bytes) : State :=
  let h := Lm.handle m
  let refuse := sendLdg s (Lm.src m) Lm.refuse h { status := St.epochStale, seq := Lm.seq m }
  match s.ctx h with
  | none => refuse
  | some c =>
    if Lm.seq m ≠ c.seq then refuse
    else match c.offer with
      | some (t, _) => if t = hHome h then sendCancelReply s c St.noEffect else s.setCtx { c with cancel := true }
      | none => s.setCtx { c with cancel := true }

/-- A CANCEL message (R135). -/
def ldgCancelRow (s : State) : State :=
  match s.takeLdg Lm.cancel with
  | some (m, s) => takeCancel s m.data
  | none => s

/-- The command as a step. -/
def execLdgCancel (s : State) : Res := .next (s.ifRuns (ldgCancelRow s))

/-! ### Timers of an owner -/

/-- The first unanswered OFFER due is sent again (R128). -/
def offerAgain (s : State) : State :=
  match s.ldg.ctxs.find? fun c => c.offer.isSome && !c.offerOver && decide (c.offerAt + s.reg Reg.LDG_ESCROW_RETRY ≤ s.now) with
  | none => s
  | some c => match c.offer with
    | some (_, m) =>
      (s.setCtx { c with offerAt := s.now }).sendMsg (hHome c.handle) Op.ledger (hTeam c.handle) 0xFF m
    | none => s

/-- OFFER retry (R128). -/
def execOfferRetry (s : State) : Res := .next (s.ifRuns (offerAgain s))

/-- The first context that has been silent sends WHO_OWNS (R128). -/
def silentCtx (s : State) : State :=
  let w := s.reg Reg.LDG_ESCROW_TMO + 2 * s.reg Reg.LDG_ESCROW_RETRY
  match s.ldg.ctxs.find? fun c => decide (c.heard + w ≤ s.now) with
  | none => s
  | some c => sendLdg (s.setCtx { c with heard := s.now }) (hHome c.handle) Lm.whoOwns c.handle { seq := c.seq }

/-- A silent context (R128). -/
def execContextSilence (s : State) : Res := .next (s.ifRuns (silentCtx s))

/-- The first acting context whose deadline grace has run out ends with DEADLINE and no token (R136). -/
def graceOut (s : State) : State :=
  match s.ldg.ctxs.find? fun c => c.acting && match c.deadline with
    | some t => decide (t + s.reg Reg.LDG_DEADLINE_GRACE ≤ s.now)
    | none => false with
  | none => s
  | some c =>
    let s := offerHome (ownerFinal s c St.deadline) c St.deadline 0
    let n := Lr.ngen c.record
    s.raise Tag.ldg 0x0006 Sev.contained c.handle [n % 256, n / 256 % 256, n / 65536 % 256, n / 16777216]

/-- Deadline grace (R136). -/
def execDeadlineGraceExpiry (s : State) : Res := .next (s.ifRuns (graceOut s))

/-! ### A team ends (Table TEM-5) -/

/-- Effects of END on the ledger's records, entries and contexts. -/
def ldgTeamEnded (s : State) (team lost : Nat) : State :=
  let s := forEach (s.ldg.homes.map (·.1)) s fun s k =>
    let (s, st, r) := readRec s k
    if st ≠ St.ok ∨ hTeam (Lr.handle r) ≠ team then s
    else if Lr.state r = Lr.lookup ∨ Lr.state r = Lr.held ∨ Lr.state r = Lr.escrow then toClosing s k r St.memberLost 0 true
    else if Lr.state r = Lr.prefill ∨ Lr.state r = Lr.decode then s.updHome k fun h => { h with lostAt := some s.now }
    else s
  let s := forEach (List.range 16) s fun s t =>
    if s.fld (Reg.LDG_TEAM t) F.LDG_TEAM_TEAM = team then s.setFld (Reg.LDG_TEAM t) F.LDG_TEAM_EN 0 else s
  let mine := s.ldg.ctxs.filter fun c => hTeam c.handle == team
  forEach mine s fun s c =>
    if hHome c.handle = lost then abandonCtx s c St.memberLost
    else match c.offer with
      | some (t, _) => if t = hHome c.handle then s else s.dropCtx c.handle
      | none => s.dropCtx c.handle

end Sys2Proof.Machine
end

