-- ==== Sys2Proof/Machine/Tem.lean ====
section
/-!
DEFINITION. Machine/Tem.lean: teams (R212–R232): staged maps, changes at the coordinating member and at members, the
map-epoch rule, the loss of a member, and shared regions.
-/
namespace Sys2Proof.Machine

/-- Change the team state. -/
def State.updTem (s : State) (f : Teams → Teams) : State := { s with tem := f s.tem }

/-! ### Team messages (Table TEM-3) -/

namespace Tm
def prepare : Nat := 0x01
def ready : Nat := 0x02
def commit : Nat := 0x03
def done : Nat := 0x04
def abort : Nat := 0x05
def probe : Nat := 0x06
def probeAck : Nat := 0x07
def teamEnd : Nat := 0x08
def publish : Nat := 0x09
def pubDone : Nat := 0x0A
def rread : Nat := 0x0B
def rreadDone : Nat := 0x0C
def kind (m : Bytes) : Nat := fld m 0 1
def status (m : Bytes) : Nat := fld m 1 1
def team (m : Bytes) : Nat := fld m 2 2 % 4096
def epoch (m : Bytes) : Nat := fld m 4 1
def region (m : Bytes) : Nat := fld m 5 1
def src (m : Bytes) : Nat := fld m 6 2
def node (m : Bytes) : Nat := fld m 8 2
def version (m : Bytes) : Nat := fld m 12 4
def slot (m : Bytes) : Nat := fld m 18 2 % 16
def tag (m : Bytes) : Nat := fld m 20 4
def reply (m : Bytes) : Nat := fld m 24 8
def addr (m : Bytes) : Nat := fld m 32 8
end Tm

/-- The fields of a team message header that a KIND may use. -/
structure TemFields where
  status : Nat := 0
  epoch : Nat := 0
  region : Nat := 0
  node : Nat := 0
  mask : Nat := 0
  version : Nat := 0
  pubnode : Nat := 0
  slot : Nat := 0
  tag : Nat := 0
  reply : Nat := 0
  addr : Nat := 0
  deriving DecidableEq, Repr

/-- A team message header. -/
def temMsg (src kind team : Nat) (f : TemFields) : Bytes :=
  toLE 1 kind ++ toLE 1 f.status ++ toLE 2 team ++ toLE 1 f.epoch ++ toLE 1 f.region ++ toLE 2 src ++ toLE 2 f.node ++
    toLE 2 f.mask ++ toLE 4 f.version ++ toLE 2 f.pubnode ++ toLE 2 f.slot ++ toLE 4 f.tag ++ toLE 8 f.reply ++
    toLE 8 f.addr ++ zeros 24

/-- Send a team message. -/
def sendTem (s : State) (node kind team : Nat) (f : TemFields) : State :=
  s.sendMsg node Op.team team 0xFF (temMsg s.node kind team f)

/-- The first team message of a KIND in the inbox. -/
def State.takeTem (s : State) (kind : Nat) : Option (Msg × State) :=
  s.takeMsg fun m => m.op == Op.team && Tm.kind m.data == kind

/-! ### Spans -/

/-- GROUPS of a team's span here; none without an entry. -/
def State.spanGroups (s : State) (team : Nat) : Nat :=
  match s.teamSlot team with
  | some k => s.fld (Reg.TEM_TEAM_SPAN k) F.TEM_TEAM_SPAN_GROUPS
  | none => 0

/-- R169 on a range: wholly below the end of local HBM, every byte homed in the span. -/
def rangeInSpan (groups o n : Nat) : Bool :=
  decide (o + n ≤ hbmBytes) && (n == 0 || (rangeFrom (homeStall o) (homeStall (o + n - 1) + 1 - homeStall o)).all fun k =>
    bit groups (k / 8))

/-! ### Staged maps (Tables TEM-1, TEM-2) -/

/-- Read the staged map of a slot: status of the read, the map, and whether its values keep to Table TEM-1. -/
def readMap (s : State) (slot : Nat) : State × Nat × TeamMap × Bool :=
  let o := s.base Reg.TEM_MAP_BASE_LO + slot * 0x10000
  let none0 : TeamMap := ⟨0, 0, false, false, 0, [], 0, 0, 0, 0, []⟩
  let (s, st, h) := s.readMem o 64
  if st ≠ St.ok then (s, st, none0, false)
  else
    let nmem := Machine.fld h 6 2
    let nstub := Machine.fld h 16 2
    if nmem = 0 ∨ 8192 < nmem ∨ 256 < nstub then (s, St.ok, none0, false)
    else
      let (s, st1, ms) := s.readMem (o + 64) (2 * nmem)
      let (s, st2, ts) := s.readMem (o + 16448) (32 * nstub)
      if st1 ≠ St.ok ∨ st2 ≠ St.ok then (s, if st1 ≠ St.ok then st1 else st2, none0, false)
      else
        let k := Machine.fld h 3 1
        let groups := Machine.fld h 8 2
        let retire := Machine.fld h 10 2
        let ports := Machine.fld h 12 2
        let leave := bit k 6
        let m : TeamMap :=
          { team := Machine.fld h 0 2 % 4096, epoch := Machine.fld h 2 1, train := bit k 7, leave := leave,
            coord := Machine.fld h 4 2, members := (List.range nmem).map fun i => Machine.fld ms (2 * i) 2,
            groups := groups, retire := retire, ports := ports, gcount := Machine.fld h 14 2,
            stubs := (List.range nstub).map fun i => slice ts (32 * i) 32 }
        let ok := Machine.fld h 0 2 / 4096 == 0 && k % 64 == 0 && (slice h 18 46).all (· == 0) &&
          retire &&& groups == retire && (!leave || (groups == 0 && retire == 0 && ports == 0))
        (s, St.ok, m, ok)

namespace Stub
def type (b : Bytes) : Nat := fld b 0 1
def oldUnit (b : Bytes) : Nat := fld b 1 1
def newNode (b : Bytes) : Nat := fld b 2 2
def newUnit (b : Bytes) : Nat := fld b 4 1
def old (b : Bytes) : Nat := fld b 8 8
def new (b : Bytes) : Nat := fld b 16 8
def pages (b : Bytes) : Nat := fld b 24 4
end Stub

/-- A stub keeps to Table TEM-2 and lies in a span. -/
def stubOk (groups : Nat) (b : Bytes) : Bool :=
  slice b 5 3 == zeros 3 && slice b 28 4 == zeros 4 &&
    (if Stub.type b = 1 then
      Stub.old b % pageBytes == 0 && decide (1 ≤ Stub.pages b) && rangeInSpan groups (Stub.old b) (Stub.pages b * pageBytes)
    else
      Stub.type b == 2 && decide (Stub.oldUnit b < 128) && bit groups (Stub.oldUnit b / 8))

/-- Another team's span holds one of these groups, or will once a map that passed its checks is committed: so no two spans ever share
a group (R212). -/
def spanOverlap (s : State) (team groups : Nat) : Bool :=
  ((List.range 16).any fun k =>
    s.flag (Reg.TEM_TEAM_STATUS k) F.TEM_TEAM_STATUS_VALID && s.fld (Reg.TEM_TEAM_STATUS k) F.TEM_TEAM_STATUS_TEAM != team &&
      s.fld (Reg.TEM_TEAM_SPAN k) F.TEM_TEAM_SPAN_GROUPS &&& groups != 0) ||
    s.tem.aux.any fun x => x.1 != team &&
      ((x.2.prepared.any fun p => p.1.groups &&& groups != 0) || (x.2.waiting.any fun p => p.1.groups &&& groups != 0))

/-- No entry is free for a map of a team without one: every entry is in use, or promised to a map prepared here (R217). -/
def entriesFull (s : State) (team : Nat) (leave : Bool) : Bool :=
  let used := ((List.range 16).filter fun k => s.flag (Reg.TEM_TEAM_STATUS k) F.TEM_TEAM_STATUS_VALID).length
  let promised := (s.tem.aux.filter fun x =>
    x.1 != team && (s.teamSlot x.1).isNone && x.2.prepared.any fun p => !p.1.leave).length
  decide (16 ≤ used) || (!leave && decide (16 ≤ used + promised))

/-- The checks of a PREPARE on a map that has been read (R217). -/
def mapCheck (s : State) (team epoch coord : Nat) (m : TeamMap) (ok : Bool) : Nat :=
  let groups := s.spanGroups team
  if !ok || !m.stubs.all (stubOk groups) then St.bounds
  else if m.team ≠ team ∨ m.epoch ≠ epoch ∨ m.coord ≠ coord then St.bounds
  else if !m.members.contains coord || !m.members.contains s.node then St.bounds
  else
    let entry := match s.teamSlot team with
      | some k =>
        let st := Reg.TEM_TEAM_STATUS k
        if epoch ≠ (s.fld st F.TEM_TEAM_STATUS_EPOCH + 1) % 256 then St.epochStale
        else if s.fld st F.TEM_TEAM_STATUS_STATE = 2 ∧
            m.members.contains (s.fld (Reg.TEM_TEAM_NODES k) F.TEM_TEAM_NODES_LOST) then St.memberLost
        else St.ok
      | none => if entriesFull s team m.leave then St.bounds else St.ok
    if entry ≠ St.ok then entry
    else if (m.train ∧ s.role ≠ roleC) ∨ spanOverlap s team m.groups ∨
        (List.range 128).any (fun n => bit m.groups (n / 8) && (s.stall n).service != .inService) then St.rights
    else St.ok

/-! ### A member's part of a change (R217) -/

/-- Set a one-bit field of a team's STATUS, when it has an entry. -/
def setTeamFlag (s : State) (team : Nat) (f : Field) (v : Nat) : State :=
  match s.teamSlot team with
  | some k => s.setFld (Reg.TEM_TEAM_STATUS k) f v
  | none => s

/-- READY (R217). -/
def sendReady (s : State) (coord team epoch status : Nat) : State :=
  sendTem s coord Tm.ready team { status := status, epoch := epoch }

/-- A checked map is held as prepared and answered READY. -/
def holdPrepared (s : State) (team : Nat) (m : TeamMap) (coord : Nat) : State :=
  let s := s.updAux team fun a => { a with
    prepared := some (m, s.now), waiting := none, outcome := some (m.epoch, St.ok) }
  sendReady (setTeamFlag s team F.TEM_TEAM_STATUS_PREPARED 1) coord team m.epoch St.ok

/-- A PREPARE that has no outcome yet: the map is read and checked (R217). -/
def prepareNew (s : State) (m : Bytes) : State :=
  let team := Tm.team m
  let ep := Tm.epoch m
  let coord := Tm.src m
  let a := s.teamAux team
  if a.waiting.any fun w => w.1.epoch == ep then s
  else
    let (s, st, map, ok) := readMap s (Tm.slot m)
    let st := if st ≠ St.ok then st else mapCheck s team ep coord map ok
    if st ≠ St.ok then
      sendReady (s.updAux team fun a => { a with outcome := some (ep, st) }) coord team ep st
    else if a.old.isSome then s.updAux team fun a => { a with waiting := some (map, coord) }
    else holdPrepared s team map coord

/-- PREPARE at a member (R217): a repeated one is answered from the outcome already reached. -/
def takePrepare (s : State) (m : Bytes) : State :=
  match (s.teamAux (Tm.team m)).outcome with
  | some (e, st) => if e = Tm.epoch m then sendReady s (Tm.src m) (Tm.team m) e st else prepareNew s m
  | none => prepareNew s m

/-- Where a team's entry is, or would go. -/
def entrySlot (s : State) (team : Nat) : Option Nat :=
  match s.teamSlot team with
  | some k => some k
  | none => (List.range 16).find? fun k => !s.flag (Reg.TEM_TEAM_STATUS k) F.TEM_TEAM_STATUS_VALID

/-- Requests accepted under an epoch that wait in combining groups: they have not completed (R221). -/
def combsUnder (s : State) (team e : Nat) : Nat :=
  (s.htp.combs.flatMap fun g => g.members.filter fun p => p.team == team && p.epoch == e).length

/-- The prepared map of a team is installed (R217, R231). -/
def commitMap (s : State) (team : Nat) : State :=
  let a := s.teamAux team
  let had := (s.teamSlot team).isSome
  match a.prepared, entrySlot s team with
  | none, _ => s
  | some (m, _), slot =>
    if m.leave && !had then
      let s := s.updAux team fun a => { a with cur := some m, prepared := none, mask := 0, graceOver := true }
      (s.bump Reg.TEM_COMMITS).raise Tag.tem 0x0001 Sev.info team [0, m.epoch, 0, 0, 0, 0, 0, 0]
    else match slot with
    | none => s
    | some k =>
      let st := Reg.TEM_TEAM_STATUS k
      let oldEp := s.teamEpoch team
      let lag := had && s.flag st F.TEM_TEAM_STATUS_LAG_MOVE && s.flag st F.TEM_TEAM_STATUS_LAGGED
      let retire := if lag then m.retire ||| m.groups else m.retire
      let waits := if had then combsUnder s team oldEp else 0
      let s := forEach
        [(F.TEM_TEAM_STATUS_VALID, 1), (F.TEM_TEAM_STATUS_STATE, 1), (F.TEM_TEAM_STATUS_KIND, b2n m.train),
         (F.TEM_TEAM_STATUS_PREPARED, 0), (F.TEM_TEAM_STATUS_OLDMAP, b2n had), (F.TEM_TEAM_STATUS_EPOCH, m.epoch),
         (F.TEM_TEAM_STATUS_TEAM, team)] s fun s (f, v) => s.setFld st f v
      let s := s.setReg (Reg.TEM_TEAM_SPAN k) (m.groups + retire * 65536)
      let s := s.setFld (Reg.TEM_TEAM_NODES k) F.TEM_TEAM_NODES_COORD m.coord
      let s := s.setReg (Reg.TEM_TEAM_PORTS k) (m.ports + m.gcount * 65536)
      let s := s.updAux team fun a => { a with
        cur := some m, old := if had then a.cur else none, prepared := none, mask := retire, commitAt := s.now, graceOver := false,
        oldTally := waits, endAt := none }
      let s := s.updPace k fun a => if had then { a with runs := 0 } else { windowStart := s.nowH }
      let s := s.bump Reg.TEM_COMMITS
      let s := s.raise Tag.tem 0x0001 Sev.info team
        [oldEp, m.epoch, retire % 256, retire / 256, m.groups % 256, m.groups / 256, 0, 0]
      if lag then
        (s.setFld st F.TEM_TEAM_STATUS_LAGGED 0).raise Tag.tem 0x0005 Sev.info team
          [m.epoch, 0, m.groups % 256, m.groups / 256]
      else s

/-- DONE (R217). -/
def sendDone (s : State) (coord team epoch status mask : Nat) : State :=
  sendTem s coord Tm.done team { status := status, epoch := epoch, mask := mask }

/-- COMMIT at a member (R217). -/
def takeTemCommit (s : State) (m : Bytes) : State :=
  let team := Tm.team m
  let ep := Tm.epoch m
  let a := s.teamAux team
  if a.prepared.any fun p => p.1.epoch == ep then
    let s := commitMap s team
    if (s.teamAux team).cur.any fun c => c.epoch == ep then sendDone s (Tm.src m) team ep St.ok (s.teamAux team).mask
    else sendDone s (Tm.src m) team ep St.bounds 0
  else if a.cur.any fun c => c.epoch == ep then sendDone s (Tm.src m) team ep St.ok a.mask
  else sendDone s (Tm.src m) team ep St.epochStale 0

/-- Prepared and waiting maps of a team are discarded. -/
def dropPrepared (s : State) (team : Nat) : State :=
  let a := s.teamAux team
  let s := if a.prepared.isSome then s.bump Reg.TEM_ABORTS else s
  let s := s.updAux team fun a => { a with prepared := none, waiting := none, outcome := none }
  setTeamFlag s team F.TEM_TEAM_STATUS_PREPARED 0

/-- ABORT at a member (R217). -/
def takeAbort (s : State) (m : Bytes) : State :=
  let a := s.teamAux (Tm.team m)
  let ep := Tm.epoch m
  if (a.prepared.any fun p => p.1.epoch == ep) || (a.waiting.any fun p => p.1.epoch == ep) ||
      (a.outcome.any fun p => p.1 == ep && a.cur.all fun c => c.epoch != ep) then dropPrepared s (Tm.team m)
  else s

/-! ### The coordinating member (R216) -/

/-- A change completes: STATUS, DONE and its vector. -/
def changeDone (s : State) (status : Nat) : State :=
  let was := s.flag Reg.TEM_CHG F.TEM_CHG_DONE
  let s := s.updTem fun t => { t with change := none }
  let s := s.setFld Reg.TEM_CHG F.TEM_CHG_BUSY 0
  let s := s.setFld Reg.TEM_CHG F.TEM_CHG_STATUS status
  let s := s.setFld Reg.TEM_CHG F.TEM_CHG_DONE 1
  if was then s else s.msixRaise 18

/-- PREPARE to one member. -/
def sendPrepare (s : State) (c : Change) (node : Nat) : State :=
  sendTem s node Tm.prepare c.map.team { epoch := c.map.epoch, slot := c.slot }

/-- COMMIT to one member. -/
def sendTemCommit (s : State) (c : Change) (node : Nat) : State :=
  sendTem s node Tm.commit c.map.team { epoch := c.map.epoch }

/-- The change is aborted: ABORT to every member (R216). -/
def changeAbort (s : State) (c : Change) (status node : Nat) : State :=
  let s := forEach c.map.members s fun s n => sendTem s n Tm.abort c.map.team { epoch := c.map.epoch }
  let s := s.raise Tag.tem 0x0002 Sev.info c.map.team [status, c.map.epoch, node % 256, node / 256]
  changeDone s status

/-- GO of a change (R216). -/
def temChg (s : State) (data : Nat) : State :=
  let busy := s.flag Reg.TEM_CHG F.TEM_CHG_BUSY
  let s := s.setFld Reg.TEM_CHG F.TEM_CHG_SLOT (bits data 3 0)
  let s := if bit data 29 then s.setFld Reg.TEM_CHG F.TEM_CHG_DONE 0 else s
  if !bit data 31 || busy then s
  else
    let slot := bits data 3 0
    let (s, st, m, ok) := readMap s slot
    let s := s.setFld Reg.TEM_CHG F.TEM_CHG_BUSY 1
    if st ≠ St.ok ∨ !ok then changeDone s (if st ≠ St.ok then st else St.bounds)
    else
      let c : Change :=
        { slot := slot, map := m, members := m.members.map fun n => { node := n, sentAt := s.now }, committing := false,
          start := s.now }
      let s := s.updTem fun t => { t with change := some c }
      forEach m.members s fun s n => sendPrepare s c n

/-- A write of TEM_CHG (R216). -/
def execTemChgGo (data : Word) (s : State) : Res := .next (temChg s data.toNat)

/-- The change a message belongs to. -/
def changeOf (s : State) (m : Bytes) : Option Change :=
  match s.tem.change with
  | some c => if c.map.team = Tm.team m ∧ c.map.epoch = Tm.epoch m then some c else none
  | none => none

/-- READY at COORD (R216). -/
def takeReady (s : State) (m : Bytes) : State :=
  match changeOf s m with
  | none => s
  | some c =>
    if c.committing then s
    else if Tm.status m ≠ St.ok then changeAbort s c (Tm.status m) (Tm.src m)
    else
      let c := { c with members := replaceIf (·.node == Tm.src m) (fun x => { x with ready := some St.ok }) c.members }
      if c.members.all (·.ready.isSome) then
        let c := { c with committing := true, members := c.members.map fun x => { x with sentAt := s.now } }
        let s := s.updTem fun t => { t with change := some c }
        forEach c.map.members s fun s n => sendTemCommit s c n
      else s.updTem fun t => { t with change := some c }

/-- DONE at COORD (R216). -/
def takeDone (s : State) (m : Bytes) : State :=
  match changeOf s m with
  | none => s
  | some c =>
    if !c.committing then s
    else
      let fresh := c.members.any fun x => x.node == Tm.src m && x.done.isNone
      let bad := if fresh ∧ Tm.status m ≠ St.ok then some (c.bad.getD (Tm.status m)) else c.bad
      let c := { c with
        members := replaceIf (·.node == Tm.src m) (fun x => { x with done := some (x.done.getD (Tm.status m)) }) c.members
        bad := bad }
      if c.members.all (·.done.isSome) then changeDone s (bad.getD St.ok)
      else s.updTem fun t => { t with change := some c }

/-- A team message of a KIND is taken. -/
def onTem (s : State) (kind : Nat) (f : State → Bytes → State) : State :=
  match s.takeTem kind with
  | some (m, s) => f s m.data
  | none => s

/-- PREPARE (R217). -/
def execPrepare (s : State) : Res := .next (s.ifRuns (onTem s Tm.prepare takePrepare))
/-- READY (R216). -/
def execChgReady (s : State) : Res := .next (s.ifRuns (onTem s Tm.ready takeReady))
/-- COMMIT (R217). -/
def execTemCommit (s : State) : Res := .next (s.ifRuns (onTem s Tm.commit takeTemCommit))
/-- DONE (R216). -/
def execChgDone (s : State) : Res := .next (s.ifRuns (onTem s Tm.done takeDone))
/-- ABORT (R217). -/
def execAbort (s : State) : Res := .next (s.ifRuns (onTem s Tm.abort takeAbort))

/-- RTO of HTP_RETX. -/
def State.rto (s : State) : Nat := s.fld Reg.HTP_RETX F.HTP_RETX_RTO

/-- Members that have not answered within RTO are sent the change's message again (R216). -/
def changeRetry (s : State) (committing : Bool) : State :=
  match s.tem.change with
  | none => s
  | some c =>
    if c.committing ≠ committing then s
    else
      let due := c.members.filter fun x =>
        (if committing then x.done.isNone else x.ready.isNone) && decide (x.sentAt + s.rto ≤ s.now)
      let nodes := due.map (·.node)
      let c' := { c with members := replaceIf (fun x => nodes.contains x.node) (fun x => { x with sentAt := s.now }) c.members }
      let s := s.updTem fun t => { t with change := some c' }
      forEach nodes s fun s n => if committing then sendTemCommit s c n else sendPrepare s c n

/-- PREPARE is sent again (R216). -/
def execPrepareRetry (s : State) : Res := .next (changeRetry s false)
/-- COMMIT is sent again (R216). -/
def execCommitRetry (s : State) : Res := .next (changeRetry s true)

/-- TEM_CHG_TMO without every READY aborts the change (R216). -/
def changeTimeout (s : State) : State :=
  match s.tem.change with
  | none => s
  | some c =>
    if c.committing ∨ s.now < c.start + s.reg Reg.TEM_CHG_TMO then s
    else changeAbort s c St.memberLost (((c.members.find? (·.ready.isNone)).map (·.node)).getD 0xFFFF)

/-- Change timeout (R216). -/
def execChangeTimeout (s : State) : Res := .next (changeTimeout s)

/-! ### Grace and the old map (R219, R221) -/

/-- Teams that have an entry here. -/
def State.entryTeams (s : State) : List Nat :=
  ((List.range 16).filter fun k => s.flag (Reg.TEM_TEAM_STATUS k) F.TEM_TEAM_STATUS_VALID).map fun k =>
    s.fld (Reg.TEM_TEAM_STATUS k) F.TEM_TEAM_STATUS_TEAM

/-- TEM_GRACE has elapsed since a team's commit. -/
def graceElapsed (s : State) (team : Nat) : Bool :=
  let a := s.teamAux team
  a.graceOver || decide (a.commitAt + s.reg Reg.TEM_GRACE ≤ s.now)

/-- Grace ends for every team whose time has come (R219). -/
def execTemGraceExpiry (s : State) : Res :=
  .next (forEach s.entryTeams s fun s t =>
    if graceElapsed s t then s.updAux t fun a => { a with graceOver := true } else s)

/-- The old map of a team is freed; an entry that leaves is removed; a waiting map is prepared (R217, R221). -/
def freeOldMap (s : State) (team : Nat) : State :=
  let a := s.teamAux team
  if a.old.isNone ∨ !graceElapsed s team ∨ a.oldTally ≠ 0 then s
  else
    let s := setTeamFlag s team F.TEM_TEAM_STATUS_OLDMAP 0
    let s := s.updAux team fun a => { a with old := none }
    let s := match a.cur, s.teamSlot team with
      | some m, some k =>
        if m.leave then
          let s := forEach (List.range 4) s fun s i =>
            s.setReg (Reg.TEM_TEAM_STATUS k + 4 * i) (regReset (Reg.TEM_TEAM_STATUS k + 4 * i))
          s.updAux team fun a => { cur := a.cur, mask := a.mask, waiting := a.waiting, endSent := a.endSent }
        else s
      | _, _ => s
    match a.waiting with
    | some (m, coord) => holdPrepared s team m coord
    | none => s

/-- Old maps that may be freed are (R221). -/
def execOldMapFree (s : State) : Res := .next (forEach s.entryTeams s freeOldMap)

/-! ### Losing a member (R224–R226) -/

/-- This member ends a team on a lost node (R224, R225). -/
def endTeam (s : State) (team lost : Nat) : State :=
  match s.teamSlot team with
  | none => s
  | some k =>
    let st := Reg.TEM_TEAM_STATUS k
    if s.fld st F.TEM_TEAM_STATUS_STATE = 2 then s
    else
      let ep := s.fld st F.TEM_TEAM_STATUS_EPOCH
      let s := s.setFld st F.TEM_TEAM_STATUS_STATE 2
      let s := s.setFld (Reg.TEM_TEAM_NODES k) F.TEM_TEAM_NODES_LOST lost
      let s := s.raise Tag.tem 0x0003 Sev.contained team [0, ep, lost % 256, lost / 256]
      let s := s.bump Reg.TEM_ENDS
      let a := s.teamAux team
      let s := s.updAux team fun a => { a with endAt := some s.now }
      let s := if a.endSent.contains ep then s
        else
          let s := s.updAux team fun a => { a with endSent := a.endSent ++ [ep] }
          forEach ((s.members team).filter fun n => n != s.node && n != lost) s fun s n =>
            sendTem s n Tm.teamEnd team { epoch := ep, node := lost }
      let s := dropPrepared s team
      let s := match s.tem.change with
        | some c => if c.map.team = team then changeAbort s c St.memberLost lost else s
        | none => s
      ldgTeamEnded s team lost

/-- Every team that has a node as member ends on it (R224). -/
def nodeLost (s : State) (node : Nat) : State :=
  forEach s.entryTeams s fun s t => if (s.members t).contains node then endTeam s t node else s

/-- END at a member (R224). -/
def takeEnd (s : State) (m : Bytes) : State :=
  match s.teamSlot (Tm.team m) with
  | none => s
  | some k =>
    if isOlder 8 (Tm.epoch m) (s.fld (Reg.TEM_TEAM_STATUS k) F.TEM_TEAM_STATUS_EPOCH) then s
    else endTeam s (Tm.team m) (Tm.node m)

/-- END (R225). -/
def execTeamEnd (s : State) : Res := .next (s.ifRuns (onTem s Tm.teamEnd takeEnd))

/-- PROBE is answered whatever the teams (R224). -/
def execProbe (s : State) : Res :=
  .next (s.ifRuns (onTem s Tm.probe fun s m => sendTem s (Tm.src m) Tm.probeAck (Tm.team m) { node := Tm.node m, tag := Tm.tag m }))

/-- PROBE_ACK (R224). -/
def execProbeAck (s : State) : Res :=
  .next (s.ifRuns (onTem s Tm.probeAck fun s m => s.updTem fun t => { t with probes := t.probes.filter (·.1 != Tm.src m) }))

/-- A neighbour has been lost: when it is a member of some team here, it is probed over other routes (R224). -/
def probeNode (s : State) (node : Nat) : State :=
  match s.entryTeams.find? fun t => (s.members t).contains node with
  | none => s
  | some t =>
    if s.tem.probes.any (·.1 == node) then s
    else sendTem (s.updTem fun x => { x with probes := x.probes ++ [(node, s.now)] }) node Tm.probe t { node := node }

/-- A probe without PROBE_ACK within TEM_PROBE_TMO ends teams (R224). -/
def probeTimeoutRow (s : State) : State :=
  let due := s.tem.probes.filter fun p => decide (p.2 + s.reg Reg.TEM_PROBE_TMO ≤ s.now)
  let s := s.updTem fun t => { t with probes := t.probes.filter fun p => !due.contains p }
  forEach due s fun s p => nodeLost s p.1

/-- The command as a step. -/
def execProbeTimeout (s : State) : Res := .next (probeTimeoutRow s)

/-- A prepared map held for 2 × TEM_CHG_TMO ends its team, or is only discarded where there is no entry (R224). -/
def execPreparedMapTimeout (s : State) : Res :=
  .next (forEach s.tem.aux s fun s (team, a) => match a.prepared with
    | some (m, t) =>
      if s.now < t + 2 * s.reg Reg.TEM_CHG_TMO then s
      else if (s.teamSlot team).isSome then endTeam (dropPrepared s team) team m.coord
      else dropPrepared s team
    | none => s)

/-! ### The map-epoch rule (R219, Table TEM-4) -/

/-- What the rule says of a packet: a refusal, or accepted, under E − 1 when `old`. -/
inductive EpochRule where
  | refuse (status : Nat)
  | accept (old : Bool)
  deriving DecidableEq, Repr

/-- Table TEM-4 for opcodes 0x01 to 0x14; a prepared map of E + 1 is committed by the packet. -/
def epochRule (s : State) (opcode team e : Nat) : State × EpochRule :=
  match s.teamSlot team with
  | none => (s, .refuse St.bounds)
  | some k =>
    let st := Reg.TEM_TEAM_STATUS k
    let cur := s.fld st F.TEM_TEAM_STATUS_EPOCH
    if s.fld st F.TEM_TEAM_STATUS_STATE = 2 ∧ 0x10 ≤ opcode then (s, .refuse St.memberLost)
    else if e = cur then (s, .accept false)
    else if e = (cur + 1) % 256 ∧ ((s.teamAux team).prepared.any fun p => p.1.epoch == e) then
      (commitMap s team, .accept false)
    else if (e + 1) % 256 = cur ∧ !graceElapsed s team then (s, .accept true)
    else (s, .refuse St.epochStale)

/-! ### Shared regions (R227–R230) -/

/-- Region r. -/
def State.region (s : State) (r : Nat) : Region := s.tem.regions.getD r {}

/-- Change region r. -/
def State.updRegion (s : State) (r : Nat) (f : Region → Region) : State :=
  s.updTem fun t => { t with regions := t.regions.put r (f (s.region r)) }

/-- A done record, written by PUT to the message's REPLY. -/
def doneRec (s : State) (m : Bytes) (kind status version pubnode : Nat) : State :=
  let out := temMsg s.node kind (Tm.team m)
    { status := status, epoch := s.teamEpoch (Tm.team m), region := Tm.region m, version := version, pubnode := pubnode,
      tag := Tm.tag m }
  s.sendPut (bits (Tm.reply m) 63 48) (Tm.team m) (bits (Tm.reply m) 47 0) out .control

/-- The publish at the head of a region's queue is checked and compared; one that fails is answered (R228). -/
def pubHead : Nat → State → Nat → State
  | 0, s, _ => s
  | fuel + 1, s, r =>
    let x := s.region r
    match x.queue with
    | [] => s
    | p :: rest =>
      if p.accepted then s
      else
        let m := p.msg
        let pop := s.updRegion r fun x => { x with queue := rest }
        if !x.valid ∨ Tm.team m ≠ x.team ∨ m.length ≠ 64 + 64 * x.size ∨ Tm.version m = 0 then
          pubHead fuel (doneRec pop m Tm.pubDone St.bounds x.version x.pubnode) r
        else if x.version < Tm.version m ∨ (Tm.version m = x.version ∧ x.pubnode < p.src) then
          s.updRegion r fun x => { x with queue := { p with accepted := true } :: rest }
        else
          let v := x.version
          let s := doneRec pop m Tm.pubDone St.superseded v x.pubnode
          let s := (s.bump Reg.TEM_PUB_SUPERSEDED).raise Tag.tem 0x0004 Sev.info x.team
            [r, 0, p.src % 256, p.src / 256, v % 256, v / 256 % 256, v / 65536 % 256, v / 16777216]
          pubHead fuel s r

/-- A completed PUBLISH joins its region's queue (R228). -/
def takePublish (s : State) (m : Msg) : State :=
  let r := Tm.region m.data
  let s := s.updRegion r fun x => { x with queue := x.queue ++ [{ src := m.src, msg := m.data }] }
  pubHead ((s.region r).queue.length) s r

/-- PUBLISH (R228). -/
def publishRow (s : State) : State :=
  match s.takeTem Tm.publish with
  | some (m, s) => takePublish s m
  | none => s

/-- The command as a step. -/
def execPublish (s : State) : Res := .next (s.ifRuns (publishRow s))

/-- Read tally of a half. -/
def Region.tally (x : Region) (h : Nat) : Nat := if h = 0 then x.tally0 else x.tally1

/-- Add to, or take from, the read tally of a half. -/
def Region.addTally (x : Region) (h : Nat) (up : Bool) : Region :=
  let f := fun (n : Nat) => if up then n + 1 else n - 1
  if h = 0 then { x with tally0 := f x.tally0 } else { x with tally1 := f x.tally1 }

/-- An accepted publish whose inactive half is free is copied in and made active (R228). -/
def publishAccept (s : State) (r : Nat) : State :=
  let x := s.region r
  match x.queue with
  | p :: rest =>
    let h := 1 - x.active
    if !p.accepted ∨ x.tally h ≠ 0 then s
    else
      let (s, st) := s.writeMem (x.base + h * 64 * x.size) (p.msg.drop 64)
      let v := Tm.version p.msg
      let s := if st = St.ok then
          let s := s.updRegion r fun x => { x with queue := rest, version := v, pubnode := p.src, active := h }
          (doneRec s p.msg Tm.pubDone St.ok v p.src).bump Reg.TEM_PUB_OK
        else doneRec (s.updRegion r fun x => { x with queue := rest }) p.msg Tm.pubDone st x.version x.pubnode
      pubHead rest.length s r
  | [] => s

/-- Regions with an accepted publish and a free half take it (R228). -/
def execPublishAccept (s : State) : Res := .next (s.ifRuns (forEach (s.tem.regions.map (·.1)) s publishAccept))

/-- RREAD at the home (R229). -/
def takeRread (s : State) (m : Msg) : State :=
  let d := m.data
  let r := Tm.region d
  let x := s.region r
  if !x.valid ∨ Tm.team d ≠ x.team then doneRec s d Tm.rreadDone St.bounds x.version x.pubnode
  else
    let h := x.active
    let len := 64 * x.size
    let (s, st, bs) := s.readMem (x.base + h * len) len
    if st ≠ St.ok then doneRec s d Tm.rreadDone st x.version x.pubnode
    else
      let id := s.tem.readId + 1
      let s := s.updTem fun t => { t with readId := id }
      let node := bits (Tm.addr d) 63 48
      let n := if node = s.node then 1 else (pieces bs).length
      let s := s.updRegion r fun x => (x.addTally h true)
      let s := s.updRegion r fun x => { x with reads := x.reads ++ [⟨id, h, d, x.version, x.pubnode, St.ok, n⟩] }
      s.sendPut node x.team (bits (Tm.addr d) 47 0) bs (.rread id)

/-- RREAD (R229). -/
def rreadRow (s : State) : State :=
  match s.takeTem Tm.rread with
  | some (m, s) => takeRread s m
  | none => s

/-- The command as a step. -/
def execRread (s : State) : Res := .next (s.ifRuns (rreadRow s))

/-- Answers of a region's reads are tallied; finished reads write RREAD_DONE and lower the tally (R229). -/
def rreadTurn (s : State) (r : Nat) : State :=
  forEach (s.region r).reads s fun s (x : RegionRead) =>
    let mine := s.htp.answered.filter fun a => a.1 == Origin.rread x.id
    let s := { s with htp := { s.htp with answered := s.htp.answered.filter fun a => a.1 != Origin.rread x.id } }
    let far := bits (Tm.addr x.msg) 63 48 != s.node
    let st := if far && mine.any (·.2.1 == St.memberLost) then St.memberLost else x.status
    let x' : RegionRead := { x with left := x.left - mine.length, status := st }
    if x'.left ≠ 0 then s.updRegion r fun y => { y with reads := replaceIf (·.id == x.id) (fun _ => x') y.reads }
    else
      let s := s.updRegion r fun y => { (y.addTally x.half false) with reads := y.reads.filter (·.id != x.id) }
      (doneRec s x.msg Tm.rreadDone st x.version x.pubnode).bump Reg.TEM_RREADS

/-- Finished region reads complete (R229). -/
def execRreadComplete (s : State) : Res := .next (s.ifRuns (forEach (s.tem.regions.map (·.1)) s rreadTurn))

/-- A write of TEM_RGN_CFG (R227): creates a region, or destroys one. -/
def rgnCfgWrite (s : State) (data : Nat) : State :=
  let r := s.fld Reg.TEM_RGN_IDX F.TEM_RGN_IDX_IDX
  let s := if bit data 30 then s.updRegion r fun x => { x with err := false } else s
  let x := s.region r
  if x.valid then
    if bit data 31 then s
    else
      let s := s.updRegion r fun x => { x with valid := false, queue := [] }
      forEach x.queue s fun s p => doneRec s p.msg Tm.pubDone St.bounds x.version x.pubnode
  else
    let size := bits data 24 12
    let team := bits data 11 0
    let inRange := decide (1 ≤ size) && decide (size ≤ 4096)
    if !bit data 31 then s.updRegion r fun x => { x with team := team, size := if inRange then size else x.size }
    else if (s.teamSlot team).isNone ∨ !inRange ∨ !rangeInSpan (s.spanGroups team) x.base (128 * size) then
      s.updRegion r fun x => { x with err := true }
    else s.updRegion r fun x => { x with valid := true, team := team, size := size, active := 0, version := 0, pubnode := 0 }

/-- VALID from 0 to 1 (R227). -/
def execRegionCreate (data : Word) (s : State) : Res := .next (rgnCfgWrite s data.toNat)
/-- VALID from 1 to 0 (R227). -/
def execRegionDestroy (data : Word) (s : State) : Res := .next (rgnCfgWrite s data.toNat)

/-- GO of a region command (R230). -/
def rcmdGo (s : State) : State :=
  if 16 ≤ s.tem.rcmds.length then s.setFld Reg.TEM_STATUS F.TEM_STATUS_OVERFLOW 1
  else
    let c := s.staged (Reg.TEM_RCMD 0) 16
    let home := Tm.node c
    let c := patch (patch c 2 (toLE 2 (Tm.team c))) 6 (toLE 2 s.node)
    let id := s.tem.rcmdId
    let send := fun (s : State) (m : Bytes) =>
      let s := s.updTem fun t => { t with rcmdId := id + 1 }
      let s := if home = s.node then s
        else s.updTem fun t => { t with rcmds := t.rcmds ++ [(id, (pieces (pad64 m)).length)] }
      s.sendMsgFrom home Op.team (Tm.team c) 0xFF m (.rcmd id)
    if Tm.kind c = Tm.publish then
      let (s, st, bs) := s.readMem (Tm.addr c) (64 * (s.region (Tm.region c)).size)
      if st ≠ St.ok then doneRec s c Tm.pubDone st 0 0 else send s (patch c 32 (zeros 8) ++ bs)
    else if Tm.kind c = Tm.rread then send s c
    else s

/-- A write of TEM_RCMD_GO (R230). -/
def execRcmdGo (data : Word) (s : State) : Res := .next (if bit data.toNat 0 then rcmdGo s else s)

end Sys2Proof.Machine
end

