-- ==== Sys2Proof/Machine/Hst.lean ====
section
/-!
DEFINITION. Machine/Hst.lean: the host port (R266–R277): the BAR2 window, host-port resets, MSI-X, event queues, apertures and
doorbell bases.
-/
namespace Sys2Proof.Machine

/-- Change the host port's state. -/
def State.updHost (s : State) (f : HostPort → HostPort) : State := { s with host := f s.host }

/-! ### Apertures (Table HST-3) -/

namespace Aper
def base (e : Bytes) : Nat := fld e 0 8
def node (e : Bytes) : Nat := fld e 8 2
def team (e : Bytes) : Nat := fld e 10 2 % 4096
def epoch (e : Bytes) : Nat := fld e 12 1
def v (e : Bytes) : Bool := bit (fld e 13 1) 7
def w (e : Bytes) : Bool := bit (fld e 13 1) 6
def r (e : Bytes) : Bool := bit (fld e 13 1) 5
def ordered (e : Bytes) : Bool := bit (fld e 13 1) 4
def nocomb (e : Bytes) : Bool := bit (fld e 13 1) 3
def autoep (e : Bytes) : Bool := bit (fld e 13 1) 2
def limit (e : Bytes) : Nat := fld e 14 2
end Aper

/-- Aperture entry e. -/
def State.aperture (s : State) (e : Nat) : Bytes := s.host.apertures.getD e (zeros 16)

/-- Bytes of one aperture window. -/
def windowBytes : Nat := 0x10000000

/-- Size of BAR2 (Table HST-2). -/
def bar2Bytes : Nat := 64 * 2 ^ 30

/-- An access of BAR2 misses (R269). -/
def apMiss (s : State) (addr : Nat) (write : Bool) : Bool :=
  let e := s.aperture (addr / windowBytes)
  !s.flag Reg.HST_CTRL F.HST_CTRL_BAR2_EN || !Aper.v e ||
    decide ((Aper.limit e + 1) * 4096 ≤ addr % windowBytes) || (if write then !Aper.w e else !Aper.r e)

/-- The epoch a packet of an entry carries (R269). -/
def apEpoch (s : State) (e : Bytes) : Nat :=
  if Aper.autoep e ∧ (s.teamSlot (Aper.team e)).isSome then s.teamEpoch (Aper.team e) else Aper.epoch e

/-! ### BAR2 answers (R270, R271) -/

/-- A BAR2 operation was refused: HST 0x0001, and the error record when it is empty. -/
def bar2Refused (s : State) (status opcode entry addr : Nat) : State :=
  let s := s.raise Tag.hst 0x0001 Sev.contained addr [status, opcode, entry, 0]
  if s.flag Reg.HST_STATUS F.HST_STATUS_BAR2_ERR then s
  else
    let s := s.setFld Reg.HST_STATUS F.HST_STATUS_BAR2_ERR 1
    let s := s.setReg Reg.HST_BAR2_ERR_LO (addr % 2 ^ 32)
    let s := s.setReg Reg.HST_BAR2_ERR_HI (addr / 2 ^ 32)
    s.setReg Reg.HST_BAR2_ERR_INFO (entry + opcode * 2 ^ 16 + status * 2 ^ 24)

/-- A BAR2 read's answer goes to the host, unless a host-port reset has come between (R268). -/
def readDone (s : State) (x : Bar2Read) (status : Nat) (data : Bytes) : State :=
  let s := s.updHost fun h => { h with reads := h.reads.filter (·.base != x.base) }
  if x.hostLive then s.emit (.readCompletion x.tag status data) else s

/-- Part `i` of BAR2 read `id` is answered (R271). -/
def bar2Part (s : State) (id i status : Nat) (data : Bytes) : State :=
  match s.host.reads.find? (·.base == id) with
  | none => s
  | some x =>
    if status ≠ St.ok then readDone (bar2Refused s status Op.load x.entry x.addr) x 4 []
    else
      let parts := replaceIf (·.seqId == i) (fun (p : ReadPart) => { p with data := some data }) x.parts
      let x' := { x with parts := parts }
      if parts.any (·.data.isNone) then s.updHost fun h => { h with reads := replaceIf (· == x) (fun _ => x') h.reads }
      else
        let all := parts.flatMap fun p => p.data.getD []
        readDone s x' 0 (slice all (x.addr % 64) x.len)

/-- An answer to a request of the host port is taken. -/
def hostAnswer (s : State) (o : Origin) (status : Nat) (data : Bytes) : State :=
  match o with
  | .bar2Store e addr => if status = St.ok then s else bar2Refused s status Op.store e addr
  | .bar2Load id i => bar2Part s id i status data
  | _ => s

/-- The origin is the host port's. -/
def isHostOrigin : Origin → Bool
  | .bar2Store .. => true
  | .bar2Load .. => true
  | _ => false

/-- Answers that local operations left for the host port are taken (R192). -/
def hostDrain (s : State) : State :=
  let mine := s.htp.answered.filter fun a => isHostOrigin a.1
  let s := { s with htp := { s.htp with answered := s.htp.answered.filter fun a => !isHostOrigin a.1 } }
  forEach mine s fun s a => hostAnswer s a.1 a.2.1 a.2.2

/-! ### BAR2 writes (R270) -/

/-- The STORE under merge is sent through the host shaper. -/
def mergeSend (s : State) : State :=
  match s.host.merge with
  | none => s
  | some m =>
    let s := s.updHost fun h => { h with merge := none }
    let e := m.ap
    let p : Pkt :=
      { dst := Aper.node e, opcode := Op.store, epoch := apEpoch s e, team := Aper.team e, length := m.data.length,
        ordered := Aper.ordered e, offset := Aper.base e + m.addr % windowBytes, payload := m.data }
    hostDrain (shaperEnter s p (.bar2Store m.entry m.addr))

/-- A BAR2 write continues the merge in progress. -/
def continues (m : Merge) (addr : Nat) : Bool :=
  m.addr + m.data.length == addr && m.addr / 4096 == addr / 4096

/-- A BAR2 write TLP (R269, R270). -/
def bar2Write (s : State) (addr : Nat) (data : Bytes) (full : Bool) : State :=
  let e := addr / windowBytes
  let joined := match s.host.merge with
    | some m => continues m addr
    | none => false
  let whole := full && addr % 64 == 0 && data.length % 64 == 0 && !data.isEmpty
  let good := !apMiss s addr true && whole
  let s := if joined && good then s else mergeSend s
  if apMiss s addr true then s.bump Reg.HST_MISS
  else if !whole then (s.bump Reg.HST_PARTIAL).raise Tag.hst 0x0002 Sev.info addr [e, 0, 0, 0]
  else
    let (s, m) := match s.host.merge with
      | some m => (s.bump Reg.HST_MERGED, { m with data := m.data ++ data })
      | none => (s, ⟨e, addr, data, s.nowHost, s.aperture e⟩)
    let s := s.updHost fun h => { h with merge := some m }
    if (m.addr + m.data.length) % 4096 = 0 then mergeSend s else s

/-! ### BAR2 reads (R271) -/

/-- The LOADs of a read: one per 4 KiB block, whole lines. -/
def readBlocks (addr len : Nat) : List (Nat × Nat) :=
  (rangeFrom (addr / 4096) ((addr + len - 1) / 4096 + 1 - addr / 4096)).map fun b =>
    let lo := max (addr / 64 * 64) (4096 * b)
    let hi := min (64 * ceilDiv (addr + len) 64) (4096 * (b + 1))
    (lo, hi - lo)

/-- A BAR2 read TLP (R269, R271). -/
def bar2Read (s : State) (tag addr len : Nat) : State :=
  let s := mergeSend s
  if apMiss s addr false then (s.bump Reg.HST_MISS).emit (.readCompletion tag 1 [])
  else
    let en := addr / windowBytes
    let e := s.aperture en
    let id := s.host.readId + 1
    let blocks := readBlocks addr len
    let parts := blocks.zipIdx.map fun ((o, _), i) => (⟨i, o, none⟩ : ReadPart)
    let s := s.updHost fun h => { h with
      readId := id, reads := h.reads ++ [⟨tag, addr, len, en, id, parts, false, true⟩] }
    hostDrain (forEach blocks.zipIdx s fun s ((o, n), i) =>
      shaperEnter s
        { dst := Aper.node e, opcode := Op.load, epoch := apEpoch s e, team := Aper.team e, length := n,
          ordered := Aper.ordered e, nocomb := Aper.nocomb e, offset := Aper.base e + o % windowBytes } (.bar2Load id i))

/-! ### Resets and the link (R268) -/

/-- A host-port reset (R268): kind 0 FLR, 1 hot reset, 2 link down. The HOST domain is released as soon as the link is up, and the
notices of its reset are lowered then (Table CLK-5, R287). -/
def hostReset (s : State) (kind : Nat) : State :=
  let s := mergeSend s
  let s := { s with regs := s.regs.filter fun r => !(decide (0x2400000 ≤ r.1) && decide (r.1 < 0x2440000)) }
  let h := s.host
  let s := { s with host := { linkUp := h.linkUp && kind != 2, readId := h.readId, pcie := h.pcie,
                              reads := h.reads.map fun (x : Bar2Read) => { x with hostLive := false } } }
  let s := s.setSummary F.GLB_SUMMARY_HOSTRESET
  let s := s.raise Tag.hst 0x0003 Sev.info 0 [kind, 0, 0, 0]
  if s.host.linkUp then s.hostNotice.releaseDomain 4 else s.hostNotice

/-- Function Level Reset (R268). -/
def execFlr (s : State) : Res := .next (hostReset s 0)
/-- Hot reset (R268). -/
def execHotReset (s : State) : Res := .next (hostReset s 1)
/-- The host link goes down (R268). -/
def execHostLinkDown (s : State) : Res := .next (hostReset s 2)
/-- PERST_L low acts as a link down (R363). -/
def execPerstLAssert (s : State) : Res := .next (hostReset s 2)

/-- A poisoned write TLP is discarded and logged under AER, with its BAR and offset (R267). -/
def poisonedWrite (s : State) (bar off : Nat) : State :=
  s.updHost fun h => { h with pcie := { h.pcie with aer := h.pcie.aer ++ [(bar, off)] } }

/-! ### MSI-X (R276) -/

/-- Change an MSI-X table entry; unmasking sends a message held in the PBA. -/
def msixSet (s : State) (v addr data : Nat) (masked : Bool) : State :=
  let s := s.updHost fun h => { h with msix := h.msix.put v (addr, data, masked) }
  if masked || s.host.funcMask || !s.host.pba.contains v then s
  else (s.updHost fun h => { h with pba := h.pba.filter (· != v) }).msixSend v

/-- A vector, or the whole function, is unmasked. -/
def msixUnmask (s : State) (v : Option Nat) : State :=
  match v with
  | some v =>
    let (a, d, _) := s.msixEntry v
    msixSet s v a d false
  | none =>
    let s := s.updHost fun h => { h with funcMask := false }
    forEach s.host.pba s fun s v =>
      let (a, d, m) := s.msixEntry v
      msixSet s v a d m

/-- The host writes configuration space, the link being up at a speed and width: Bus Master Enable, and the function mask, whose
clearing sends what waits in the PBA (R268, R276). -/
def busMaster (s : State) (w : CfgWrite) (speed width : Nat) : State :=
  let s := (s.releaseDomain 4).updHost fun h => { h with linkUp := true, bme := w.bme, speed := speed, width := width }
  let s := s.setFld Reg.HST_STATUS F.HST_STATUS_BME (b2n w.bme)
  let s := s.setFld Reg.HST_STATUS F.HST_STATUS_SPEED speed
  let s := s.setFld Reg.HST_STATUS F.HST_STATUS_WIDTH width
  if w.funcMask then s.updHost fun h => { h with funcMask := true }
  else if s.host.funcMask then msixUnmask s none
  else s

/-- Bus Master Enable (R268). -/
def execBusMasterEnable (enable : CfgWrite) (speed : Fin 7) (width : Fin 9) (s : State) : Res :=
  .next (busMaster s enable speed width)

/-- A vector or the function is unmasked (R276). -/
def execMsixUnmask (vector : Option (Fin 2048)) (s : State) : Res := .next (msixUnmask s (vector.map (·.val)))

/-- Gathered raises whose coalescing time is over send one message each (R276). -/
def coalesceEnd (s : State) : State :=
  let c := s.fld Reg.HST_CTRL F.HST_CTRL_COAL
  let due := s.host.gathered.filter fun v => decide (s.host.lastMsg.getD v 0 + c ≤ s.nowHost)
  let s := s.updHost fun h => { h with gathered := h.gathered.filter fun v => !due.contains v }
  forEach due s fun s v =>
    let (_, _, masked) := s.msixEntry v
    if masked || s.host.funcMask then s.updHost fun h => { h with pba := h.pba.filter (· != v) ++ [v] } else s.msixSend v

/-- Coalescing time ends (R276). -/
def execMsixCoalesceExpiry (s : State) : Res := .next (coalesceEnd s)

/-! ### Event queues (R277) -/

/-- A write of an event queue's CTRL: EN from 0 to 1 resets index and HEAD; LOG2 only while EN is 0. -/
def evqCtrl (s : State) (k data : Nat) : State :=
  let o := Reg.HST_EVQ_CTRL k
  let was := s.flag o F.HST_EVQ_CTRL_EN
  let log2 := s.fld o F.HST_EVQ_CTRL_LOG2
  let s := s.rawWrite o data
  let s := if was then s.setFld o F.HST_EVQ_CTRL_LOG2 log2 else s
  if !was && s.flag o F.HST_EVQ_CTRL_EN then
    (s.updHost fun h => { h with evqIdx := h.evqIdx.del k }).setReg (Reg.HST_EVQ_HEAD k) 0
  else s

/-- A write of HST_EVQ CTRL (R277). -/
def execEvqEnable (queue : Fin 16) (data : Word) (s : State) : Res := .next (evqCtrl s queue data.toNat)

/-- A record for event queue k: written with the tail line, or discarded when the ring is full (R277); false for a disabled
queue, which takes nothing. -/
def evqPut (s : State) (k : Nat) (e : Event) : State × Bool :=
  let o := Reg.HST_EVQ_CTRL k
  if !s.flag o F.HST_EVQ_CTRL_EN then (s, false)
  else
    let n := 2 ^ s.fld o F.HST_EVQ_CTRL_LOG2
    let i := s.host.evqIdx.getD k 0
    if (i + 1) % n = s.fld (Reg.HST_EVQ_HEAD k) F.HST_EVQ_HEAD_HEAD % n then
      let s := (s.bump (Reg.HST_EVQ_LOST k)).setFld o F.HST_EVQ_CTRL_OVF 1
      (s.setSummary F.GLB_SUMMARY_EVQ_OVF, true)
    else
      let base := s.base (Reg.HST_EVQ_BASE_LO k)
      let s := s.ringWrite base (32 * i) e.bytes
      let s := s.ringWrite base (32 * n) (padTo 64 (toLE 4 ((i + 1) % n)))
      let s := s.updHost fun h => { h with evqIdx := h.evqIdx.put k ((i + 1) % n) }
      (s.msixRaise (k + 1), true)

/-! ### Apertures and doorbell bases -/

/-- A write of HST_AP_DATA3 stores the entry; a merge under the old one is sent first (R269). -/
def apWrite (s : State) (data : Nat) : State :=
  let s := s.rawWrite (Reg.HST_AP_DATA 3) data
  let i := s.fld Reg.HST_AP_IDX F.HST_AP_IDX_IDX
  let e := s.staged (Reg.HST_AP_DATA 0) 4
  let s := match s.host.merge with
    | some m => if m.entry = i then mergeSend s else s
    | none => s
  s.updHost fun h => { h with apertures := if e.all (· == 0) then h.apertures.del i else h.apertures.put i e }

/-- A write of HST_AP_DATA3 (R269). -/
def execApertureWrite (data : Word) (s : State) : Res := .next (apWrite s data.toNat)

/-- A read of HST_AP_DATA0 loads the four registers from the entry. -/
def apRead (s : State) : State := s.fillRegs (Reg.HST_AP_DATA 0) (s.aperture (s.fld Reg.HST_AP_IDX F.HST_AP_IDX_IDX))

/-- Doorbell base register k: LDG, COU, PKH. -/
def dbReg (k : Nat) : Nat := if k = 0 then Reg.HST_DB_LDG else if k = 1 then Reg.HST_DB_COU else Reg.HST_DB_PKH

/-- Pages of a doorbell range (Table HST-4). -/
def dbPages (k : Nat) : Nat := if k = 0 then 64 else if k = 1 then 33 else 1

/-- The enabled range of doorbell register k. -/
def dbRange (s : State) (k : Nat) : Option (Nat × Nat) :=
  if s.flag (dbReg k) F.HST_DB_LDG_EN then
    some (s.fld (dbReg k) F.HST_DB_LDG_PAGE, s.fld (dbReg k) F.HST_DB_LDG_PAGE + dbPages k)
  else none

/-- A write of a doorbell base: ignored with DB_OVERLAP when ranges would overlap or pass page 4,095 (R273). -/
def dbBaseWrite (s : State) (k data : Nat) : State :=
  let lo := bits data 11 0
  let hi := lo + dbPages k
  let clash := (List.range 3).any fun j => j != k && match dbRange s j with
    | some (a, b) => decide (lo < b) && decide (a < hi)
    | none => false
  if bit data 31 && (clash || decide (4096 < hi)) then s.setFld Reg.HST_STATUS F.HST_STATUS_DB_OVERLAP 1
  else s.rawWrite (dbReg k) data

/-- A write of a doorbell base register (R273). -/
def execDoorbellBaseWrite (reg : Fin 3) (data : Word) (s : State) : Res := .next (dbBaseWrite s reg data.toNat)

end Sys2Proof.Machine
end

