-- ==== Sys2Proof/Machine/HtpRecv.lean ====
section
/-!
DEFINITION. Machine/HtpRecv.lean: the transport's target side (R169–R181), answers, retransmission and windows at the sender
(R174–R178, R183, R190), fences (R185), combining (R186), multicast (R188) and the route and group tables (R182, R188).
-/
namespace Sys2Proof.Machine

/-- Change the transport's state. -/
def State.updHtp (s : State) (f : Transport → Transport) : State := { s with htp := f s.htp }

/-! ### Arrival: trailer, meter, transit (R171, R182, R184, R236) -/

/-- The crossbar takes a whole packet from the port's receive buffer, freeing its slots (R156). -/
def linkTake (s : State) (port : Nat) (bs : Bytes) : State :=
  let x := s.port port
  if x.rxq.contains bs then
    let c := opClass (fld bs 4 1)
    let n := ceilDiv bs.length 64
    s.updPort port fun x => { x with
      rxq := x.rxq.erase bs, freed := setNth x.freed c ((x.freed.getD c 0 + n) % 65536), creditDirty := true }
  else s

/-- HTP 0x0004 (Table HTP-6). -/
def hopsEvent (s : State) (why : Nat) (p : Pkt) : State :=
  s.raise Tag.htp 0x0004 Sev.info p.dst [why, 0, p.src % 256, p.src / 256]

/-- A transit packet goes on, one crossbar further (R182, R184). -/
def transit (s : State) (port : Nat) (p : Pkt) : State :=
  if p.hops = 63 then hopsEvent (s.bump Reg.HTP_HOPS) 0 p
  else s.route port false { p with hops := p.hops + 1 }

/-- The ingress meter of a port whose neighbour has ROLE 0b11 (R236): the state and the colour; classes C1 and C3 pass uncharged
(R233). -/
def meterAt (s : State) (port : Nat) (p : Pkt) : State × Colour :=
  if s.flag (Reg.HLK_NEIGHBOUR port) F.HLK_NEIGHBOUR_VALID && s.fld (Reg.HLK_NEIGHBOUR port) F.HLK_NEIGHBOUR_ROLE == 3 &&
      charged p then
    match meterPacket s port p.payload.length with
    | (s, .red) =>
      let s := s.bump Reg.RNS_RED
      let due := match s.rns.redAt.get? port with
        | some t => decide (t + 1000000 ≤ s.nowH)
        | none => true
      let s := if due then
          { s with rns := { s.rns with redAt := s.rns.redAt.put port s.nowH } }.raise Tag.rns 0x0003 Sev.info port
            [0, 0, p.src % 256, p.src / 256]
        else s
      (s, .red)
    | (s, .yellow) => (s.bump Reg.RNS_YELLOW, .yellow)
    | (s, .green) => (s, .green)
  else (s, .green)

/-- Steps 1 and 2 of R175: the packet when it is good and for this node or a group, and whether its meter coloured it yellow. A packet
in transit passes no meter (R184). -/
def arriveColour (s : State) (port : Nat) (op : Option Nat) (bs : Bytes) : State × Option (Pkt × Bool) :=
  let s := linkTake s port bs
  let bs := match op with
    | some op => patch bs 4 (toLE 1 op)
    | none => bs
  match Pkt.parse bs with
  | none => (s, none)
  | some (p, crc) =>
    if crc = p.crc then
      if p.dst ≠ s.node ∧ p.opcode ≠ Op.mstore then (transit s port p, none)
      else match meterAt s port p with
        | (s, .red) => (s, none)
        | (s, col) => (s, some (p, col == .yellow))
    else if crc = p.crc ^^^ 0xFFFFFFFF then (s.bump (Reg.HLK_STOMP port), none)
    else (s.bump Reg.HTP_CRC, none)

/-- The packet that arrives, when it is good and for this node. -/
def arrive (s : State) (port : Nat) (op : Option Nat) (bs : Bytes) : State × Option Pkt :=
  let (s, r) := arriveColour s port op bs
  (s, r.map (·.1))

/-! ### Pair state (R174–R176, R178) -/

/-- Change the receive record of a source. -/
def State.updRx (s : State) (src : Nat) (f : RxPair → RxPair) : State :=
  match s.htp.rx.get? src with
  | some r => s.updHtp fun h => { h with rx := h.rx.put src (f r) }
  | none => s

/-- CSN of a source. -/
def State.csn (s : State) (src : Nat) : Nat :=
  match s.htp.rx.get? src with
  | some r => r.csn
  | none => 0

/-- CSN advances past every consecutive completed sequence. -/
def advanceCsn : Nat → RxPair → RxPair
  | 0, r => r
  | fuel + 1, r =>
    let n := (r.csn + 1) % 2 ^ 32
    if r.window.contains n then advanceCsn fuel { r with csn := n, window := r.window.erase n } else r

/-- The sequence of a request completes (R176). -/
def completeSeq (s : State) (p : Pkt) : State :=
  if p.opcode = Op.mstore then s
  else s.updRx p.src fun r =>
    let w := if r.window.contains p.seq then r.window else r.window ++ [p.seq]
    advanceCsn w.length { r with window := w }

/-- An atomic's answer enters the cache of the last 16 (R178). -/
def cacheAtomic (s : State) (p : Pkt) (status old : Nat) : State :=
  if isAtomic p.opcode then s.updRx p.src fun r => { r with cache := ((p.seq, status, old) :: r.cache).take 16 } else s

/-- Send the answer of a request (Table HTP-2): a LOAD's data, an atomic's old value. -/
def sendAnswer (s : State) (p : Pkt) (status : Nat) (data : Bytes) : State :=
  let csn := s.csn p.src
  if p.opcode = Op.load then s.reply p Op.loadResp status csn false false data
  else if isAtomic p.opcode then s.reply p Op.atomicResp status csn false false (padTo 64 data)
  else s.reply p Op.ack status csn false (p.opcode == Op.mstore) []

/-- A request completes with a status: window bit, CSN, answer (R176). -/
def answer (s : State) (p : Pkt) (status : Nat) (data : Bytes) : State :=
  sendAnswer (cacheAtomic (completeSeq s p) p status (fld data 0 8)) p status data

/-! ### Memory opcodes (R169, R187) -/

/-- SIZE of an atomic operand. -/
def Pkt.size (p : Pkt) : Nat := fld p.payload 16 1

/-- Bytes a memory request addresses. -/
def Pkt.span (p : Pkt) : Nat := if isAtomic p.opcode then p.size else p.length

/-- LENGTH is a multiple of 64 from 64 to 4,096 (R171). -/
def lengthOk (n : Nat) : Bool := n % 64 == 0 && decide (64 ≤ n) && decide (n ≤ 4096)

/-- Step 8 of R175 for a memory opcode. -/
def memCheck (s : State) (p : Pkt) : Nat :=
  if !rangeInSpan (s.spanGroups p.team) p.addr p.span then St.bounds
  else if isAtomic p.opcode then
    if (p.size = 4 ∨ p.size = 8) ∧ p.addr % p.size = 0 ∧ p.length = 64 then St.ok else St.bounds
  else if !lengthOk p.length then St.bounds
  else if p.opcode = Op.reduce then
    if bits p.offset 5 4 ≤ 1 ∧ bits p.offset 3 0 ≤ 2 then St.ok else St.rights
  else if p.addr % 64 = 0 then St.ok else St.bounds

/-- An atomic update of `size` bytes at the home controller: state, status, old value. -/
def atomicDo (s : State) (addr size : Nat) (f : Nat → Option Nat) : State × Nat × Nat :=
  let (s, st, old) := s.readNat addr size
  if st ≠ St.ok then (s, st, 0)
  else match f old with
    | none => (s, St.ok, old)
    | some v =>
      let (s, st) := s.writeMem addr (toLE size v)
      if st = St.ok then (s, st, old) else (s, st, 0)

/-- What an atomic writes over an old value (R187). -/
def atomicFn (p : Pkt) (old : Nat) : Option Nat :=
  let a := fld p.payload 0 p.size
  if p.opcode = Op.fetchAdd then some ((old + a) % 2 ^ (8 * p.size))
  else if p.opcode = Op.swap then some a
  else if old = fld p.payload 8 p.size then some a else none

/-- REDUCE line by line in ascending address, stopping at a bad line (R187). -/
def reduceLines (redop dtype addr : Nat) (data : Bytes) : List Nat → State → State × Nat
  | [], s => (s, St.ok)
  | i :: is, s =>
    let (s, st, old) := s.readMem (addr + 64 * i) 64
    if st ≠ St.ok then (s, st)
    else
      let (s, st) := s.writeMem (addr + 64 * i) (reduceBytes redop dtype old (slice data (64 * i) 64))
      if st ≠ St.ok then (s, st) else reduceLines redop dtype addr data is s

/-- A memory request that passed its checks runs: state, status, data of its answer. -/
def memRun (s : State) (p : Pkt) : State × Nat × Bytes :=
  if p.opcode = Op.load then s.readMem p.addr p.length
  else if isAtomic p.opcode then
    let (s, st, old) := atomicDo s p.addr p.size (atomicFn p)
    (s, st, toLE 8 old)
  else if p.opcode = Op.reduce then
    let (s, st) := reduceLines (bits p.offset 5 4) (bits p.offset 3 0) p.addr p.payload (List.range (p.length / 64)) s
    (s, st, [])
  else
    let (s, st) := localStore s p.addr p.payload
    (s, st, [])

/-! ### The old map (R220, R221) -/

/-- The packet was accepted under E − 1. -/
def State.isOld (s : State) (p : Pkt) : Bool := (p.epoch + 1) % 256 == s.teamEpoch p.team

/-- The old-map tally of a team changes. -/
def oldCount (s : State) (team : Nat) (f : Nat → Nat) : State := s.updAux team fun a => { a with oldTally := f a.oldTally }

/-- Where RANGE stubs send a range: none, wholly to a node and offset, or in part. -/
inductive Covered where
  | clear
  | whole (node off : Nat)
  | part
  deriving DecidableEq, Repr

/-- The RANGE stubs of a team over a range (R220). -/
def rangeStub (s : State) (team o n : Nat) : Covered :=
  let stubs := match (s.teamAux team).old, (s.teamAux team).cur with
    | some _, some m => m.stubs.filter fun b => Stub.type b == 1
    | _, _ => []
  match stubs.find? fun b => decide (Stub.old b < o + n) && decide (o < Stub.old b + Stub.pages b * pageBytes) with
  | none => .clear
  | some b =>
    if Stub.old b ≤ o ∧ o + n ≤ Stub.old b + Stub.pages b * pageBytes then .whole (Stub.newNode b) (Stub.new b + (o - Stub.old b))
    else .part

/-- The UNIT stub of a team over a stall (R220). -/
def unitStub (s : State) (team unit : Nat) : Option (Nat × Nat) :=
  match (s.teamAux team).old, (s.teamAux team).cur with
  | some _, some m =>
    match m.stubs.find? fun b => Stub.type b == 2 && Stub.oldUnit b == unit with
    | some b => some (Stub.newNode b, Stub.newUnit b)
    | none => none
  | _, _ => none

/-- A memory request is forwarded as a request of this module's own pair (R220). -/
def forwardMem (s : State) (p : Pkt) (node off : Nat) : State :=
  let s := s.bump Reg.TEM_FWD
  let q := { p with opcode := if p.opcode = Op.mstore then Op.store else p.opcode, epoch := s.teamEpoch p.team, fwd := true,
                    retx := false, hops := 0, rsv := 0,
                    offset := if p.opcode = Op.reduce then off + p.offset % 64 else off }
  if node = s.node then
    let (s, st, d) := memRun s q
    answer s p st d
  else
    let s := oldCount s p.team (· + 1)
    let s := s.updHtp fun h => { h with forwards := h.forwards ++ [p] }
    s.sendReq node q (.forward p)

/-! ### Combining (R186) -/

/-- Answer a member of a combining group, its acceptance under the old map ending with it. -/
def memberAnswer (s : State) (p : Pkt) (status : Nat) (data : Bytes) : State :=
  let s := answer s p status data
  if s.isOld p then oldCount s p.team (· - 1) else s

/-- A closed group is issued as one operation (R186). -/
def combIssue (s : State) (g : Comb) : State :=
  let s := s.updHtp fun h => { h with combs := h.combs.erase g }
  if g.size = 0 then
    let (s, st, d) := s.readMem g.addr g.length
    forEach g.members s fun s p => memberAnswer s p st d
  else
    let m := 2 ^ (8 * g.size)
    let adds := g.members.map fun p => fld p.payload 0 g.size
    let (s, st, old) := atomicDo s g.addr g.size fun old => some ((old + adds.foldl (· + ·) 0) % m)
    (forEach g.members (s, 0) fun (s, acc) p =>
      (memberAnswer s p st (toLE 8 (if st = St.ok then (old + acc) % m else 0)), acc + fld p.payload 0 g.size)).1

/-- A write reaches the stage: groups over its lines are issued ahead of it. -/
def combFlush (s : State) (addr n : Nat) (keep : Option Comb) : State :=
  let hit := s.htp.combs.filter fun g => some g != keep &&
    decide (lineOf g.addr ≤ lineOf (addr + n - 1)) && decide (lineOf addr ≤ lineOf (g.addr + max g.size g.length - 1))
  forEach hit s combIssue

/-- Execute a memory request that passed step 8, by way of the combining stage. -/
def memExec (s : State) (p : Pkt) : State :=
  let isAdd := p.opcode == Op.fetchAdd
  let win := s.fld Reg.HTP_COMB_WIN F.HTP_COMB_WIN_WIN
  let able := (p.opcode == Op.load || isAdd) && !p.nocomb
  let size := if isAdd then p.size else 0
  let len := if isAdd then 0 else p.length
  let found := if able then s.htp.combs.find? fun g =>
      g.addr == p.addr && g.size == size && g.length == len && (isAdd || g.team == p.team)
    else none
  let s := if p.opcode = Op.load then s else combFlush s p.addr p.span found
  let old := fun (s : State) => if s.isOld p then oldCount s p.team (· + 1) else s
  match found with
  | some g =>
    let g' := { g with members := g.members ++ [p] }
    let s := (old s).bump (if isAdd then Reg.HTP_COMB_FADDS else Reg.HTP_COMB_LOADS)
    let s := s.updHtp fun h => { h with combs := replaceIf (· == g) (fun _ => g') h.combs }
    if 64 ≤ g'.members.length then combIssue s g' else s
  | none =>
    if able && s.flag Reg.HTP_CTRL F.HTP_CTRL_COMB_EN && decide (0 < win) && decide (s.htp.combs.length < 32) then
      (old s).updHtp fun h => { h with combs := h.combs ++ [⟨p.addr, size, len, p.team, [p], s.nowH⟩] }
    else
      let (s, st, d) := memRun s p
      answer s p st d

/-- Combining groups whose window is over close (R186). -/
def execCombineWindowExpiry (s : State) : Res :=
  .next (s.ifRuns (forEach (s.htp.combs.filter fun g => decide (g.opened + s.fld Reg.HTP_COMB_WIN F.HTP_COMB_WIN_WIN ≤ s.nowH)) s combIssue))

/-! ### Messages (R180) -/

/-- What stands for the first packets of a RECORD goes: the RECORD is whole, or it is forwarded (R180 point 5, R220). -/
def recordUnbegun (s : State) (unit : Nat) (data : Bytes) : State :=
  let begun := fun (it : MrgItem) => it.part && it.line == some (data.take 64) && it.record == (data.drop 64).take 32
  s.updWork unit fun w => { w with mrg := w.mrg.filter (!begun ·), mrgWait := w.mrgWait.filter (!begun ·) }

/-- A RECORD is whole: what stands for its first packets gives way to it (R180 point 5). -/
def recordWhole (s : State) (m : Msg) : State :=
  (recordUnbegun s m.unit m.data).toMrg m.unit { line := some (m.data.take 64), record := m.data.drop 64 }

/-- A complete message reaches its unit. -/
def deliverMsg (s : State) (m : Msg) : State :=
  if m.op = Op.attn then
    if 8192 ≤ s.rns.wheel.length then
      s.updHtp fun h => { h with msgs := h.msgs ++
        [{ src := m.src, flow := 0x10000, unit := m.unit, op := m.op, mlen := m.data.length / 64, tally := m.data.length,
           data := m.data, opened := s.nowH, team := m.team, epoch := m.epoch, whole := true }] }
    else wheelEnter s m s.nowH
  else if m.op = Op.append then enqueueAppend s m.unit m
  else if m.op = Op.record then recordWhole s m
  else if m.op = Op.pedigree then pedDeliver s m
  else { s with inbox := s.inbox ++ [m] }

/-- A complete message that a UNIT stub covers is sent on under a new FLOW (R220). -/
def forwardMsg (s : State) (p : Pkt) (node unit : Nat) (data : Bytes) : State :=
  let s := s.bump Reg.TEM_FWD
  let ep := s.teamEpoch p.team
  if node = s.node then deliverMsg s ⟨p.opcode, p.src, p.team, ep, unit, data⟩
  else
    let (s, flow) := (oldCount s p.team (· + 1)).takeFlow node
    let s := s.updHtp fun h => { h with msgForwards := h.msgForwards ++ [⟨node, flow, p.team, (pieces data).length, false⟩] }
    forEach (pieces data) s fun s (k, bs) =>
      s.sendReq node
        { opcode := p.opcode, epoch := ep, team := p.team, flow := flow, length := bs.length, fwd := true,
          offset := msgOffset unit (data.length / 64) k, payload := bs } .forwardMsg

/-- Bytes of the buffer a message is reassembled in; none where the spec gives no size. -/
def msgBuffer (s : State) (op unit : Nat) : Option Nat :=
  if op = Op.attn ∨ op = Op.record then some (65536 * s.fld (Reg.STL_BUF_PART unit) F.STL_BUF_PART_QRY)
  else if op = Op.append then some (65536 * s.fld (Reg.STL_BUF_PART unit) F.STL_BUF_PART_COIN)
  else if op = Op.team then some 33554432
  else none

/-- The buffers of two messages are one: the QRY region takes ATTN and RECORD, every other opcode has its own. -/
def sameBuffer (a b : Nat) : Bool :=
  a == b || ((a == Op.attn || a == Op.record) && (b == Op.attn || b == Op.record))

/-- Bytes of the staging that complete TEAM messages hold until they are taken up (R228). -/
def stagedTeam (s : State) : Nat :=
  (s.inbox.filter fun m => m.op == Op.team && m.src != s.node).foldl (fun n m => n + m.data.length) 0 +
    s.tem.regions.foldl (fun n r => (r.2.queue.filter (·.src != s.node)).foldl (fun n p => n + p.msg.length) n) 0

/-- Bytes taken of the buffer a message is reassembled in (R180). -/
def bufferUsed (s : State) (op unit : Nat) : Nat :=
  (s.htp.msgs.filter fun c => c.unit == unit && sameBuffer c.op op).foldl (fun n c => n + 64 * c.mlen) 0 +
    (if op = Op.team then stagedTeam s else 0)

/-- Step 8 of R175 for a message packet, and the refusals of R180. -/
def msgCheck (s : State) (p : Pkt) : Nat :=
  let stallOp := p.opcode ≤ Op.record
  let u := p.unit
  if if stallOp then 128 ≤ u else u ≠ 0xFF then St.rights
  else if !lengthOk p.length ∨ p.mlen = 0 ∨ 65536 < p.mlen ∨ p.moff % 64 ≠ 0 ∨ 64 * p.mlen < p.moff + p.length then St.bounds
  else if (msgBuffer s p.opcode u).any fun b => decide (b < 64 * p.mlen) then St.bounds
  else match s.htp.msgs.find? fun c => c.src == p.src && c.flow == p.flow && !c.whole with
    | some c => if c.mlen ≠ p.mlen ∨ c.unit ≠ u ∨ c.op ≠ p.opcode then St.bounds else St.ok
    | none => St.ok

/-- The packets with the merge line and the header of a RECORD have come: its merge context learns of it (R180 point 5). -/
def recordBegins (s : State) (c : MsgCtx) : State :=
  s.toMrg c.unit { line := some (c.data.take 64), record := (c.data.drop 64).take 32, part := true }

/-- A message packet at its target (R180): refused, dropped for want of room, or written into its context. -/
def msgExec (s : State) (p : Pkt) (old : Bool) : State :=
  let stub := if old then unitStub s p.team p.unit else none
  let st := msgCheck s p
  if st ≠ St.ok then answer s p st []
  else if stub.isSome ∧ p.fwd then answer s p St.bounds []
  else
    let open? := s.htp.msgs.find? fun c => c.src == p.src && c.flow == p.flow && !c.whole
    let full := open?.isNone && (decide (4096 ≤ s.htp.msgs.length) ||
      (msgBuffer s p.opcode p.unit).any fun b => decide (b < bufferUsed s p.opcode p.unit + 64 * p.mlen))
    if full then s
    else
      let c : MsgCtx := open?.getD {
        src := p.src, flow := p.flow, unit := p.unit, op := p.opcode, mlen := p.mlen, tally := 0, data := [],
        opened := s.nowH, team := p.team, epoch := p.epoch, fwd := stub }
      let c' : MsgCtx := { c with fwd := if stub.isSome then stub else c.fwd, tally := c.tally + p.length, data := patch c.data p.moff p.payload,
                                  heads := c.heads + ([0, 64].filter fun i => p.moff ≤ i && i < p.moff + p.length).length }
      let s := s.updHtp fun h => { h with msgs := h.msgs.filter (· != c) }
      let s := answer s p St.ok []
      let s := if c'.op = Op.record ∧ c'.fwd.isSome ∧ c.fwd.isNone ∧ c.heads = 2 then recordUnbegun s c'.unit c.data else s
      if c'.tally = 64 * c'.mlen then
        let data := padTo (64 * c'.mlen) c'.data
        match c'.fwd with
        | some (node, unit) => forwardMsg s p node unit data
        | none => deliverMsg s ⟨c'.op, c'.src, c'.team, c'.epoch, c'.unit, data⟩
      else
        let s := if c'.op = Op.record ∧ c'.fwd = none ∧ c.heads < 2 ∧ c'.heads = 2 then recordBegins s c' else s
        s.updHtp fun h => { h with msgs := h.msgs ++ [c'] }

/-- Contexts open too long are discarded (R180). -/
def messageContextTimeoutRow (s : State) : State :=
  let late := s.htp.msgs.filter fun c => !c.whole && decide (c.opened + s.reg Reg.HTP_MSG_TMO ≤ s.nowH)
  forEach late s fun s c =>
    let s := (s.updHtp fun h => { h with msgs := h.msgs.erase c }).bump Reg.HTP_MSG_TMO_CNT
    s.raise Tag.htp 0x0006 Sev.info c.src [c.op, 0, c.flow % 256, c.flow / 256]

/-- The command as a step. -/
def execMessageContextTimeout (s : State) : Res := .next (messageContextTimeoutRow s)

/-! ### A request at its target (R175) -/

/-- A refusal of step 7: EPOCH_STALE is counted, and reported at most once per source per millisecond. -/
def epochRefuse (s : State) (p : Pkt) (status : Nat) : State :=
  if status ≠ St.epochStale then s
  else
    let s := s.bump Reg.HTP_STALE
    let due := match s.htp.staleAt.get? p.src with
      | some t => decide (t + 1000000 ≤ s.nowH)
      | none => true
    if due then
      (s.updHtp fun h => { h with staleAt := h.staleAt.put p.src s.nowH }).raise Tag.htp 0x0005 Sev.info p.src
        [p.epoch, s.teamEpoch p.team, p.team % 256, p.team / 256]
    else s

/-- Steps 7 to 9 of R175. -/
def atTarget (s : State) (p : Pkt) : State :=
  let (s, r) := if p.opcode ≤ 0x14 then epochRule s p.opcode p.team p.epoch else (s, .accept false)
  match r with
  | .refuse st => answer (epochRefuse s p st) p st []
  | .accept old =>
    if isMessage p.opcode then msgExec s p old
    else
      let cov := if old then rangeStub s p.team p.addr p.span else .clear
      match cov with
      | .part => answer s p St.bounds []
      | .whole node off => if p.fwd then answer s p St.bounds [] else forwardMem s p node off
      | .clear =>
        let st := memCheck s p
        if st ≠ St.ok then answer s p st [] else memExec s p

/-- A copy with this sequence waits here: held for its turn, for its forward, or in a combining group. -/
def pendingCopy (s : State) (p : Pkt) : Bool :=
  let same := fun (q : Pkt) => q.src == p.src && q.seq == p.seq && q.opcode != Op.mstore
  s.htp.held.any same || s.htp.forwards.any same || s.htp.combs.any fun g => g.members.any same

/-- What the sequence of a request says of it (R175 step 5). -/
inductive SeqSays where
  | fresh
  | duplicate
  | copy
  | old
  deriving DecidableEq, Repr

/-- Step 5 of R175. -/
def seqCheck (s : State) (r : RxPair) (p : Pkt) : SeqSays :=
  let a := (p.seq + 2 ^ 32 - r.csn) % 2 ^ 32
  let b := (r.csn + 2 ^ 32 - p.seq) % 2 ^ 32
  if b < 4096 ∨ (1 ≤ a ∧ a ≤ 4096 ∧ r.window.contains p.seq) then .duplicate
  else if a ≤ 4096 then if pendingCopy s p then .copy else .fresh
  else .old

/-- A duplicate is answered again without reaching memory or a subsystem (R175, R178). -/
def dupAnswer (s : State) (r : RxPair) (p : Pkt) : State :=
  let s := s.bump Reg.HTP_DUP
  if p.opcode = Op.load then
    let st := memCheck s p
    if st ≠ St.ok then sendAnswer s p st []
    else
      let (s, st, d) := s.readMem p.addr p.length
      sendAnswer s p st d
  else if isAtomic p.opcode then
    match r.cache.find? (·.1 == p.seq) with
    | some (_, st, old) => sendAnswer s p st (toLE 8 old)
    | none => sendAnswer s p St.internal []
  else sendAnswer s p St.ok []

/-- A receive record whose lines cannot be read is cleared: the source then has no pair state (Table FAR-3). -/
def rxRecord (s : State) (src : Nat) : State :=
  let lo := (s.base Reg.HTP_RX_BASE_LO + 1024 * src) / 64
  let bad := (rangeFrom lo 16).filter fun l => s.lineStatus l != St.ok
  if bad.isEmpty then s
  else
    let s := forEach bad s fun s l => if s.stallFailed (homeStall (64 * l)) then s else { s with marks := s.marks.del l }
    let s := s.structLost Tag.htp St.uncorrectable src
    s.updHtp fun h => { h with rx := h.rx.del src }

/-- Steps 4 to 6 of R175, then `go` for a request whose turn has come. -/
def request (s : State) (p : Pkt) (holds : Bool) (go : State → Pkt → State) : State :=
  let s := rxRecord (s.bump Reg.HTP_RX_PKTS) p.src
  match s.htp.rx.get? p.src with
  | none => s.reply p Op.ack St.epochStale 0 true false []
  | some r =>
    match seqCheck s r p with
    | .duplicate => dupAnswer s r p
    | .copy => s.bump Reg.HTP_DUP
    | .old => s.bump Reg.HTP_OLD_DUP
    | .fresh =>
      if holds && p.ordered && (r.csn + 1) % 2 ^ 32 != p.seq then
        if 256 ≤ s.htp.held.length then s else s.updHtp fun h => { h with held := h.held ++ [p] }
      else go s p

/-- A packet for this node on the local path, which it entered at tick `stamp` with the colour its meter gave it (R234, R236, R240).
While memory and the stalls are parked it waits there, since its pair or connection record and what it asks for lie in memory (R284,
R316); otherwise it leaves the path and `go` runs. On a closed crossing to MESH it is discarded (R283). -/
def localPath (s : State) (port stamp : Nat) (yellow : Bool) (p : Pkt) (go : State → Pkt → State) : State :=
  if s.shut 3 1 0 then s
  else if s.parked then
    if s.flag Reg.RNS_CTRL F.RNS_CTRL_FAIR_EN && localCharged p &&
        decide (s.fld Reg.RNS_FAIR_QMAX F.RNS_FAIR_QMAX_QMAX < localSlots s p.localKey + p.slots) then
      s.bump Reg.RNS_FAIR_DROP
    else s.updHtp fun h => { h with parked := h.parked ++ [(port, ⟨opClass p.opcode, p.localKey, yellow, p, stamp⟩)] }
  else go (localLeave s p stamp) p

/-- A request for this node goes on to steps 4 to 9; an MSTORE carries no pair state (R188). -/
def requestAct (s : State) (p : Pkt) : State :=
  if p.opcode = Op.mstore then atTarget (s.bump Reg.HTP_RX_PKTS) p else request s p true atTarget

/-- A request for this node takes the local path. -/
def requestGo (s : State) (port stamp : Nat) (yellow : Bool) (p : Pkt) : State := localPath s port stamp yellow p requestAct

/-- The packet that leaves the local path next, as at a port output: one that fairness does not queue, or the pick of the deficit
round-robin (R234). -/
def parkedNext (s : State) : Option (State × Nat × PortItem) :=
  let take := fun (s : State) (x : Nat × PortItem) =>
    some (s.updHtp fun h => { h with parked := h.parked.erase x }, x.1, x.2)
  match s.htp.parked.find? fun x => !localCharged x.2.pkt || !s.flag Reg.RNS_CTRL F.RNS_CTRL_FAIR_EN with
  | some x => take s x
  | none =>
    match drrPick (s.htp.parked.map (·.2)) (fun _ => true) 130 s.htp.localPos s.htp.localDef with
    | none => none
    | some (it, pos, defs) =>
      match s.htp.parked.find? (·.2 == it) with
      | some x => take (s.updHtp fun h => { h with localPos := pos, localDef := defs }) x
      | none => none

/-- A request packet of opcode `op` arrives on a port. -/
def requestArrives (s : State) (port op : Nat) (bs : Bytes) : State :=
  match arriveColour s port (some op) bs with
  | (s, none) => s
  | (s, some (p, yellow)) => requestGo s port s.nowH yellow p

/-- STORE at the target (R175). -/
def execStore (port : Fin 16) (pkt : Bytes) (s : State) : Res := .next (requestArrives s port Op.store pkt)
/-- LOAD at the target (R175, R186). -/
def execLoad (port : Fin 16) (pkt : Bytes) (s : State) : Res := .next (requestArrives s port Op.load pkt)
/-- FETCH_ADD at the target (R187). -/
def execFetchAdd (port : Fin 16) (pkt : Bytes) (s : State) : Res := .next (requestArrives s port Op.fetchAdd pkt)
/-- SWAP at the target (R187). -/
def execSwap (port : Fin 16) (pkt : Bytes) (s : State) : Res := .next (requestArrives s port Op.swap pkt)
/-- CAS at the target (R187). -/
def execCas (port : Fin 16) (pkt : Bytes) (s : State) : Res := .next (requestArrives s port Op.cas pkt)
/-- REDUCE at the target (R187). -/
def execReduce (port : Fin 16) (pkt : Bytes) (s : State) : Res := .next (requestArrives s port Op.reduce pkt)
/-- PUT at the target (R181). -/
def execPut (port : Fin 16) (pkt : Bytes) (s : State) : Res := .next (requestArrives s port Op.put pkt)
/-- ATTN packet (R180, R239). -/
def execAttnPacket (port : Fin 16) (pkt : Bytes) (s : State) : Res := .next (requestArrives s port Op.attn pkt)
/-- APPEND packet (R180). -/
def execAppendPacket (port : Fin 16) (pkt : Bytes) (s : State) : Res := .next (requestArrives s port Op.append pkt)
/-- RECORD packet (R180). -/
def execRecordPacket (port : Fin 16) (pkt : Bytes) (s : State) : Res := .next (requestArrives s port Op.record pkt)
/-- LEDGER packet (R180). -/
def execLedgerPacket (port : Fin 16) (pkt : Bytes) (s : State) : Res := .next (requestArrives s port Op.ledger pkt)
/-- PEDIGREE packet (R180). -/
def execPedigreePacket (port : Fin 16) (pkt : Bytes) (s : State) : Res := .next (requestArrives s port Op.pedigree pkt)
/-- TEAM packet (R180). -/
def execTeamPacket (port : Fin 16) (pkt : Bytes) (s : State) : Res := .next (requestArrives s port Op.team pkt)

/-- A held ORDERED packet whose turn has come is applied (R179). -/
def orderedRelease (s : State) : State :=
  match s.htp.held.find? fun p => (s.csn p.src + 1) % 2 ^ 32 == p.seq with
  | some p => atTarget (s.updHtp fun h => { h with held := h.held.erase p }) p
  | none => s

/-- A held ORDERED packet is applied (R179). -/
def execOrderedRelease (s : State) : Res := .next (s.ifRuns (orderedRelease s))

/-! ### Multicast stores (R188) -/

/-- The member list of a group: a count and as many node numbers (R188); none where the count is out of range or the list cannot be
read. -/
def groupMembers (s : State) (g : Nat) : State × List Nat :=
  let (s, st, b) := s.readMem (s.base Reg.HTP_MC_BASE_LO + 2048 * g) 2048
  let n := fld b 0 2
  (s, if st = St.ok ∧ n ≤ 1023 then (List.range n).map fun i => fld b (2 + 2 * i) 2 else [])

/-- This module issues an MSTORE (R188): BOUNDS where the group's entry or list is empty; otherwise it takes the next group sequence,
counts as outstanding once at every listed member but this one, and leaves on the group's ports. The store is applied here where
LOCAL is 1 (R192). -/
def mstoreSend (s : State) (p : Pkt) : State × Nat :=
  let g := p.dst % 4096
  let e := s.htp.groups.getD g 0
  let (s, all) := groupMembers s g
  if !bit e 31 || all.isEmpty then (s, St.bounds)
  else
    let members := (all.filter (· != s.node)).eraseDups
    let ph := s.htp.phase
    let q : Pkt := { p with dst := g, src := s.node, opcode := Op.mstore, epoch := s.teamEpoch p.team, seq := s.htp.nextGseq,
                            hops := 0, fwd := false, rsv := 0, retx := false, key := 0, tse := s.nowH % 2 ^ 32 }
    let s := s.updHtp fun h => { h with
      nextGseq := (h.nextGseq + 1) % 2 ^ 32
      mstores := if members.isEmpty then h.mstores else h.mstores ++ [⟨q.seq, g, q, members, [], s.nowH, ph⟩] }
    let s := forEach members s fun s d => s.updDest d fun x => { x with t0 := x.t0 + b2n (!ph), t1 := x.t1 + b2n ph }
    let s := forEach (s.groupPorts q 16) (s.bump Reg.HTP_TX_PKTS) fun s i => s.portQueue i false q
    if bit e 30 then localStore s q.addr q.payload else (s, St.ok)

/-- An MSTORE of this module leaves, or waits for the quiet time to end (R174). -/
def mstoreIssue (s : State) (p : Pkt) : State :=
  if s.htp.quietDone then (mstoreSend s p).1 else s.updHtp fun h => { h with mstoreWait := h.mstoreWait ++ [p] }

/-- An MSTORE that arrives on a port: copies on the group's other ports, and the local store where LOCAL. -/
def mstoreArrives (s : State) (port : Nat) (bs : Bytes) : State :=
  match arriveColour s port (some Op.mstore) bs with
  | (s, none) => s
  | (s, some (p, yellow)) =>
    let e := s.htp.groups.getD (p.dst % 4096) 0
    if !bit e 31 then s
    else
      let ports := s.groupPorts p port
      let s := if ports.isEmpty then s
        else if p.hops = 63 then hopsEvent (s.bump Reg.HTP_HOPS) 0 p
        else forEach ports s fun s i => s.portQueue i yellow { p with hops := p.hops + 1 }
      if bit e 30 then requestGo s port s.nowH yellow p else s

/-- An MSTORE: one that bears this module's number and came in on no port is this module's own and is issued (DESIGN CHOICE, log 911). -/
def mstoreRow (s : State) (port : Nat) (bs : Bytes) : State :=
  match Pkt.parse bs with
  | some (p, _) =>
    if p.src = s.node ∧ !(s.port port).rxq.contains bs then mstoreIssue s p else mstoreArrives s port bs
  | none => mstoreArrives s port bs

/-- MSTORE (R188). -/
def execMstore (port : Fin 16) (pkt : Bytes) (s : State) : Res := .next (mstoreRow s port pkt)

/-- Members that have not answered within RTO are each sent a unicast STORE of the same data (R188). -/
def mstoreTimeout (s : State) : State :=
  let rto := s.fld Reg.HTP_RETX F.HTP_RETX_RTO
  forEach (s.htp.mstores.filter fun m => decide (m.sentAt + rto ≤ s.nowH)) s fun s m =>
    let late := m.members.filter fun d => !m.uni.contains d
    let s := s.updHtp fun h => { h with mstores := replaceIf (· == m) (fun m => { m with uni := m.uni ++ late }) h.mstores }
    forEach late s fun s d => s.sendReq d { m.pkt with opcode := Op.store, ordered := false } (.member m.gseq)

/-- MSTORE member timeout (R188). -/
def execMstoreMemberTimeout (s : State) : Res := .next (mstoreTimeout s)

/-- A member of an MSTORE has answered, or has been given up: its tally is counted off, and a fence of the store's phase learns
of a member given up (R185). -/
def memberDone (s : State) (gseq d : Nat) (lost : Bool) : State :=
  match s.htp.mstores.find? fun m => m.gseq == gseq && m.members.contains d with
  | none => s
  | some m =>
    let m' := { m with members := m.members.erase d }
    let s := s.updHtp fun h => { h with mstores :=
      if m'.members.isEmpty then h.mstores.erase m else replaceIf (· == m) (fun _ => m') h.mstores }
    s.updDest d fun x => { x with
      t0 := x.t0 - b2n (!m.phase), t1 := x.t1 - b2n m.phase
      lost0 := x.lost0 || (lost && !m.phase), lost1 := x.lost1 || (lost && m.phase) }

/-! ### Transit, SYNC at the target -/

/-- A packet for another node (R182). -/
def execTransitPacket (port : Fin 16) (pkt : Bytes) (s : State) : Res :=
  .next (if fld pkt 0 2 = s.node ∨ fld pkt 4 1 = Op.mstore then s else (arrive s port none pkt).1)

/-- SYNC at the target (R174): a new incarnation resets the pair. -/
def syncArrives (s : State) (port : Nat) (bs : Bytes) : State :=
  match arrive s port (some Op.sync) bs with
  | (s, none) => s
  | (s, some p) =>
    let inc := p.offset % 2 ^ 32
    let held := s.htp.rx.get? p.src
    let s := if held.any (·.incarn == inc) then s
      else
        let s := s.updHtp fun h => { h with rx := h.rx.put p.src { incarn := inc, csn := p.seq },
                                            held := h.held.filter (·.src != p.src) }
        if held.isSome then
          s.raise Tag.htp 0x0003 Sev.info p.src [inc % 256, inc / 256 % 256, inc / 65536 % 256, inc / 2 ^ 24]
        else s
    s.route 0 false { dst := p.src, src := s.node, opcode := Op.syncAck, path := p.path, flow := p.flow, seq := p.seq,
                      offset := s.reg Reg.HTP_INCARN, tse := p.tse }

/-- SYNC (R174). -/
def execSync (port : Fin 16) (pkt : Bytes) (s : State) : Res := .next (syncArrives s port pkt)

/-! ### Answers at the sender (R177, R190, R222) -/

/-- The window after a round trip of `rtt` ticks for a request last sent at `sent` (R190). -/
def ccUpdate (s : State) (x : Dest) (rtt sent : Nat) : Dest :=
  if !s.flag Reg.HTP_CTRL F.HTP_CTRL_CC_EN then x
  else
    let target := s.fld Reg.HTP_CC_TARGET F.HTP_CC_TARGET_TARGET
    let c := x.cwnd
    if rtt < target then
      { x with cwnd := min 1048576 (c + s.fld Reg.HTP_CC_PARAM F.HTP_CC_PARAM_AI * 4096 / c) }
    else if x.lastDecrease.any fun t => decide (sent < t) then x
    else
      let beta := s.fld Reg.HTP_CC_PARAM F.HTP_CC_PARAM_BETA
      { x with cwnd := max 256 (max (c / 2) (c * (256 * rtt - beta * (rtt - target)) / (256 * rtt))),
               lastDecrease := some s.nowH }

/-- With CC_EN = 0 the window of every destination stays at INIT (R190). -/
def ccStay (s : State) : State :=
  if s.flag Reg.HTP_CTRL F.HTP_CTRL_CC_EN then s
  else
    let w := s.fld Reg.HTP_CC_PARAM F.HTP_CC_PARAM_INIT * 256
    s.updHtp fun h => { h with dests := h.dests.map fun x => (x.1, { x.2 with cwnd := w }) }

/-- A request to a member given up: what the ledger and Pedigree waited for counts as answered (R111, R113, R143). -/
def controlLost (s : State) (d : Nat) (p : Pkt) : State :=
  if p.moff ≠ 0 then s
  else if p.opcode = Op.ledger ∧ fld p.payload 0 1 = 0x0C then closeAnswered s (Lm.handle p.payload) d
  else if p.opcode = Op.pedigree ∧ Pm.kind p.payload = Pm.attach then
    attachAnswered s (Lm.handle p.payload) d St.memberLost
  else if p.opcode = Op.pedigree ∧ Pm.kind p.payload = Pm.keep then
    let f := fun (x : Insert) => { x with waiting := x.waiting.erase d }
    s.updPed fun q => { q with inserts := replaceIf (·.handle == Lm.handle p.payload) f q.inserts }
  else s

/-- A refused message is sent once more, under the epoch current now (R222). -/
def sendAgain (s : State) (d : Nat) (r : Req) : State :=
  s.enqueueReq d { pkt := { r.pkt with epoch := s.teamEpoch r.pkt.team, retx := false }, origin := r.origin, resent := true }

/-- A packet of a forwarded message has been answered or given up: the first given up loses the message, the last ends the forward
(R220, R221). -/
def forwardMsgDone (s : State) (d : Nat) (p : Pkt) (lost : Bool) : State :=
  match s.htp.msgForwards.find? fun f => f.node == d && f.flow == p.flow with
  | none => s
  | some f =>
    let f' := { f with left := f.left - 1, lost := f.lost || lost }
    let s := s.updHtp fun h => { h with msgForwards := (replaceIf (· == f) (fun _ => f') h.msgForwards).filter (·.left != 0) }
    let s := if f'.left = 0 then oldCount s f.team (· - 1) else s
    if lost && !f.lost then s.raise Tag.tem 0x0006 Sev.contained f.team [p.opcode, 0, d % 256, d / 256] else s

/-- The issuer of a request is told of its answer, or of its being given up. -/
def finishReq (s : State) (d : Nat) (r : Req) (status : Nat) (data : Bytes) (lost : Bool) : State :=
  let again := !lost && status == St.epochStale && !r.resent
  match r.origin with
  | .silent => s
  | .bar2Store .. | .bar2Load .. => hostAnswer s r.origin status data
  | .tier _ => s.updHtp fun h => { h with answered := h.answered ++ [(r.origin, status, data)] }
  | .rread _ =>
    if again then sendAgain s d r
    else s.updHtp fun h => { h with answered := h.answered ++ [(r.origin, if lost then St.memberLost else St.ok, [])] }
  | .pace k => if status = St.ok ∧ s.flag Reg.RNS_CTRL F.RNS_CTRL_LAG_EN then paceMedian s k (fld data 0 4) else s
  | .control =>
    if lost then controlLost s d r.pkt else if again then sendAgain s d r else s
  | .rcmd id =>
    s.updTem fun t => { t with rcmds := (replaceIf (·.1 == id) (fun x => (x.1, x.2 - 1)) t.rcmds).filter (·.2 != 0) }
  | .member gseq => memberDone s gseq d lost
  | .forward p =>
    let s := oldCount s p.team (· - 1)
    answer (s.updHtp fun h => { h with forwards := h.forwards.erase p }) p (if lost then St.memberLost else status) data
  | .forwardMsg => forwardMsgDone s d r.pkt lost

/-- A request is no longer outstanding: its tally is counted off (R185). -/
def countOff (x : Dest) (r : Req) : Dest :=
  { x with out := x.out.erase r, t0 := x.t0 - b2n (!r.phase), t1 := x.t1 - b2n r.phase }

/-- Re-SYNC after a target has lost its state (R174). -/
def resync (s : State) (d : Nat) : State :=
  let x := s.dest d
  match x.out with
  | [] => s
  | r :: rs =>
    if x.sync != .done then s
    else
      let ahead := fun (q : Nat) => (q + 2 ^ 32 - r.pkt.seq) % 2 ^ 32
      let oldest := rs.foldl (fun m q => if 2 ^ 31 ≤ ahead q.pkt.seq then min m (ahead q.pkt.seq) else m) (2 ^ 32)
      s.emitSync d ((r.pkt.seq + oldest + 2 ^ 32 - 1) % 2 ^ 32)

/-- An answer reaches the sender (R177): the request is counted off, the window learns its round trip, its issuer is told. -/
def takeAnswer (s : State) (p : Pkt) : State :=
  let d := p.src
  if p.opcode = Op.ack ∧ p.mc then
    if s.htp.mstores.any fun m => m.gseq == p.seq && m.members.contains d && !m.uni.contains d then
      (memberDone s p.seq d false).pumpAll d
    else s
  else match (s.dest d).out.find? (·.pkt.seq == p.seq) with
    | none => s
    | some r =>
      if p.unsync then resync s d
      else
        let x := s.dest d
        let rtt := (s.nowH % 2 ^ 32 + 2 ^ 32 - p.tse) % 2 ^ 32
        let sample := r.sends == 1 && r.pathEpoch == x.pathEpoch
        let s := s.updDest d fun x =>
          let x := countOff x r
          if sample then { ccUpdate s x rtt r.lastSend with rtt := rtt } else x
        (finishReq s d r p.status p.payload false).pumpAll d

/-- An answer packet arrives on a port. -/
def answerArrives (s : State) (port op : Nat) (bs : Bytes) : State :=
  match arrive s port (some op) bs with
  | (s, none) => s
  | (s, some p) => takeAnswer s p

/-- ACK at the sender (R177). -/
def execAck (port : Fin 16) (pkt : Bytes) (s : State) : Res := .next (answerArrives s port Op.ack pkt)
/-- LOAD_RESP at the sender (R177). -/
def execLoadResp (port : Fin 16) (pkt : Bytes) (s : State) : Res := .next (answerArrives s port Op.loadResp pkt)
/-- ATOMIC_RESP at the sender (R177). -/
def execAtomicResp (port : Fin 16) (pkt : Bytes) (s : State) : Res := .next (answerArrives s port Op.atomicResp pkt)

/-- Every outstanding request is sent again with its own SEQ (R174). -/
def resendAll (s : State) (d : Nat) : State :=
  forEach (s.dest d).out s fun s r =>
    let (s, r') := s.emitReq d r true
    (s.updDest d fun x => { x with out := replaceIf (· == r) (fun _ => r') x.out }).bump Reg.HTP_RETX_TALLY

/-- SYNC_ACK at the sender (R174): accepted only for the SYNC outstanding. -/
def syncAckArrives (s : State) (port : Nat) (bs : Bytes) : State :=
  match arrive s port (some Op.syncAck) bs with
  | (s, none) => s
  | (s, some p) =>
    match (s.dest p.src).sync with
    | .sent q _ _ =>
      if q.seq = p.seq then
        (resendAll (s.updDest p.src fun x => { x with sync := .done }) p.src).pumpAll p.src
      else s
    | _ => s

/-- SYNC_ACK (R174). -/
def execSyncAck (port : Fin 16) (pkt : Bytes) (s : State) : Res := .next (syncAckArrives s port pkt)

/-! ### Timeouts and give-up (R174, R177, R190, R224) -/

/-- A request is given up: MEMBER_LOST to its issuer, HTP 0x0002, and its team members' teams end. -/
def giveUp (s : State) (d : Nat) (r : Req) : State :=
  let s := s.bump Reg.HTP_GIVEUP
  let a := if isMessage r.pkt.opcode then r.pkt.moff else r.pkt.addr
  let s := s.raise Tag.htp 0x0002 Sev.contained (d * 2 ^ 48 + a)
    [r.pkt.opcode, r.sends - 1, r.pkt.flow % 256, r.pkt.flow / 256]
  let s := if r.sends = 0 then s
    else s.updDest d fun x => { x with lost0 := x.lost0 || !r.phase, lost1 := x.lost1 || r.phase }
  nodeLost (finishReq s d r St.memberLost [] true) d

/-- A retransmission timeout of a request sent under the current path epoch (R183, R190). -/
def pathTimeout (s : State) (x : Dest) (r : Req) : Dest :=
  if r.pathEpoch = x.pathEpoch then
    { x with cwnd := if s.flag Reg.HTP_CTRL F.HTP_CTRL_CC_EN then max 256 (x.cwnd / 2) else x.cwnd,
             pathEpoch := (x.pathEpoch + 1) % 65536 }
  else x

/-- The timer of request `seq` to a destination (R177). -/
def retransmit (s : State) (d seq : Nat) : State :=
  match (s.dest d).out.find? (·.pkt.seq == seq) with
  | none => s
  | some r =>
    if s.nowH < r.lastSend + s.fld Reg.HTP_RETX F.HTP_RETX_RTO * 2 ^ (r.sends - 1) then s
    else
      let s := s.updDest d fun x => pathTimeout s x r
      if s.fld Reg.HTP_RETX F.HTP_RETX_RETRY_MAX < r.sends then
        (giveUp (s.updDest d fun x => countOff x r) d r).pumpAll d
      else
        let (s, r') := s.emitReq d r true
        (s.updDest d fun x => { x with out := replaceIf (· == r) (fun _ => r') x.out }).bump Reg.HTP_RETX_TALLY

/-- A SYNC unanswered is sent again unchanged, or given up with all that waits behind it, sent before or not (R174). -/
def syncTimeout (s : State) (d : Nat) : State :=
  match (s.dest d).sync with
  | .sent p sends at' =>
    if s.nowH < at' + s.fld Reg.HTP_RETX F.HTP_RETX_RTO * 2 ^ (sends - 1) then s
    else if s.fld Reg.HTP_RETX F.HTP_RETX_RETRY_MAX < sends then
      let out := (s.dest d).out
      let waiting := (s.dest d).waiting
      let s := s.updDest d fun x => { x with sync := .none, waiting := [] }
      forEach waiting (forEach out s fun s r => giveUp (s.updDest d fun x => countOff x r) d r) fun s r => giveUp s d r
    else (s.updDest d fun x => { x with sync := .sent p (sends + 1) s.nowH }).route 0 false p
  | _ => s

/-- SYNC timeout (R174). -/
def execSyncTimeout (node : Fin 65536) (s : State) : Res := .next (syncTimeout s node)

/-- The quiet time ends 10 ms after NC_RESET_L rose, which started the tick: SYNCs start for waiting requests, and Courier's packets
and MSTOREs leave (R174, R188, R203). -/
def quietEnd (s : State) : State :=
  if s.nowH < 10000000 then s
  else
  let ms := s.htp.mstoreWait
  let s := s.updHtp fun h => { h with quietDone := true, mstoreWait := [] }
  let s := forEach ms s mstoreIssue
  let s := forEach (s.htp.dests.filter fun x => !x.2.waiting.isEmpty) s fun s x => s.startSync x.1
  forEach (s.cou.conns.filter fun x => !x.2.waiting.isEmpty) s fun s x => couPumpAll s x.1

/-- Quiet time ends (R174). -/
def execQuietTimeEnd (s : State) : Res := .next (quietEnd s)

/-- Packets that waited more than 100 µs at a port output, or for parked memory, are discarded (R184, R316). -/
def ageOut (s : State) (port : Nat) : State :=
  let late := s.htp.parked.filter fun x => x.1 == port && decide (x.2.stamp + 100000 < s.nowH)
  let s := forEach late s fun s x =>
    let s := localLeave (s.updHtp fun h => { h with parked := h.parked.erase x }) x.2.pkt x.2.stamp
    hopsEvent (s.bump Reg.HTP_AGED) 1 x.2.pkt
  let old := (s.port port).txq.filter fun it => decide (it.stamp + 100000 < s.nowH)
  forEach old s fun s it =>
    let s := portLeave (s.updPort port fun x => { x with txq := x.txq.erase it }) port it
    hopsEvent (s.bump Reg.HTP_AGED) 1 it.pkt

/-- Queue age discard (R184). -/
def execQueueAgeDiscard (port : Fin 16) (s : State) : Res := .next (ageOut s port)

/-! ### Fences (R185) -/

/-- A write of HTP_FENCE: GO starts a fence unless one is busy. -/
def fenceGo (s : State) (data : Nat) : State :=
  let busy := s.flag Reg.HTP_FENCE F.HTP_FENCE_BUSY
  let s := s.rawWrite Reg.HTP_FENCE data
  if !s.flag Reg.HTP_FENCE F.HTP_FENCE_GO then s
  else
    let s := s.setFld Reg.HTP_FENCE F.HTP_FENCE_GO 0
    if busy then s
    else
      let scope := if s.flag Reg.HTP_FENCE F.HTP_FENCE_ALL then none else some (s.fld Reg.HTP_FENCE F.HTP_FENCE_NODE)
      (s.setFld Reg.HTP_FENCE F.HTP_FENCE_BUSY 1).updHtp fun h => { h with phase := !h.phase, fence := some scope }

/-- A write of HTP_FENCE (R185). -/
def execHtpFenceGo (data : Word) (s : State) : Res := .next (fenceGo s data.toNat)

/-- The fence in progress completes once the old phase's tallies are zero over its scope (R185). -/
def fenceComplete (s : State) : State :=
  match s.htp.fence with
  | none => s
  | some scope =>
    let old := !s.htp.phase
    let inScope := s.htp.dests.filter fun x => scope.all (· == x.1)
    if inScope.any fun x => (if old then x.2.t1 else x.2.t0) != 0 then s
    else
      let lost := inScope.any fun x => if old then x.2.lost1 else x.2.lost0
      let s := forEach inScope s fun s x => s.updDest x.1 fun x =>
        { x with lost0 := x.lost0 && old, lost1 := x.lost1 && !old }
      let s := s.updHtp fun h => { h with fence := none }
      let s := s.setFld Reg.HTP_FENCE F.HTP_FENCE_BUSY 0
      let s := s.setFld Reg.HTP_FENCE F.HTP_FENCE_STATUS (if lost then St.memberLost else St.ok)
      if s.flag Reg.HTP_FENCE F.HTP_FENCE_DONE then s else (s.setFld Reg.HTP_FENCE F.HTP_FENCE_DONE 1).msixRaise 17

/-- Fence completes (R185). -/
def execFenceComplete (s : State) : Res := .next (fenceComplete s)

/-! ### Route and group tables (R182, R188) -/

/-- A write of HTP_ROUTE_DATA: the entry is stored, IDX advances, and the path epoch of the destination with it (R183). -/
def routeWrite (s : State) (data : Nat) : State :=
  let i := s.fld Reg.HTP_ROUTE_IDX F.HTP_ROUTE_IDX_IDX
  let s := s.updHtp fun h => { h with routes := if data = 0 then h.routes.del i else h.routes.put i data }
  let s := s.setFld Reg.HTP_ROUTE_IDX F.HTP_ROUTE_IDX_IDX (i + 1)
  s.updDest i fun x => { x with pathEpoch := (x.pathEpoch + 1) % 65536 }

/-- A write of HTP_ROUTE_DATA (R182). -/
def execRouteDataWrite (data : Word) (s : State) : Res := .next (routeWrite s data.toNat)

/-- A write of HTP_MC_DATA: the group entry is stored and IDX advances. -/
def groupWrite (s : State) (data : Nat) : State :=
  let i := s.fld Reg.HTP_MC_IDX F.HTP_MC_IDX_IDX
  let s := s.updHtp fun h => { h with groups := if data = 0 then h.groups.del i else h.groups.put i data }
  s.setFld Reg.HTP_MC_IDX F.HTP_MC_IDX_IDX (i + 1)

/-- A write of HTP_MC_DATA (R188). -/
def execMcDataWrite (data : Word) (s : State) : Res := .next (groupWrite s data.toNat)

end Sys2Proof.Machine
end

