-- ==== Sys2Proof/Machine/Nvme.lean ====
section
/-!
DEFINITION. Machine/Nvme.lean: the vault root port's NVMe queues (R260): submission and completion entries and PRP lists in local
HBM at PKH_VQ_BASE. Their bytes follow NVMe 2.0 and their places in the 1 MiB are the model's (log 1309).
-/
namespace Sys2Proof.Machine

/-- Change Packhorse's state. -/
def State.updPkh (s : State) (f : Packhorse → Packhorse) : State := { s with pkh := f s.pkh }

/-- Change the vault's state. -/
def State.updVault (s : State) (f : Vault → Vault) : State := s.updPkh fun p => { p with vault := f p.vault }

/-! ### Queues -/

/-- A queue pair; one not used since the controller was enabled is empty. -/
def State.vaultQueue (s : State) (q : Nat) : VaultQueue := s.pkh.vault.queues.getD q {}

/-- Entries of a queue: 32 of the admin queue, up to 256 of an I/O queue, limited by CAP.MQES (R260). -/
def State.vaultDepth (s : State) (q : Nat) : Nat := if q = 0 then 32 else min 256 (s.pkh.vault.mqes + 1)

/-- Where queue q lies: submission entries, then completion entries, then PRP lists. -/
def State.vaultQueueAt (s : State) (q : Nat) : Nat := s.base Reg.PKH_VQ_BASE_LO + 0x8000 * q
/-- Completion entries of queue q. -/
def State.vaultCqAt (s : State) (q : Nat) : Nat := s.vaultQueueAt q + 0x4000
/-- The PRP list of a slot of queue q. -/
def State.vaultPrpAt (s : State) (q slot : Nat) : Nat := s.vaultQueueAt q + 0x5000 + 32 * slot

/-- The submission queue is full: NVMe leaves one entry empty. -/
def State.vaultFull (s : State) (q : Nat) : Bool :=
  decide (((s.vaultQueue q).tail + 1) % s.vaultDepth q = (s.vaultQueue q).head)

/-! ### Commands (Table PKH-8) -/

/-- The queue of a command: the admin queue, or an I/O queue by its identifier. -/
def State.nvmeQueue (s : State) (c : NvmeCmd) : Nat :=
  if c.io then 1 + c.cid % (s.fld Reg.PKH_VAULT_CTRL F.PKH_VAULT_CTRL_NIOQ + 1) else 0

/-- The 64 bytes of a submission entry: PRP entries of 4 KiB memory pages, a list for a page move, and no SGL. -/
def submission (c : NvmeCmd) (list : Nat) : Bytes :=
  toLE 4 (c.opcode + c.cid * 2 ^ 16) ++ toLE 4 c.nsid ++ zeros 16 ++ toLE 8 c.buf ++ toLE 8 (if c.move then list else 0) ++
    toLE 4 c.cdw10 ++ toLE 4 c.cdw11 ++ toLE 4 c.cdw12 ++ zeros 12

/-- A command takes its queue's next slot: the PRP list of a page move, the entry, and the doorbell. -/
def nvmePlace (s : State) (c : NvmeCmd) : State :=
  let n := s.nvmeQueue c
  let q := s.vaultQueue n
  let slot := q.tail % s.vaultDepth n
  let list := s.vaultPrpAt n slot
  let s := if c.move then s.poke list (toLE 8 (c.buf + 4096) ++ toLE 8 (c.buf + 8192) ++ toLE 8 (c.buf + 12288)) else s
  let s := s.poke (s.vaultQueueAt n + 64 * slot) (submission c list)
  let s := s.updVault fun v =>
    { v with queues := v.queues.put n { q with tail := (slot + 1) % s.vaultDepth n }, sent := v.sent ++ [{ c with data := [] }] }
  s.emit (.vaultCmd n c.opcode c.cid (c.cdw10 + c.cdw11 * 2 ^ 32) c.cdw12 c.data)

/-- A command is placed, or waits in order: for room in its queue, on an I/O queue for the queues' creation, and while the crossing to
VAULT is closed, which the unit finds full (R287). -/
def nvmeGo (s : State) (c : NvmeCmd) : State :=
  if s.shut 5 1 0 || (s.pkh.vault.waiting.any fun w => s.nvmeQueue w == s.nvmeQueue c) || s.vaultFull (s.nvmeQueue c) ||
      (c.io && s.pkh.vault.ops.any fun o => o.2.1 == .create) then
    s.updVault fun v => { v with waiting := v.waiting ++ [c] }
  else nvmePlace s c

/-- Waiting commands that now have room are placed. -/
def nvmeDrain (s : State) : State :=
  forEach s.pkh.vault.waiting (s.updVault fun v => { v with waiting := [] }) nvmeGo

/-- A vault command is issued (R260) with the next identifier. -/
def vaultSend (s : State) (use : VaultUse) (c : NvmeCmd) : State × Nat :=
  let cid := s.pkh.vault.cid
  let s := s.updVault fun v => { v with cid := (cid + 1) % 65536, ops := v.ops ++ [(cid, use, s.now)] }
  (nvmeGo s { c with cid := cid }, cid)

/-- A data buffer the spec gives no place to: a free address. -/
def State.nvmeBuf (s : State) : State × Nat :=
  let (r, s) := s.draw
  (s, r % hbmPages * pageBytes)

/-- Identify: the controller or namespace 1. -/
def vaultIdent (s : State) (cns : Nat) : State :=
  let (s, b) := s.nvmeBuf
  (vaultSend s .admin { opcode := 0x06, nsid := 1 - cns, buf := b, cdw10 := cns }).1

/-- Set Features: Number of Queues. -/
def vaultFeatures (s : State) (n : Nat) : State :=
  (vaultSend s .admin { opcode := 0x09, nsid := 0, cdw10 := 0x07, cdw11 := (n - 1) * (2 ^ 16 + 1) }).1

/-- Create I/O Completion Queue q, IEN = 0, and Create I/O Submission Queue q, both physically contiguous. -/
def vaultCreate (s : State) (q : Nat) : State :=
  let size := (s.vaultDepth q - 1) * 2 ^ 16 + q
  let (s, _) := vaultSend s .create { opcode := 0x05, nsid := 0, buf := s.vaultCqAt q, cdw10 := size, cdw11 := 1 }
  (vaultSend s .create { opcode := 0x01, nsid := 0, buf := s.vaultQueueAt q, cdw10 := size, cdw11 := q * 2 ^ 16 + 1 }).1

/-- Get Log Page: SMART / Health Information, 512 bytes. -/
def vaultSmart (s : State) : State :=
  let (s, b) := s.nvmeBuf
  (vaultSend s .admin { opcode := 0x02, nsid := 0xFFFFFFFF, buf := b, cdw10 := 127 * 2 ^ 16 + 0x02 }).1

/-- Format NVM, SES = 0; the LBA format index is the cartridge's, free. -/
def vaultFormatCmd (s : State) : State :=
  let (r, s) := s.draw
  (vaultSend s .format { opcode := 0x80, cdw10 := r % 16 }).1

/-- Flush. -/
def vaultFlush (s : State) : State := (vaultSend s .flush { io := true, opcode := 0x00 }).1

/-- Read or Write of vault page k: four LBAs, data at local offset `buf`. -/
def vaultPage (s : State) (opcode k : Nat) (buf : Option Nat) (data : Bytes) : State × Nat :=
  let (s, b) := match buf with
    | some b => (s, b)
    | none => s.nvmeBuf
  vaultSend s .page { io := true, opcode := opcode, move := true, buf := b, cdw10 := 4 * k % 2 ^ 32,
                      cdw11 := 4 * k / 2 ^ 32, cdw12 := 3, data := data }

/-- Dataset Management, AD = 1, over ranges of LBAs (first, length). -/
def vaultTrim (s : State) (ranges : List (Nat × Nat)) : State :=
  let (s, b) := s.nvmeBuf
  (vaultSend s .dealloc
    { io := true, opcode := 0x09, buf := b, cdw10 := ranges.length - 1, cdw11 := 4,
      data := ranges.flatMap fun r => zeros 4 ++ toLE 4 r.2 ++ toLE 8 r.1 }).1

/-- Ranges that cover LBA `lo` to `hi` − 1, each up to 2³² − 1 LBAs. -/
def lbaRanges : Nat → Nat → Nat → List (Nat × Nat)
  | 0, _, _ => []
  | fuel + 1, lo, hi => if hi ≤ lo then [] else (lo, min (hi - lo) (2 ^ 32 - 1)) :: lbaRanges fuel (lo + (2 ^ 32 - 1)) hi

/-- The deallocation of the whole cartridge that entering READY owes (R262). -/
def vaultWipe (s : State) : State :=
  if s.pkh.vault.wipe then
    vaultTrim (s.updPkh fun p => { p with vault := { p.vault with wipe := false } }) (lbaRanges 256 0 s.pkh.vault.cap)
  else s

/-! ### The controller -/

/-- The controller is enabled: admin queue of 32 entries, CC.MPS 4 KiB (Table PKH-8). -/
def vaultEnable (s : State) : State :=
  let s := s.emit (.vaultReg 0x24 (31 + 31 * 2 ^ 16))
  let s := s.emit (.vaultReg 0x28 (s.vaultQueueAt 0))
  let s := s.emit (.vaultReg 0x30 (s.vaultCqAt 0))
  s.emit (.vaultReg 0x14 (1 + 6 * 2 ^ 16 + 4 * 2 ^ 20))

/-- The cartridge posts the completion entry of a command with the phase tag, and Packhorse takes it: a slot of the submission queue is
free again. The failure status is the cartridge's, free and not zero. -/
def nvmePost (s : State) (c : NvmeCmd) (ok : Bool) : State :=
  let n := s.nvmeQueue c
  let q := s.vaultQueue n
  let depth := s.vaultDepth n
  let head := (q.head + 1) % depth
  let slot := q.cq % depth
  let (r, s) := s.draw
  let status := if ok then 0 else 1 + r % 0x7FFE
  let s := s.poke (s.vaultCqAt n + 16 * slot)
    (zeros 8 ++ toLE 2 head ++ toLE 2 n ++ toLE 2 c.cid ++ toLE 2 (b2n q.phase + 2 * status))
  s.updVault fun v =>
    { v with queues := v.queues.put n { q with head := head, cq := (slot + 1) % depth, phase := q.phase != decide (slot + 1 = depth) },
             sent := v.sent.filter (·.cid != c.cid) }

/-- Every command is forgotten and the queues are empty: the controller is off. -/
def vaultForget (s : State) : State := s.updVault fun v => { v with ops := [], waiting := [], sent := [], queues := [] }

end Sys2Proof.Machine
end

