-- ==== Sys2Proof/Machine/Pkh.lean ====
section
/-!
DEFINITION. Machine/Pkh.lean: Packhorse's maps, tier pages, moves of KV pages (R246–R252) and commands (R254).
-/
namespace Sys2Proof.Machine

/-! ### Maps and places (R245, R246) -/

namespace Vs
def absent : Nat := 0
def attaching : Nat := 1
def ready : Nat := 2
def readOnly : Nat := 3
def detaching : Nat := 4
def detached : Nat := 5
def failed : Nat := 6
end Vs

/-- STATE of the vault. -/
def State.vaultState (s : State) : Nat := s.fld Reg.PKH_VAULT_STATUS F.PKH_VAULT_STATUS_STATE

namespace Mp
def base (e : Bytes) : Nat := fld e 0 8
def v (e : Bytes) : Bool := bit (fld e 8 4) 31
def npages (e : Bytes) : Nat := bits (fld e 8 4) 20 0
def node (e : Bytes) : Nat := fld e 12 2
def team (e : Bytes) : Nat := fld e 14 2 % 4096
end Mp

/-- Map entry e (Table PKH-2). -/
def State.mapEntry (s : State) (e : Nat) : Bytes := s.pkh.maps.getD e (zeros 16)

/-- Pages of a tier that exist; the vault's only up to CAP_LBAS ÷ 4 (R245, R262). -/
def State.pagesOf (s : State) (t : Nat) : Nat := if t = 3 then min (s.tierPages 3) (s.pkh.vault.cap / 4) else s.tierPages t

/-- Map entry of page k of tier 1 or 2. -/
def mapOf (t k : Nat) : Nat := 64 * (t - 1) + k / 2 ^ 20

/-- Page k of tier t is backed (R246). -/
def State.backed (s : State) (t k : Nat) : Bool :=
  decide (k < s.pagesOf t) && (t == 3 || (Mp.v (s.mapEntry (mapOf t k)) && decide (k % 2 ^ 20 < Mp.npages (s.mapEntry (mapOf t k)))))

/-- What a page access is for: a write, a read, or the read of a page that leaves its tier. -/
inductive TierUse where
  | write
  | read
  | leave
  deriving DecidableEq, Repr

/-- The vault serves an access (Table PKH-10): while DETACHING it answers the reads of evacuation alone. -/
def State.vaultOpen (s : State) (w : TierUse) : Bool :=
  s.vaultState == Vs.ready || (w != .write && s.vaultState == Vs.readOnly) || (w == .leave && s.vaultState == Vs.detaching)

/-- Where a page index lies, for an access. -/
def State.locate (s : State) (page : Nat) (w : TierUse) : Loc :=
  match tierOf page with
  | some (0, _) => .hbm (page * pageBytes)
  | some (1, k) =>
    let e := s.mapEntry (mapOf 1 k)
    if s.backed 1 k then .remote (Mp.node e) (Mp.team e) (Mp.base e % 2 ^ 48 + pageBytes * (k % 2 ^ 20)) else .nowhere
  | some (2, k) => if s.backed 2 k then .host (Mp.base (s.mapEntry (mapOf 2 k)) + pageBytes * (k % 2 ^ 20)) else .nowhere
  | some (3, k) => if s.backed 3 k && s.vaultOpen w then .vault k else .nowhere
  | _ => .nowhere

/-! ### Page accesses -/

/-- The local offset of a page of HBM. -/
def localPage (page : Nat) : Option Nat := if isHbm page then some (page * pageBytes) else none

/-- A number for a remote access. -/
def nextIo (s : State) : State × Nat := (s.updPkh fun p => { p with ioId := p.ioId + 1 }, s.pkh.ioId)

/-- A page read begins: four LOADs, a vault Read, a host read, or local lines at once; `buf` is the local page the data is for. -/
def readStart (s : State) (l : Loc) (buf : Option Nat) : State × Io :=
  match l with
  | .hbm o =>
    let (s, st, d) := s.readMem o pageBytes
    (s, .got st d)
  | .remote node team o =>
    let (s, ps) := forEach (List.range 4) (s, []) fun (s, ps) i =>
      let (s, id) := nextIo s
      (s.sendLoad node team (o + 4096 * i) 4096 (.tier id), ps ++ [(id, none)])
    (s, .remote ps)
  | .host _ => if s.hostOpen then (s, .host) else (s.blocked, .got St.uncorrectable [])
  | .vault k =>
    let (s, cid) := vaultPage s 0x02 k buf []
    (s, .vault cid)
  | .nowhere => (s, .got St.tierFail [])

/-- A page write begins: four STOREs, a vault Write, a host write, or local lines at once; `buf` is the local page of the data. -/
def writeStart (s : State) (l : Loc) (data : Bytes) (buf : Option Nat) : State × Io :=
  match l with
  | .hbm o =>
    let (s, st) := s.writeMem o data
    (s, .got st [])
  | .remote node team o =>
    let (s, ps) := forEach (List.range 4) (s, []) fun (s, ps) i =>
      let (s, id) := nextIo s
      (s.sendStore node team (o + 4096 * i) (slice data (4096 * i) 4096) (.tier id), ps ++ [(id, none)])
    (s, .remote ps)
  | .host a => (s.hostWrite a data, if s.hostOpen then .host else .got St.tierFail [])
  | .vault k =>
    let (s, cid) := vaultPage (vaultWipe s) 0x01 k buf data
    (s, .vault cid)
  | .nowhere => (s, .got St.tierFail [])

/-- A host access is answered by what its completion returned (R267). -/
def hostGot (r : Option HostRead) : Io :=
  match r with
  | some (.data d) => .got St.ok (padTo pageBytes d)
  | some .poisoned => .got St.poisoned []
  | some .timeout => .got St.uncorrectable []
  | none => .host

/-- Take the answers that have come for an access; `r` is what a host read returned. -/
def ioPoll (s : State) (io : Io) (r : Option HostRead) : State × Io :=
  match io with
  | .remote ps =>
    let (s, ps) := forEach ps (s, []) fun (s, acc) (id, x) =>
      match x with
      | some a => (s, acc ++ [(id, some a)])
      | none => match s.takeAnswer (.tier id) with
        | some (s, st, d) => (s, acc ++ [(id, some (st, d))])
        | none => (s, acc ++ [(id, none)])
    if ps.any (·.2.isNone) then (s, .remote ps)
    else
      let bad := ps.any fun x => x.2.any fun a => a.1 != St.ok
      (s, if bad then .got St.tierFail [] else .got St.ok (ps.flatMap fun x => (x.2.getD (0, [])).2))
  | .vault cid =>
    match s.pkh.vault.answers.find? (·.1 == cid) with
    | some (_, ok, d) =>
      (s.updPkh fun p => { p with vault := { p.vault with answers := p.vault.answers.filter (·.1 != cid) } },
       .got (if ok then St.ok else St.tierFail) (padTo pageBytes d))
    | none => (s, io)
  | .host => (s, hostGot r)
  | .got .. => (s, io)

/-! ### Tier records and allocation (R247) -/

/-- STATE of the record of page k of tier t; a record that cannot be read counts as retired (Table FAR-3). -/
def State.trecStateAt (s : State) (t k : Nat) : Nat :=
  if s.lineStatus (lineOf (s.trecOff t k)) ≠ St.ok then 3 else trecState (s.trec t k).1

/-- The first FREE and backed page among `fuel` pages from k, wrapping at n. -/
def findFree (s : State) (t n : Nat) : Nat → Nat → Option Nat
  | 0, _ => none
  | fuel + 1, k => if s.trecStateAt t k = 0 ∧ s.backed t k then some k else findFree s t n fuel ((k + 1) % n)

/-- Allocate a page of tier t from its cursor. -/
def allocTier (s : State) (t : Nat) : State × Option Nat :=
  let n := s.pagesOf t
  if n = 0 ∨ (t = 3 ∧ !s.vaultOpen .write) then (s, none)
  else match findFree s t n n (s.pkh.cursors.getD t 0 % n) with
    | some k => (s.updPkh fun p => { p with cursors := p.cursors.put t ((k + 1) % n) }, some k)
    | none => (s, none)

/-- Allocate a page of the named tier, or of the first tier in ORDER0 to ORDER2 that has one (`skip` left out): its page index. -/
def allocOrder (s : State) (tier skip : Nat) : State × Option Nat :=
  let c := Reg.PKH_CTRL
  let order := if tier ≠ 0 then [tier]
    else [s.fld c F.PKH_CTRL_ORDER0, s.fld c F.PKH_CTRL_ORDER1, s.fld c F.PKH_CTRL_ORDER2].filter fun t => t != 0 && t != skip
  forEach order (s, none) fun (s, got) t =>
    match got with
    | some p => (s, some p)
    | none => match allocTier s t with
      | (s, some k) => (s, some (tierBase t + k))
      | (s, none) => (s, none)

/-- The record of a tier page becomes KV with its table place (Table PKH-3). -/
def setKv (s : State) (page : Nat) (shared : Bool) (root pair first : Nat) : State :=
  match tierOf page with
  | some (t, k) => s.setTrec t k (2 ^ 62 + b2n shared * 2 ^ 61 + homeStall root * 2 ^ 54 + pair * 2 ^ 43 + root / pageBytes) first
  | none => s

/-- The record of a tier page becomes FREE or RETIRED. -/
def setRec (s : State) (page : Nat) (retired : Bool) : State :=
  match tierOf page with
  | some (t, k) =>
    let s := s.setTrec t k (if retired then 3 * 2 ^ 62 else 0) 0
    if retired ∧ t = 3 then s.bump Reg.PKH_VAULT_RETIRED else s
  | none => s

/-! ### List entries by FIRST (R91, R102) -/

/-- The entry of a pair whose FIRST is `first`: root line, index, PTE, shared. -/
def entryAt (s : State) (root pair first : Nat) : State × Option (Bytes × Nat × Nat × Bool) :=
  if !rootOk root then (s, none)
  else
    let (s, st, r) := s.readRoot root
    if st ≠ St.ok ∨ Root.state r = 0 ∨ Root.state r = 3 ∨ Root.pairs r ≤ pair then (s, none)
    else
      let (s, st, h) := s.readPair root r pair
      if st ≠ St.ok then (s, none)
      else match s.findPage h first with
        | (s, _, some (i, pte, f)) => (s, if f = first then some (r, i, pte, decide (i < Pair.nshared h)) else none)
        | (s, _, none) => (s, none)

/-- Set POISON in place in the entry found by FIRST, when it still names the page (R102): the table's HANDLE. -/
def poisonEntry (s : State) (root pair first page : Nat) : State × Option Nat :=
  match entryAt s root pair first with
  | (s, some (r, i, pte, _)) =>
    if ptePage pte ≠ page then (s, none)
    else
      let (s, _, h) := s.readPair root r pair
      let pte := setBits pte 62 62 1
      let s := if i = Pair.patchIdx h then s.poke (pairOff root r pair) (Pair.setPatch h i pte first)
        else s.poke (entryOff h i) (entryBytes pte first)
      (rebuildEdits s root, some (Root.handle r))
  | (s, none) => (s, none)

/-! ### Completions (R254) -/

/-- The Packhorse completion ring is enabled and full. -/
def pkhRingFull (s : State) : Bool :=
  s.flag Reg.PKH_CQ_CTRL F.PKH_CQ_CTRL_EN &&
    ringFull s.pkh.cqSlot (s.fld Reg.PKH_CQ_HEAD F.PKH_CQ_HEAD_HEAD) (s.fld Reg.PKH_CQ_CTRL F.PKH_CQ_CTRL_LOG2_SIZE)

/-- Write a completion entry and raise vector 19. -/
def pkhPush (s : State) (r : NmuDone) : State :=
  let s := s.ringWrite (s.base Reg.PKH_CQ_BASE_LO) (16 * s.pkh.cqSlot) (nmuEntry r s.pkh.cqPhase)
  let (slot, ph) := ringNext s.pkh.cqSlot (s.fld Reg.PKH_CQ_CTRL F.PKH_CQ_CTRL_LOG2_SIZE) s.pkh.cqPhase
  (s.updPkh fun p => { p with cqSlot := slot, cqPhase := ph }).msixRaise 19

/-- A command completes: its entry when CQE asks for one, held while the ring is full, and its INFO event. -/
def cmdDone (s : State) (c : PkhCmd) (status : Nat) : State :=
  let s := s.updPkh fun p => { p with cmds := p.cmds.filter (·.id != c.id) }
  let fl := fld c.desc 1 1
  let d := toLE 1 (fld c.desc 0 1) ++ toLE 1 0 ++ toLE 2 1 ++ toLE 4 (fld c.desc 4 4)
  let r : NmuDone := ⟨d, status, c.pages, if fld c.desc 0 1 = 4 then 0 else c.pages * pageBytes, false⟩
  let s := if !bit fl 0 || !s.flag Reg.PKH_CQ_CTRL F.PKH_CQ_CTRL_EN then s
    else if pkhRingFull s || !s.pkh.held.isEmpty then s.updPkh fun p => { p with held := p.held ++ [r] }
    else pkhPush s r
  if bit fl 1 then s.raise Tag.pkh Config.pkhEventCode Sev.info (fld c.desc 4 4) [] else s

/-- Held completions are written while the ring has room. -/
def pkhFlush : Nat → State → State
  | 0, s => s
  | fuel + 1, s =>
    match s.pkh.held with
    | [] => s
    | r :: rs => if pkhRingFull s then s else pkhFlush fuel (pkhPush (s.updPkh fun p => { p with held := rs }) r)

/-- A write of PKH_CQ_HEAD frees slots. -/
def pkhCqHead (s : State) (data : Nat) : State :=
  pkhFlush s.pkh.held.length (s.setFld Reg.PKH_CQ_HEAD F.PKH_CQ_HEAD_HEAD data)

/-- A write of PKH_CQ_HEAD (R254). -/
def execPkhCqHeadWrite (data : Word) (s : State) : Res := .next (pkhCqHead s data.toNat)

/-- The first status, by entry, that is not OK. -/
def firstBad (rs : Tab Nat) : Nat :=
  match rs.find? (·.2 != St.ok) with
  | some (_, st) => st
  | none => St.ok

/-- An entry of a DEMOTE or PROMOTE has ended; the command completes with its last. -/
def cmdEntry (s : State) (id i status : Nat) : State :=
  match s.pkh.cmds.find? (·.id == id) with
  | none => s
  | some c =>
    let c' : PkhCmd := { c with left := c.left - 1, results := c.results.put i status, pages := c.pages + b2n (status == St.ok) }
    if c'.left = 0 then cmdDone s c' (firstBad c'.results)
    else s.updPkh fun p => { p with cmds := replaceIf (·.id == id) (fun _ => c') p.cmds }

/-! ### Moves (R248–R252) -/

/-- The move brings a page to HBM. -/
def Move.promotes (m : Move) : Bool := isHbm m.dst

/-- Keep a move with changed progress. -/
def State.setMove (s : State) (m : Move) : State :=
  s.updPkh fun p => { p with moves := replaceIf (·.id == m.id) (fun _ => m) p.moves }

/-- A TRUNCATE that waits for a promotion which fails completes with TIER_FAIL and the table's EPOCH (R100, R250). -/
def truncFail (s : State) (page : Nat) : State :=
  forEach (s.kvp.edits.filter fun e => e.promoting == some page) s fun s e =>
    let (s, _, r) := s.readRoot (Ed.root e.desc)
    editEnd s e St.tierFail (Root.epoch r) 0

/-- A page of a DETACHING vault that no move places gets POISON in its PTE, and its record is RETIRED (R264). -/
def strand (s : State) (root pair first page : Nat) : State :=
  match poisonEntry s root pair first page with
  | (s, some _) => (setRec s page true).updPkh fun p => { p with vault := { p.vault with poisoned := p.vault.poisoned + 1 } }
  | (s, none) => s

/-- A move ends: the page it did not use is given back, its commands are told, and a completed promotion returns SPILLED nodes
to LIVE (R248, R249, R250). -/
def moveEnd (s : State) (m : Move) (status : Nat) : State :=
  let s := s.updPkh fun p => { p with moves := p.moves.filter (·.id != m.id) }
  let s :=
    if status = St.ok then
      let s := s.bump (if m.promotes then Reg.PKH_PROMOTES else Reg.PKH_DEMOTES)
      if m.promotes then
        let (s, st, r) := s.readRoot m.root
        if st = St.ok then holderPromoted s (Root.handle r) else s
      else s
    else
      let s := if m.promotes then s.freePage m.dst else if status = St.tierFail then s else setRec s m.dst false
      let s := if m.promotes then truncFail s m.src else s
      if status = St.noEffect ∨ s.vaultState ≠ Vs.detaching ∨ (tierOf m.src).all (·.1 != 3) then s else strand s m.root m.pair m.first m.src
  forEach m.cmds s fun s (id, i) => cmdEntry s id i status

/-- The REPLACE of a move is submitted when the entry still names the page (R248 step 4); the hold tag of a promoted Coinpack page is
set before (R249 step 3). -/
def moveReplace (s : State) (m : Move) : State :=
  match entryAt s m.root m.pair m.first with
  | (s, none) => moveEnd s m St.noEffect
  | (s, some (r, i, pte, _)) =>
    if ptePage pte ≠ m.src then moveEnd s m St.noEffect
    else
      let n := Root.nkvh r
      let d := Ed.make Ed.opReplace (some (Root.epoch r)) m.root (Root.layer0 r + m.pair / n) (Root.kvh0 r + m.pair % n) 0 i
        (pteSetPage pte m.dst)
      let s := if m.promotes && pteCpk pte then s.tagPage m.dst (pteSlot pte) else s
      let s := s.setMove { m with stage := .editing, tries := m.tries + 1, data := [] }
      editSubmit s (homeStall m.root) d (.packhorse m.id)

/-- The read or write of a move fails, or is too late (R252, R263). -/
def moveFail (s : State) (m : Move) (retry : Bool) : State :=
  let s := s.bump Reg.PKH_TIER_FAIL
  if m.stage = .writing then
    let shared := (tierOf m.dst).any fun x => bit (s.trec x.1 x.2).1 61
    let s := setRec s m.dst true
    let vault := (tierOf m.dst).any (·.1 == 3)
    if retry ∧ vault ∧ !m.again then
      match allocTier s 3 with
      | (s, some k) =>
        let dst := tierBase 3 + k
        let s := setKv s dst shared m.root m.pair m.first
        let (s, io) := writeStart s (s.locate dst .write) m.data (localPage m.src)
        s.setMove { m with dst := dst, io := io, again := true, start := s.now }
      | (s, none) => moveEnd s m St.tierFail
    else moveEnd s m St.tierFail
  else
    let t := (tierOf m.src).elim 0 (·.1)
    let s := if m.promotes then s else setRec s m.dst false
    match poisonEntry s m.root m.pair m.first m.src with
    | (s, h) => moveEnd (s.raise Tag.pkh 0x0004 Sev.contained (h.getD 0) [t, 0, 0, 0]) m St.tierFail

/-- A move goes on as far as what has come allows; `r` is what a host access returned. -/
def moveAdvance (s : State) (m : Move) (r : Option HostRead) : State :=
  match m.stage with
  | .editing =>
    match s.kvp.done.find? fun d => d.origin == .packhorse m.id with
    | none => s
    | some d =>
      let s := { s with kvp := { s.kvp with done := s.kvp.done.erase d } }
      if d.status = St.epochStale ∧ m.tries < 4 then moveReplace s m else moveEnd s m d.status
  | .reading =>
    match ioPoll s m.io r with
    | (s, .got st d) =>
      if st ≠ St.ok then moveFail s m true
      else if m.promotes then
        let (s, st) := s.writeMem (m.dst * pageBytes) d
        if st ≠ St.ok then moveEnd s m st else moveReplace s m
      else
        let (s, io) := writeStart s (s.locate m.dst .write) d none
        s.setMove { m with stage := .writing, io := io, data := d, start := s.now }
    | (s, io) => s.setMove { m with io := io }
  | .writing =>
    match ioPoll s m.io r with
    | (s, .got st _) => if st ≠ St.ok then moveFail s m true else moveReplace s m
    | (s, io) => s.setMove { m with io := io }

/-- A demotion begins (R248 steps 1 to 3); the entry's status when it ends at once. -/
def demoteStart (s : State) (root pair first tier : Nat) (spill : Bool) (cmds : List (Nat × Nat)) : State :=
  let fin := fun (s : State) (st : Nat) => forEach cmds s fun s (id, i) => cmdEntry s id i st
  match entryAt s root pair first with
  | (s, none) => fin s St.bounds
  | (s, some (_, _, pte, shared)) =>
    let page := ptePage pte
    if ptePoison pte ∨ !isHbm page ∨ (s.pkh.moves.any fun m => m.src == page || m.dst == page) then fin s St.noEffect
    else match allocOrder s tier 0 with
      | (s, none) => fin s St.bounds
      | (s, some dst) =>
        let s := setKv s dst shared root pair first
        let (s, st, d) := s.readMem (page * pageBytes) pageBytes
        if st ≠ St.ok then fin (setRec s dst false) st
        else
          let id := s.pkh.moveId
          let (s, io) := writeStart s (s.locate dst .write) d (localPage page)
          s.updPkh fun p => { p with moveId := id + 1, moves := p.moves ++
            [{ id := id, root := root, pair := pair, first := first, src := page, dst := dst, stage := .writing, io := io,
               data := if (tierOf dst).any (·.1 == 3) then d else [], cmds := cmds, start := s.now,
               spill := spill }] }

/-- Promotions in flight. -/
def State.promoting (s : State) : Nat := (s.pkh.moves.filter Move.promotes).length

/-- A promotion begins, joins one already running for the page, or is dropped (R249, R250). One for a page that is on its way to another
tier ends NO_EFFECT, as a demotion of a page that is being moved does (R248, DEDUCED, log 1313). -/
def promoteStart (s : State) (root pair first page : Nat) (cmds : List (Nat × Nat)) : State :=
  let fin := fun (s : State) (st : Nat) => forEach cmds s fun s (id, i) => cmdEntry s id i st
  match s.pkh.moves.find? fun m => m.src == page with
  | some m => if m.promotes then s.setMove { m with cmds := m.cmds ++ cmds } else fin s St.noEffect
  | none =>
    if 256 ≤ s.promoting then fin (s.bump Reg.PKH_PROMOTE_DROP) St.noEffect
    else match entryAt s root pair first with
      | (s, none) => fin s St.noEffect
      | (s, some (r, _, pte, _)) =>
        if ptePage pte ≠ page ∨ isHbm page ∨ ptePoison pte then fin s St.noEffect
        else match s.allocPage (homeStall root) (Root.handle r) with
          | (s, none) => truncFail (fin s St.bounds) page
          | (s, some dst) =>
            let id := s.pkh.moveId
            let (s, io) := readStart s (s.locate page .leave) (localPage dst)
            s.updPkh fun p => { p with moveId := id + 1, moves := p.moves ++
              [{ id := id, root := root, pair := pair, first := first, src := page, dst := dst, stage := .reading, io := io,
                 cmds := cmds, start := s.now }] }

/-! ### Commands (R254) -/

/-- A command is staged for its turn, or discarded with OVERFLOW. -/
def pkhGo (s : State) : State :=
  if 16 ≤ s.pkh.cmds.length then s.setFld Reg.PKH_STATUS F.PKH_STATUS_OVERFLOW 1
  else s.updPkh fun p => { p with cmdId := p.cmdId + 1, cmds := p.cmds ++
    [{ id := p.cmdId, desc := s.staged (Reg.PKH_CMD 0) 16 }] }

/-- A write of PKH_CMD_GO (R254). -/
def execPkhCmdGo (data : Word) (s : State) : Res := .next (if bit data.toNat 0 then pkhGo s else s)

namespace Pc
def op (d : Bytes) : Nat := fld d 0 1
def n (d : Bytes) : Nat := fld d 2 2
def root (d : Bytes) : Nat := fld d 8 8
def layer (d : Bytes) : Nat := fld d 16 2
def kvh (d : Bytes) : Nat := fld d 18 1
def tier (d : Bytes) : Nat := fld d 19 1
def index (d : Bytes) : Nat := fld d 20 4
def src (d : Bytes) : Nat := fld d 24 8
def dst (d : Bytes) : Nat := fld d 32 8
def len (d : Bytes) : Nat := fld d 40 4
end Pc

/-- The command of an operation whose turn it is: the first queued, when none of its kind runs; one with a reserved OP is
taken by any kind. -/
def cmdTurn (s : State) (op : Nat) : Option PkhCmd :=
  if s.pkh.cmds.any fun c => c.running && Pc.op c.desc == op then none
  else s.pkh.cmds.find? fun c => Pc.op c.desc == op || Pc.op c.desc == 0 || decide (4 < Pc.op c.desc)

/-- The list entries a DEMOTE or PROMOTE names: pair and FIRST of each with its PTE. -/
def cmdEntries (s : State) (d : Bytes) : State × Nat × Nat × List (Nat × Nat) :=
  let root := Pc.root d
  if !rootOk root ∨ Pc.n d = 0 ∨ 4096 < Pc.n d then (s, St.bounds, 0, [])
  else
    let (s, st, r) := s.readRoot root
    if st ≠ St.ok then (s, st, 0, [])
    else if Root.state r ≠ Root.live then (s, St.bounds, 0, [])
    else match pairIdx r (Pc.layer d) (Pc.kvh d) with
      | none => (s, St.bounds, 0, [])
      | some k =>
        let (s, st, h) := s.readPair root r k
        if st ≠ St.ok then (s, st, 0, [])
        else if Pair.npages h < Pc.index d + Pc.n d then (s, St.bounds, 0, [])
        else
          let (s, st, es) := s.readEntries (Pc.n d) h (Pc.index d) []
          (s, st, k, es)

/-- A DEMOTE or PROMOTE runs: every entry is started, and the command completes when the last of them ends. -/
def moveCmd (s : State) (c : PkhCmd) (start : State → Nat → Nat × Nat → List (Nat × Nat) → State) : State :=
  let d := c.desc
  if Pc.op d = 0 ∨ 4 < Pc.op d ∨ s.role ≠ roleC ∨ 3 < Pc.tier d then cmdDone s c St.rights
  else
    let (s, st, k, es) := cmdEntries s d
    if st ≠ St.ok then cmdDone s c st
    else
      let go := fun (c : PkhCmd) => { c with running := true, left := es.length }
      let s := s.updPkh fun p => { p with cmds := replaceIf (·.id == c.id) go p.cmds }
      forEach es.zipIdx s fun s (e, i) => start s k e [(c.id, i)]

/-- A DEMOTE's turn, or a page Pedigree spills (R248, R253). -/
def demoteTurn (s : State) : State :=
  if s.walk || !s.flag Reg.PKH_CTRL F.PKH_CTRL_DEMOTE_EN then s
  else match cmdTurn s 1 with
    | some c => moveCmd s c fun s k e cs => demoteStart s (Pc.root c.desc) k e.2 (Pc.tier c.desc) false cs
    | none =>
      match s.ped.spills with
      | [] => s
      | (root, k, first) :: rest => demoteStart (s.updPed fun p => { p with spills := rest }) root k first 0 true []

/-- A DEMOTE command (R248). -/
def execDemote (s : State) : Res := .next (s.ifRuns (demoteTurn s))

/-- A PROMOTE's turn (R249). -/
def promoteTurn (s : State) : State :=
  if !s.flag Reg.PKH_CTRL F.PKH_CTRL_PROMOTE_EN then s
  else match cmdTurn s 2 with
    | some c => moveCmd s c fun s k e cs => promoteStart s (Pc.root c.desc) k e.2 (ptePage e.1) cs
    | none => s

/-- A PROMOTE command (R249). -/
def execPromote (s : State) : Res := .next (s.ifRuns (promoteTurn s))

/-- The first promotion request of a walker, of Pedigree or of a TRUNCATE (R250). -/
def promotionRequest (s : State) : State :=
  if !s.flag Reg.PKH_CTRL F.PKH_CTRL_PROMOTE_EN then s
  else match s.kvp.promote with
    | [] => s
    | q :: rest => promoteStart { s with kvp := { s.kvp with promote := rest } } q.root q.pair q.first q.page []

/-- A promotion request (R250). -/
def execPromotionRequest (s : State) : Res := .next (s.ifRuns (promotionRequest s))

/-- The promotion of a tier page goes on: its read ends, or its REPLACE does (R249). -/
def execPromotionComplete (page : Nat) (read : HostRead) (s : State) : Res :=
  .next (s.ifRuns (match s.pkh.moves.find? fun m => m.src == page && !isHbm page with
    | some m => moveAdvance s m (some read)
    | none => s))

/-- The demotion to a tier page goes on: its copy ends, or its REPLACE does (R248). -/
def execDemotionCopyComplete (page : Nat) (s : State) : Res :=
  .next (s.ifRuns (match s.pkh.moves.find? fun m => m.dst == page && !isHbm page && m.stage != .reading with
    | some m => moveAdvance s m (some (.data []))
    | none => s))

/-- A tier read or write has failed or is later than PKH_VAULT_TMO (R252). -/
def tierIoFail (s : State) (page : Nat) : State :=
  match s.pkh.moves.find? fun m => (m.src == page || m.dst == page) && m.stage != .editing with
  | none => s
  | some m =>
    match ioPoll s m.io none with
    | (s, .got st d) => if st ≠ St.ok then moveFail s m true else s.setMove { m with io := .got st d }
    | (s, io) =>
      if io = .host ∨ m.start + s.reg Reg.PKH_VAULT_TMO ≤ s.now then moveFail s m true else s.setMove { m with io := io }

/-- A tier access fails (R252). -/
def execTierIoFail (page : Nat) (s : State) : Res := .next (s.ifRuns (tierIoFail s page))

/-! ### COPY and FREE -/

/-- A COPY address names host memory. -/
def isHostAddr (a : Nat) : Bool := bit a 63

/-- Page i of a COPY range, for a read or a write. -/
def copyLoc (s : State) (a i : Nat) (w : TierUse) : Loc :=
  if isHostAddr a then .host (a % 2 ^ 63 + pageBytes * i) else s.locate (a / pageBytes + i) w

/-- The local offset of page i of a COPY range in HBM. -/
def copyPage (a i : Nat) : Option Nat := if isHostAddr a then none else localPage (a / pageBytes + i)

/-- A range of n pages is aligned and lies within existing pages of one tier. -/
def copyRange (s : State) (a n : Nat) : Bool :=
  decide (a % pageBytes = 0) && (isHostAddr a || match tierOf (a / pageBytes) with
    | some (0, k) => decide (k + n ≤ hbmPages)
    | some (t, k) => decide (k + n ≤ s.pagesOf t)
    | none => false)

/-- The tier of a COPY or FREE address above HBM, and its page there. -/
def copyTier (a : Nat) : Option (Nat × Nat) :=
  if isHostAddr a then none else (tierOf (a / pageBytes)).filter (·.1 != 0)

/-- A COPY begins: its checks, and the claim of the FREE pages of a tier range as WEIGHT. -/
def copyBegin (s : State) (c : PkhCmd) : State :=
  let d := c.desc
  let n := Pc.len d / pageBytes
  if Pc.op d = 0 ∨ 4 < Pc.op d then cmdDone s c St.rights
  else if Pc.len d % pageBytes ≠ 0 ∨ !copyRange s (Pc.src d) n ∨ !copyRange s (Pc.dst d) n then cmdDone s c St.bounds
  else
    let go := fun (c : PkhCmd) => { c with running := true }
    let run := s.updPkh fun p => { p with cmds := replaceIf (·.id == c.id) go p.cmds }
    match copyTier (Pc.dst d) with
    | none => run
    | some (t, k) =>
      if (rangeFrom k n).any fun k => s.trecStateAt t k == 1 || s.trecStateAt t k == 3 then cmdDone s c St.bounds
      else forEach (rangeFrom k n) run fun s k => if s.trecStateAt t k = 0 then s.setTrec t k (2 * 2 ^ 62) 0 else s

/-- Keep a command with changed progress. -/
def State.setCmd (s : State) (c : PkhCmd) : State :=
  s.updPkh fun p => { p with cmds := replaceIf (·.id == c.id) (fun _ => c) p.cmds }

/-- A tier read or write that failed is counted. -/
def tierCount (s : State) (st : Nat) : State := if st = St.tierFail then s.bump Reg.PKH_TIER_FAIL else s

/-- A vault Write of a COPY that failed retires its page (R263). -/
def copyRetire (s : State) (page : Nat) (io : Io) : State :=
  match io with
  | .vault _ => setRec s page true
  | _ => s

/-- The status a read or write gives a COPY: that of the access itself in HBM and at a host address, TIER_FAIL on a page of a tier
(Table GLB-3, R267). -/
def copyStatus (a st : Nat) : Nat :=
  if st ≠ St.ok ∧ !isHostAddr a ∧ !isHbm (a / pageBytes) then St.tierFail else st

/-- A COPY goes on page by page as far as what has come allows: one read or write of each page at a time. -/
def copyRun : Nat → State → PkhCmd → List HostRead → State
  | 0, s, c, _ => s.setCmd c
  | fuel + 1, s, c, reads =>
    let d := c.desc
    if Pc.len d / pageBytes ≤ c.pages then cmdDone s c St.ok
    else match c.io with
      | none =>
        let (s, io) := readStart s (copyLoc s (Pc.src d) c.pages .read) (copyPage (Pc.dst d) c.pages)
        copyRun fuel s { c with io := some (.reading, io) } reads
      | some (.reading, io) =>
        let used := io == .host
        match ioPoll s io (if used then reads.head? else none) with
        | (s, .got st x) =>
          let st := copyStatus (Pc.src d) st
          if st ≠ St.ok then cmdDone (tierCount s st) c st
          else
            let (s, io) := writeStart s (copyLoc s (Pc.dst d) c.pages .write) x (copyPage (Pc.src d) c.pages)
            copyRun fuel s { c with io := some (.writing, io) } (if used then reads.drop 1 else reads)
        | (s, io) => s.setCmd { c with io := some (.reading, io) }
      | some (_, io) =>
        match ioPoll s io (some (.data [])) with
        | (s, .got st _) =>
          if st ≠ St.ok then cmdDone (copyRetire (tierCount s st) (Pc.dst d / pageBytes + c.pages) io) c st else copyRun fuel s { c with io := none, pages := c.pages + 1 } reads
        | (s, io) => s.setCmd { c with io := some (.writing, io) }

/-- A COPY's turn: it begins (not at WALK), or goes on. -/
def copyTurn (s : State) (reads : List HostRead) : State :=
  let s := match cmdTurn s 3 with
    | some c => if s.walk then s else copyBegin s c
    | none => s
  match s.pkh.cmds.find? fun c => c.running && Pc.op c.desc == 3 with
  | some c => copyRun (3 * (Pc.len c.desc / pageBytes) + 3) s c reads
  | none => s

/-- A COPY command; `reads` are the host pages that have been read for it (R254). -/
def execCopy (reads : List HostRead) (s : State) : Res := .next (s.ifRuns (copyTurn s reads))

/-- A FREE's turn: WEIGHT pages of the range become FREE. -/
def freeTurn (s : State) : State :=
  match cmdTurn s 4 with
  | none => s
  | some c =>
    let d := c.desc
    let n := Pc.len d / pageBytes
    if Pc.op d = 0 ∨ 4 < Pc.op d then cmdDone s c St.rights
    else match copyTier (Pc.dst d) with
      | none => cmdDone s c St.bounds
      | some (t, k) =>
        if Pc.len d % pageBytes ≠ 0 ∨ !copyRange s (Pc.dst d) n then cmdDone s c St.bounds
        else
          let ks := (rangeFrom k n).filter fun k => s.trecStateAt t k == 2
          let s := forEach ks s fun s k => s.setTrec t k 0 0
          cmdDone s { c with pages := ks.length } St.ok

/-- A FREE command (R254). -/
def execFree (s : State) : Res := .next (s.ifRuns (freeTurn s))

/-! ### Map and model entries (R246, R255) -/

/-- Pages of tier t with a listed record, from its records' memory. -/
def listedPages (s : State) (t : Nat) : List Nat :=
  let lo := s.trecOff t 0
  let hi := lo + 16 * s.tierPages t
  (s.mem.filter fun c => decide (lo ≤ c.1) && decide (c.1 < hi)).foldl
    (fun ks c => let k := (c.1 - lo) / 16
                 if ks.getLast? = some k then ks else ks ++ [k]) []

/-- A write of PKH_MAP_DATA3 stores the map entry unless one of its pages is in use (R246). -/
def mapWrite (s : State) (data : Nat) : State :=
  let s := s.rawWrite (Reg.PKH_MAP_DATA 3) data
  let i := s.fld Reg.PKH_MAP_IDX F.PKH_MAP_IDX_IDX
  let t := if i < 64 then 1 else 2
  if (listedPages s t).any fun k => mapOf t k == i && (s.trecStateAt t k == 1 || s.trecStateAt t k == 2) then
    s.setFld Reg.PKH_STATUS F.PKH_STATUS_MAP_BUSY 1
  else s.updPkh fun p => { p with maps := p.maps.put i (s.staged (Reg.PKH_MAP_DATA 0) 4) }

/-- A write of PKH_MAP_DATA3 (R246). -/
def execPkhMapWrite (data : Word) (s : State) : Res := .next (mapWrite s data.toNat)

/-- A read of PKH_MAP_DATA0 loads the four registers. -/
def mapRead (s : State) : State := s.fillRegs (Reg.PKH_MAP_DATA 0) (s.mapEntry (s.fld Reg.PKH_MAP_IDX F.PKH_MAP_IDX_IDX))

/-- Model entry i (Table PKH-5). -/
def State.modelEntry (s : State) (i : Nat) : Bytes := s.pkh.models.getD i (zeros 16)

/-- A write of PKH_MODEL_DATA3 stores the model entry. -/
def modelWrite (s : State) (data : Nat) : State :=
  let s := s.rawWrite (Reg.PKH_MODEL_DATA 3) data
  let i := s.fld Reg.PKH_MODEL_IDX F.PKH_MODEL_IDX_IDX
  s.updPkh fun p => { p with models := p.models.put i (s.staged (Reg.PKH_MODEL_DATA 0) 4) }

/-- A write of PKH_MODEL_DATA3 (R255). -/
def execPkhModelWrite (data : Word) (s : State) : Res := .next (modelWrite s data.toNat)

/-- A read of PKH_MODEL_DATA0 loads the four registers. -/
def modelRead (s : State) : State :=
  s.fillRegs (Reg.PKH_MODEL_DATA 0) (s.modelEntry (s.fld Reg.PKH_MODEL_IDX F.PKH_MODEL_IDX_IDX))

end Sys2Proof.Machine
end

