-- ==== Sys2Proof/Machine/Ticket.lean ====
section
/-!
DEFINITION. Machine/Ticket.lean: weight staging: ticket rings (R256), tickets (R257) and fills (R258).
-/
namespace Sys2Proof.Machine

namespace Tk
def op (t : Bytes) : Nat := fld t 0 1
def model (t : Bytes) : Nat := fld t 1 1
def layer (t : Bytes) : Nat := fld t 2 2
def tag (t : Bytes) : Nat := fld t 4 4
def reply (t : Bytes) : Nat := fld t 8 8
def buf (t : Bytes) : Nat := fld t 16 2
def team (t : Bytes) : Nat := fld t 64 2
end Tk

namespace Me
def nlayers (e : Bytes) : Nat := fld e 0 2
def ahead (e : Bytes) : Nat := fld e 2 1
def v (e : Bytes) : Bool := bit (fld e 3 1) 7
def ltab (e : Bytes) : Nat := fld e 8 8 % 2 ^ 48
end Me

/-! ### Records -/

/-- A ticket completes: its record goes to REPLY, and a status other than OK is reported (Table PKH-7, R265). -/
def ticketDone (s : State) (t : Bytes) (status waddr len buf : Nat) : State :=
  let s := s.bump Reg.PKH_TICKETS
  let s := if status = St.tierLate then s.bump Reg.PKH_TIER_LATE else s
  let r := toLE 4 (Tk.tag t) ++ toLE 1 status ++ toLE 1 (Tk.model t) ++ toLE 2 (Tk.layer t) ++ toLE 8 waddr ++ toLE 4 len ++
    toLE 2 buf ++ zeros 2 ++ toLE 8 s.now ++ zeros 32
  let s := s.sendPut (Tk.reply t / 2 ^ 48) (Tk.team t) (Tk.reply t % 2 ^ 48) r .silent
  if status = St.ok then s
  else s.raise Tag.pkh 0x0005 Sev.contained (Tk.tag t) [status, Tk.model t, Tk.layer t % 256, Tk.layer t / 256]

/-- No buffer is pinned. -/
def noBuf : Nat := 0xFFFF

/-- Offset of weight buffer b. -/
def State.bufOff (s : State) (b : Nat) : Nat :=
  s.base Reg.PKH_WBUF_BASE_LO + b * s.fld Reg.PKH_WBUF_CFG F.PKH_WBUF_CFG_BUFSZ * pageBytes

/-- WADDR of an offset of this node. -/
def State.waddr (s : State) (off : Nat) : Nat := s.node * 2 ^ 48 + off

/-- Weight buffer b. -/
def State.wbuf (s : State) (b : Nat) : WBuf := s.pkh.bufs.getD b {}

/-- Change weight buffer b. -/
def State.updBuf (s : State) (b : Nat) (f : WBuf → WBuf) : State :=
  s.updPkh fun p => { p with bufs := p.bufs.put b (f (s.wbuf b)) }

/-- The full buffer that holds a layer. -/
def State.bufWith (s : State) (model layer : Nat) : Option Nat :=
  match s.pkh.bufs.find? fun x => x.2.layer == some (model, layer) && !x.2.filling with
  | some (b, _) => some b
  | none => none

/-! ### Layers (R255) -/

/-- What a ticket's layer is: refused, resident at an offset, or staged from a source. -/
inductive Layer where
  | refused (status : Nat)
  | resident (off len : Nat)
  | staged (src pages : Nat)
  deriving DecidableEq, Repr

/-- Read a layer descriptor (R255, R257 step 1). -/
def findLayer (s : State) (model layer : Nat) : State × Layer :=
  let e := s.modelEntry model
  if 64 ≤ model ∨ !Me.v e ∨ Me.nlayers e ≤ layer then (s, .refused St.bounds)
  else
    let (s, st, d) := s.readMem (Me.ltab e + 16 * layer) 16
    if st ≠ St.ok then (s.structLost Tag.pkh st model, .refused St.tierFail)
    else
      let src := fld d 0 8
      let len := fld d 8 4
      if src < hbmBytes then (s, .resident src len)
      else if s.fld Reg.PKH_WBUF_CFG F.PKH_WBUF_CFG_BUFSZ < len then (s, .refused St.bounds)
      else (s, .staged src len)

/-! ### Fills (R258) -/

/-- Start or join the fill of a layer that no full buffer holds. -/
def wantFill (s : State) (model layer src pages : Nat) (t : Option (Bytes × Nat)) : State :=
  match s.pkh.fills.find? fun f => f.model == model && f.layer == layer with
  | some f =>
    let f' : Fill := { f with waiting := f.waiting ++ t.toList }
    s.updPkh fun p => { p with fills := replaceIf (·.id == f.id) (fun _ => f') p.fills }
  | none => s.updPkh fun p => { p with fillId := p.fillId + 1, fills := p.fills ++
      [{ id := p.fillId, model := model, layer := layer, src := src, pages := pages, waiting := t.toList }] }

/-- Keep a fill with changed progress. -/
def State.setFill (s : State) (f : Fill) : State :=
  s.updPkh fun p => { p with fills := replaceIf (·.id == f.id) (fun _ => f) p.fills }

/-- The tier a fill reads. -/
def Fill.tier (f : Fill) : Nat := (tierOf (f.src / pageBytes)).elim 4 (·.1)

/-- The fill waits for a TICKET, not only for prefetches. -/
def Fill.urgent (f : Fill) : Bool := f.waiting.any fun w => Tk.op w.1 == 1

/-- The unpinned buffer, not being filled, with the oldest last-use tick. -/
def freeBuf (s : State) : Option Nat :=
  (List.range (s.fld Reg.PKH_WBUF_CFG F.PKH_WBUF_CFG_NBUF)).foldl (fun (b : Option Nat) i =>
    if (s.wbuf i).pin ≠ 0 ∨ (s.wbuf i).filling then b
    else match b with
      | none => some i
      | some j => if (s.wbuf i).last < (s.wbuf j).last then some i else b) none

/-- A fill's next page reads leave, up to 64 in flight; a source page that is not WEIGHT fails at once. -/
def fillIssue : Nat → State → Fill → State × Fill
  | 0, s, f => (s, f)
  | fuel + 1, s, f =>
    if f.pages ≤ f.next ∨ 64 ≤ f.ios.length then (s, f)
    else
      let page := f.src / pageBytes + f.next
      let weight := match tierOf page with
        | some (t, k) => decide (k < s.pagesOf t) && s.trecStateAt t k == 2
        | none => false
      let (s, io) := if weight then readStart s (s.locate page .read) (f.buf.map fun b => s.bufOff b + pageBytes * f.next) else (s, .got St.rights [])
      fillIssue fuel s { f with next := f.next + 1, ios := f.ios ++ [(f.next, io)] }

/-- A waiting fill starts when its tier is idle and a buffer is free: fills for tickets first, then in order (R258). -/
def fillStart (s : State) : State :=
  let able := s.pkh.fills.filter fun f => f.buf.isNone && !(s.pkh.fills.any fun g => g.buf.isSome && g.tier == f.tier)
  let pick := match able.find? Fill.urgent with
    | some f => some f
    | none => able.head?
  match pick, freeBuf s with
  | some f, some b =>
    let s := s.updBuf b fun x => { x with layer := some (f.model, f.layer), filling := true }
    let (s, f) := fillIssue 64 s { f with buf := some b }
    s.setFill f
  | _, _ => s

/-- A fill starts (R258). -/
def execFillStart (s : State) : Res := .next (s.ifRuns (fillStart s))

/-- Poll the accesses of a fill; pages that have come are written to its buffer. -/
def fillPoll (b : Nat) : List (Nat × Io) → State → List HostRead → List (Nat × Io) → Nat → Bool → State × List (Nat × Io) × Nat × Bool
  | [], s, _, left, done, bad => (s, left, done, bad)
  | (i, io) :: rest, s, reads, left, done, bad =>
    let used := io == .host
    match ioPoll s io (if used then reads.head? else none) with
    | (s, .got st d) =>
      let s := if st = St.ok then s.poke (s.bufOff b + pageBytes * i) d else tierCount s (if st = St.rights then st else St.tierFail)
      fillPoll b rest s (if used then reads.drop 1 else reads) left (done + 1) (bad || st != St.ok)
    | (s, io) => fillPoll b rest s reads (left ++ [(i, io)]) done bad

/-- A TICKET's deadline has passed: PKH_TIER_DL ticks after it was taken are over, the deadline's own tick among them (R257). -/
def ticketOver (s : State) (w : Bytes × Nat) : Bool := Tk.op w.1 == 1 && decide (w.2 + s.reg Reg.PKH_TIER_DL < s.now)

/-- A ticket that waited for a fill completes: a TICKET pins the buffer; for one whose deadline has passed, that came first. -/
def fillTell (s : State) (f : Fill) (status : Nat) (w : Bytes × Nat) : State :=
  if ticketOver s w then ticketDone s w.1 St.tierLate 0 0 noBuf
  else match f.buf, status == St.ok with
  | some b, true =>
    let pins := Tk.op w.1 == 1
    let s := s.updBuf b fun x => { x with pin := x.pin + b2n pins, last := s.now }
    ticketDone s w.1 St.ok (s.waddr (s.bufOff b)) (f.pages * pageBytes) (if pins then b else noBuf)
  | _, _ => ticketDone s w.1 status 0 0 noBuf

/-- A fill ends, full or failed (R257, R258). -/
def fillEnd (s : State) (f : Fill) (status : Nat) : State :=
  let s := s.updPkh fun p => { p with fills := p.fills.filter (·.id != f.id) }
  let s := match f.buf with
    | some b => s.updBuf b fun x => { x with filling := false, last := s.now, layer := if status = St.ok then x.layer else none }
    | none => s
  forEach f.waiting s fun s w => fillTell s f status w

/-- A fill goes on as far as what has come allows; `reads` are the host pages that have been read for it. -/
def fillAdvance (s : State) (f : Fill) (reads : List HostRead) : State :=
  match f.buf with
  | none => s
  | some b =>
    let (s, left, done, bad) := fillPoll b f.ios s reads [] f.done false
    if bad then fillEnd s f St.tierFail
    else
      let (s, f) := fillIssue 64 s { f with ios := left, done := done }
      if f.pages ≤ f.done then fillEnd s f St.ok else s.setFill f

/-- The fill of a layer goes on, and completes with its last page (R258). -/
def execFillComplete (model : Fin 64) (layer : Fin 1024) (reads : List HostRead) (s : State) : Res :=
  .next (s.ifRuns (match s.pkh.fills.find? fun f => f.model == model.val && f.layer == layer.val with
    | some f => fillAdvance s f reads
    | none => s))

/-! ### Tickets (R256, R257) -/

/-- The team whose span here holds a page: the one a ticket of that ring page is answered under (R256). -/
def teamOfPage (s : State) (page : Nat) : Nat :=
  match (List.range 16).find? fun k => s.flag (Reg.TEM_TEAM_STATUS k) F.TEM_TEAM_STATUS_VALID &&
      bit (s.fld (Reg.TEM_TEAM_SPAN k) F.TEM_TEAM_SPAN_GROUPS) (homeStall (page * pageBytes) / 8) with
  | some k => s.fld (Reg.TEM_TEAM_STATUS k) F.TEM_TEAM_STATUS_TEAM
  | none => 0

/-- Packhorse takes the next slot of a ring when its OP is not zero: the slot becomes zero, and the ticket is kept with the team
of its ring (R256). -/
def ticketTake (s : State) (r : Nat) : State :=
  let page := s.reg (Reg.PKH_TKT_RING r)
  if !s.flag Reg.PKH_CTRL F.PKH_CTRL_TICKET_EN || page == noPage then s
  else
    let i := s.pkh.rings.getD r 0
    let o := page * pageBytes + 64 * i
    let (s, st, d) := s.readMem o 64
    if st ≠ St.ok then s.structLost Tag.pkh st r
    else if Tk.op d = 0 then s
    else
      let s := s.poke o (zeros 64)
      s.updPkh fun p => { p with rings := p.rings.put r ((i + 1) % 64), taken := p.taken ++ [(d ++ toLE 2 (teamOfPage s page), s.now)] }

/-- A ticket is taken (R256). -/
def execTicketTake (ring : Fin 16) (s : State) : Res := .next (s.ifRuns (ticketTake s ring))

/-- The slots of a ring are taken as far as they are filled (R256). -/
def ticketTakeAll : Nat → State → Nat → State
  | 0, s, _ => s
  | fuel + 1, s, r =>
    let n := s.pkh.taken.length
    let s := ticketTake s r
    if s.pkh.taken.length = n then s else ticketTakeAll fuel s r

/-- Fills for the next `a` layers start, wrapping from the last to the first (R257 step 6). -/
def fillAhead (s : State) (model layer a : Nat) : State :=
  let n := Me.nlayers (s.modelEntry model)
  forEach (List.range a) s fun s i =>
    let l := (layer + 1 + i) % n
    if (s.bufWith model l).isSome then s
    else match findLayer s model l with
      | (s, .staged src pages) => wantFill s model l src pages none
      | (s, _) => s

/-- A TICKET (R257). -/
def ticketRun (s : State) (t : Bytes) (taken : Nat) : State :=
  if Tk.op t ≠ 1 then ticketDone s t St.rights 0 0 noBuf
  else match findLayer s (Tk.model t) (Tk.layer t) with
    | (s, .refused st) => ticketDone s t st 0 0 noBuf
    | (s, l) =>
      let s := match l with
        | .resident off len => ticketDone s t St.ok (s.waddr off) (len * pageBytes) noBuf
        | .staged src pages =>
          match s.bufWith (Tk.model t) (Tk.layer t) with
          | some b =>
            let s := s.updBuf b fun x => { x with pin := x.pin + 1, last := s.now }
            ticketDone s t St.ok (s.waddr (s.bufOff b)) (pages * pageBytes) b
          | none => wantFill s (Tk.model t) (Tk.layer t) src pages (some (t, taken))
        | .refused _ => s
      fillAhead s (Tk.model t) (Tk.layer t) (min 8 (Me.ahead (s.modelEntry (Tk.model t))))

/-- A PREFETCH: its record is written when its fill ends (R257). -/
def prefetchRun (s : State) (t : Bytes) (taken : Nat) : State :=
  match findLayer s (Tk.model t) (Tk.layer t) with
  | (s, .refused st) => ticketDone s t st 0 0 noBuf
  | (s, .resident off len) => ticketDone s t St.ok (s.waddr off) (len * pageBytes) noBuf
  | (s, .staged src pages) =>
    match s.bufWith (Tk.model t) (Tk.layer t) with
    | some b => ticketDone s t St.ok (s.waddr (s.bufOff b)) (pages * pageBytes) noBuf
    | none => wantFill s (Tk.model t) (Tk.layer t) src pages (some (t, taken))

/-- A RELEASE lowers the pin count of BUF (R257). -/
def releaseRun (s : State) (t : Bytes) : State :=
  let b := Tk.buf t
  if (s.wbuf b).pin = 0 then ticketDone s t St.noEffect 0 0 noBuf
  else ticketDone (s.updBuf b fun x => { x with pin := x.pin - 1 }) t St.ok 0 0 noBuf

/-- The first taken ticket that satisfies `p` is acted on. -/
def onTaken (s : State) (p : Nat → Bool) (go : State → Bytes → Nat → State) : State :=
  match s.pkh.taken.find? fun x => p (Tk.op x.1) with
  | some (t, at') => go (s.updPkh fun q => { q with taken := q.taken.erase (t, at') }) t at'
  | none => s

/-- A TICKET, or a ticket with a reserved OP (R257). -/
def execTicket (s : State) : Res := .next (s.ifRuns (onTaken s (fun op => op == 1 || decide (3 < op)) ticketRun))
/-- A PREFETCH (R257). -/
def execPrefetch (s : State) : Res := .next (s.ifRuns (onTaken s (· == 2) prefetchRun))
/-- A RELEASE (R257). -/
def execTicketRelease (s : State) : Res := .next (s.ifRuns (onTaken s (· == 3) fun s t _ => releaseRun s t))

/-- TICKETs whose deadline has passed complete with TIER_LATE; their fills go on (R257). -/
def ticketLate (s : State) : State :=
  forEach s.pkh.fills s fun s f =>
    let (late, rest) := f.waiting.partition (ticketOver s)
    if late.isEmpty then s
    else forEach late (s.setFill { f with waiting := rest }) fun s w => ticketDone s w.1 St.tierLate 0 0 noBuf

/-- Ticket deadline (R257). -/
def execTicketDeadline (s : State) : Res := .next (ticketLate s)

end Sys2Proof.Machine
end

