-- ==== Sys2Proof/Machine/Vault.lean ====
section
/-!
DEFINITION. Machine/Vault.lean: the vault (R260–R264): attach, life, completions, timeouts, deallocation, DETACH, FORMAT and
removal.
-/
namespace Sys2Proof.Machine

/-- STATE of the vault is set. -/
def State.setVault (s : State) (x : Nat) : State := s.setFld Reg.PKH_VAULT_STATUS F.PKH_VAULT_STATUS_STATE x

/-- Every record of the vault becomes FREE. -/
def vaultFreeAll (s : State) : State :=
  let lo := s.trecOff 3 0
  let hi := lo + 16 * s.tierPages 3
  let keep := fun (a : Nat) => decide (a < lo) || decide (hi ≤ a) || s.stallFailed (homeStall a)
  { s with mem := s.mem.filter fun c => keep c.1, dealloc := {} }

/-- Every vault operation in flight fails: moves end with TIER_FAIL, and COPY and fills learn of it when they go on. -/
def vaultFailOps (s : State) : State :=
  let ops := s.pkh.vault.ops
  let s := (vaultForget s).updVault fun v => { v with answers := v.answers ++ ops.map fun o => (o.1, false, []), flushed := none }
  let s := if ops.any (·.2.1 == .format) then s.setFld Reg.PKH_VAULT_CTRL F.PKH_VAULT_CTRL_FORMAT 0 else s
  let hit := s.pkh.moves.filter fun m => match m.io with
    | .vault cid => m.stage != .editing && ops.any (·.1 == cid)
    | _ => false
  let s := forEach hit s fun s m => moveFail s m false
  let fs := s.pkh.fills.filter fun f => f.ios.any fun x => match x.2 with
    | .vault cid => ops.any (·.1 == cid)
    | _ => false
  forEach fs s fun s f => fillAdvance s f []

/-- The controller is enabled and identified, at attach (Table PKH-8). -/
def vaultIdentify (s : State) : State :=
  vaultIdent (vaultIdent (vaultEnable s) 1) 0

/-- A cartridge that has gone, or a link that is down: operations fail, KV entries are poisoned, records become FREE (R264). Presence is
still detected where only the link went down. -/
def vaultGone (s : State) (present : Bool) : State :=
  let old := s.vaultState
  let s := s.setFld Reg.PKH_VAULT_STATUS F.PKH_VAULT_STATUS_PRESENT (b2n present)
  if old = Vs.absent then s
  else
    let s := s.setVault Vs.absent
    let s := vaultFailOps s
    let kv := (listedPages s 3).filter fun k => s.trecStateAt 3 k == 1
    let (s, n) := forEach kv (s, 0) fun (s, n) k =>
      let (w0, w1) := s.trec 3 k
      match poisonEntry s (w0 % 2 ^ 32 * pageBytes) (bits w0 53 43) (w1 % 2 ^ 32) (tierBase 3 + k) with
      | (s, some _) => (s, n + 1)
      | (s, none) => (s, n)
    let s := vaultFreeAll s
    let s := s.updVault fun v => { v with cap := 0, rated := 0, poisoned := 0, warned := false, wipe := false, ident := [] }
    let s := (s.emit (.pin "VAULT_PERST_L" false)).notice 5 1 0
    s.raise Tag.pkh 0x0002 Sev.degraded 0 [old, 0, n % 256, n / 256]

/-- Presence has changed: an ABSENT vault begins to attach, a lost one is gone (R262). -/
def vaultPresence (s : State) (present : Bool) : State :=
  if !present then vaultGone s false
  else
    let s := s.setFld Reg.PKH_VAULT_STATUS F.PKH_VAULT_STATUS_PRESENT 1
    if s.vaultState = Vs.absent then vaultIdentify (((s.setVault Vs.attaching).emit (.pin "VAULT_PERST_L" true)).releaseDomain 5) else s

/-- A debounced presence change (R262). -/
def execVaultPresence (present : Bool) (s : State) : Res := .next (vaultPresence s present)
/-- Surprise removal (R264). -/
def execVaultRemoval (s : State) : Res := .next (vaultGone s false)
/-- The vault link goes down (R262). -/
def execVaultLinkDown (s : State) : Res :=
  .next (vaultGone s (s.flag Reg.PKH_VAULT_STATUS F.PKH_VAULT_STATUS_PRESENT))

/-- Some vault key entry verifies the identity record's SIGNATURE over its bytes 0 to 511 (R356). -/
def vaultKeys : Nat → State → Bytes → State × Bool
  | 0, s, _ => (s, false)
  | k + 1, s, id =>
    let (s, st, e) := s.readMem (s.base Reg.ASY_VKEY_BASE_LO + 1024 * k) 1024
    if st = St.ok ∧ slice e 512 4 = toBE 4 65537 ∧ rsaVerify (slice e 0 512) (slice id 0 512) (slice id 512 512) then (s, true)
    else vaultKeys k s id

/-- The first check of R261 that fails, if any before Assay's. -/
def attachCheck (id : Bytes) (link lbaOk mdtsOk : Bool) (nsze : Nat) : Option Nat :=
  if !link then some 1
  else if !lbaOk then some 2
  else if !mdtsOk then some 3
  else if nsze < fld id 32 8 then some 4
  else if fld id 0 4 ≠ 0x564C5441 ∨ fld id 4 2 ≠ 1 then some 5
  else none

/-- The cartridge passed every check: READY with every record FREE and the cartridge deallocated (R262). -/
def vaultReady (s : State) (id : Bytes) (mqes : Nat) : State :=
  let n := s.fld Reg.PKH_VAULT_CTRL F.PKH_VAULT_CTRL_NIOQ + 1
  let s := s.updVault fun v => { v with mqes := mqes }
  let s := forEach (rangeFrom 1 n) (vaultFeatures s n) vaultCreate
  let s := s.updVault fun v =>
    { v with cap := fld id 32 8, rated := fld id 24 8, warned := false, poisoned := 0, flushed := none, ident := padTo 1024 id }
  let s := vaultFreeAll (s.setVault Vs.ready)
  let s := s.updVault fun v => { v with wipe := true }
  let s := if s.walk then s else vaultWipe s
  s.raise Tag.pkh 0x0001 Sev.info 0 [fld id 4 1, fld id 5 1, 0, 0]

/-- A check of R261 failed. -/
def vaultRefused (s : State) (k : Nat) : State := (s.setVault Vs.failed).raise Tag.pkh 0x0007 Sev.degraded 0 [k, 0, 0, 0]

/-- The attach ends (R261, R262, R356): READY, or FAILED at the first check that fails. -/
def vaultAttached (s : State) (id : Bytes) (link lbaOk mdtsOk : Bool) (nsze mqes : Nat) : State :=
  if s.vaultState ≠ Vs.attaching then s
  else match attachCheck id link lbaOk mdtsOk nsze with
    | some k => vaultRefused s k
    | none => match vaultKeys (s.fld Reg.ASY_VKEY_N F.ASY_VKEY_N_N) s id with
      | (s, false) => vaultRefused (s.bump Reg.ASY_VAULT_REJECT) 6
      | (s, true) => vaultReady s id mqes

/-- Attach completes: the identity record, and what the link, Identify and CAP.MQES gave (R260, R261). -/
def execVaultAttachComplete (ident : Bytes) (link lbaOk mdtsOk : Bool) (limits : VaultLimits) (s : State) : Res :=
  .next (vaultAttached s ident link lbaOk mdtsOk limits.nsze limits.mqes)

/-! ### Life (R263) -/

/-- USED in thousandths of rated life, saturating; RATED zero leaves it open. -/
def lifeUsed (s : State) (units : Nat) : State × Nat :=
  if s.pkh.vault.rated = 0 then
    let (r, s) := s.draw
    (s, r % 65536)
  else (s, min 65535 (units * 512000 * 1000 / s.pkh.vault.rated))

/-- A SMART / Health log page has been read (R263). -/
def smartRead (s : State) (log : Bytes) : State :=
  if s.vaultState < Vs.ready ∨ Vs.detaching < s.vaultState then s
  else
    let s := vaultSmart s
    let (s, used) := lifeUsed s (fld log 48 16)
    let s := s.setFld Reg.PKH_VAULT_LIFE F.PKH_VAULT_LIFE_USED used
    let s := if !s.pkh.vault.warned && decide (s.fld Reg.PKH_VAULT_LIFE F.PKH_VAULT_LIFE_WARN ≤ used) then
        (s.updVault fun v => { v with warned := true }).raise Tag.pkh 0x0006 Sev.info 0 [used % 256, used / 256, 0, 0]
      else s
    let smart := bit (fld log 0 1) 2 || bit (fld log 0 1) 3
    if s.vaultState = Vs.ready ∧ (1000 ≤ used ∨ smart) then
      (s.setVault Vs.readOnly).raise Tag.pkh 0x0003 Sev.degraded 0 [b2n (used < 1000), 0, used % 256, used / 256]
    else s

/-- SMART read (R263). -/
def execSmartRead (log : Bytes) (s : State) : Res := .next (smartRead s log)

/-! ### Completions and timeout (R260) -/

/-- An NVMe completion of a command that stands in its queue: a page move goes on with its outcome; Flush and Format are noted. -/
def vaultCompletion (s : State) (cid : Nat) (ok : Bool) (data : Bytes) : State :=
  match s.pkh.vault.sent.find? (·.cid == cid), s.pkh.vault.ops.find? (·.1 == cid) with
  | some c, some (_, use, _) =>
    let s := (nvmePost s c ok).updVault fun v => { v with ops := v.ops.filter (·.1 != cid) }
    let s := nvmeDrain s
    match use with
    | .page =>
      let s := s.updVault fun v => { v with answers := v.answers ++ [(cid, ok, data)] }
      match s.pkh.moves.find? fun m => m.io == .vault cid && m.stage != .editing with
      | some m => moveAdvance s m none
      | none => s
    | .flush => s.updVault fun v => { v with flushed := some ok }
    | .format => s.setFld Reg.PKH_VAULT_CTRL F.PKH_VAULT_CTRL_FORMAT 0
    | .dealloc | .create | .admin => s
  | _, _ => s

/-- An NVMe completion (R260); one that arrives on a closed crossing is discarded (R283). -/
def execVaultCompletion (cid : Fin 65536) (ok : Bool) (data : Bytes) (s : State) : Res :=
  .next (s.ifRuns (if s.shut 5 1 0 then s else vaultCompletion s cid ok data))

/-- A command later than PKH_VAULT_TMO: the controller is reset and attached again, and every operation in flight ends with
TIER_FAIL (R260). -/
def vaultTimeout (s : State) : State :=
  if s.pkh.vault.ops.any fun o => decide (o.2.2 + s.reg Reg.PKH_VAULT_TMO ≤ s.now) then
    vaultIdentify ((vaultFailOps (s.setVault Vs.attaching)).emit (.vaultReg 0x14 0))
  else s

/-- Vault command timeout (R260). -/
def execVaultCommandTimeout (s : State) : Res := .next (vaultTimeout s)

/-- The deallocation list is issued at 256 ranges, or 10 ms after its first (R263), behind the one that READY still owes; never at
WALK (R253). -/
def deallocIssue (s : State) : State :=
  let d := s.dealloc
  let due := decide (256 ≤ d.pages.length) || d.since.any fun t => decide (t + 10000000 ≤ s.now)
  if s.walk then s
  else if s.pkh.vault.wipe then vaultWipe s
  else if d.pages.isEmpty || !due || !s.vaultOpen .write then s
  else
    let now := d.pages.take 256
    let rest := d.pages.drop 256
    let s := vaultTrim s (now.map fun k => (4 * k, 4))
    { s with dealloc := ⟨rest, if rest.isEmpty then none else some s.now⟩ }

/-- Dataset Management is issued (R263). -/
def execDeallocateIssue (s : State) : Res := .next (s.ifRuns (deallocIssue s))

/-! ### DETACH and FORMAT (R264) -/

/-- One KV page of a DETACHING vault leaves: to HBM, or, when no HBM page is free, to another tier by ORDER (no demotion starts at
WALK, and none of a shared entry is allowed, R251, R253), or it is poisoned. -/
def evacuate (s : State) (k : Nat) : State :=
  let page := tierBase 3 + k
  let (w0, w1) := s.trec 3 k
  let root := w0 % 2 ^ 32 * pageBytes
  let pair := bits w0 53 43
  let first := w1 % 2 ^ 32
  if s.pkh.moves.any fun m => m.src == page then s
  else match entryAt s root pair first with
    | (s, none) =>
      let (s, st, r) := s.readRoot root
      if st ≠ St.ok ∨ Root.state r = 0 ∨ Root.state r = 3 then setRec s page true else s
    | (s, some (r, _, pte, shared)) =>
      let go := fun (s : State) (dst : Nat) =>
        let id := s.pkh.moveId
        let (s, io) := readStart s (s.locate page .leave) (localPage dst)
        s.updPkh fun p => { p with moveId := id + 1, moves := p.moves ++
          [{ id := id, root := root, pair := pair, first := first, src := page, dst := dst, stage := .reading, io := io,
             start := s.now }] }
      if ptePage pte ≠ page ∨ ptePoison pte ∨ 256 ≤ s.promoting then s
      else match s.allocPage (homeStall root) (Root.handle r) with
        | (s, some p) => go s p
        | (s, none) =>
          if s.walk then s
          else match (if shared then (s, none) else allocOrder s 0 3) with
            | (s, some p) => go (setKv s p shared root pair first) p
            | (s, none) => strand s root pair first page

/-- Pages of the vault with a KV record. -/
def vaultKv (s : State) : List Nat := (listedPages s 3).filter fun k => s.trecStateAt 3 k == 1

/-- A write of PKH_VAULT_CTRL: DETACH moves a READY or READ_ONLY vault to DETACHING, frees its WEIGHT pages and begins to move
its KV pages (R264). -/
def vaultDetach (s : State) (data : Nat) : State :=
  let s := s.rawWrite Reg.PKH_VAULT_CTRL data
  if !s.flag Reg.PKH_VAULT_CTRL F.PKH_VAULT_CTRL_DETACH then s
  else
    let s := s.setFld Reg.PKH_VAULT_CTRL F.PKH_VAULT_CTRL_DETACH 0
    if s.vaultState ≠ Vs.ready ∧ s.vaultState ≠ Vs.readOnly then s
    else
      let s := s.setVault Vs.detaching
      let weights := (listedPages s 3).filter fun k => s.trecStateAt 3 k == 2
      let s := forEach weights s fun s k => s.setTrec 3 k 0 0
      forEach (vaultKv s) s evacuate

/-- A write of PKH_VAULT_CTRL with DETACH (R264). -/
def execVaultDetach (data : Word) (s : State) : Res := .next (vaultDetach s data.toNat)

/-- DETACHING goes on: pages still there are moved, then Flush is issued, and when it is done the vault is DETACHED (R262). -/
def vaultDetached (s : State) : State :=
  if s.vaultState ≠ Vs.detaching then s
  else if !(vaultKv s).isEmpty then forEach (vaultKv s) s evacuate
  else match s.pkh.vault.flushed with
    | none =>
      (vaultFlush s).updVault fun v => { v with flushed := some false }
    | some false =>
      if s.pkh.vault.ops.any (·.2.1 == .flush) then s
      else vaultFlush s
    | some true =>
      let n := s.pkh.vault.poisoned
      let s := (s.setVault Vs.detached).updVault fun v => { v with flushed := none, poisoned := 0 }
      s.raise Tag.pkh 0x0002 Sev.degraded 0 [Vs.detaching, 0, n % 256, n / 256]

/-- The vault is DETACHED (R262). -/
def execVaultDetached (s : State) : Res := .next (vaultDetached s)

/-- A write of PKH_VAULT_CTRL: FORMAT issues Format NVM when the vault is READY or READ_ONLY with no record in use (R264). -/
def vaultFormat (s : State) (data : Nat) : State :=
  let s := s.rawWrite Reg.PKH_VAULT_CTRL data
  if !s.flag Reg.PKH_VAULT_CTRL F.PKH_VAULT_CTRL_FORMAT then s
  else
    let used := (listedPages s 3).any fun k => s.trecStateAt 3 k == 1 || s.trecStateAt 3 k == 2
    if (s.vaultState = Vs.ready ∨ s.vaultState = Vs.readOnly) ∧ !used then vaultFormatCmd s
    else s.setFld Reg.PKH_VAULT_CTRL F.PKH_VAULT_CTRL_FORMAT 0

/-- A write of PKH_VAULT_CTRL with FORMAT (R264). -/
def execVaultFormat (data : Word) (s : State) : Res := .next (vaultFormat s data.toNat)

end Sys2Proof.Machine
end

