-- ==== Sys2Proof/Machine/Cou.lean ====
section
/-!
DEFINITION. Machine/Cou.lean: Courier's completion queues (R208), extents and administration (R197–R199, R209, R210), and what
ends a connection (R203).
-/
namespace Sys2Proof.Machine

/-- COU_CONN_CAP. -/
def State.connCap (s : State) : Nat := s.fld Reg.COU_CONN_CAP F.COU_CONN_CAP_CONN

/-- COU_CTRL.EN. -/
def State.couOn (s : State) : Bool := s.flag Reg.COU_CTRL F.COU_CTRL_EN

/-! ### Completion queues (R208) -/

/-- Completion queue k. -/
def State.couCq (s : State) (k : Nat) : CouCq := s.cou.cqs.getD k {}

/-- A queue has no slot to write. -/
def CouCq.full (q : CouCq) : Bool := q.valid && ringFull q.slot q.head q.log2

/-- Write an entry to a queue with room, and raise vector 128 + k. -/
def couPush (s : State) (k : Nat) (e : Bytes) : State :=
  let q := s.couCq k
  let s := s.ringWrite q.base (32 * q.slot) (patch e 7 (toLE 1 (b2n q.phase)))
  let (slot, ph) := ringNext q.slot q.log2 q.phase
  (s.updCou fun u => { u with cqs := u.cqs.put k { q with slot := slot, phase := ph } }).msixRaise (128 + k)

/-- A completion entry is written, held while the queue is full, or lost for a queue never set up. -/
def couEntry (s : State) (k : Nat) (e : Bytes) : State :=
  let q := s.couCq k
  if !q.valid then s
  else if q.full || !q.held.isEmpty then s.updCou fun u => { u with cqs := u.cqs.put k { q with held := q.held ++ [e] } }
  else couPush s k e

/-- Held entries are written while there is room. -/
def couFlush : Nat → State → Nat → State
  | 0, s, _ => s
  | fuel + 1, s, k =>
    let q := s.couCq k
    match q.held with
    | [] => s
    | e :: es =>
      if q.full then s
      else couFlush fuel (couPush (s.updCou fun u => { u with cqs := u.cqs.put k { q with held := es } }) k e) k

/-- CQ_HEAD doorbell of queue k. -/
def couCqHead (s : State) (k v : Nat) : State :=
  let q := s.couCq k
  let s := s.updCou fun u => { u with cqs := u.cqs.put k { q with head := v % 2 ^ q.log2 } }
  couFlush q.held.length s k

/-- Fields of a completion entry (Table COU-9) that are not zero. -/
structure CouDone where
  wrid : Nat := 0
  status : Nat := 0
  cause : Nat := 0
  kind : Nat
  conn : Nat := 0xFFFF
  peer : Nat := 0
  bytes : Nat := 0
  imm : Nat := 0
  count : Nat := 0
  key : Nat := 0

/-- The 32 bytes of an entry, PHASE clear. -/
def CouDone.entry (d : CouDone) : Bytes :=
  toLE 4 d.wrid ++ toLE 1 d.status ++ toLE 1 d.cause ++ toLE 1 d.kind ++ toLE 1 0 ++ toLE 2 d.conn ++ toLE 2 d.peer ++
    toLE 4 d.bytes ++ toLE 4 d.imm ++ toLE 4 d.count ++ toLE 4 d.key ++ zeros 4

/-! ### Extent records (Table COU-4) -/

namespace Ex
def base (e : Bytes) : Nat := fld e 0 8
def len (e : Bytes) : Nat := fld e 8 8
def gen (e : Bytes) : Nat := fld e 16 2 % 16384
def domain (e : Bytes) : Nat := fld e 18 2 % 4096
def state (e : Bytes) : Nat := fld e 20 1
def host (e : Bytes) : Bool := bit (fld e 21 1) 7
def rights (e : Bytes) : Nat := fld e 21 1 % 8
def tally (e : Bytes) : Nat := fld e 24 4
def refused (e : Bytes) : Nat := fld e 28 4
end Ex

/-- COU_EXT_CAP. -/
def State.extCap (s : State) : Nat := s.fld Reg.COU_EXT_CAP F.COU_EXT_CAP_EXT

/-- Offset of extent record i. -/
def State.extOff (s : State) (i : Nat) : Nat := s.base Reg.COU_EXT_BASE_LO + 32 * i

/-- Read extent record i; one that cannot be read is lost (Table FAR-3). -/
def readExt (s : State) (i : Nat) : State × Option Bytes :=
  let (s, st, e) := s.readMem (s.extOff i) 32
  if st = St.ok then (s, some e) else (s.structLost Tag.cou st i, none)

/-- The key of extent i. -/
def extKey (i gen : Nat) : Nat := i * 16384 + gen

/-- TALLY of an extent changes. -/
def extTally (s : State) (i : Nat) (f : Nat → Nat) : State :=
  match readExt s i with
  | (s, some e) => s.poke (s.extOff i + 24) (toLE 4 (f (Ex.tally e)))
  | (s, none) => s

/-! ### Administrative commands (Table COU-5) -/

namespace Ca
def op (c : Bytes) : Nat := fld c 0 1
def s2 (c : Bytes) : Bool := bit (fld c 1 1) 1
def host (c : Bytes) : Bool := bit (fld c 1 1) 0
def conn (c : Bytes) : Nat := fld c 2 2
def tag (c : Bytes) : Nat := fld c 4 4
def base (c : Bytes) : Nat := fld c 8 8
def len (c : Bytes) : Nat := fld c 16 8
def key (c : Bytes) : Nat := fld c 24 4
def rights (c : Bytes) : Nat := fld c 28 1
def log2a (c : Bytes) : Nat := fld c 29 1
def log2b (c : Bytes) : Nat := fld c 30 1
def cq (c : Bytes) : Nat := fld c 31 1
def domain (c : Bytes) : Nat := fld c 32 2
def peer (c : Bytes) : Nat := fld c 34 2
def peerConn (c : Bytes) : Nat := fld c 36 2
def team (c : Bytes) : Nat := fld c 38 2
def iss (c : Bytes) : Nat := fld c 40 4
def peerIss (c : Bytes) : Nat := fld c 44 4
/-- A reserved bit is set. -/
def reserved (c : Bytes) : Bool := decide (4 ≤ fld c 1 1) || (slice c 48 16).any (· != 0)
end Ca

/-- A command is queued, or discarded with OVERFLOW when 16 are (R198). -/
def couAdmGo (s : State) : State :=
  if 16 ≤ s.cou.adm.length then s.setFld Reg.COU_STATUS F.COU_STATUS_OVERFLOW 1
  else s.updCou fun u => { u with adm := u.adm ++ [s.staged (Reg.COU_ADM 0) 16] }

/-- A write of COU_ADM_GO (R198). -/
def execCouAdmGo (data : Word) (s : State) : Res := .next (if bit data.toNat 0 then couAdmGo s else s)

/-- The entry of a command (KIND 0x05). -/
def couCmdDone (s : State) (d : CouDone) : State := couEntry s (s.fld Reg.COU_CTRL F.COU_CTRL_ADM_CQ) d.entry

/-- The entry of a command refused with RIGHTS before it is taken up: it names the connection of a CONNECT or CLOSE and the key of a
REVOKE (Table COU-9). -/
def Ca.refused (s : State) (c : Bytes) : CouDone :=
  let d : CouDone := { wrid := Ca.tag c, status := St.rights, kind := 5 }
  if Ca.op c = 3 then { d with conn := Ca.conn c, peer := Ca.peer c }
  else if Ca.op c = 4 then { d with conn := Ca.conn c, peer := (s.conn (Ca.conn c)).peer }
  else if Ca.op c = 2 then { d with key := Ca.key c }
  else d

/-- Take the first queued command when its OP is `op`, or when it is refused whatever its OP (R198). -/
def admTurn (s : State) (op : Nat) (run : State → Bytes → State) : State :=
  match s.cou.adm with
  | [] => s
  | c :: rest =>
    if !s.couOn || (s.couCq (s.fld Reg.COU_CTRL F.COU_CTRL_ADM_CQ)).full then s
    else
      let s' := s.updCou fun u => { u with adm := rest }
      if Ca.op c = 0 ∨ 5 < Ca.op c ∨ Ca.reserved c then couCmdDone s' (Ca.refused s' c)
      else if Ca.op c = op then run s' c
      else s

/-- The lowest-numbered FREE extent record: its index and generation. -/
def freeExt (s : State) : Nat → Nat → Option (Nat × Nat)
  | 0, _ => none
  | fuel + 1, i =>
    let e := s.peek (s.extOff i) 32
    if s.lineStatus (lineOf (s.extOff i)) = St.ok ∧ Ex.state e = 0 then some (i, Ex.gen e) else freeExt s fuel (i + 1)

/-- REGISTER (R197, R198). -/
def couRegister (s : State) (c : Bytes) : State :=
  let base := Ca.base c
  let len := Ca.len c
  let range := base % 64 = 0 ∧ len % 64 = 0 ∧ 64 ≤ len ∧ len ≤ 2 ^ 40 ∧ (Ca.host c ∨ base + len ≤ hbmBytes)
  if 4096 ≤ Ca.domain c ∨ 8 ≤ Ca.rights c then couCmdDone s { wrid := Ca.tag c, status := St.rights, kind := 5 }
  else match freeExt s s.extCap 0 with
    | none => couCmdDone s { wrid := Ca.tag c, status := St.bounds, kind := 5 }
    | some (i, gen) =>
      if !decide range then couCmdDone s { wrid := Ca.tag c, status := St.bounds, kind := 5 }
      else
        let s := s.poke (s.extOff i) (toLE 8 base ++ toLE 8 len ++ toLE 2 gen ++ toLE 2 (Ca.domain c) ++ toLE 1 1 ++
          toLE 1 (128 * b2n (Ca.host c) + Ca.rights c) ++ zeros 10)
        couCmdDone s { wrid := Ca.tag c, kind := 5, key := extKey i gen }

/-- REGISTER (R197). -/
def execRegister (s : State) : Res := .next (s.ifRuns (admTurn s 1 couRegister))

/-- REVOKE (R209 step 1). -/
def couRevoke (s : State) (c : Bytes) : State :=
  let i := Ca.key c / 16384
  let fin := fun (s : State) (st : Nat) => couCmdDone s { wrid := Ca.tag c, status := st, kind := 5, key := Ca.key c }
  if s.extCap ≤ i then fin s St.keyInvalid
  else match readExt s i with
    | (s, none) => fin s St.keyInvalid
    | (s, some e) =>
      if Ex.state e = 0 ∨ Ex.gen e ≠ Ca.key c % 16384 then fin s St.keyInvalid
      else if Ex.state e = 2 then fin s St.noEffect
      else
        let s := s.poke (s.extOff i + 20) (toLE 1 2)
        let s := s.poke (s.extOff i + 28) (zeros 4)
        s.updCou fun u => { u with revokes := u.revokes ++ [(i, Ca.tag c)] }

/-- REVOKE (R209). -/
def execRevoke (s : State) : Res := .next (s.ifRuns (admTurn s 2 couRevoke))

/-- A REVOKE whose TALLY has reached zero completes (R209 step 5). -/
def revokeDone (s : State) : State :=
  match s.cou.revokes.find? fun x => Ex.tally (s.peek (s.extOff x.1) 32) == 0 with
  | none => s
  | some (i, tag) =>
    let s := s.updCou fun u => { u with revokes := u.revokes.erase (i, tag) }
    match readExt s i with
    | (s, none) => couCmdDone s { wrid := tag, status := St.uncorrectable, kind := 5 }
    | (s, some e) =>
      let key := extKey i (Ex.gen e)
      let n := Ex.refused e
      let s := s.poke (s.extOff i + 16) (toLE 2 ((Ex.gen e + 1) % 16384))
      let s := s.poke (s.extOff i + 20) (toLE 1 0)
      let s := s.bump Reg.COU_REVOKES
      let s := s.raise Tag.cou 0x0003 Sev.info key [n % 256, n / 256 % 256, n / 65536 % 256, n / 2 ^ 24]
      couCmdDone s { wrid := tag, kind := 5, count := n, key := key }

/-- Revoke completes (R209). -/
def execRevokeComplete (s : State) : Res := .next (s.ifRuns (revokeDone s))

/-- CQ_SETUP (R208). -/
def couCqSetup (s : State) (c : Bytes) : State :=
  let k := Ca.cq c
  let l := Ca.log2a c
  if l < 4 ∨ 16 < l then couCmdDone s { wrid := Ca.tag c, status := St.rights, kind := 5 }
  else
    let s := s.updCou fun u => { u with cqs := u.cqs.put k { valid := true, base := Ca.base c, log2 := l } }
    couCmdDone s { wrid := Ca.tag c, kind := 5 }

/-- CQ_SETUP (R208). -/
def execCqSetup (s : State) : Res := .next (admTurn s 5 couCqSetup)

/-! ### Opening a connection (R199) -/

/-- A C_CONNECT or C_CLOSE leaves. It counts in its destination's window and on the tally of the present fence phase (R203). -/
def couBare (s : State) (c op seq off : Nat) : State :=
  let x := s.conn c
  let ph := s.htp.phase
  let p : Pkt := { dst := x.peer, src := s.node, opcode := op, team := x.team, flow := x.peerConn, seq := seq, offset := off }
  let s := s.updDest x.peer fun d => { d with t0 := d.t0 + b2n (!ph), t1 := d.t1 + b2n ph, courier := d.courier + 1 }
  let (s, r) := s.emitReq x.peer { pkt := p, origin := .silent, phase := ph } false
  (s.updCou fun u => { u with bare := u.bare ++ [⟨c, r⟩] }).bump Reg.HTP_TX_PKTS

/-- A C_CONNECT or C_CLOSE is sent again (R177, R199). -/
def bareAgain (s : State) (b : CouBare) : State :=
  let (s, r) := s.emitReq b.req.pkt.dst b.req true
  (s.updCou fun u => { u with bare := replaceIf (· == b) (fun _ => ⟨b.conn, r⟩) u.bare }).bump Reg.HTP_RETX_TALLY

/-- A C_CONNECT or C_CLOSE is no longer outstanding: it is counted off (R185). -/
def bareOff (s : State) (b : CouBare) : State :=
  (s.updCou fun u => { u with bare := u.bare.erase b }).updDest b.req.pkt.dst fun d => { d with
    courier := d.courier - 1, t0 := d.t0 - b2n (!b.req.phase), t1 := d.t1 - b2n b.req.phase }

/-- The C_CONNECT of connection `c` that is outstanding. -/
def State.connectOut (s : State) (c : Nat) : Option CouBare :=
  s.cou.bare.find? fun b => b.conn == c && b.req.pkt.opcode == Co.connect

/-- The C_CONNECT of a connection that no longer waits for it is counted off. -/
def connectOff (s : State) (c : Nat) : State :=
  match s.connectOut c with
  | some b => bareOff s b
  | none => s

/-- C_CONNECT leaves, or leaves again, once the quiet time is over. -/
def sendConnect (s : State) (c : Nat) : State :=
  let s := s.updConn c fun x => { x with sentAt := s.nowH }
  if s.htp.quietDone then
    match s.connectOut c with
    | some b => bareAgain s b
    | none => couBare s c Co.connect (s.conn c).iss c
  else s

/-- COU 0x0005 (Table COU-10). -/
def couOpened (s : State) (c : Nat) : State :=
  s.raise Tag.cou 0x0005 Sev.info (s.conn c).peer [0, 0, c % 256, c / 256]

/-- The entry of a CONNECT or CLOSE. -/
def connCmdDone (s : State) (c tag status : Nat) : State :=
  couCmdDone s { wrid := tag, status := status, kind := 5, conn := c, peer := (s.conn c).peer }

/-- Accesses admitted on a connection that begins again complete without a sequence or message of it (R199, R200). -/
def staleAccess (s : State) (c : Nat) : State :=
  s.updCou fun u => { u with access := u.access.map fun a => if a.conn = c then { a with dup := true } else a }

/-- CONNECT (R198, R199). -/
def couConnect (s : State) (b : Bytes) : State :=
  let c := Ca.conn b
  let fin := fun (s : State) (st : Nat) => couCmdDone s { wrid := Ca.tag b, status := st, kind := 5, conn := c, peer := Ca.peer b }
  let l := fun (n : Nat) => decide (n < 4) || decide (12 < n)
  if s.connCap ≤ c ∨ 4096 ≤ Ca.domain b ∨ 4096 ≤ Ca.team b ∨ l (Ca.log2a b) ∨ l (Ca.log2b b) then fin s St.rights
  else if (s.conn c).state ≠ .free then fin s St.noEffect
  else
    let x : Conn :=
      { state := .connecting, peer := Ca.peer b, peerConn := Ca.peerConn b, team := Ca.team b, domain := Ca.domain b,
        cq := Ca.cq b, s2 := Ca.s2 b, sendBase := Ca.base b, sendLog2 := Ca.log2a b, recvBase := Ca.len b, recvLog2 := Ca.log2b b,
        iss := Ca.iss b, nextSeq := (Ca.iss b + 1) % 2 ^ 32, cmd := some (Ca.tag b), started := s.nowH }
    let s := staleAccess s c
    if Ca.s2 b then
      let s := s.setConn c { x with state := .opened, csn := Ca.peerIss b, cmd := none }
      fin (couOpened s c) St.ok
    else sendConnect (s.setConn c x) c

/-- CONNECT (R199). -/
def execConnect (s : State) : Res := .next (s.ifRuns (admTurn s 3 couConnect))

/-- A CONNECTING record sends C_CONNECT again every RTO (R199). -/
def connectRetry (s : State) (c : Nat) : State :=
  let x := s.conn c
  if x.state = .connecting ∧ x.sentAt + s.fld Reg.HTP_RETX F.HTP_RETX_RTO ≤ s.nowH then sendConnect s c else s

/-- C_CONNECT again (R199). -/
def execConnectRetry (conn : Fin 8192) (s : State) : Res := .next (connectRetry s conn)

/-- A record still CONNECTING after COU_CONNECT_TMO returns to FREE (R199). -/
def connectTimeout (s : State) (c : Nat) : State :=
  let x := s.conn c
  if x.state = .connecting ∧ x.started + s.reg Reg.COU_CONNECT_TMO ≤ s.nowH then
    let s := match x.cmd with
      | some tag => connCmdDone s c tag St.memberLost
      | none => s
    (connectOff s c).setConn c {}
  else s

/-- CONNECT timeout (R199). -/
def execConnectTimeout (conn : Fin 8192) (s : State) : Res := .next (connectTimeout s conn)

/-- A CONNECTING record that has both the answer and the peer's C_CONNECT is OPEN (R199 step 3). -/
def connectDone (s : State) (c : Nat) : State :=
  let x := s.conn c
  if x.state = .connecting ∧ x.gotResp ∧ x.peerIss.isSome then
    let s := match x.cmd with
      | some tag => connCmdDone s c tag St.ok
      | none => s
    couOpened (s.setConn c { x with state := .opened, cmd := none }) c
  else s

/-! ### Ending work (R203, R207, R210) -/

/-- Work requests complete in ring order as far as their packets have ended (R207). -/
def wrSettle : Nat → State → Nat → State
  | 0, s, _ => s
  | fuel + 1, s, c =>
    let x := s.conn c
    match x.wrs with
    | [] => s
    | w :: ws =>
      if w.left ≠ 0 then s
      else
        let s := (s.setConn c { x with wrs := ws }).bump Reg.COU_WR_DONE
        let s := if w.status = St.ok ∧ !w.signal then s
          else
            let n := if w.status = St.ok then w.len else 0
            couEntry s x.cq (CouDone.entry
              { wrid := w.wrid, status := w.status, cause := w.cause, kind := 1, conn := c, peer := x.peer, bytes := n })
        wrSettle fuel s c

/-- Every work request in flight ends with a status, and no packet of the connection is outstanding any more; a fence that covers
one so given up learns of it (R185). -/
def dropWork (s : State) (c status : Nat) : State :=
  let s := connectOff s c
  let x := s.conn c
  let lost := status == St.memberLost
  let s := s.updDest x.peer fun d => { d with
    courier := d.courier - x.out.length
    t0 := d.t0 - (x.out.filter fun r => !r.req.phase).length
    t1 := d.t1 - (x.out.filter fun r => r.req.phase).length
    lost0 := d.lost0 || (lost && x.out.any fun r => !r.req.phase)
    lost1 := d.lost1 || (lost && x.out.any fun r => r.req.phase) }
  let f := fun (w : WorkReq) => { w with left := 0, status := if w.left = 0 then w.status else status }
  let s := s.setConn c { x with out := [], waiting := [], wrs := x.wrs.map f }
  (wrSettle x.wrs.length s c).pumpAll x.peer

/-- Every posted receive not yet consumed completes with a status, and incomplete messages are discarded. -/
def dropPosted (s : State) (c status : Nat) : State :=
  let x := s.conn c
  let s := forEach x.posted.zipIdx s fun s (p, i) =>
    couEntry s x.cq (CouDone.entry { wrid := p.wrid, status := status, kind := 2, conn := c, peer := x.peer, count := x.rxNext + i })
  s.updConn c fun x => { x with posted := [], msgs := [], rxNext := x.rxNext + x.posted.length }

/-- The connection enters ERROR (R203). -/
def connError (s : State) (c status : Nat) : State :=
  let x := s.conn c
  if x.state ≠ .opened ∧ x.state ≠ .closing then s
  else
    let s := dropPosted (dropWork s c status) c status
    let s := s.updConn c fun x => { x with state := .error, errStatus := status }
    let s := s.raise Tag.cou 0x0004 Sev.degraded x.peer [status, 0, c % 256, c / 256]
    match x.cmd with
    | some tag => (connCmdDone s c tag status).updConn c fun x => { x with cmd := none }
    | none => s

/-- A connection record that cannot be read: the connection enters ERROR with UNCORRECTABLE (Table FAR-3). -/
def connRecord (s : State) (c : Nat) : State :=
  let lo := (s.base Reg.COU_CONN_BASE_LO + 32768 * c) / 64
  let bad := fun (m : LineMark) => m == .damaged || m == .poison
  if (s.marks.any fun m => decide (lo ≤ m.1) && decide (m.1 < lo + 512) && bad m.2) &&
      ((s.conn c).state == .opened || (s.conn c).state == .closing) then
    connError (s.structLost Tag.cou St.uncorrectable c) c St.uncorrectable
  else s

/-- A CLOSING connection with nothing outstanding sends C_CLOSE and becomes FREE (R210). -/
def closeDone (s : State) (c : Nat) : State :=
  let x := s.conn c
  if x.state = .closing ∧ x.out.isEmpty ∧ x.waiting.isEmpty then
    let s := couBare s c Co.close x.nextSeq 0
    let s := dropPosted s c St.revoked
    let s := match x.cmd with
      | some tag => connCmdDone s c tag St.ok
      | none => s
    s.setConn c {}
  else s

/-- CLOSE (R210). -/
def couClose (s : State) (b : Bytes) : State :=
  let c := Ca.conn b
  let x := s.conn c
  let fin := fun (s : State) (st : Nat) => couCmdDone s { wrid := Ca.tag b, status := st, kind := 5, conn := c, peer := x.peer }
  if s.connCap ≤ c then fin s St.rights
  else match x.state with
    | .free | .closing => fin s St.noEffect
    | .error => fin (s.setConn c {}) St.ok
    | .connecting =>
      let s := match x.cmd with
        | some tag => connCmdDone s c tag St.cancelled
        | none => s
      fin ((connectOff s c).setConn c {}) St.ok
    | .opened => closeDone (s.setConn c { x with state := .closing, cmd := some (Ca.tag b), sqTail := x.sqHead }) c

/-- CLOSE (R210). -/
def execClose (s : State) : Res := .next (s.ifRuns (admTurn s 4 couClose))

end Sys2Proof.Machine
end

