-- ==== Sys2Proof/Machine/CouRun.lean ====
section
/-!
DEFINITION. Machine/CouRun.lean: Courier's packets at the target (R200–R206) and the sender (R203, R206, R207), work requests,
and the retransmission timer of every request.
-/
namespace Sys2Proof.Machine

/-! ### Sub-header (Table COU-3) -/

namespace Sh
def msn (p : Pkt) : Nat := fld p.payload 0 4
def msglen (p : Pkt) : Nat := fld p.payload 4 4
def moff (p : Pkt) : Nat := fld p.payload 8 4
def imm (p : Pkt) : Nat := fld p.payload 12 4
def dlen (p : Pkt) : Nat := fld p.payload 16 2
def atop (p : Pkt) : Nat := fld p.payload 18 1
def size (p : Pkt) : Nat := fld p.payload 19 1
def rlen (p : Pkt) : Nat := fld p.payload 20 4
def opa (p : Pkt) : Nat := fld p.payload 24 8
def opb (p : Pkt) : Nat := fld p.payload 32 8
def data (p : Pkt) : Bytes := (p.payload.drop 64).take (dlen p)
/-- The 64 bytes of a sub-header. -/
def make (msn msglen moff imm dlen atop size rlen opa opb : Nat) : Bytes :=
  toLE 4 msn ++ toLE 4 msglen ++ toLE 4 moff ++ toLE 4 imm ++ toLE 2 dlen ++ toLE 1 atop ++ toLE 1 size ++ toLE 4 rlen ++
    toLE 8 opa ++ toLE 8 opb ++ zeros 24
end Sh

/-! ### Replies -/

/-- Opcode of the reply to a Courier request (Table COU-2). -/
def couReplyOp (op : Nat) : Nat :=
  if op = Co.read then Co.readResp else if op = Co.atomic then Co.atomicResp
  else if op = Co.connect then Co.connectResp else Co.ack

/-- Send a Courier reply: CAUSE, STATUS and CSN in OFFSET (R196); FLOW is echoed. -/
def couReplyWith (s : State) (p : Pkt) (op status cause csn : Nat) (payload : Bytes) : State :=
  s.route 0 false { dst := p.src, src := s.node, opcode := op, path := p.path, team := p.team, flow := p.flow,
                    length := payload.length, seq := p.seq,
                    offset := csn % 2 ^ 32 + status * 2 ^ 32 + cause * 2 ^ 40, tse := p.tse, payload := payload }

/-- The reply of a request that returns no data: a sub-header only for a read or an atomic. -/
def couReply (s : State) (p : Pkt) (c status cause : Nat) : State :=
  couReplyWith s p (couReplyOp p.opcode) status cause (s.conn c).csn
    (if p.opcode = Co.read ∨ p.opcode = Co.atomic then zeros 64 else [])

/-! ### Sequences (R202) -/

/-- Old refusal bits leave the window of the 65,536 sequences up to CSN. -/
def connPrune (x : Conn) : Conn :=
  { x with refused := x.refused.filter fun q => decide ((x.csn + 2 ^ 32 - q) % 2 ^ 32 < 65536) || x.window.contains q }

/-- The sequence after CSN. -/
def connNext (x : Conn) : Nat := (x.csn + 1) % 2 ^ 32

/-- CSN advances past every consecutive completed sequence. -/
def connAdvance : Nat → Conn → Conn
  | 0, x => x
  | fuel + 1, x =>
    let n := connNext x
    if x.window.contains n then connAdvance fuel { x with csn := n, window := x.window.erase n } else x

/-- The sequence of a request completes on a connection. -/
def connComplete (s : State) (c seq : Nat) (refused : Bool) : State :=
  s.updConn c fun x =>
    let w := if x.window.contains seq then x.window else x.window ++ [seq]
    connPrune (connAdvance w.length { x with window := w, refused := if refused then x.refused ++ [seq] else x.refused })

/-! ### Receives (R204, R205) -/

/-- Receives complete in MSN order while the message of the next one is whole. -/
def rxSettle : Nat → State → Nat → State
  | 0, s, _ => s
  | fuel + 1, s, c =>
    let x := s.conn c
    match x.posted, x.msgs.find? fun m => m.msn == x.rxNext with
    | p :: ps, some m =>
      if m.tally < m.total then s
      else
        let (st, cause) := match m.bad with
          | some (_, st, cause) => (st, cause)
          | none => (p.status, 0)
        let s := (s.setConn c { x with posted := ps, rxNext := x.rxNext + 1, msgs := x.msgs.erase m }).bump Reg.COU_RX_MSG
        let s := couEntry s x.cq (CouDone.entry
          { wrid := p.wrid, status := st, cause := cause, kind := m.kind, conn := c, peer := x.peer, bytes := m.total,
            imm := if m.kind = 3 ∧ st = St.ok then m.imm else 0, count := m.msn })
        rxSettle fuel s c
    | _, _ => s

/-- A packet of a message is tallied with its outcome. -/
def rxTally (s : State) (c : Nat) (p : Pkt) (status cause : Nat) : State :=
  let x := s.conn c
  let m := (x.msgs.find? (·.msn == Sh.msn p)).getD
    ⟨Sh.msn p, Sh.msglen p, 0, if p.opcode = Co.writeImm then 3 else 2, Sh.imm p, none⟩
  let bad := if status = St.ok then m.bad
    else match m.bad with
      | some (o, st, cs) => if Sh.moff p < o then some (Sh.moff p, status, cause) else some (o, st, cs)
      | none => some (Sh.moff p, status, cause)
  let m' : RxMsg := { m with tally := m.tally + Sh.dlen p, bad := bad }
  let s := s.setConn c { x with msgs := x.msgs.filter (·.msn != m.msn) ++ [m'] }
  rxSettle (x.posted.length + 1) s c

/-- The packet's message finds room: open already, or fewer than 64 incomplete (R204). -/
def rxRoom (x : Conn) (p : Pkt) : Bool :=
  x.msgs.any (·.msn == Sh.msn p) || decide ((x.msgs.filter fun m => decide (m.tally < m.total)).length < 64)

/-- The receive of the packet's message, when it is posted. -/
def rxPosted (x : Conn) (p : Pkt) : Option Posted := if Sh.msn p < x.rxNext then none else x.posted[Sh.msn p - x.rxNext]?

/-! ### Refusals (R200, R201) -/

/-- A VIOLATION is reported at this target: tally, event and the entry of KIND 0x04 (R201). -/
def couReport (s : State) (c : Nat) (p : Pkt) (cause : Nat) : State :=
  let x := s.conn c
  let s := s.bump Reg.COU_VIOL_RX
  let s := s.raise Tag.cou 0x0001 Sev.contained (p.src * 2 ^ 48 + p.offset)
    [cause, p.opcode, c % 256, c / 256, p.key % 256, p.key / 256 % 256, p.key / 65536 % 256, p.key / 2 ^ 24]
  if s.flag Reg.COU_CTRL F.COU_CTRL_VIOL_CQE then
    couEntry s x.cq (CouDone.entry
      { status := St.violation, cause := cause, kind := 4, conn := c, peer := x.peer, key := p.key })
  else s

/-- A request is refused at this target: reported, its sequence completed in both windows, tallied in its message, and answered
(R200, R201, R204). -/
def couRefuse (s : State) (c : Nat) (p : Pkt) (cause : Nat) : State :=
  let s := connComplete (couReport s c p cause) c p.seq true
  let s := if (p.opcode = Co.writeImm ∨ p.opcode = Co.send) ∧ rxRoom (s.conn c) p then rxTally s c p St.violation cause else s
  couReply s p c St.violation cause

/-- Steps 4 to 7 of Table COU-6 for a keyed request: the cause of a refusal, or the extent index and record. A duplicate touches
nothing (R209). -/
def keyCheck (s : State) (x : Conn) (p : Pkt) (dup : Bool) : State × Nat × Nat × Bytes :=
  let i := p.key / 16384
  if s.extCap ≤ i then (s, St.keyInvalid, i, [])
  else match readExt s i with
    | (s, none) => (s, St.keyInvalid, i, [])
    | (s, some e) =>
      if Ex.state e = 0 ∨ Ex.gen e ≠ p.key % 16384 ∨ Ex.domain e ≠ x.domain then (s, St.keyInvalid, i, e)
      else if Ex.state e = 2 then
        (if dup then s else s.poke (s.extOff i + 28) (toLE 4 (Ex.refused e + 1)), St.revoked, i, e)
      else
        let need := if p.opcode = Co.read then 0 else if p.opcode = Co.atomic then 2 else 1
        if !bit (Ex.rights e) need ∨ (p.opcode = Co.atomic ∧ Ex.host e) then (s, St.rights, i, e)
        else
          let n := if p.opcode = Co.read then Sh.rlen p else if p.opcode = Co.atomic then Sh.size p else Sh.dlen p
          let whole := p.length % 64 = 0 ∧ 64 ≤ p.length ∧ p.length ≤ 4096
          let shape := if p.opcode = Co.read then Sh.rlen p % 64 = 0 ∧ 64 ≤ Sh.rlen p ∧ Sh.rlen p ≤ 4032 ∧ p.offset % 64 = 0
            else if p.opcode = Co.atomic then (Sh.size p = 4 ∨ Sh.size p = 8) ∧ p.offset % Sh.size p = 0 ∧ Sh.atop p ≤ 2
            else Sh.dlen p + 64 = p.length ∧ 1 ≤ Sh.dlen p ∧ p.offset % 64 = 0
          if Ex.len e < p.offset + n ∨ !decide whole ∨ !decide shape then (s, St.bounds, i, e) else (s, St.ok, i, e)

/-! ### A request at its target (Table COU-6) -/

/-- What the sequence of a request says of it (R202). -/
def couSeq (s : State) (c : Nat) (x : Conn) (p : Pkt) : SeqSays :=
  let a := (p.seq + 2 ^ 32 - x.csn) % 2 ^ 32
  let b := (x.csn + 2 ^ 32 - p.seq) % 2 ^ 32
  if b < 65536 ∨ (1 ≤ a ∧ a ≤ 65536 ∧ x.window.contains p.seq) then .duplicate
  else if a ≤ 65536 then
    if s.cou.access.any fun y => y.conn == c && y.pkt.seq == p.seq && !y.dup then .copy else .fresh
  else .old

/-- A keyed access is admitted: TALLY rises and the access waits to complete (step 9). -/
def couAdmit (s : State) (c : Nat) (p : Pkt) (ext : Nat) (dup : Bool) : State :=
  (extTally s ext (· + 1)).updCou fun u => { u with access := u.access ++ [⟨c, p, ext, dup⟩] }

/-- A duplicate is answered again (R202). -/
def couDup (s : State) (c : Nat) (x : Conn) (p : Pkt) : State :=
  let s := s.bump Reg.COU_DUP
  if x.refused.contains p.seq then couReply s p c St.violation St.internal
  else if p.opcode = Co.read then
    match keyCheck s x p true with
    | (s, st, i, _) => if st ≠ St.ok then couReply (couReport s c p st) p c St.violation st else couAdmit s c p i true
  else if p.opcode = Co.atomic then
    match x.cache.find? (·.1 == p.seq) with
    | some (_, st, old) => couReplyWith s p Co.atomicResp st 0 x.csn (Sh.make 0 0 0 0 0 0 0 0 old 0)
    | none => couReplyWith s p Co.atomicResp St.internal 0 x.csn (zeros 64)
  else couReply s p c St.ok 0

/-- Steps 1 and 2 of Table COU-6; `go` runs a new request of the connection. A copy of a request whose access is still to complete is
dropped (log 1011). -/
def couNew (s : State) (p : Pkt) (go : State → Nat → Conn → Pkt → State) : State :=
  let s := s.bump Reg.HTP_RX_PKTS
  let c := p.flow
  let s := if c < s.connCap then connRecord s c else s
  let x := s.conn c
  if s.connCap ≤ c ∨ !s.couOn ∨ x.state = .free ∨ x.state = .error ∨ p.src ≠ x.peer then
    couReplyWith s p Co.ack St.revoked 0 x.csn []
  else if x.state = .connecting then s
  else match couSeq s c x p with
    | .duplicate => couDup s c x p
    | .copy => s
    | .old =>
      let s := s.bump Reg.COU_OLD_DUP
      if x.oldAt.any fun t => decide (s.nowH < t + 1000000) then s
      else (s.setConn c { x with oldAt := some s.nowH }).raise Tag.cou 0x0006 Sev.info p.src
        [0, 0, c % 256, c / 256, p.seq % 256, p.seq / 256 % 256, p.seq / 65536 % 256, p.seq / 2 ^ 24]
    | .fresh => go s c x p

/-- Steps 1 to 3 of Table COU-6; `go` runs a new request of the connection's team. -/
def couTarget (s : State) (p : Pkt) (go : State → Nat → Conn → Pkt → State) : State :=
  couNew s p fun s c x p => if p.team ≠ x.team then couRefuse s c p St.rights else go s c x p

/-- A Courier packet of opcode `op` arrives on a port and takes the local path. -/
def couArrives (s : State) (port op : Nat) (bs : Bytes) (go : State → Pkt → State) : State :=
  match arriveColour s port (some op) bs with
  | (s, none) => s
  | (s, some (p, yellow)) => localPath s port s.nowH yellow p go

/-- Data at a place of a receive buffer or extent: host memory or local lines. -/
def couStore (s : State) (host : Bool) (addr : Nat) (data : Bytes) : State × Nat :=
  if host then (s.hostWrite addr data, St.ok) else s.writeMem addr data

/-- C_SEND (R204): matched to its receive, written by MOFF, tallied. -/
def couSend (s : State) (c : Nat) (x : Conn) (p : Pkt) : State :=
  match rxPosted x p with
  | none => s.bump Reg.COU_RNR
  | some r =>
    if (s.couCq x.cq).full ∨ !rxRoom x p then s
    else
      let shape := p.length % 64 = 0 ∧ 128 ≤ p.length ∧ p.length ≤ 4096 ∧ 1 ≤ Sh.dlen p ∧ Sh.dlen p + 64 ≤ p.length ∧
        Sh.moff p % 64 = 0 ∧ Sh.moff p + Sh.dlen p ≤ Sh.msglen p
      let (s, st) := if r.status ≠ St.ok then (s, r.status)
        else if r.len < Sh.msglen p ∨ !decide shape then (s, St.bounds)
        else couStore s (bit r.addr 63) (r.addr % 2 ^ 63 + Sh.moff p) (Sh.data p)
      let s := connComplete s c p.seq (st != St.ok)
      couReply (rxTally s c p st 0) p c st 0

/-- A keyed request: the key, and for C_WRITE_IMM its receive, before it is admitted. -/
def couKeyed (s : State) (c : Nat) (x : Conn) (p : Pkt) : State :=
  match keyCheck s x p false with
  | (s, st, i, _) =>
    if st ≠ St.ok then couRefuse s c p st
    else if p.opcode = Co.writeImm then
      if (rxPosted x p).isNone then s.bump Reg.COU_RNR
      else if (s.couCq x.cq).full ∨ !rxRoom x p then s
      else couAdmit s c p i false
    else couAdmit s c p i false

/-- C_SEND (R204). -/
def execCSend (port : Fin 16) (pkt : Bytes) (s : State) : Res :=
  .next (couArrives s port Co.send pkt fun s p => couTarget s p couSend)
/-- C_WRITE (R200). -/
def execCWrite (port : Fin 16) (pkt : Bytes) (s : State) : Res :=
  .next (couArrives s port Co.write pkt fun s p => couTarget s p couKeyed)
/-- C_WRITE_IMM (R205). -/
def execCWriteImm (port : Fin 16) (pkt : Bytes) (s : State) : Res :=
  .next (couArrives s port Co.writeImm pkt fun s p => couTarget s p couKeyed)
/-- C_READ (R206). -/
def execCRead (port : Fin 16) (pkt : Bytes) (s : State) : Res :=
  .next (couArrives s port Co.read pkt fun s p => couTarget s p couKeyed)
/-- C_ATOMIC (R206). -/
def execCAtomic (port : Fin 16) (pkt : Bytes) (s : State) : Res :=
  .next (couArrives s port Co.atomic pkt fun s p => couTarget s p couKeyed)

/-- An atomic of ATOP over an old value (R206). -/
def couAtomicFn (p : Pkt) (old : Nat) : Option Nat :=
  let m := 2 ^ (8 * Sh.size p)
  if Sh.atop p = 0 then some ((old + Sh.opa p) % m)
  else if Sh.atop p = 1 then some (Sh.opa p % m)
  else if old = Sh.opb p % m then some (Sh.opa p % m) else none

/-- The oldest admitted access completes: it is done, TALLY falls, its sequence completes and its reply leaves (R200 step 9). -/
def accessDone (s : State) (r : HostRead) : State :=
  match s.cou.access with
  | [] => s
  | a :: rest =>
    let s := s.updCou fun u => { u with access := rest }
    let p := a.pkt
    match readExt s a.ext with
    | (s, none) =>
      let s := couReport s a.conn p St.keyInvalid
      let s := if a.dup then s else connComplete s a.conn p.seq true
      let s := if p.opcode = Co.writeImm ∧ !a.dup then rxTally s a.conn p St.violation St.keyInvalid else s
      couReply s p a.conn St.violation St.keyInvalid
    | (s, some e) =>
      let addr := Ex.base e + p.offset
      let fin := fun (s : State) (refused : Bool) => if a.dup then s else connComplete s a.conn p.seq refused
      if p.opcode = Co.read then
        let (s, st, d) := if Ex.host e then s.hostRead (Sh.rlen p) r else s.readMem addr (Sh.rlen p)
        let s := fin (extTally s a.ext (· - 1)) false
        couReplyWith s p Co.readResp st 0 (s.conn a.conn).csn (Sh.make 0 0 0 0 (Sh.rlen p) 0 0 (Sh.rlen p) 0 0 ++ d)
      else if p.opcode = Co.atomic then
        let s := combFlush s addr (Sh.size p) none
        let (s, st, old) := atomicDo s addr (Sh.size p) (couAtomicFn p)
        let s := fin (extTally s a.ext (· - 1)) false
        let s := if a.dup then s else s.updConn a.conn fun x => { x with cache := ((p.seq, st, old) :: x.cache).take 16 }
        couReplyWith s p Co.atomicResp st 0 (s.conn a.conn).csn (Sh.make 0 0 0 0 0 0 0 0 old 0)
      else
        let (s, st) := if Ex.host e then couStore s true addr (Sh.data p)
          else localStore (combFlush s addr (Sh.dlen p) none) addr (Sh.data p)
        let s := fin (extTally s a.ext (· - 1)) (st != St.ok)
        let s := if p.opcode = Co.writeImm ∧ !a.dup then rxTally s a.conn p st 0 else s
        couReply s p a.conn st 0

/-- An admitted access completes; `read` is what a read of host memory gave (R200). -/
def execCourierAccessComplete (read : HostRead) (s : State) : Res := .next (s.ifRuns (accessDone s read))

/-! ### C_CONNECT, C_CLOSE and their answers (R199, R210) -/

/-- C_CONNECT at its target. -/
def couConnectIn (s : State) (p : Pkt) : State :=
  let c := p.flow
  let x := s.conn c
  let own := (x.state = .connecting ∨ x.state = .opened) ∧ x.peer = p.src ∧ x.peerConn = p.offset % 65536
  if s.connCap ≤ c ∨ !s.couOn ∨ !decide own then couReplyWith s p Co.connectResp St.revoked 0 0 []
  else
    let isNew := x.peerIss != some p.seq
    let s := if isNew then (staleAccess s c).setConn c { x with peerIss := some p.seq, csn := p.seq, window := [], refused := [], cache := [] }
      else s
    let s := couReplyWith s p Co.connectResp St.ok 0 p.seq []
    if isNew ∧ x.state = .opened then
      let s := dropPosted (dropWork s c St.memberLost) c St.memberLost
      let s := s.updConn c fun x => { x with rxNext := 0, nextMsn := 0, iss := x.nextSeq, nextSeq := (x.nextSeq + 1) % 2 ^ 32 }
      sendConnect s c
    else connectDone s c

/-- C_CONNECT (R199). -/
def execCConnect (port : Fin 16) (pkt : Bytes) (s : State) : Res := .next (couArrives s port Co.connect pkt couConnectIn)

/-- The connection an answer belongs to: its peer is SRC, its peer's connection the echoed FLOW, and it has the packet answered
outstanding. -/
def connOf (s : State) (p : Pkt) : Option Nat :=
  match s.cou.conns.find? fun x => x.2.peer == p.src && x.2.peerConn == p.flow && x.2.out.any (·.req.pkt.seq == p.seq) with
  | some (c, _) => some c
  | none => none

/-- STATUS and CAUSE of a Courier reply (R196). -/
def couStatus (p : Pkt) : Nat × Nat := (bits p.offset 39 32, bits p.offset 47 40)

/-- The answer of a C_CONNECT or C_CLOSE counts it off, and gives a round trip where it was sent once (R190, R203). -/
def bareAnswered (s : State) (p : Pkt) : State :=
  match s.cou.bare.find? fun b => b.req.pkt.dst == p.src && b.req.pkt.flow == p.flow && b.req.pkt.seq == p.seq &&
      couReplyOp b.req.pkt.opcode == p.opcode with
  | none => s
  | some b =>
    let d := p.src
    let rtt := (s.nowH % 2 ^ 32 + 2 ^ 32 - p.tse) % 2 ^ 32
    let sample := b.req.sends == 1 && b.req.pathEpoch == (s.dest d).pathEpoch
    let s := bareOff s b
    let s := if sample then s.updDest d fun y => { ccUpdate s y rtt b.req.lastSend with rtt := rtt } else s
    s.pumpAll d

/-- C_CONNECT_RESP: OK counts for the CONNECTING record whose C_CONNECT it answers (R199 step 3). -/
def couConnectResp (s : State) (p : Pkt) : State :=
  let s := bareAnswered s p
  match s.cou.conns.find? fun x => x.2.state == .connecting && x.2.peer == p.src && x.2.peerConn == p.flow && x.2.iss == p.seq with
  | some (c, _) => if (couStatus p).1 = St.ok then connectDone (s.updConn c fun x => { x with gotResp := true }) c else s
  | none => s

/-- C_CONNECT_RESP (R199). -/
def execCConnectResp (port : Fin 16) (pkt : Bytes) (s : State) : Res :=
  .next (couArrives s port Co.connectResp pkt couConnectResp)

/-- C_CLOSE: answered, and the connection enters ERROR with REVOKED (R210). -/
def couCloseIn (s : State) (c : Nat) (_ : Conn) (p : Pkt) : State :=
  connError (couReply (connComplete s c p.seq false) p c St.ok 0) c St.revoked

/-- C_CLOSE (R210). -/
def execCClose (port : Fin 16) (pkt : Bytes) (s : State) : Res :=
  .next (couArrives s port Co.close pkt fun s p => couTarget s p couCloseIn)

/-! ### Work requests at the sender (R203, R207) -/

/-- A packet of a work request has ended with a status and cause; those of the lowest sequence not OK are kept (R207). -/
def wrPacket (s : State) (c idx seq status cause : Nat) : State :=
  let f := fun (w : WorkReq) =>
    let k := (seq + 2 ^ 32 - w.first) % 2 ^ 32
    if status ≠ St.ok ∧ (w.status = St.ok ∨ k < w.badAt) then
      { w with left := w.left - 1, status := status, cause := cause, badAt := k }
    else { w with left := w.left - 1 }
  let s := s.updConn c fun x => { x with wrs := replaceIf (·.idx == idx) f x.wrs }
  wrSettle (s.conn c).wrs.length s c

/-- The sink of returned data of a packet. -/
def couSink (s : State) (w : WorkReq) (at' : Nat) (data : Bytes) : State :=
  let a := w.laddr % 2 ^ 63 + at'
  if bit w.laddr 63 then s.hostWrite a data else s.poke a data

/-- An answer reaches the sender: its packet is counted off, data goes to LADDR, and the work request may complete. -/
def couAnswer (s : State) (p : Pkt) : State :=
  match connOf s p with
  | none => bareAnswered s p
  | some c =>
    let x := s.conn c
    let (st, cause) := couStatus p
    match x.out.find? (·.req.pkt.seq == p.seq) with
    | none => s
    | some r =>
      if st = St.revoked ∧ p.opcode = Co.ack then connError s c St.revoked
      else
        let d := x.peer
        let q := r.req
        let rtt := (s.nowH % 2 ^ 32 + 2 ^ 32 - p.tse) % 2 ^ 32
        let sample := q.sends == 1 && q.pathEpoch == (s.dest d).pathEpoch
        let s := s.updDest d fun y =>
          let y := { y with courier := y.courier - 1, t0 := y.t0 - b2n (!q.phase), t1 := y.t1 - b2n q.phase }
          if sample then { ccUpdate s y rtt q.lastSend with rtt := rtt } else y
        let s := s.setConn c { x with out := x.out.erase r }
        let s := match x.wrs.find? (·.idx == r.wr) with
          | none => s
          | some w =>
            if st = St.violation then
              let s := s.bump Reg.COU_VIOL_TX
              s.raise Tag.cou 0x0002 Sev.contained (d * 2 ^ 48 + q.pkt.offset)
                [cause, q.pkt.opcode, c % 256, c / 256, w.key % 256, w.key / 256 % 256, w.key / 65536 % 256, w.key / 2 ^ 24]
            else if st ≠ St.ok then s
            else if p.opcode = Co.readResp then couSink s w (q.pkt.offset - w.roff) (Sh.data p)
            else if p.opcode = Co.atomicResp then couSink s w 0 (toLE 8 (Sh.opa p))
            else s
        let s := wrPacket s c r.wr p.seq st cause
        closeDone ((couPumpAll s c).pumpAll d) c

/-- C_ACK (R207). -/
def execCAck (port : Fin 16) (pkt : Bytes) (s : State) : Res := .next (couArrives s port Co.ack pkt couAnswer)
/-- C_READ_RESP (R206). -/
def execCReadResp (port : Fin 16) (pkt : Bytes) (s : State) : Res := .next (couArrives s port Co.readResp pkt couAnswer)
/-- C_ATOMIC_RESP (R206). -/
def execCAtomicResp (port : Fin 16) (pkt : Bytes) (s : State) : Res := .next (couArrives s port Co.atomicResp pkt couAnswer)

/-! Fields of a work request in the send ring (Table COU-7). -/
namespace Wq
def op (w : Bytes) : Nat := fld w 0 1
def fence (w : Bytes) : Bool := bit (fld w 1 1) 1
def signal (w : Bytes) : Bool := bit (fld w 1 1) 0
def atop (w : Bytes) : Nat := fld w 2 1
def size (w : Bytes) : Nat := fld w 3 1
def wrid (w : Bytes) : Nat := fld w 4 4
def laddr (w : Bytes) : Nat := fld w 8 8
def len (w : Bytes) : Nat := fld w 16 4
def key (w : Bytes) : Nat := fld w 20 4
def roff (w : Bytes) : Nat := fld w 24 8
def imm (w : Bytes) : Nat := fld w 32 4
def opa (w : Bytes) : Nat := fld w 40 8
def opb (w : Bytes) : Nat := fld w 48 8
end Wq

/-- The check of a work request before anything is sent (R205, R207). -/
def wrCheck (x : Conn) (w : Bytes) : Nat :=
  let op := Wq.op w
  if op = 0 ∨ 5 < op ∨ 4 ≤ fld w 1 1 ∨ (x.s2 ∧ op ≠ 2 ∧ op ≠ 3) then St.rights
  else if op = 5 then St.ok
  else if Wq.len w = 0 ∨ 16777216 < Wq.len w then St.bounds
  else if op ≠ 1 ∧ (Wq.len w % 64 ≠ 0 ∨ Wq.roff w % 64 ≠ 0) then St.bounds
  else St.ok

/-- The packets of a work request, in ascending address, without sequence numbers (R207). -/
def wrPackets (x : Conn) (w data : Bytes) : List Pkt :=
  let op := Wq.op w
  let cut := fun (n : Nat) => (List.range (ceilDiv n 4032)).map fun i => (4032 * i, min 4032 (n - 4032 * i))
  if op = 5 then
    [{ opcode := Co.atomic, key := Wq.key w, offset := Wq.roff w, length := 64,
       payload := Sh.make 0 0 0 0 0 (Wq.atop w) (Wq.size w) 0 (Wq.opa w) (Wq.opb w) }]
  else if op = 4 then
    (cut (Wq.len w)).map fun (o, n) =>
      { opcode := Co.read, key := Wq.key w, offset := Wq.roff w + o, length := 64, payload := Sh.make 0 0 0 0 0 0 0 n 0 0 }
  else
    (cut (Wq.len w)).map fun (o, n) =>
      let msg := op ≠ 2
      let body := pad64 (slice data o n)
      { opcode := if op = 1 then Co.send else if op = 2 then Co.write else Co.writeImm,
        key := if op = 1 then 0 else Wq.key w, offset := if op = 1 then 0 else Wq.roff w + o, length := 64 + body.length,
        payload := Sh.make (if msg then x.nextMsn else 0) (if msg then Wq.len w else 0) (if msg then o else 0)
          (if op = 3 then Wq.imm w else 0) n 0 0 0 0 0 ++ body }

/-- A work request that ends without sending. -/
def wrEnd (s : State) (c : Nat) (w : Bytes) (status : Nat) : State :=
  let s := s.updConn c fun x => { x with wrIdx := x.wrIdx + 1, wrs := x.wrs ++
    [{ idx := x.wrIdx, op := Wq.op w, wrid := Wq.wrid w, signal := Wq.signal w, len := Wq.len w, key := Wq.key w,
       roff := Wq.roff w, laddr := Wq.laddr w, left := 0, status := status }] }
  wrSettle (s.conn c).wrs.length s c

/-- A work request starts: its local data is read and its packets take their sequence numbers. -/
def wrStart (s : State) (c : Nat) (w : Bytes) (data : HostRead) : State :=
  let x := s.conn c
  let st := wrCheck x w
  if st ≠ St.ok then wrEnd s c w st
  else
    let n := if Wq.op w ≤ 3 then Wq.len w else 0
    let (s, st, d) := if n = 0 then (s, St.ok, [])
      else if bit (Wq.laddr w) 63 then s.hostRead n data
      else s.readMem (Wq.laddr w) n
    if st ≠ St.ok then wrEnd s c w st
    else
      let ps := wrPackets x w d
      let reqs := ps.zipIdx.map fun (p, i) =>
        (⟨{ pkt := { p with dst := x.peer, src := s.node, team := x.team, flow := x.peerConn, seq := (x.nextSeq + i) % 2 ^ 32 },
            origin := .silent }, x.wrIdx⟩ : CouReq)
      let s := s.setConn c { x with
        wrIdx := x.wrIdx + 1, nextSeq := (x.nextSeq + ps.length) % 2 ^ 32,
        nextMsn := if Wq.op w = 1 ∨ Wq.op w = 3 then x.nextMsn + 1 else x.nextMsn,
        waiting := x.waiting ++ reqs,
        wrs := x.wrs ++ [{ idx := x.wrIdx, op := Wq.op w, wrid := Wq.wrid w, signal := Wq.signal w,
                           len := if Wq.op w = 5 then 8 else Wq.len w, key := Wq.key w, roff := Wq.roff w,
                           laddr := Wq.laddr w, left := ps.length, first := x.nextSeq }] }
      couPumpAll s c

/-- The next work request of a connection's ring is taken when its OP is `op`, or when it is refused whatever its OP. One on a
connection in ERROR ends with the status that put it there (R203). At WALK none is taken (R315). -/
def wrTurn (s : State) (c op : Nat) (entry data : HostRead) : State :=
  let x := s.conn c
  let n := 2 ^ x.sendLog2
  if !s.couOn || s.walk || (x.state != .opened && x.state != .error) || x.sqHead == x.sqTail || (s.couCq x.cq).full then s
  else
    let next := fun (s : State) => s.updConn c fun x => { x with sqHead := (x.sqHead + 1) % n }
    let (s', st, w) := if bit x.sendBase 63 then s.hostRead 64 entry else s.readMem (x.sendBase + 64 * x.sqHead) 64
    if st ≠ St.ok then wrEnd (next s') c w st
    else if x.state = .error then wrEnd (next s') c w x.errStatus
    else if Wq.fence w ∧ !x.wrs.isEmpty then s
    else if Wq.op w = op ∨ Wq.op w = 0 ∨ 5 < Wq.op w then wrStart (next s') c w data
    else s

/-- SEND (R207). -/
def execWrSend (conn : Fin 8192) (entry data : HostRead) (s : State) : Res := .next (s.ifRuns (wrTurn s conn 1 entry data))
/-- WRITE (R207). -/
def execWrWrite (conn : Fin 8192) (entry data : HostRead) (s : State) : Res := .next (s.ifRuns (wrTurn s conn 2 entry data))
/-- WRITE_IMM (R207). -/
def execWrWriteImm (conn : Fin 8192) (entry data : HostRead) (s : State) : Res := .next (s.ifRuns (wrTurn s conn 3 entry data))
/-- READ (R207). -/
def execWrRead (conn : Fin 8192) (entry : HostRead) (s : State) : Res := .next (s.ifRuns (wrTurn s conn 4 entry (.data [])))
/-- ATOMIC (R207). -/
def execWrAtomic (conn : Fin 8192) (entry : HostRead) (s : State) : Res := .next (s.ifRuns (wrTurn s conn 5 entry (.data [])))

/-! ### Retransmission of any request (R177, R203) -/

/-- The timer of a C_CONNECT or C_CLOSE of a connection that is not CONNECTING: sent again, or given up, which for a C_CONNECT puts the
connection in ERROR (R203). -/
def bareRetransmit (s : State) (b : CouBare) : State :=
  let r := b.req
  if s.nowH < r.lastSend + s.fld Reg.HTP_RETX F.HTP_RETX_RTO * 2 ^ (r.sends - 1) then s
  else
    let s := s.updDest r.pkt.dst fun d => pathTimeout s d r
    if s.fld Reg.HTP_RETX F.HTP_RETX_RETRY_MAX < r.sends then
      let s := (giveUp (bareOff s b) r.pkt.dst r).pumpAll r.pkt.dst
      if r.pkt.opcode = Co.connect then connError s b.conn St.memberLost else s
    else bareAgain s b

/-- The timer of packet `seq` of a connection: sent again, or given up, which puts the connection in ERROR; a
CLOSING connection goes on to its C_CLOSE (R203, R210). -/
def couRetransmit (s : State) (c seq : Nat) : State :=
  let x := s.conn c
  match x.out.find? (·.req.pkt.seq == seq) with
  | none =>
    match s.cou.bare.find? fun b => b.conn == c && b.req.pkt.seq == seq &&
        !(b.req.pkt.opcode == Co.connect && x.state == .connecting) with
    | some b => bareRetransmit s b
    | none => s
  | some r =>
    if s.nowH < r.req.lastSend + s.fld Reg.HTP_RETX F.HTP_RETX_RTO * 2 ^ (r.req.sends - 1) then s
    else
      let s := s.updDest x.peer fun d => pathTimeout s d r.req
      if s.fld Reg.HTP_RETX F.HTP_RETX_RETRY_MAX < r.req.sends then
        let s := giveUp s x.peer r.req
        if x.state = .closing then
          let s := s.updDest x.peer fun d => { d with
            courier := d.courier - 1, t0 := d.t0 - b2n (!r.req.phase), t1 := d.t1 - b2n r.req.phase }
          let s := s.updConn c fun x => { x with out := x.out.erase r }
          closeDone ((wrPacket s c r.wr seq St.memberLost 0).pumpAll x.peer) c
        else connError s c St.memberLost
      else
        let (s, q) := s.emitReq x.peer r.req true
        let s := s.updConn c fun x => { x with out := replaceIf (· == r) (fun _ => ⟨q, r.wr⟩) x.out }
        s.bump Reg.HTP_RETX_TALLY

/-- A request's timer: of a destination's sequence, or of a Courier connection's (R177, R203). -/
def execRetransmitTimeout (node : Fin 65536) (conn : Option (Fin 8192)) (seq : Word) (s : State) : Res :=
  .next (match conn with
    | some c => couRetransmit s c seq.toNat
    | none => retransmit s node seq.toNat)

/-! ### Unlisted opcodes (R172) -/

/-- An opcode of Table HTP-2 or Table COU-2. -/
def listedOp (op : Nat) : Bool :=
  (decide (1 ≤ op) && decide (op ≤ 8)) || isMessage op || (decide (0x30 ≤ op) && decide (op ≤ 0x36)) ||
    (decide (0x38 ≤ op) && decide (op ≤ 0x3B)) || (decide (0x40 ≤ op) && decide (op ≤ 0x44))

/-- A request with an unlisted opcode: discarded from 0x45 up; otherwise its sequence completes and it is refused RIGHTS. -/
def unlistedAct (s : State) (p : Pkt) : State :=
  if 0x45 ≤ p.opcode then s.bump Reg.HTP_BAD_OP
  else if 0x30 ≤ p.opcode then
    couNew s p fun s c _ p => couReply (connComplete s c p.seq true) p c St.rights 0
  else request s p false fun s p => answer s p St.rights []

/-- A packet with an unlisted opcode arrives on a port. -/
def unlisted (s : State) (port : Nat) (bs : Bytes) : State :=
  if listedOp (fld bs 4 1) then s
  else match arriveColour s port none bs with
    | (s, none) => s
    | (s, some (p, yellow)) =>
      if 0x45 ≤ p.opcode then unlistedAct s p else localPath s port s.nowH yellow p unlistedAct

/-- An unlisted opcode (R172). -/
def execUnlistedOpcode (port : Fin 16) (pkt : Bytes) (s : State) : Res := .next (unlisted s port pkt)

/-! ### The local path after STABLED (R316) -/

/-- A packet that waited on the local path goes on, by its opcode. -/
def localAct (s : State) (p : Pkt) : State :=
  let op := p.opcode
  if !listedOp op then unlistedAct s p
  else if op < 0x30 then requestAct s p
  else if op = Co.send then couTarget s p couSend
  else if op = Co.write ∨ op = Co.writeImm ∨ op = Co.read ∨ op = Co.atomic then couTarget s p couKeyed
  else if op = Co.connect then couConnectIn s p
  else if op = Co.connectResp then couConnectResp s p
  else if op = Co.close then couTarget s p couCloseIn
  else couAnswer s p

/-- Parked packets go on, at most `fuel` of them. -/
def parkedGo : Nat → State → State
  | 0, s => s
  | fuel + 1, s =>
    match parkedNext s with
    | some (s, port, it) => parkedGo fuel (localPath s port it.stamp it.yellow it.pkt localAct)
    | none => s

/-- Parked packets go on in the order of the local path's queues, once memory and the stalls run again (R234, R316). -/
def parkedRelease (s : State) : State := parkedGo s.htp.parked.length s

end Sys2Proof.Machine
end

