-- ==== Sys2Proof/Machine/Doorbell.lean ====
section
/-!
DEFINITION. Machine/Doorbell.lean: what a doorbell does (R273, R274), the receive posts of Courier, and the doorbells that wait for
BAR2 writes to this module (R272).
-/
namespace Sys2Proof.Machine

/-! ### What a doorbell does -/

/-- SQ_TAIL of a connection (R207). -/
def couSqTail (s : State) (c v : Nat) : State := s.updConn c fun x => { x with sqTail := v % 2 ^ x.sendLog2 }

/-- Receives of ring entries are posted (Table COU-8). -/
def postEntries (status : Nat) (data : Bytes) : Nat → Nat → List Posted
  | 0, _ => []
  | n + 1, i => ⟨fld data (16 * i) 8, fld data (16 * i + 8) 4, fld data (16 * i + 12) 4, status⟩ :: postEntries status data n (i + 1)

/-- Receives posted by entries of a ring in local HBM, each with the status of its read. -/
def postLocal (base log2 : Nat) : Nat → State → Nat → State × List Posted
  | 0, s, _ => (s, [])
  | n + 1, s, i =>
    let (s, st, d) := s.readMem (base + 16 * (i % 2 ^ log2)) 16
    let (s, ps) := postLocal base log2 n s (i + 1)
    (s, postEntries st d 1 0 ++ ps)

/-- RQ_TAIL of a connection: the entries up to the new tail are posted; those of a ring in host memory are read now, and `r` is what
they hold (R204, R272). -/
def couRqTail (s : State) (c v : Nat) (r : HostRead) : State :=
  let x := s.conn c
  let n := 2 ^ x.recvLog2
  let k := (v % n + n - x.rqTail) % n
  let (s, ps) := if bit x.recvBase 63 then
      let (s, st, d) := s.hostRead (16 * k) r
      (s, postEntries st d k 0)
    else postLocal x.recvBase x.recvLog2 k s x.rqTail
  s.updConn c fun x => { x with rqTail := v % n, posted := x.posted ++ ps }

/-- A doorbell takes effect (R273, R274). A write of BAR0 has its effect in Machine/HostRun.lean. -/
def bellRun (s : State) (b : Bell) : State :=
  match b with
  | .ldgSq q v => aqTail s q v
  | .ldgCq q v => aqHead s q v
  | .couSq c v => if (s.conn c).state = .free then s else couSqTail s c v
  | .couRq c v r =>
    if (s.conn c).state = .free ∨ (s.conn c).state = .error then s
    else couRqTail s c v r
  | .couCq k v => couCqHead s k v
  | .pkh r _ => s.ifRuns (ticketTakeAll 64 s r)
  | .reg .. => s

/-- What waits is a write of BAR0. -/
def Bell.isReg (b : Bell) : Bool :=
  match b with
  | .reg .. => true
  | _ => false

/-- A BAR2 write to this module's own node has not yet been accepted (R272). -/
def ownWrites (s : State) : Bool :=
  (match s.host.merge with
    | some m => Aper.node m.ap == s.node
    | none => false) ||
  s.rns.waiting.any fun it => it.pkt.opcode == Op.store && it.pkt.dst == s.node

/-- Waiting doorbells take effect in order once no such write is left, up to a BAR0 write (R272). -/
def bellsRun (s : State) : State :=
  if ownWrites s then s
  else forEach (s.host.doorbells.takeWhile (!·.isReg))
    (s.updHost fun h => { h with doorbells := h.doorbells.dropWhile (!·.isReg) }) bellRun

/-- Waiting BAR2 requests proceed while the shaper's fill is not negative (R235). -/
def hostShaperRun (s : State) : State :=
  let s := shaperFill s
  bellsRun (hostDrain (shaperRelease s.rns.waiting.length s))

end Sys2Proof.Machine
end

