-- ==== Sys2Proof/Machine/Far.lean ====
section
/-!
DEFINITION. Machine/Far.lean: Farrier: event delivery (R343), poisoned pages (R336, R337), patrol scrub (R340), what Farrier
answers for a FAILED stall (R341), and the changes of a stall's service state and duty that follow its work (R41, R43).
-/
namespace Sys2Proof.Machine

/-- Change Farrier's state. -/
def State.updFar (s : State) (f : Farrier → Farrier) : State := { s with far := f s.far }

/-! ### Event delivery (R343) -/

/-- A record for host event queue q; a disabled queue discards it. -/
def evDeliverTo (s : State) (q : Nat) (e : Event) : State :=
  match evqPut s q e with
  | (s, true) => s
  | (s, false) => s.bump Reg.FAR_EV_DROP

/-- Queues a record goes to: QUEUE of its TAG's route, and FATAL_Q for a FATAL record, once each. -/
def evQueues (s : State) (e : Event) : List Nat :=
  let r := Reg.FAR_ROUTE (e.tag - 1)
  let a := if s.flag r F.FAR_ROUTE_EN ∧ s.fld r F.FAR_ROUTE_MINSEV ≤ e.sev then [s.fld r F.FAR_ROUTE_QUEUE] else []
  let q := s.fld Reg.FAR_CTRL F.FAR_CTRL_FATAL_Q
  if e.sev = Sev.fatal ∧ !a.contains q then a ++ [q] else a

/-- The oldest buffered record is routed. -/
def eventDeliver (s : State) : State :=
  match s.far.events with
  | [] => s
  | e :: rest =>
    let s := s.updFar fun f => { f with events := rest }
    let s := forEach (evQueues s e) s fun s q => evDeliverTo s q e
    if e.sev = Sev.fatal then s.groomLogPush e else s

/-- Farrier routes a buffered record (R343). -/
def execEventDeliver (s : State) : Res := .next (eventDeliver s)

/-! ### Answers for a FAILED stall (R341) -/

/-- Descriptors queued, running, or waiting for a merge context; then every open merge context. -/
def farAnswerAtt (s : State) (n : Nat) : State :=
  let w := s.work n
  let s := forEach w.run s fun s x => match x.snap with
    | some (root, e) => walkerRelease s root e
    | none => s
  let s := s.updWork n fun w => { w with att := [], run := [], mrgWait := [] }
  let s := forEach w.att s fun s it => histSample s 1 n 0 it.stamp
  let s := forEach (w.run.map (·.item.msg) ++ w.att.map (·.msg)) s fun s m => farNode s n m St.uncorrectable
  let s := forEach w.mrgWait s fun s it => match it.own with
    | some m => farTomb (farEmit s n m St.uncorrectable) n (attKey m) it.record
    | none => s
  forEach (w.ctxs.filter (·.tomb.isNone)) s fun s c => farTomb (ctxEmit s n c St.uncorrectable) n c.key c.head

/-- Pages an append that runs has reserved. -/
def appendPages (r : AppendRun) : List Nat :=
  r.unused ++ r.pairs.flatMap fun p => p.listPage.toList ++ p.entries.map fun e => ptePage e.1

/-- Appends queued and running end with UNCORRECTABLE; nothing they reserved returns to the FAILED stall. -/
def farAnswerAppends (s : State) (n : Nat) : State :=
  let w := s.work n
  let s := s.updWork n fun w => { w with appends := [] }
  forEach w.appends s fun s a =>
    let s := match a.run with
      | some r => s.freePages (appendPages r)
      | none => histSample s 2 n 0 a.stamp
    appendDone s n a.msg St.uncorrectable 0

/-- Messages that waited for room in the stall's queues reach a FAILED stall. -/
def farAnswerLate (s : State) (n : Nat) : State :=
  let late := (s.work n).late
  let s := s.updWork n fun w => { w with late := [] }
  forEach late s fun s x =>
    if x.msg.op = Op.append then appendDone s n x.msg.data St.rights 0 else farNode s n x.msg.data St.rights

/-- Edits of tables whose root the stall holds, and near-memory work, end with UNCORRECTABLE; queued line writes are discarded
(R342). -/
def farAnswerRest (s : State) (n : Nat) : State :=
  let es := s.kvp.edits.filter (·.stall == n)
  let s := forEach es s fun s e =>
    let s := match e.build with
      | some b => s.freePages b.fresh
      | none => s
    editEnd s e St.uncorrectable 0 0
  s.updStall n fun t =>
    { t with
      storeQ := [], hot := [], nmuQ := [],
      nmuRun := t.nmuRun.map (fun r => if r.ran then { r with status := St.uncorrectable } else r) ++
        t.nmuQ.map fun d => ⟨d, St.uncorrectable, 0, 0, false⟩ }

/-- Farrier answers for each stall it has moved to FAILED. -/
def farSettle (s : State) : State :=
  forEach s.far.failDue (s.updFar fun f => { f with failDue := [] }) fun s n =>
    farAnswerRest (farAnswerLate (farAnswerAppends (farAnswerAtt s n) n) n) n

/-! ### Poisoned pages (R336, R337) -/

/-- Fields of an owner word (Table FAR-2). -/
def ownerWord (s : State) (page : Nat) : State × Nat × Bytes := s.readMem (s.ownerBase + 16 * page) 16

/-- The oldest page that waits is resolved: its PTE is poisoned where the owning table still names it (R336). Only a C module has
owner words (Table STL-8). -/
def pageResolve (s : State) : State :=
  match s.far.toResolve with
  | [] => s
  | page :: rest =>
    let s := s.updFar fun f => { f with toResolve := rest, resolved := (page :: f.resolved.filter (· != page)).take 64 }
    if s.role ≠ roleC then s
    else match ownerWord s page with
    | (s, st, w) =>
      if st ≠ St.ok ∨ fld w 6 1 ≠ 1 then s
      else
        let first := fld w 8 4
        match poisonEntry s (fld w 0 4 * pageBytes) (fld w 4 2) first page with
        | (s, some handle) =>
          let s := s.bump Reg.FAR_POISONED
          let s := s.raise Tag.far 0x0003 Sev.contained handle ((toLE 4 page).map BitVec.toNat)
          pedReport s handle first
        | (s, none) => s

/-- Farrier resolves a damaged page (R336). -/
def execFarPageResolve (s : State) : Res := .next (s.ifRuns (farSettle (pageResolve s)))

/-- The oldest page handed to R337 is zeroed and read back: lines `bad` read back uncorrectable, which retires it. -/
def pageReclaim (s : State) (bad : List Nat) : State :=
  match s.far.toReclaim with
  | [] => s
  | page :: rest =>
    let s := s.updFar fun f => { f with toReclaim := rest }
    let n := page / stallPages
    if s.stallFailed n then s
    else
      let s := s.poke (page * pageBytes) (zeros pageBytes)
      if bad.isEmpty then s.freePage page
      else
        let s := forEach bad s fun s i => s.foundUe (page * 256 + i) 0
        let s := s.bump Reg.FAR_RETIRED
        let s := s.updFar fun f => { f with retired := f.retired ++ [page] }
        s.raise Tag.far 0x0005 Sev.degraded (page * pageBytes) [n, 0, 0, 0]

/-- Farrier zeroes and rereads a poisoned page (R337). -/
def execPoisonedPageReclaim (bad : List (Fin 256)) (s : State) : Res :=
  .next (s.ifRuns (farSettle (pageReclaim s (bad.map (·.val)))))

/-! ### Patrol scrub (R340) -/

/-- Lines of one stall. -/
def stallLines : Nat := 37748736

/-- Bytes in error that the code of a line corrects (R330). -/
def lineCorrects (s : State) (line : Nat) : Nat := if s.protectedPage (64 * line / pageBytes) then 2 else 1

/-- Scrub reads a line that holds `errors` bytes in error beside what the line's mark says (R330, R333, R340). -/
def scrubRead (s : State) (line errors : Nat) : State :=
  let s := s.drainHome (homeStall (64 * line))
  match s.marks.get? line with
  | some (.correctable k) => s.foundCe line k 1
  | some .damaged => s.foundUe line 1
  | some .poison => s.sawPoison line
  | none =>
    if errors = 0 then s else if errors ≤ lineCorrects s line then s.foundCe line errors 1 else s.foundUe line 1

/-- Stall n's scrubber has read its last line; when every controller that runs has, the pass is complete. -/
def scrubPass (s : State) (n : Nat) : State :=
  let done := s.far.scrubDone ++ [n]
  let s := s.updFar fun f => { f with scrubDone := done }
  if (List.range 128).all fun k => s.stallFailed k || done.contains k then
    let s := (s.updFar fun f => { f with scrubDone := [] }).bump Reg.FAR_SCRUB_PASSES
    s.raise Tag.far 0x0006 Sev.info 0 ((toLE 4 (s.reg Reg.FAR_SCRUB_PASSES)).map BitVec.toNat)
  else s

/-- The scrubber of a stall reads its next line. It pauses in WALK and STABLED, and between passes until every other controller
has finished. -/
def scrubLine (s : State) (n errors : Nat) : State :=
  if !s.flag Reg.FAR_CTRL F.FAR_CTRL_SCRUB_EN || s.walk || s.stallFailed n || s.far.scrubDone.contains n then s
  else
    let k := s.far.scrubAt.getD n 0
    let s := scrubRead s (n * stallLines + k) errors
    let s := s.updFar fun f => { f with scrubAt := f.scrubAt.put n ((k + 1) % stallLines) }
    if k + 1 = stallLines then scrubPass s n else s

/-- A home controller scrubs its next line, which holds `errors` bytes in error (R340). -/
def execScrubLine (stall : Fin 128) (errors : Fin 7) (s : State) : Res := .next (farSettle (scrubLine s stall errors))

/-! ### Service state and duty -/

/-- A stall has no queued and no running item: R43 speaks of its queues; the edits at the stall, the merge contexts that are open, the
messages that wait for room and the completions that are held count among them (DESIGN CHOICE, log 210). -/
def stallIdle (s : State) (n : Nat) : Bool :=
  let t := s.stall n
  let w := s.work n
  t.nmuQ.isEmpty && t.nmuRun.isEmpty && w.appends.isEmpty && w.att.isEmpty && w.run.isEmpty && w.mrg.isEmpty && w.mrgWait.isEmpty &&
    w.late.isEmpty && w.ctxs.all (·.tomb.isSome) && !(s.kvp.edits.any fun e => e.stall == n)

/-- A DRAINING stall whose queues are empty moves to OUT_OF_SERVICE (R43). -/
def execStallDrained (stall : Fin 128) (s : State) : Res :=
  .next (if (s.stall stall).service = .draining ∧ stallIdle s stall then s.setService stall .outOfService else s)

/-- A duty change takes effect once the items that ran when it was set have completed (R41). -/
def dutyTake (s : State) (n : Nat) : State :=
  match (s.stall n).dutyNext with
  | none => s
  | some d => if dutyDue s n then s.updStall n fun t => { t with duty := d, dutyNext := none, dutyWait := [] } else s

/-- A pending duty change takes effect (R41). -/
def execDutyTakeEffect (stall : Fin 128) (s : State) : Res := .next (dutyTake s stall)

end Sys2Proof.Machine
end

