-- ==== Sys2Proof/Machine/Line.lean ====
section
/-!
DEFINITION. Machine/Line.lean: the line code of harness ports (R150, R153, R155, R159): PAM4 symbols, lane placement, RS(544,514)
decoding, ALIGN blocks and training frames. The field, the generator and the parity of RS(544,514) and the generator of PRBS13 are
those of IEEE 802.3 (PRESUMED).
-/
namespace Sys2Proof.Machine

/-! ### PAM4 symbols (R150) -/

/-- The two bits of a PAM4 symbol, Gray-coded. -/
def pamBits : Pam → Nat
  | .m3 => 0
  | .m1 => 1
  | .p1 => 3
  | .p3 => 2

/-- The PAM4 symbol of two bits. -/
def pamOf (v : Nat) : Pam := if v = 0 then .m3 else if v = 1 then .m1 else if v = 3 then .p1 else .p3

/-- The 10-bit symbol that five PAM4 symbols carry, most significant bits first. -/
def symOf (ps : List Pam) : Nat := ps.foldl (fun v p => 4 * v + pamBits p) 0

/-- The five PAM4 symbols of a 10-bit symbol. -/
def pamsOf (v : Nat) : List Pam := (List.range 5).map fun i => pamOf (v / 4 ^ (4 - i) % 4)

/-- The lane that carries codeword symbol `i` on a lane set: the ((i mod W) + 1)-th lane, ascending. -/
def laneOf (set i : Nat) : Nat :=
  let l := (List.range 4).filter (bit set ·)
  l.getD (i % l.length) 0

/-- The next `n` codeword symbols from the lanes, in turn. -/
def gather : Nat → List (List Pam) → List Nat
  | 0, _ => []
  | _ + 1, [] => []
  | n + 1, l :: ls => symOf (l.take 5) :: gather n (ls ++ [l.drop 5])

/-- Codeword symbols put on W lanes in turn. -/
def spread (w : Nat) (cw : List Nat) : List (List Pam) :=
  (List.range w).map fun k => (cw.zipIdx.filter fun (_, i) => i % w == k).flatMap fun (v, _) => pamsOf v

/-! ### RS(544,514) over GF(2¹⁰), x¹⁰ + x³ + 1 (IEEE 802.3 clause 91) -/

/-- Product in GF(2¹⁰). -/
def gfMul (a b : Nat) : Nat :=
  if a = 0 ∨ b = 0 then 0
  else (List.range 10).foldl (fun acc i =>
    let d := if 512 ≤ acc then (2 * acc) ^^^ 0x409 else 2 * acc
    if bit b (9 - i) then d ^^^ a else d) 0

/-- Power in GF(2¹⁰), by the ten bits of the exponent. -/
def gfPow (a n : Nat) : Nat :=
  (List.range 10).foldl (fun acc i =>
    let sq := gfMul acc acc
    if bit n (9 - i) then gfMul sq a else sq) 1

/-- Power of the primitive element. -/
def gfExp (n : Nat) : Nat := gfPow 2 (n % 1023)

/-- Inverse in GF(2¹⁰). -/
def gfInv (a : Nat) : Nat := gfPow a 1022

/-- Value at `x` of a polynomial given from its highest power. -/
def gfEval (p : List Nat) (x : Nat) : Nat := p.foldl (fun acc c => gfMul acc x ^^^ c) 0

/-- Sum of polynomials given from their lowest power. -/
def gfAdd : List Nat → List Nat → List Nat
  | [], q => q
  | p, [] => p
  | a :: p, b :: q => (a ^^^ b) :: gfAdd p q

/-- The 30 syndromes of a codeword. -/
def rsSyndromes (cw : List Nat) : List Nat := (List.range 30).map fun j => gfEval cw (gfExp j)

/-- The generator polynomial, from its highest power: ∏ (x − αʲ), j = 0 to 29. -/
def rsGenerator : List Nat :=
  (List.range 30).foldl (fun g j => (gfAdd (0 :: g.reverse) (g.reverse.map (gfMul · (gfExp j)))).reverse) [1]

/-- The 30 parity symbols of 514 message symbols. -/
def rsParity (msg : List Nat) : List Nat :=
  let g := rsGenerator.drop 1
  msg.foldl (fun r m =>
    let f := m ^^^ r.headD 0
    List.zipWith (fun a b => a ^^^ gfMul f b) (r.drop 1 ++ [0]) g) (List.replicate 30 0)

/-- One round of the error locator's construction: locator C, last locator B, length, shift, last discrepancy. -/
def rsRound (syn : List Nat) (x : List Nat × List Nat × Nat × Nat × Nat) (n : Nat) : List Nat × List Nat × Nat × Nat × Nat :=
  let (c, b, len, m, d0) := x
  let d := (List.range (len + 1)).foldl (fun acc i => acc ^^^ gfMul (c.getD i 0) (syn.getD (n - i) 0)) 0
  if d = 0 then (c, b, len, m + 1, d0)
  else
    let k := gfMul d (gfInv d0)
    let c' := gfAdd c (List.replicate m 0 ++ b.map (gfMul · k))
    if 2 * len ≤ n then (c', c, n + 1 - len, 1, d) else (c', b, len, m + 1, d0)

/-- The symbols in error and their values that the syndromes point to: locator, its roots, and the value at each root. -/
def rsErrors (syn : List Nat) : Nat × List (Nat × Nat) :=
  let (loc, _, len, _, _) := (List.range 30).foldl (rsRound syn) ([1], [1], 0, 1, 1)
  let omega := (List.range 30).map fun n => (List.range (n + 1)).foldl (fun acc i => acc ^^^ gfMul (loc.getD i 0) (syn.getD (n - i) 0)) 0
  let deriv := loc.zipIdx.map fun (v, i) => if i % 2 = 1 then v else 0
  (len, (List.range 544).filterMap fun i =>
    let x := gfExp (543 - i)
    let y := gfExp (480 + i)
    if gfEval loc.reverse y = 0 then
      some (i, gfMul (gfMul x (gfEval omega.reverse y)) (gfInv (gfMul (gfEval deriv.reverse y) x)))
    else none)

/-- A received codeword corrected, with the symbols in error; none when it is not within 15 symbols of a codeword (R155). -/
def rsFix (cw : List Nat) : Option (List Nat × List Nat) :=
  let syn := rsSyndromes cw
  if syn.all (· == 0) then some (cw, [])
  else
    let (len, es) := rsErrors syn
    let out := cw.zipIdx.map fun (v, i) => v ^^^ ((es.find? (·.1 == i)).map (·.2)).getD 0
    if 15 < len ∨ es.length ≠ len ∨ !(rsSyndromes out).all (· == 0) then none else some (out, es.map (·.1))

/-! ### Codewords (R150) -/

/-- A corrected codeword: header bits, slot bytes as scrambled, and corrected symbols by lane. -/
structure LineWord where
  header : Nat
  body : Bytes
  fixed : List Nat
  deriving DecidableEq, Repr

/-- Message bits m[0] to m[5139] as one number, m[0] least significant. -/
def messageBits (cw : List Nat) : Nat := (cw.take 514).foldr (fun v acc => v + 1024 * acc) 0

/-- The codeword on the lanes of a receive set; none when it is uncorrectable. -/
def lineDecode (set : Nat) (lanes : List (List Pam)) : Option LineWord :=
  let w := max 1 (((List.range 4).filter (bit set ·)).length)
  let ls := (lanes ++ List.replicate 4 []).take w
  match rsFix (gather 544 ls) with
  | none => none
  | some (cw, es) =>
    let m := messageBits cw
    some ⟨m % 2 ^ 20, toLE 640 (m / 2 ^ 20), (List.range 4).map fun k => (es.filter fun i => laneOf set i == k).length⟩

/-- The lanes that carry a header and ten scrambled slots on W lanes. -/
def lineEncode (w header : Nat) (body : Bytes) : List (List Pam) :=
  let m := header % 2 ^ 20 + 2 ^ 20 * leNat body
  let msg := (List.range 514).map fun i => m / 1024 ^ i % 1024
  spread w (msg ++ rsParity msg)

/-! ### ALIGN blocks and training frames (R153, R159) -/

/-- One bit as two symbols: (+3, −3) for 1, (−3, +3) for 0. -/
def bitPair (b : Bool) : List Pam := if b then [.p3, .m3] else [.m3, .p3]

/-- The ALIGN block of a lane under a width code: marker, then lane[1:0], code[1:0], twice, each from bit 1. -/
def alignBlock (lane code : Nat) : List Pam :=
  let tag := [bit lane 1, bit lane 0, bit code 1, bit code 0].flatMap bitPair
  List.replicate 32 .p3 ++ List.replicate 32 .m3 ++ tag ++ tag

/-- The ALIGN blocks of a lane set, one per lane in ascending order. -/
def alignBlocks (set : Nat) : List (List Pam) :=
  let l := (List.range 4).filter (bit set ·)
  l.map fun k => alignBlock k (if l.length = 4 then 3 else l.length)

/-- A 32-bit word of a training frame, least significant bit first. -/
def wordPams (w : Nat) : List Pam := (List.range 32).flatMap fun i => bitPair (bit w i)

/-- PRBS13, x¹³ + x¹² + x² + x + 1, after `n` bits from state `v`. -/
def prbs13 : Nat → Nat → List Bool
  | 0, _ => []
  | n + 1, v =>
    let b := (v / 2 ^ 12 + v / 2 ^ 11 + v / 2 + v) % 2
    (b == 1) :: prbs13 n ((2 * v + b) % 2 ^ 13)

/-- Bits in pairs as PAM4 symbols, the first bit of a pair most significant. -/
def bitsPams : List Bool → List Pam
  | a :: b :: l => pamOf (2 * b2n a + b2n b) :: bitsPams l
  | _ => []

/-- The 4,096 symbols of a training frame whose PRBS13 goes on from position `at` of its period. -/
def framePams (control status pos : Nat) : List Pam :=
  List.replicate 16 .p3 ++ List.replicate 16 .m3 ++ wordPams control ++ wordPams status ++
    bitsPams ((prbs13 (pos + 7872) 0x1FFF).drop pos)

end Sys2Proof.Machine
end

