-- ==== Sys2Proof/Machine/Hlk.lean ====
section
/-!
DEFINITION. Machine/Hlk.lean: harness ports and lanes (R148–R166): link states, training, retraining and width, codewords and
slots, credits, recalibration, hoofbeats and eye scans.
-/
namespace Sys2Proof.Machine

/-! ### Lanes and sets -/

/-- Lane k of a port. -/
def Port.lane (x : Port) (k : Nat) : Lane := x.lanes.getD k {}

/-- Change lane k. -/
def Port.updLane (x : Port) (k : Nat) (f : Lane → Lane) : Port := { x with lanes := x.lanes.set k (f (x.lane k)) }

/-- Lanes good in both directions, as a mask. -/
def Port.good (x : Port) : Nat :=
  (List.range 4).foldl (fun m k => if (x.lane k).good && (x.lane k).powered then m + 2 ^ k else m) 0

/-- Every lane of `set` is in `mask`. -/
def within (set mask : Nat) : Bool := set &&& mask == set

/-- The first set of R160 whose lanes are all good. -/
def pickSet (mask : Nat) : Option Nat := [0xF, 0x3, 0xC, 1, 2, 4, 8].find? fun m => within m mask

/-- Lanes of a set. -/
def setWidth (set : Nat) : Nat := ((List.range 4).filter fun k => bit set k).length

/-- HLK_STATUS.WIDTH of a set. -/
def widthCode (set : Nat) : Nat := if setWidth set = 4 then 3 else setWidth set

/-- A lane starts training afresh. -/
def Lane.restart (l : Lane) : Lane := { l with reqPre := 0, reqPost := 0, rxReady := false, peerReady := false, bothFrames := 0, good := false, pass := none, requested := false, fast := false }

/-- Number of a port state (Table HLK-4). -/
def PortState.num : PortState → Nat
  | .disabled => 0
  | .detect => 1
  | .equalise => 2
  | .lock => 3
  | .hello => 4
  | .up => 5
  | .retrain => 6

/-- Event of a port (Table HLK-5). -/
def hlkEvent (s : State) (code sev p : Nat) (d : List Nat) : State := s.raise Tag.hlk code sev p d

/-- HLK_TRAIN.TMO in ns. -/
def State.trainTmo (s : State) (p : Nat) : Nat := s.fld (Reg.HLK_TRAIN p) F.HLK_TRAIN_TMO * 100000

/-! ### Control slots (Table HLK-3) -/

namespace Sl
def type (b : Bytes) : Nat := fld b 0 1
def node (b : Bytes) : Nat := fld b 2 2
def port (b : Bytes) : Nat := fld b 4 1 / 16
def role (b : Bytes) : Nat := bits (fld b 4 1) 3 2
def good (b : Bytes) : Nat := fld b 5 1 / 16
def mask (b : Bytes) : Nat := fld b 5 1 % 16
def act (b : Bytes) : Bool := bit (fld b 6 1) 0
def quad (b : Bytes) (off : Nat) : List Nat := (List.range 4).map fun c => fld b (off + 2 * c) 2
def hello : Nat := 1
def hoofbeat : Nat := 2
def credit : Nat := 3
def width : Nat := 4
def recalReq : Nat := 5
def recalDone : Nat := 6
/-- The 64 bytes of a control slot. -/
def make (type node port role good mask act seq : Nat) (a b : List Nat) (gait : Nat) : Bytes :=
  toLE 1 type ++ toLE 1 0 ++ toLE 2 node ++ toLE 1 (port * 16 + role * 4) ++ toLE 1 (good * 16 + mask) ++ toLE 1 act ++
    toLE 1 seq ++ a.flatMap (toLE 2) ++ b.flatMap (toLE 2) ++ toLE 1 gait ++ zeros 39
end Sl

/-- Four zero counters. -/
def quad0 : List Nat := [0, 0, 0, 0]

/-- Send a control slot. -/
def slotOut (s : State) (p : Nat) (b : Bytes) : State := s.emit (.ctrlSlot p b)

/-- Receive-buffer shares in slots (HLK_CREDIT). -/
def State.shares (s : State) (p : Nat) : List Nat := (List.range 4).map fun c => 32 * bits (s.reg (Reg.HLK_CREDIT p)) (8 * c + 7) (8 * c)

/-! ### Packets under assembly -/

/-- The head of a packet under assembly; its payload is what has arrived, and zeros beyond. -/
def headOf (b : Bytes) : Option Pkt :=
  (Pkt.parse (slice b 0 (36 + payloadLen (fld b 4 1) (fld b 10 2)))).map (·.1)

/-- Cut-through latency by receive width (R154), in ns. -/
def cutNs (x : Port) : Nat := if setWidth x.rxSet = 4 then 180 else if setWidth x.rxSet = 2 then 190 else 211

/-- Ports on which a transit packet leaves: its route's, or its group's for an MSTORE. -/
def State.outPorts (s : State) (h : Pkt) (port : Nat) : List Nat :=
  if h.opcode = Op.mstore then s.groupPorts h port
  else if h.dst = s.node then []
  else (s.choosePort h).toList

/-- A transit packet whose head has left on an output is finished there with its trailer inverted (R155 step 4). -/
def stompOut (s : State) (p : Nat) (b : Bytes) : State :=
  match headOf b with
  | none => s
  | some h =>
    if h.hops = 63 ∨ s.nowH < (s.port p).rxStart + cutNs (s.port p) then s
    else forEach (s.outPorts h p) s fun s q =>
      let y := s.port q
      let c := opClass h.opcode
      if !y.txq.isEmpty ∨ y.credits c < h.slots then s
      else
        let s := s.updPort q fun y => { y with
          sent := setNth y.sent c ((y.sent.getD c 0 + h.slots) % 65536), creditDirty := true, sentStart := true }
        s.emit (.stomped q { h with hops := h.hops + 1 })

/-- The packet under assembly becomes bad: its slots are freed (R155, R156). -/
def dropPart (s : State) (p : Nat) : State :=
  match (s.port p).rxPart with
  | none => s.updPort p fun x => { x with rxBad := true }
  | some b =>
    let s := stompOut s p b
    let c := opClass (fld b 4 1)
    s.updPort p fun x => { x with
      rxPart := none, rxBad := true, creditDirty := true,
      freed := setNth x.freed c ((x.freed.getD c 0 + b.length / 64) % 65536) }

/-! ### State changes -/

/-- A port that leaves UP discards what is queued for it (R182) and the packet under assembly. -/
def leaveUp (s : State) (p : Nat) : State := (dropPart s p).updPort p fun x => { x with txq := [] }

/-- The receive crossing of lane `k` of port `p` enters reset (Table CLK-5). -/
def laneReset (s : State) (p k : Nat) : State := s.notice 9 3 (4 * p + k)

/-- The lane's receiver locks: its crossing reopens (Table CLK-5). -/
def State.laneOpen (s : State) (p k : Nat) : State :=
  { s with clk := { s.clk with closed := s.clk.closed.filter fun c => !isCrossing 9 3 (4 * p + k) c } }

/-- The receive crossings of the lanes of a set, which are to train, enter reset: their port enters DETECT or RETRAIN (Table CLK-5). -/
def lanesReset (s : State) (p set : Nat) : State :=
  forEach (List.range 4) s fun s k => if bit set k then laneReset s p k else s

/-- DETECT: the lanes train afresh (R158); LANE_EN takes effect. -/
def toDetect (s : State) (p cause : Nat) : State :=
  let s := lanesReset (leaveUp s p) p 15
  s.updPort p fun x => { x with
    state := .detect, lanes := x.lanes.map fun (l : Lane) => { l.restart with alone := false, powered := true },
    laneEn := s.fld (Reg.HLK_CTRL p) F.HLK_CTRL_LANE_EN, txSet := 0, rxSet := 0, trainStart := s.nowH, cause := cause,
    helloHeld := false, helloSeen := none, uncorrRun := 0, idleReq := false }

/-- DISABLED (R158). -/
def toDisabled (s : State) (p : Nat) : State :=
  let s := leaveUp s p
  s.updPort p fun x => { x with
    state := .disabled, armed := false, txSet := 0, rxSet := 0, idleReq := false,
    lanes := x.lanes.map fun (l : Lane) => { l.restart with alone := false, powered := true } }

/-- RETRAIN with a cause (R161). -/
def toRetrain (s : State) (p cause : Nat) : State :=
  if (s.port p).state != .up then s
  else
    let s := lanesReset (leaveUp s p) p (s.port p).txSet
    let s := s.updPort p fun x => { x with
      state := .retrain, lastSet := x.txSet, retrainStart := s.nowH, trainStart := s.nowH, cause := cause, uncorrRun := 0,
      lanes := x.lanes.zipIdx.map fun (l, k) => if bit x.txSet k then l.restart else l }
    hlkEvent (s.bump (Reg.HLK_RETRAINS p)) 0x0005 Sev.info p [cause, 0, 0, 0]

/-- ALIGN blocks go out on every lane of the transmit set; the next are due after 16,384 codewords (R153). -/
def alignOut (s : State) (p : Nat) : State :=
  let set := (s.port p).txSet
  let s := s.updPort p fun x => { x with alignAt := s.nowH + 174080 * 4 / max 1 (setWidth set) }
  s.emit (.align p set (alignBlocks set))

/-- A port sends codewords (Table HLK-4). -/
def Port.sendsCodewords (x : Port) : Bool := x.state == .lock || x.state == .hello || x.state == .up

/-- Ports whose 16,384 codewords are over send ALIGN blocks (R153). -/
def alignTurn (s : State) : State :=
  forEach (s.ports.filter fun (_, x) => x.sendsCodewords && decide (x.alignAt ≤ s.nowH)) s fun s (p, _) => alignOut s p

/-- The chosen set is taken and the port locks (R153, R160). -/
def toLock (s : State) (p set : Nat) : State :=
  alignOut (s.updPort p fun x => { x with
    state := .lock, txSet := set, rxSet := set, scram := 0x7FFFFFFF, rxPart := none, rxBad := true }) p

/-- A set is chosen while training when it may be: every lane wanted good, or `late` and some lane good (R160, R161). -/
def chooseSet (s : State) (p : Nat) (late : Bool) : State :=
  let x := s.port p
  let want := if x.state == .equalise then x.laneEn else x.lastSet
  if x.state != .equalise && x.state != .retrain then s
  else if late || within want x.good then
    match pickSet (x.good &&& want) with
    | some m => toLock s p m
    | none => if x.state == .retrain then toDetect s p x.cause else s
  else s

/-- A set is chosen as soon as it may be: in EQUALISE with any good lane once half of HLK_TRAIN.TMO has elapsed (R160). -/
def chooseNow (s : State) (p : Nat) : State :=
  let x := s.port p
  chooseSet s p (x.state == .equalise && decide (x.trainStart + s.trainTmo p / 2 ≤ s.nowH))

/-- UP: the neighbour is recorded, its shares are taken, and the loss watch is armed (R158, R164). -/
def toUp (s : State) (p : Nat) (h : Bytes) : State :=
  let s := s.updPort p fun x => { x with
    state := .up, armed := true, lifeTick := s.nowH, hoofLast := s.nowH, sentStart := false, lastCredit := s.nowH, creditDirty := true,
    peerShare := Sl.quad h 8, peerGood := Sl.good h, goodSent := x.good, recalLast := s.nowH }
  let s := s.setReg (Reg.HLK_NEIGHBOUR p) (2 ^ 31 + Sl.role h * 2 ^ 24 + Sl.port h * 2 ^ 20 + Sl.node h)
  let x := s.port p
  if setWidth x.txSet = 4 then hlkEvent s 0x0001 Sev.info p [4, x.txSet, Sl.node h % 256, Sl.node h / 256]
  else hlkEvent s 0x0002 Sev.degraded p [setWidth x.txSet, x.txSet, x.good, x.cause]

/-- Three matching HELLOs received and three sent (Table HLK-4). -/
def helloUp (s : State) (p : Nat) : State :=
  let x := s.port p
  match x.helloSeen with
  | some h => if x.state == .hello && !x.helloHeld && decide (3 ≤ x.helloRx) && decide (3 ≤ x.helloTx) then toUp s p h else s
  | none => s

/-! ### Width (R162) -/

/-- The transmit set follows the rule of R160 on both masks. -/
def widthApply (s : State) (p : Nat) : State :=
  let x := s.port p
  if x.state != .up then s
  else match pickSet (x.good &&& x.peerGood) with
    | none => s
    | some m =>
      if m = x.txSet then s
      else
        let s := slotOut s p (Sl.make Sl.width 0 0 0 x.good m 1 0 quad0 quad0 0)
        let s := alignOut (s.updPort p fun x => { x with txSet := m }) p
        if setWidth m = 4 then hlkEvent s 0x0003 Sev.info p [4, m, 0, 0]
        else hlkEvent s 0x0002 Sev.degraded p [setWidth m, m, x.good, x.cause]

/-- WIDTH with ACT = 0 is sent when the GOOD mask has changed. -/
def widthRequest (s : State) (p : Nat) : State :=
  let x := s.port p
  if x.state != .up || x.good == x.goodSent then s
  else
    let s := slotOut s p (Sl.make Sl.width 0 0 0 x.good 0 0 0 quad0 quad0 0)
    widthApply (s.updPort p fun x => { x with goodSent := x.good }) p

/-- A lane trains alone outside the active set. -/
def laneAlone (s : State) (p k cause : Nat) : State :=
  widthRequest (s.updPort p fun x => { x.updLane k fun l => { l.restart with alone := true } with cause := cause }) p

/-! ### Register writes -/

/-- A write of HLK_CTRL: EN, RETRAIN and LANE_RETRAIN take effect, and the two requests clear (R158, R162); until start-up
releases the ports a port stays in DISABLED whatever EN reads (R305). -/
def hlkCtrl (s : State) (p data : Nat) : State :=
  let o := Reg.HLK_CTRL p
  let s := s.rawWrite o data
  let s := (s.setFld o F.HLK_CTRL_RETRAIN 0).setFld o F.HLK_CTRL_LANE_RETRAIN 0
  let off := (s.port p).state == .disabled
  let s := if !bit data 31 then (if off then s else toDisabled s p)
    else if off && !s.tck.portsHeld then toDetect s p 0 else s
  let s := if bit data 30 && (s.port p).state == .up then toDetect s p 0 else s
  if bit data 2 && (s.port p).state == .up then laneAlone s p (bits data 1 0) 5 else s

/-- A write of HLK_CTRL.EN (R158). -/
def execPortEnable (port : Fin 16) (data : Word) (s : State) : Res := .next (hlkCtrl s port data.toNat)
/-- A write of 1 to HLK_CTRL.RETRAIN (R158). -/
def execPortRetrain (port : Fin 16) (s : State) : Res :=
  .next (hlkCtrl s port (setBits (s.reg (Reg.HLK_CTRL port)) 30 30 1))
/-- A write of 1 to HLK_CTRL.LANE_RETRAIN (R162). -/
def execLaneRetrain (port : Fin 16) (lane : Fin 4) (s : State) : Res :=
  .next (hlkCtrl s port (setBits (setBits (s.reg (Reg.HLK_CTRL port)) 2 2 1) 1 0 lane))

/-- A write of HLK_CREDIT is ignored when its shares sum to more than 64. -/
def hlkCredit (s : State) (p data : Nat) : State :=
  if 64 < bits data 31 24 + bits data 23 16 + bits data 15 8 + bits data 7 0 then s else s.rawWrite (Reg.HLK_CREDIT p) data

/-! ### Training (R159–R161) -/

/-- Training markers on a lane (R158, R161, R162). -/
def markerSeen (s : State) (p k : Nat) : State :=
  let x := s.port p
  match x.state with
  | .detect => if bit x.laneEn k then s.updPort p fun x => { x with state := .equalise } else s
  | .up => if bit x.rxSet k then toRetrain s p 2 else if (x.lane k).alone then s else laneAlone s p k 5
  | _ => s

/-- Training markers found (R158). -/
def execTrainingMarkerDetect (port : Fin 16) (lane : Fin 4) (s : State) : Res := .next (markerSeen s port lane)

/-- A tap after a request, and the status that answers it: 00 not updated, 01 updated, 10 at minimum, 11 at maximum. -/
def tapMove (lo preset v : Int) (req : Nat) : Int × Nat :=
  if req = 0 then (v, 0)
  else if req = 1 then (if v < 0 then (v + 1, 1) else (v, 3))
  else if req = 2 then (if lo < v then (v - 1, 1) else (v, 2))
  else (preset, 1)

/-- A lane whose frames are FAST: its port is in RETRAIN, or it comes back from STABLED (R161, R165). -/
def laneFast (x : Port) (k : Nat) : Bool := x.state == .retrain || (x.lane k).fast

/-- A lane that trains: its port is in EQUALISE and LANE_EN lets it train, or in RETRAIN, or it trains alone. -/
def lanetrains (x : Port) (k : Nat) : Bool := (x.state == .equalise && bit x.laneEn k) || (x.state == .retrain && bit x.lastSet k) || (x.lane k).alone

/-- A request of this end's receiver in the next frame: hold while frames are FAST or the receiver is ready, hold again once the
status word answers, and otherwise an open choice of the receiver (R159). -/
def ownRequest (s : State) (idle : Bool) (req answer : Nat) : State × Nat :=
  if idle then (s, 0)
  else if req ≠ 0 then (s, if answer = 0 then req else 0)
  else
    let (r, s) := s.draw
    (s, r % 4)

/-- A training frame leaves on a lane, in answer to one received: control word about the peer's transmitter, status word about this
one's, and the PRBS13 going on (R159). -/
def frameOut (s : State) (p k preSt postSt : Nat) (ready fast : Bool) : State :=
  let l := (s.port p).lane k
  let control := l.reqPre % 4 + 4 * (l.reqPost % 4) + 16 * b2n ready + 32 * b2n fast + 64 * k
  let s := s.updPort p fun x => x.updLane k fun l => { l with prbs := (l.prbs + 7872) % 8191 }
  s.emit (.trainFrame p k control (preSt + 4 * postSt) l.prbs)

/-- A training frame's control word acts on this end's transmitter and is answered; its status word answers this end's requests;
RX_READY of both ends is counted (R159, R160). -/
def trainFrame (s : State) (p k control status : Nat) : State :=
  let x := s.port p
  if !lanetrains x k then s
  else
    let l := x.lane k
    let fast := laneFast x k
    let hold := fast || bit control 5
    let (pre, a) := if hold then (l.pre, 0) else tapMove (-16) (-4) l.pre (bits control 1 0)
    let (post, b) := if hold then (l.post, 0) else tapMove (-24) (-8) l.post (bits control 3 2)
    let ready := bit control 4
    let n := if ready && l.rxReady then l.bothFrames + 1 else 0
    let isGood := decide (16 ≤ n)
    let (s, reqPre) := ownRequest s (hold || l.rxReady) l.reqPre (bits status 1 0)
    let (s, reqPost) := ownRequest s (hold || l.rxReady) l.reqPost (bits status 3 2)
    let l' : Lane := { l with
      pre := pre, post := post, reqPre := reqPre, reqPost := reqPost, peerReady := ready, bothFrames := n, good := isGood,
      alone := l.alone && !isGood, fast := l.fast && !isGood }
    let s := s.updPort p fun x => x.updLane k fun _ => l'
    let s := frameOut s p k a b l.rxReady fast
    if l.alone then (if isGood then widthRequest s p else s) else chooseNow s p

/-- A training frame is received (R159). -/
def execTrainingFrame (port : Fin 16) (lane : Fin 4) (words : TrainWords) (s : State) : Res :=
  .next (trainFrame s port lane words.control.toNat words.status.toNat)

/-- A qualification window ends: RX_READY when adaptation has converged and the errors are few (R160, R161). The lane's receiver has
then locked, and its crossing reopens (Table CLK-5). -/
def qualifyEnd (s : State) (p k errors : Nat) (converged : Bool) : State :=
  let x := s.port p
  if !lanetrains x k then s
  else
    let m := s.fld (Reg.HLK_TRAIN p) F.HLK_TRAIN_QUAL_MAX
    let m := if laneFast x k then m / 16 else m
    let s := s.updPort p fun x => x.updLane k fun l =>
      if converged && decide (errors ≤ m) then { l with rxReady := true }
      else { l with rxReady := false, bothFrames := 0, good := false }
    let s := if converged && decide (errors ≤ m) then s.laneOpen p k else s
    if (x.lane k).alone then s else chooseNow s p

/-- A lane's qualification window ends with a count of bit errors (R160). -/
def execQualificationWindowEnd (port : Fin 16) (lane : Fin 4) (errors : Nat) (converged : Bool) (s : State) : Res :=
  .next (qualifyEnd s port lane errors converged)

/-- Half of HLK_TRAIN.TMO has elapsed in EQUALISE (R160). -/
def halfTimeout (s : State) (p : Nat) : State :=
  let x := s.port p
  if x.state == .equalise then chooseNow s p else s

/-- EQUALISE has lasted half the timeout (R160). -/
def execEqualiseHalfTimeout (port : Fin 16) (s : State) : Res := .next (halfTimeout s port)

/-- 120 µs in RETRAIN have elapsed (R161). -/
def retrainTimeout (s : State) (p : Nat) : State :=
  let x := s.port p
  if x.state == .retrain && decide (x.retrainStart + 120000 ≤ s.nowH) then chooseSet s p true else s

/-- RETRAIN has lasted 120 µs (R161). -/
def execRetrainSetTimeout (port : Fin 16) (s : State) : Res := .next (retrainTimeout s port)

/-- HLK_TRAIN.TMO has elapsed without reaching UP (R158). -/
def trainTimeout (s : State) (p : Nat) : State :=
  let x := s.port p
  if x.state == .disabled || x.state == .up || !decide (x.trainStart + s.trainTmo p ≤ s.nowH) then s
  else
    let s := s.bump (Reg.HLK_TRAIN_FAIL p)
    let s := hlkEvent s 0x0007 Sev.info p [x.state.num, x.good, 0, 0]
    toDetect s p x.cause

/-- Training has timed out (R158). -/
def execTrainingTimeout (port : Fin 16) (s : State) : Res := .next (trainTimeout s port)

/-- Codeword lock on the set (Table HLK-4). -/
def codewordLock (s : State) (p : Nat) : State :=
  if (s.port p).state == .lock then
    s.updPort p fun x => { x with state := .hello, helloRx := 0, helloTx := 0, helloSeen := none, helloHeld := false, helloLast := 0 }
  else s

/-- Codeword lock (R158). -/
def execCodewordLock (port : Fin 16) (s : State) : Res := .next (codewordLock s port)

/-- A lane loses its signal (R161, R162). -/
def laneLoss (s : State) (p k : Nat) : State :=
  let x := s.port p
  let s := (laneReset s p k).updPort p fun x => x.updLane k fun l => { l with good := false, rxReady := false, bothFrames := 0 }
  if x.state == .up then
    if bit x.rxSet k then toRetrain s p 3 else widthRequest (s.updPort p fun x => { x with cause := 3 }) p
  else s

/-- Loss of signal on a lane (R161). -/
def execLaneSignalLoss (port : Fin 16) (lane : Fin 4) (s : State) : Res := .next (laneLoss s port lane)

/-! ### HELLO (R158) -/

/-- In HELLO a port sends a HELLO every 1 µs. -/
def helloTimer (s : State) (p : Nat) : State :=
  let x := s.port p
  if x.state != .hello || (x.helloTx != 0 && decide (s.nowH < x.helloLast + 1000)) then s
  else
    let s := slotOut s p (Sl.make Sl.hello s.node p s.role x.good 0 0 0 (s.shares p) quad0 0)
    helloUp (s.updPort p fun x => { x with helloTx := x.helloTx + 1, helloLast := s.nowH }) p

/-- The 1 µs of a HELLO (R158). -/
def execHelloTimer (port : Fin 16) (s : State) : Res := .next (helloTimer s port)

/-- Two HELLOs match: the same node, port, role and shares. -/
def helloMatch (a b : Bytes) : Bool :=
  Sl.node a == Sl.node b && Sl.port a == Sl.port b && Sl.role a == Sl.role b && Sl.quad a 8 == Sl.quad b 8

/-- A HELLO in a port in HELLO: counted toward UP, or holding the port on this module's own node number. -/
def helloIn (s : State) (p : Nat) (b : Bytes) : State :=
  let x := s.port p
  if x.state != .hello then s
  else if Sl.node b = s.node then
    let s := s.updPort p fun x => { x with helloHeld := true, helloRx := 0, helloSeen := none }
    hlkEvent (s.setFld (Reg.HLK_STATUS p) F.HLK_STATUS_HELLO_CONFLICT 1) 0x0006 Sev.contained p
      [0, 0, Sl.node b % 256, Sl.node b / 256]
  else
    let n := match x.helloSeen with
      | some h => if helloMatch h b then x.helloRx + 1 else 1
      | none => 1
    helloUp (s.updPort p fun x => { x with helloRx := n, helloSeen := some b, helloHeld := false }) p

/-! ### Credits (R156) -/

/-- A CREDIT slot: the peer's freed counts, and the slots lost on the way here are given back. -/
def creditIn (s : State) (p : Nat) (b : Bytes) : State :=
  if (s.port p).state != .up then s
  else
    let s := s.updPort p fun x =>
      let lost := (List.range 4).map fun c => (fld b (16 + 2 * c) 2 + 65536 - x.recv.getD c 0 % 65536) % 65536
      let add := fun (l : List Nat) => l.zipIdx.map fun (v, c) => (v + lost.getD c 0) % 65536
      { x with peerFreed := Sl.quad b 8, recv := add x.recv, freed := add x.freed, creditDirty := x.creditDirty || lost.any (· != 0) }
    s.portDrain (s.port p).txq.length p

/-- A CREDIT slot is sent within 1 µs of a change, and every 1 µs while UP. -/
def creditTimer (s : State) (p : Nat) : State :=
  let x := s.port p
  if x.state != .up || (!x.creditDirty && decide (s.nowH < x.lastCredit + 1000)) then s
  else
    let s := slotOut s p (Sl.make Sl.credit 0 0 0 0 0 0 0 x.freed x.sent 0)
    s.updPort p fun x => { x with lastCredit := s.nowH, creditDirty := false }

/-- The report time of credits (R156). -/
def execCreditReportTimer (port : Fin 16) (s : State) : Res := .next (creditTimer s port)

/-! ### WIDTH, recalibration, hoofbeats -/

/-- A WIDTH slot: a request with the peer's GOOD mask, or the change of the peer's transmit set (R162). -/
def widthIn (s : State) (p : Nat) (b : Bytes) : State :=
  if (s.port p).state != .up then s
  else if Sl.act b then s.updPort p fun x => { x with rxSet := Sl.mask b }
  else widthApply (s.updPort p fun x => { x with peerGood := Sl.good b }) p

/-- A RECAL_REQ or RECAL_DONE slot (R163). -/
def recalIn (s : State) (p : Nat) (want : Bool) : State :=
  if (s.port p).state == .up then s.updPort p fun x => { x with idleReq := want } else s

/-- Every HLK_RECAL.PERIOD an adaptation pass starts on each lane (R163). -/
def recalPeriod (s : State) (p : Nat) : State :=
  let x := s.port p
  let o := Reg.HLK_RECAL p
  if x.state != .up || !s.flag o F.HLK_RECAL_EN || decide (s.nowH < x.recalLast + s.fld o F.HLK_RECAL_PERIOD * 100000) then s
  else
    s.updPort p fun x => { x with
      recalLast := s.nowH
      lanes := x.lanes.zipIdx.map fun (l, k) => if bit x.rxSet k && l.pass.isNone then { l with pass := some (65536, s.nowH) } else l }

/-- The recalibration period is over (R163). -/
def execRecalPeriod (port : Fin 16) (s : State) : Res := .next (recalPeriod s port)

/-- A pass that has not found its slots within 1 ms asks for them (R163). -/
def recalTimeout (s : State) (p : Nat) : State :=
  let x := s.port p
  let late : Lane → Bool := fun l => match l.pass with
    | some (_, t) => !l.requested && decide (t + 1000000 ≤ s.nowH)
    | none => false
  if x.state != .up || !x.lanes.any late then s
  else
    let s := s.updPort p fun x => { x with lanes := x.lanes.map fun (l : Lane) => if late l then { l with requested := true } else l }
    slotOut s p (Sl.make Sl.recalReq 0 0 0 0 0 0 0 quad0 quad0 0)

/-- 1 ms of a pass is over (R163). -/
def execRecalSlotTimeout (port : Fin 16) (s : State) : Res := .next (recalTimeout s port)

/-- An IDLE slot serves the passes of the active lanes; the last pass to end that asked for slots sends RECAL_DONE. -/
def idleSlot (s : State) (p : Nat) : State :=
  let x := s.port p
  let asked := x.lanes.any (·.requested)
  let lanes := x.lanes.map fun (l : Lane) => match l.pass with
    | some (n, t) => if n ≤ 1 then { l with pass := none, requested := false } else { l with pass := some (n - 1, t) }
    | none => l
  let s := s.updPort p fun x => { x with lanes := lanes }
  if asked && !lanes.any (·.requested) then slotOut s p (Sl.make Sl.recalDone 0 0 0 0 0 0 0 quad0 quad0 0) else s

/-- A sign of life of the neighbour (R164). -/
def lifeSign (s : State) (p : Nat) : State := s.updPort p fun x => { x with lifeTick := s.nowH }

/-- Every 50 µs an UP port sends a HOOFBEAT, unless it sent a START slot in the interval (R164). -/
def hoofTimer (s : State) (p : Nat) : State :=
  let x := s.port p
  if x.state != .up || decide (s.nowH < x.hoofLast + 50000) then s
  else
    let s := if x.sentStart then s
      else
        let b := Sl.make Sl.hoofbeat s.node p 0 0 0 0 x.hoofSeq quad0 quad0 (s.fld Reg.PWR_STATUS F.PWR_STATUS_GAIT)
        (slotOut s p b).updPort p fun x => { x with hoofSeq := (x.hoofSeq + 1) % 256 }
    s.updPort p fun x => { x with hoofLast := s.nowH, sentStart := false }

/-- The hoofbeat timer expires (R164). -/
def execHoofbeatTimer (port : Fin 16) (s : State) : Res := .next (hoofTimer s port)

/-- A HOOFBEAT: a sign of life in any state; an UP port's that names another node than the HELLO did starts a retrain (R161, R164). -/
def hoofIn (s : State) (p : Nat) (b : Bytes) : State :=
  let s := lifeSign s p
  if (s.port p).state != .up then s
  else
    if Sl.node b ≠ s.fld (Reg.HLK_NEIGHBOUR p) F.HLK_NEIGHBOUR_NODE then toRetrain s p 4 else s

/-- 400 µs without a sign of life while the watch is armed (R164). -/
def neighbourLoss (s : State) (p : Nat) : State :=
  let x := s.port p
  if !x.armed || decide (s.nowH < x.lifeTick + 400000) then s
  else
    let node := s.fld (Reg.HLK_NEIGHBOUR p) F.HLK_NEIGHBOUR_NODE
    let s := s.updPort p fun x => { x with armed := false }
    let s := s.setFld (Reg.HLK_STATUS p) F.HLK_STATUS_NB_LOST 1
    let s := s.setFld (Reg.HLK_NEIGHBOUR p) F.HLK_NEIGHBOUR_VALID 0
    let s := s.bump (Reg.HLK_NB_LOST p)
    let s := hlkEvent s 0x0004 Sev.degraded p [x.state.num, 0, node % 256, node / 256]
    probeNode s node

/-- The neighbour is lost (R164). -/
def execNeighbourLoss (port : Fin 16) (s : State) : Res := .next (neighbourLoss s port)

/-! ### Slots and codewords (R150–R155, R157) -/

/-- A control slot by its TYPE; a reserved TYPE is discarded. -/
def ctrlIn (s : State) (p : Nat) (b : Bytes) : State :=
  let t := Sl.type b
  if t = Sl.hello then helloIn s p b
  else if t = Sl.hoofbeat then hoofIn s p b
  else if t = Sl.credit then creditIn s p b
  else if t = Sl.width then widthIn s p b
  else if t = Sl.recalReq then recalIn s p true
  else if t = Sl.recalDone then recalIn s p false
  else s

/-- A slot of a TYPE arrives on a port that takes slots. -/
def ctrlOf (s : State) (p type : Nat) (b : Bytes) : State := ctrlIn s p (patch (padTo 64 b) 0 (toLE 1 type))

/-- HELLO (R158). -/
def execHello (port : Fin 16) (slot : Bytes) (s : State) : Res := .next (ctrlOf s port Sl.hello slot)
/-- CREDIT (R156). -/
def execCredit (port : Fin 16) (slot : Bytes) (s : State) : Res := .next (ctrlOf s port Sl.credit slot)
/-- WIDTH (R162). -/
def execWidth (port : Fin 16) (slot : Bytes) (s : State) : Res := .next (ctrlOf s port Sl.width slot)
/-- RECAL_REQ (R163). -/
def execRecalReq (port : Fin 16) (s : State) : Res := .next (ctrlOf s port Sl.recalReq [])
/-- RECAL_DONE (R163). -/
def execRecalDone (port : Fin 16) (s : State) : Res := .next (ctrlOf s port Sl.recalDone [])
/-- HOOFBEAT (R164). -/
def execHoofbeat (port : Fin 16) (slot : Bytes) (s : State) : Res := .next (ctrlOf s port Sl.hoofbeat slot)

/-- A slot of a packet joins it; a whole packet waits for the crossbar (R152). -/
def partAdd (s : State) (p : Nat) (old slot : Bytes) : State :=
  let b := old ++ slot
  let n := 36 + payloadLen (fld b 4 1) (fld b 10 2)
  let c := opClass (fld b 4 1)
  s.updPort p fun x =>
    let x := { x with recv := setNth x.recv c ((x.recv.getD c 0 + 1) % 65536), rxBad := false }
    if n ≤ b.length then { x with rxPart := none, rxBad := true, rxq := x.rxq ++ [b.take n] } else { x with rxPart := some b }

/-- One slot of a corrected codeword, by its kind (Table HLK-1). -/
def slotIn (s : State) (p kind : Nat) (slot : Bytes) : State :=
  if kind = 0 then idleSlot s p
  else if kind = 1 then
    let s := if (s.port p).rxPart.isSome then dropPart s p else s
    partAdd ((lifeSign s p).updPort p fun x => { x with rxStart := s.nowH }) p [] slot
  else if kind = 2 then
    match (s.port p).rxPart with
    | some b => partAdd s p b slot
    | none => s
  else ctrlIn s p slot

/-- One bit of the PRBS31 generator x³¹ + x²⁸ + 1 (R151): the bit, and the state after it. -/
def prbsBit (v : Nat) : Nat × Nat :=
  let b := (v / 2 ^ 30 + v / 2 ^ 27) % 2
  (b, (2 * v + b) % 2 ^ 31)

/-- One byte of scrambler output, its first bit least significant. -/
def prbsByte (v : Nat) : Nat × Nat :=
  (List.range 8).foldl (fun (a, v) t =>
    let (b, v) := prbsBit v
    (a + b * 2 ^ t, v)) (0, v)

/-- Descramble bytes from a scrambler state. -/
def descramble (v : Nat) (bs : Bytes) : Bytes × Nat :=
  bs.foldl (fun (out, v) b =>
    let (k, v) := prbsByte v
    (out ++ [b ^^^ BitVec.ofNat 8 k], v)) ([], v)

/-- Bucket of HLK_FEC_HIST for a count of corrected symbols. -/
def fecBucket (n : Nat) : Nat := if n = 0 then 0 else if n ≤ 3 then 1 else if n ≤ 7 then 2 else if n ≤ 11 then 3 else 4

/-- A codeword that decodes to header bits and ten scrambled slots, with corrected symbols per lane, or to none: uncorrectable
(R155, R161). In LOCK the scrambler goes on and nothing else happens. -/
def codewordIn (s : State) (p : Nat) (word : Option LineWord) : State :=
  let x := s.port p
  if !x.sendsCodewords then s
  else
    let (plain, v) := descramble x.scram (padTo 640 ((word.map (·.body)).getD []))
    let s := s.updPort p fun x => { x with scram := v }
    if x.state == .lock then s
    else
      let s := s.bump (Reg.HLK_CW p)
      match word with
      | none =>
        let s := dropPart (s.bump (Reg.HLK_FEC_HIST5 p)) p
        let s := s.updPort p fun x => { x with uncorrRun := x.uncorrRun + 1 }
        if 64 ≤ (s.port p).uncorrRun then toRetrain s p 1 else s
      | some w =>
        let s := s.updPort p fun x => { x with uncorrRun := 0 }
        let s := s.bump (Reg.HLK_FEC_HIST p (fecBucket (w.fixed.foldl (· + ·) 0)))
        let s := forEach (w.fixed.take 4).zipIdx s fun s (n, k) => s.bumpBy (Reg.HLK_LANE_SYM p k) n
        forEach (List.range 10) s fun s j => slotIn s p (bits w.header (2 * j + 1) (2 * j)) (slice plain (64 * j) 64)

/-- The receive crossing of a lane of the receive set is closed: the codewords it carries are uncorrectable (Table CLK-6). -/
def laneShut (s : State) (p : Nat) : Bool :=
  (List.range 4).any fun k => bit (s.port p).rxSet k && s.shut 9 3 (4 * p + k)

/-- A codeword is received: the PAM4 symbols of the receive set's lanes, the first, the second and the others (R150, R155). -/
def execCodewordReceive (port : Fin 16) (first second : List Pam) (others : List (List Pam)) (s : State) : Res :=
  .next (codewordIn s port
    (if laneShut s port then none else lineDecode (s.port port).rxSet (first :: second :: others)))

/-- An ALIGN block loads the scrambler with all ones (R151, R153). -/
def execAlignBlock (port : Fin 16) (s : State) : Res := .next (s.updPort port fun x => { x with scram := 0x7FFFFFFF })

/-! ### Eye scans (R166) -/

/-- A write of HLK_EYE_CTRL: a GO starts a scan unless one is busy. -/
def eyeCtrl (s : State) (p data : Nat) : State :=
  let o := Reg.HLK_EYE_CTRL p
  let s := (s.rawWrite o data).setFld o F.HLK_EYE_CTRL_GO 0
  if bit data 30 && !(s.port p).eyeBusy then
    (s.setFld o F.HLK_EYE_CTRL_BUSY 1).updPort p fun x => { x with eyeBusy := true }
  else s

/-- A write of HLK_EYE_CTRL (R166). -/
def execEyeScanGo (port : Fin 16) (data : Word) (s : State) : Res := .next (eyeCtrl s port data.toNat)

/-- The scan ends with its margins (R166). -/
def eyeDone (s : State) (p right left up down : Nat) : State :=
  if !(s.port p).eyeBusy then s
  else
    let s := s.setReg (Reg.HLK_EYE_RESULT p) (right * 2 ^ 24 + left * 2 ^ 16 + up * 2 ^ 8 + down)
    (s.setFld (Reg.HLK_EYE_CTRL p) F.HLK_EYE_CTRL_BUSY 0).updPort p fun x => { x with eyeBusy := false }

/-- A margin scan ends (R166). -/
def execEyeScanComplete (port : Fin 16) (right left up down : Byte) (s : State) : Res :=
  .next (eyeDone s port right.toNat left.toNat up.toNat down.toNat)

/-! ### STABLED (R165) -/

/-- Each UP port narrows to width 1; its other lanes are powered down. -/
def portsNarrow (s : State) : State :=
  forEach (List.range 16) s fun s p =>
    let x := s.port p
    if x.state != .up then s
    else match (List.range 4).find? (bit x.txSet ·) with
      | none => s
      | some k =>
        widthRequest (s.updPort p fun x => { x with
          cause := 6
          lanes := x.lanes.zipIdx.map fun (l, j) => if j = k then l else { l with powered := false } }) p

/-- The powered-down lanes train outside the active set, and the ports widen as they become good. -/
def portsWiden (s : State) : State :=
  forEach (List.range 16) s fun s p =>
    if (s.port p).lanes.all (·.powered) then s
    else s.updPort p fun x => { x with
      cause := 6
      lanes := x.lanes.map fun (l : Lane) => if l.powered then l else { l.restart with powered := true, alone := true, fast := true } }

/-! ### Idle -/

/-- Nothing waits: the local tick counts while it runs (R2), ports send the ALIGN blocks that are due (R153), and Farrier answers
what a FAILED stall left due (R341). DESIGN CHOICE. -/
def idle (s : State) : State := farSettle (alignTurn (tickOnce s))

end Sys2Proof.Machine
end

