-- ==== Sys2Proof/Machine/Gait.lean ====
section
/-!
DEFINITION. Machine/Gait.lean: gaits (R314–R317), the ARITH clock and VARITH that follow them (R279), brown-out holds (R318,
R319), CHIP reset (R286) and the controlled shutdown (R312).
-/
namespace Sys2Proof.Machine

/-! ### State access, the groom's log -/

/-- Change the groom's state. -/
def State.updGrm (s : State) (f : Groom → Groom) : State := { s with grm := f s.grm }
/-- Change the clocks' state. -/
def State.updClk (s : State) (f : Clocks → Clocks) : State := { s with clk := f s.clk }
/-- Change start-up's state. -/
def State.updTck (s : State) (f : Tack → Tack) : State := { s with tck := f s.tck }
/-- Change Assay's state. -/
def State.updAsy (s : State) (f : Assay → Assay) : State := { s with asy := f s.asy }

/-- A PWR or GRM record: the groom logs it (R326), and a CHIP out of reset has it as an event too (R343), unless the crossing from GROOM
is closed. -/
def grmEvent (s : State) (tag code sev : Nat) (d : List Nat) : State :=
  let s := s.groomLogPush (s.record tag code sev 0 d)
  if s.clk.released && !s.shut 1 7 0 then s.raise tag code sev 0 d else s

/-- Two bytes of a number. -/
def two (v : Nat) : List Nat := [v % 256, v / 256 % 256]

/-- CHIP is held in reset. -/
def State.held (s : State) : Bool := !s.clk.released

/-! ### The gait in force (R314) -/

/-- Gait in force. -/
def State.gait (s : State) : Nat := s.fld Reg.PWR_STATUS F.PWR_STATUS_GAIT

/-- A brown-out hold is active. -/
def State.browned (s : State) : Bool := s.flag Reg.PWR_STATUS F.PWR_STATUS_HOLD

/-- ACT and ARG of an asserted rule. -/
def ruleAct (s : State) (r : Nat) : Nat × Nat :=
  (s.fld (Reg.GRM_RULE_CFG r) F.GRM_RULE_CFG_ACT, s.fld (Reg.GRM_RULE_CFG r) F.GRM_RULE_CFG_ARG)

/-- Rules asserted. -/
def asserted (s : State) : List Nat := (List.range 32).filter fun r => bit (s.reg Reg.GRM_ASSERTED) r

/-- Slowest cap of the asserted GAIT_CAP rules; an ARG that is no gait caps nothing. -/
def ruleCap (s : State) : Nat :=
  (asserted s).foldl (fun m r => match ruleAct s r with
    | (a, g) => if a = 1 ∧ g ≤ 4 then max m g else m) 0

/-- K of R317: the smallest ARG of the asserted THROTTLE rules, 16 with none. -/
def throttleK (s : State) : Nat :=
  (asserted s).foldl (fun m r => match ruleAct s r with
    | (a, k) => if a = 3 ∧ 1 ≤ k ∧ k ≤ 16 then min m k else m) 16

/-- The slowest of the request, the rule caps and the hold. -/
def gaitTarget (s : State) : Nat :=
  max (s.fld Reg.PWR_GAIT F.PWR_GAIT_REQ) (max (ruleCap s) (if s.browned then 3 else 0))

/-! ### Clock and VARITH (R279, R314) -/

/-- ARITH frequency of a gait, in 100 MHz (Table PWR-2). -/
def gaitFreq (g : Nat) : Nat := if g = 0 then 40 else if g = 1 then 32 else if g = 2 then 24 else if g = 3 then 12 else 0

/-- VARITH of a gait, in mV (Table PWR-2). -/
def gaitMv (g : Nat) : Nat := if g = 0 then 750 else if g = 1 then 700 else if g = 2 then 650 else if g = 3 then 600 else 550

/-- The ARITH clock in force: source (0 PLL A, 1 PLL B) and frequency. -/
def setArith (s : State) (src freq : Nat) : State :=
  (s.setFld Reg.CLK_ARITH F.CLK_ARITH_SRC src).setFld Reg.CLK_ARITH F.CLK_ARITH_FREQ freq

/-- ARITH runs on PLL B at 1.2 GHz. -/
def onPllB (s : State) : State := setArith s 1 12

/-- VARITH is set. -/
def setVarith (s : State) (mv : Nat) : State := s.updGrm fun g => { g with varith := mv }

/-- The clock goes to a fast gait whose voltage stands: to PLL A where it runs at the frequency, VARITH following down;
otherwise PLL A relocks while ARITH runs on PLL B. -/
def clockTo (s : State) (g : Nat) : State :=
  if s.clk.pllA = gaitFreq g then setVarith ((setArith s 0 (gaitFreq g)).updClk fun c => { c with shift := .none }) (gaitMv g)
  else (onPllB s).updClk fun c => { c with shift := .relock (gaitFreq g) }

/-- With ARITH running: WALK takes PLL B at once; a fast gait raises VARITH first; a relock under way is waited for. -/
def clockRun (s : State) (g : Nat) : State :=
  if 3 ≤ g then
    let s := (onPllB s).updClk fun c => { c with shift := if c.shift == .ramp then .none else c.shift }
    if s.browned then s else setVarith s 600
  else match s.clk.shift with
    | .relock _ => s
    | .none | .ramp =>
      if s.grm.varith < gaitMv g then s.updClk fun c => { c with shift := .ramp } else clockTo s g

/-- STABLED is entered or left (R316); otherwise clock and VARITH follow the gait in force. -/
def clockFollow (s : State) : State :=
  let g := s.gait
  if s.held then s
  else match s.clk.stable with
    | .none => if g = 4 then (onPllB s).updClk fun c => { c with
                   stable := .entering, shift := if c.shift == .ramp then .none else c.shift }
               else clockRun s g
    | .entering => if g = 4 then s else clockRun (s.updClk fun c => { c with stable := .none }) g
    | .stabled => if g = 4 then s else s.updClk fun c => { c with stable := .exiting }
    | .exiting => s

/-- Work held at WALK goes on at a faster gait (R315, R319): requests at the host shaper, and the doorbells behind them. -/
def heldRelease (s : State) : State := if s.walk then s else hostShaperRun s

/-- The gait is re-evaluated: 0 request, 1 rule, 2 brown-out (R314, Table PWR-5). -/
def reGait (s : State) (why : Nat) : State :=
  let s := s.setFld Reg.PWR_GAIT F.PWR_GAIT_CAP (max (ruleCap s) (if s.browned then 3 else 0))
  let s := s.setFld Reg.PWR_STATUS F.PWR_STATUS_THR (throttleK s)
  let old := s.gait
  let new := gaitTarget s
  if new = old then clockFollow s
  else
    let s := (s.setFld Reg.PWR_STATUS F.PWR_STATUS_GAIT new).bump Reg.PWR_GAIT_CHANGES
    let s := clockFollow (grmEvent s Tag.pwr 0x0004 Sev.info [old, new, why, 0])
    if 3 ≤ old ∧ s.clk.stable = .none then heldRelease s else s

/-- REQ is written: outside 0 to 4 it is left, and while CHIP is in reset it stays at WALK (R314). -/
def setReq (s : State) (g : Nat) : State :=
  if 4 < g ∨ s.held then s else reGait (s.setFld Reg.PWR_GAIT F.PWR_GAIT_REQ g) 0

/-- A write of PWR_GAIT (R314). -/
def gaitWrite (s : State) (data : Nat) : State :=
  let s := s.setFld Reg.PWR_GAIT F.PWR_GAIT_MGMT_EN (bits data 11 11)
  let s := if bits data 10 8 ≤ 3 then s.setFld Reg.PWR_GAIT F.PWR_GAIT_WAKE_GAIT (bits data 10 8) else s
  setReq s (bits data 2 0)

/-- A write of PWR_GAIT (R314). -/
def execGaitRequest (data : Word) (s : State) : Res := .next (gaitWrite s data.toNat)

/-- VARITH has risen to the level of the gait in force, and the clock goes on (R314). -/
def rampDone (s : State) : State :=
  if s.clk.shift = .ramp then clockFollow ((setVarith s (gaitMv s.gait)).updClk fun c => { c with shift := .none }) else s

/-- PLL A has relocked, and the clock runs toward the gait in force at this moment (R279, R314). -/
def relockDone (s : State) : State :=
  match s.clk.shift with
  | .relock f => clockFollow (s.updClk fun c => { c with pllA := f, shift := .none })
  | _ => s

/-! ### STABLED (R316) -/

/-- No attention, append or near-memory item runs. -/
def nothingRuns (s : State) : Bool :=
  s.works.all (fun x => x.2.run.isEmpty && x.2.appends.all (·.run.isNone)) && s.stalls.all fun x => x.2.nmuRun.all (!·.ran)

/-- Entry completes: ARITH and STABLE are parked, and the ports narrow (R165, R284). -/
def stableEntered (s : State) : State :=
  if s.clk.stable = .entering ∧ nothingRuns s then
    let s := s.updClk fun c => { c with stable := .stabled, shift := .none }
    let s := (setArith s 1 0).setFld Reg.CLK_ARITH F.CLK_ARITH_PARKED 1
    portsNarrow (setVarith s (gaitMv 4))
  else s

/-- STABLED is entered (R316). -/
def execStabledEntryComplete (s : State) : Res := .next (stableEntered s)

/-- Exit completes: memory runs, ports widen, ARITH restarts at the gait in force, and held work is released (R316). -/
def stableLeft (s : State) : State :=
  if s.clk.stable ≠ .exiting then s
  else
    let g := s.gait
    let s := s.setFld Reg.CLK_ARITH F.CLK_ARITH_PARKED 0
    let s := s.updClk fun c => { c with stable := .none, pllA := if g < 3 then gaitFreq g else c.pllA }
    let s := clockFollow (setVarith (onPllB s) (gaitMv (min g 3)))
    heldRelease (parkedRelease (portsWiden s))

/-! ### Brown-out (R318, R319) -/

/-- The input has stayed below WARN for 200 ns: a hold begins (R318); `input` is in 10 mV. -/
def brownBegin (s : State) (input : Nat) : State :=
  if !s.grm.up || s.browned || decide (10 * s.fld Reg.PWR_BROWN F.PWR_BROWN_WARN ≤ input) then s
  else
    let before := s.gait
    let s := (s.setFld Reg.PWR_STATUS F.PWR_STATUS_HOLD 1).setFld Reg.PWR_STATUS F.PWR_STATUS_BROWN 1
    let s := grmEvent (s.bump Reg.PWR_HOLDS) Tag.pwr 0x0001 Sev.info ([before, 0] ++ two input)
    reGait s 2

/-- Input below WARN (R318). -/
def execBrownoutWarn (input : Nat) (s : State) : Res := .next (brownBegin s input)

/-- RECOVER, in 10 mV: WARN + HYST. -/
def State.recoverLevel (s : State) : Nat :=
  10 * (s.fld Reg.PWR_BROWN F.PWR_BROWN_WARN + s.fld Reg.PWR_BROWN F.PWR_BROWN_HYST)

/-- The hold ends when the recovery timer, which a fall to RECOVER restarts, has reached 50 µs (R319). -/
def brownEnd (s : State) (x : Recovery) (y : RecoveryTime) : State :=
  if !s.browned || decide (x.lowest ≤ s.recoverLevel) || decide (y.timer < 50000) then s
  else
    let s := s.setFld Reg.PWR_STATUS F.PWR_STATUS_HOLD 0
    reGait (grmEvent s Tag.pwr 0x0002 Sev.info (two x.least ++ two (min 65535 y.held))) 2

/-- The brown-out hold ends (R319). -/
def execBrownoutRecover (input : Recovery) (time : RecoveryTime) (s : State) : Res := .next (brownEnd s input time)

/-! ### CHIP reset and controlled shutdown (R286, R312) -/

/-- MGMT_ALERT_L is asserted (R325). -/
def State.alert (s : State) : Bool :=
  (asserted s).any (fun r => (ruleAct s r).1 == 4) || s.flag Reg.PWR_STATUS F.PWR_STATUS_SHUTDOWN || s.grm.strapFault

/-- A change of MGMT_ALERT_L drives the pin. -/
def alertPin (old s : State) : State := if s.alert = old.alert then s else s.emit (.pin "MGMT_ALERT_L" !s.alert)

/-- A BAR0 offset of the groom's registers. -/
def groomReg (o : Nat) : Bool := decide (0x200000 ≤ o) && decide (o < 0x300000)

/-- CHIP at its reset values: the groom, the fuses, the straps and role as sampled, and what waits outside stay (R286, R290). -/
def chipClean (s : State) : State :=
  { State.reset with
    regs := s.regs.filter fun r => groomReg r.1 || r.1 == Reg.GLB_STRAP, role := s.role, grm := s.grm, groomLog := s.groomLog,
    asy := { svnMin := s.asy.svnMin, keyRevoke := s.asy.keyRevoke }, out := s.out, freeCtr := s.freeCtr, pending := s.pending }

/-- CHIP reset: every domain but GROOM goes to its reset values; fuses stay burnt, REQ becomes WALK and the gait is
re-evaluated (R286, R314). -/
def chipReset (s : State) : State :=
  let t := chipClean s
  let t := if s.vaultState = Vs.absent then t else t.emit (.pin "VAULT_PERST_L" false)
  reGait (t.setFld Reg.PWR_GAIT F.PWR_GAIT_REQ 3) 0

/-- A controlled shutdown (R312): cause, rail or sensor, input in 10 mV. With the main rails off there is nothing to shut down. -/
def shutdown (s : State) (cause what input : Nat) : State :=
  match s.grm.rails with
  | .off | .falling _ => s
  | .rising _ | .on =>
    let t := chipReset s
    let t := t.setFld Reg.PWR_STATUS F.PWR_STATUS_SHUTDOWN 1
    let t := (t.setFld Reg.PWR_STATUS F.PWR_STATUS_CAUSE cause).bump Reg.PWR_SHUTDOWNS
    let t := grmEvent t Tag.pwr 0x0003 Sev.fatal ([cause, what] ++ two input)
    let t := if s.grm.rails = .on then t.emit (.pin "MOD_PWRGD" false) else t
    alertPin s (t.updGrm fun g => { g with rails := .falling 9, hold := true })

/-- Latest sample of a sensor. -/
def State.sample (s : State) (i : Nat) : Int := s.grm.samples.getD i 0

/-- The input in 10 mV as last sampled. -/
def State.input (s : State) : Nat := (s.sample 40).toNat

/-- A FATAL record and the shutdown it brings: the groom log keeps it, once (R326, R343). -/
def fatalShutdown (s : State) (tag code subject : Nat) (d : List Nat) (cause : Nat) : State :=
  let t := s.raise tag code Sev.fatal subject d
  let t := if s.far.events.length < 256 then t.groomLogPush (s.record tag code Sev.fatal subject d) else t
  shutdown t cause 0 s.input

/-- A fault in a stall's mesh router is FATAL, and the module leaves service (R39); no CAUSE code of the shutdown names it. -/
def meshFault (s : State) (n port : Nat) : State :=
  let (r, s) := s.draw
  fatalShutdown s Tag.stl 0x0004 n [port] (r % 16)

/-- A mesh router fault (R39). -/
def execMeshRouterFault (stall : Fin 128) (port : Fin 5) (s : State) : Res := .next (meshFault s stall port)

end Sys2Proof.Machine
end

