-- ==== Sys2Proof/Machine/Groom.lean ====
section
/-!
DEFINITION. Machine/Groom.lean: the rails (R310–R313), the shutdown causes (R320, R321), and the groom's samples and rules
(R322–R326).
-/
namespace Sys2Proof.Machine

/-! ### Groom power and rails (R310, R311) -/

/-- Input at 30 V or more brings up VSTBY and VGROOM: the groom starts with every rule disabled (R310, R326). -/
def groomUp (s : State) : State :=
  if s.grm.up then s
  else (s.updGrm fun g => { g with up := true }).setFld Reg.PWR_STATUS F.PWR_STATUS_RAIL_PG 3

/-- Input at 30 V (R310). -/
def execGroomPowerUp (s : State) : Res := .next (groomUp s)

/-- Input below 28 V takes the groom down with rails 0 and 1, and all it held; CHIP is in reset (R313). -/
def groomDown (s : State) : State :=
  if !s.grm.up then s
  else
    let t := chipReset s
    let t := { t with regs := [], role := State.reset.role, groomLog := [], grm := { up := false, resetHigh := s.grm.resetHigh } }
    let t := t.setFld Reg.PWR_STATUS F.PWR_STATUS_RAIL_PG 0
    alertPin s (if s.grm.rails = .on then t.emit (.pin "MOD_PWRGD" false) else t)

/-- Input below 28 V (R310). -/
def execGroomPowerLoss (s : State) : Res := .next (groomDown s)

/-- The start level in 10 mV: the larger of 40.0 V and RESET + 2.0 V (R311). -/
def startLevel (s : State) : Nat := max 4000 (10 * s.fld Reg.PWR_BROWN F.PWR_BROWN_RESET + 200)

/-- Rail `r` is good. -/
def railGood (s : State) (r : Nat) : Bool := bit (s.fld Reg.PWR_STATUS F.PWR_STATUS_RAIL_PG) r

/-- Rail `r` becomes good or not good. -/
def setRail (s : State) (r : Nat) (v : Bool) : State :=
  s.setFld Reg.PWR_STATUS F.PWR_STATUS_RAIL_PG (setBits (s.fld Reg.PWR_STATUS F.PWR_STATUS_RAIL_PG) r r (b2n v))

/-- The main rails begin to be enabled, VBUS first. -/
def railsStart (s : State) : State := s.updGrm fun g => { g with rails := .rising 2 }

/-- The input has been at or above the start level for 10 ms; the rails stay off during a strap fault (R310, R311, R313). -/
def inputStart (s : State) (input : Nat) : State :=
  if s.grm.up && s.grm.rails == .off && !s.grm.hold && !s.grm.strapFault && decide (startLevel s ≤ input) then railsStart s else s

/-- Input at the start level (R311). -/
def execInputStartLevel (input : Nat) (s : State) : Res := .next (inputStart s input)

/-- A rail reaches power good: the next is enabled, and MOD_PWRGD is released once all are good (R311, R366). -/
def railUp (s : State) (r : Nat) : State :=
  match s.grm.rails with
  | .rising k =>
    if r ≠ k then s
    else
      let s := setRail s r true
      match (rangeFrom 2 8).find? fun i => !railGood s i with
      | some i => s.updGrm fun g => { g with rails := .rising i }
      | none => (s.updGrm fun g => { g with rails := .on }).emit (.pin "MOD_PWRGD" true)
  | _ => s

/-- A rail is good (R311). -/
def execRailPowerGood (rail : Fin 10) (s : State) : Res := .next (railUp s rail)

/-- A main rail loses power good while ON (R312). -/
def railFault (s : State) (r input : Nat) : State :=
  if s.grm.rails = .on ∧ 2 ≤ r then shutdown (setRail s r false) 3 r input else s

/-- A rail fault (R312). -/
def execRailFault (rail : Fin 10) (input : Nat) (s : State) : Res := .next (railFault s rail input)

/-- The rail being disabled has fallen, or 2 ms have passed: the next one down is disabled (R312). -/
def railDown (s : State) : State :=
  match s.grm.rails with
  | .falling k =>
    (setRail s k false).updGrm fun g => { g with rails := if k ≤ 2 then .off else .falling (k - 1) }
  | _ => s

/-- A rail has fallen (R312). -/
def execRailDisableStep (s : State) : Res := .next (railDown s)

/-- Every sensor of Table PWR-3 reads below its operating maximum. -/
def coolEnough (s : State) : Bool :=
  ((List.range 32).all fun i => decide (s.sample i < 1680)) &&
    ((rangeFrom 32 8).all fun i => decide (s.sample i < 1520)) && decide (s.sample 57 < 1760)

/-- After a controlled shutdown: NC_RESET_L has been low for `lowNs`, the input at the start level for `inputNs` (R313). -/
def holdRelease (s : State) (lowNs inputNs : Nat) : State :=
  if s.grm.up && s.grm.hold && s.grm.rails == .off && decide (10000 ≤ lowNs) && decide (10000000 ≤ inputNs) && coolEnough s then
    railsStart (s.updGrm fun g => { g with hold := false })
  else s

/-- The restart conditions of R313. -/
def execShutdownHoldRelease (lowNs inputNs : Nat) (s : State) : Res := .next (holdRelease s lowNs inputNs)

/-! ### Shutdown causes (R320, R321) -/

/-- Input below RESET for more than 5 µs. -/
def underVoltage (s : State) (input : Nat) : State :=
  if input < 10 * s.fld Reg.PWR_BROWN F.PWR_BROWN_RESET then shutdown s 1 0 input else s

/-- Undervoltage (R320). -/
def execUndervoltage (input : Nat) (s : State) : Res := .next (underVoltage s input)

/-- Input above 61.0 V for more than 5 µs. -/
def overVoltage (s : State) (input : Nat) : State := if 6100 < input then shutdown s 2 0 input else s

/-- Overvoltage (R320). -/
def execOvervoltage (input : Nat) (s : State) : Res := .next (overVoltage s input)

/-- A sensor has been above its fixed limit for 10 consecutive samples (R321). -/
def thermalCheck (s : State) : State :=
  match s.grm.overs.find? fun x => decide (10 ≤ x.2) with
  | some (i, _) => shutdown s 4 i s.input
  | none => s

/-- A fixed thermal limit trips (R321). -/
def execThermalTrip (s : State) : Res := .next (thermalCheck s)

/-! ### Samples (R322) -/

/-- A signed 16-bit number. -/
def signed16 (v : Nat) : Int := (BitVec.ofNat 16 v).toInt

/-- The fixed shutdown level of a sensor (Table PWR-3). -/
def fixedLimit (i : Nat) : Option Int :=
  if i < 32 then some 1840 else if i < 40 then some 1680 else if i = 57 then some 2000 else none

/-- HBM stack `k` cannot be trained: CHIP is in reset, or the stack's PLL is not locked (R303). -/
def stackDown (s : State) (k : Nat) : Bool := s.held || !bit (s.reg Reg.CLK_STATUS) (8 + k)

/-- Sample `i` of a period: an HBM stack that is not trained reads −32,768, sensor 63 reads 0, and sensor 42 is the product of
samples 40 and 41. `r` is a free value: which way a product between two steps of its LSB goes, and the sample of a product that 16
signed bits do not hold. -/
def sampleOf (s : State) (raw : Bytes) (r : Nat) (i : Nat) : Int :=
  let x := fun (k : Nat) => signed16 (fld raw (2 * k) 2)
  if i = 63 then 0
  else if 32 ≤ i ∧ i < 40 ∧ stackDown s (i - 32) then -32768
  else if i = 42 then
    let p := x 40 * x 41
    let v := if p % 1000 = 0 ∨ r % 2 = 0 then p / 1000 else p / 1000 + 1
    if -32768 ≤ v ∧ v ≤ 32767 then v else signed16 r
  else x i

/-- The samples of a period are taken, sensor 0 first, and the counts above the fixed limits with them. -/
def takeSamples (s : State) (raw : Bytes) : State :=
  let (r, s) := s.draw
  let t := (List.range 64).map fun i => (i, sampleOf s raw r i)
  s.updGrm fun g => { g with
    samples := t
    overs := t.filterMap fun (i, x) => match fixedLimit i with
      | some l => if l < x then some (i, g.overs.getD i 0 + 1) else none
      | none => none }

/-! ### Rules (R323–R325) -/

/-- A register field of rule `r`'s CFG. -/
def ruleFld (s : State) (r : Nat) (f : Field) : Nat := s.fld (Reg.GRM_RULE_CFG r) f

/-- SET and CLR of a rule. -/
def ruleSet (s : State) (r : Nat) : Int := signed16 (s.fld (Reg.GRM_RULE_SET r) F.GRM_RULE_SET_LEVEL)
def ruleClr (s : State) (r : Nat) : Int := signed16 (s.fld (Reg.GRM_RULE_CLR r) F.GRM_RULE_CLR_LEVEL)

/-- CLR does not lie beyond SET, and FILT and ACT are not reserved (R324). -/
def ruleValid (s : State) (r : Nat) : Bool :=
  let below := ruleFld s r F.GRM_RULE_CFG_DIR == 1
  decide (ruleFld s r F.GRM_RULE_CFG_FILT ≤ 2) && decide (ruleFld s r F.GRM_RULE_CFG_ACT ≤ 5) &&
    (if below then decide (ruleSet s r ≤ ruleClr s r) else decide (ruleClr s r ≤ ruleSet s r))

/-- Median of three. -/
def median3 (a b c : Int) : Int := max (min a b) (min (max a b) c)

/-- The filter after sample x (R323). -/
def filterStep (filt a : Nat) (old : Option RuleFilter) (x : Int) : RuleFilter :=
  match old with
  | none => ⟨x, [x]⟩
  | some f =>
    let last := (x :: f.last).take 3
    if filt = 1 then ⟨f.y + (x - f.y) * ((a : Int) + 1) / 256, last⟩
    else if filt = 2 then
      match last with
      | [p, q, r] => ⟨median3 p q r, last⟩
      | _ => ⟨x, last⟩
    else ⟨x, last⟩

/-- A rule's assertion changes: GRM 0x0001 or 0x0002 (R324). -/
def ruleTurn (s : State) (r : Nat) (on : Bool) (y : Int) : State :=
  let v := (BitVec.ofInt 16 y).toNat
  let s := s.setReg Reg.GRM_ASSERTED (setBits (s.reg Reg.GRM_ASSERTED) r r (b2n on))
  let s := if on then s.bump Reg.GRM_ASSERTS else s
  grmEvent s Tag.grm (if on then 0x0001 else 0x0002) Sev.info ([r, ruleFld s r F.GRM_RULE_CFG_SENSOR] ++ two v)

/-- A rule that is disabled is cleared, and its filter starts anew. -/
def ruleOff (s : State) (r : Nat) : State :=
  let y := match s.grm.filters.get? r with
    | some f => f.y
    | none => 0
  let s := if bit (s.reg Reg.GRM_ASSERTED) r then ruleTurn s r false y else s
  s.updGrm fun g => { g with filters := g.filters.del r }

/-- One rule of a period: the state, and whether the rule has just been asserted. -/
def ruleEval (s : State) (r : Nat) : State × Bool :=
  if ruleFld s r F.GRM_RULE_CFG_EN = 0 then (ruleOff s r, false)
  else if !ruleValid s r then ((ruleOff s r).setFld Reg.GRM_CTRL F.GRM_CTRL_RULE_ERR 1, false)
  else
    let x := s.sample (ruleFld s r F.GRM_RULE_CFG_SENSOR)
    if x = -32768 then (s, false)
    else
      let f := filterStep (ruleFld s r F.GRM_RULE_CFG_FILT) (ruleFld s r F.GRM_RULE_CFG_A) (s.grm.filters.get? r) x
      let s := s.updGrm fun g => { g with filters := g.filters.put r f }
      let below := ruleFld s r F.GRM_RULE_CFG_DIR = 1
      let on := bit (s.reg Reg.GRM_ASSERTED) r
      if !on ∧ (if below then f.y < ruleSet s r else ruleSet s r < f.y) then (ruleTurn s r true f.y, true)
      else if on ∧ (if below then ruleClr s r < f.y else f.y < ruleClr s r) then (ruleTurn s r false f.y, false)
      else (s, false)

/-- Every enabled rule in ascending index; the rules just asserted (R324). -/
def rulesEval (s : State) : State × List Nat :=
  if !s.flag Reg.GRM_CTRL F.GRM_CTRL_EN then (s, [])
  else forEach (List.range 32) (s, []) fun (s, l) r => match ruleEval s r with
    | (s, true) => (s, l ++ [r])
    | (s, false) => (s, l)

/-- The effects of a period's rules combine: SHUTDOWN, then caps and throttles, then WAKE (R325). -/
def rulesAct (s : State) (new : List Nat) : State :=
  let s := match new.find? fun r => (ruleAct s r).1 == 5 with
    | some r => shutdown s 5 (ruleFld s r F.GRM_RULE_CFG_SENSOR) s.input
    | none => s
  let s := reGait s 1
  if new.any fun r => (ruleAct s r).1 == 2 then
    if s.held then s else reGait (s.setFld Reg.PWR_GAIT F.PWR_GAIT_REQ (s.fld Reg.PWR_GAIT F.PWR_GAIT_WAKE_GAIT)) 1
  else s

/-- A 100 µs period: 64 samples of two bytes each, the fixed limits, and the rules (R321–R325). -/
def samplePeriod (s : State) (raw : Bytes) : State :=
  if !s.grm.up then s
  else
    let t := thermalCheck (takeSamples s raw)
    match rulesEval t with
    | (t, new) => alertPin s (rulesAct t new)

/-- The groom samples every sensor and evaluates its rules (R322). -/
def execGroomSamplePeriod (samples : Bytes) (s : State) : Res := .next (samplePeriod s samples)

/-! ### Register writes -/

/-- A write of PWR_BROWN is ignored when it would put RESET above WARN − 2.0 V (R320). -/
def brownWrite (s : State) (data : Nat) : State :=
  let t := s.rawWrite Reg.PWR_BROWN data
  if t.fld Reg.PWR_BROWN F.PWR_BROWN_WARN < t.fld Reg.PWR_BROWN F.PWR_BROWN_RESET + 20 then s else t

/-- A write of PWR_STATUS clears its sticky bits; SHUTDOWN lets MGMT_ALERT_L go (R325). -/
def pwrStatusWrite (s : State) (data : Nat) : State := alertPin s (s.rawWrite Reg.PWR_STATUS data)

/-- A write of a rule register goes into the retention shadow too; a rule that is disabled is cleared, and a change of what an
asserted rule does counts at once (R314, R324, R326). -/
def ruleWrite (s : State) (o data : Nat) : State :=
  let t := s.rawWrite o data
  let t := t.updGrm fun g => { g with shadow := g.shadow.put o (BitVec.ofNat 32 (t.reg o)) }
  let r := (o - Reg.GRM_RULE_CFG 0) / 16
  let t := if ruleFld t r F.GRM_RULE_CFG_EN = 0 then ruleOff t r else t
  alertPin s (reGait t 1)

/-! ### A groom reset by loss of lock (R326) -/

/-- The groom resets itself, with a reset notice to MESH, and reloads its rules from the shadow; it is released with its PLL good
again. CHIP goes on at its gait (Table CLK-6), so the request, the gait in force and a brown-out hold of the intake monitor stay, and
the caps of the rules are gone until a sample period asserts them again. -/
def groomReset (s : State) : State :=
  let req := s.fld Reg.PWR_GAIT F.PWR_GAIT_REQ
  let pg := s.fld Reg.PWR_STATUS F.PWR_STATUS_RAIL_PG
  let gait := s.gait
  let hold := b2n s.browned
  let t := (s.notice 7 1 0).releaseDomain 7
  let t := { t with regs := t.regs.filter fun r => !groomReg r.1 }
  let t := t.updGrm fun g => { g with samples := [], filters := [], overs := [] }
  let t := (t.setFld Reg.PWR_STATUS F.PWR_STATUS_RAIL_PG pg).setFld Reg.PWR_STATUS F.PWR_STATUS_GAIT gait
  let t := (t.setFld Reg.PWR_GAIT F.PWR_GAIT_REQ req).setFld Reg.PWR_STATUS F.PWR_STATUS_HOLD hold
  let t := forEach t.grm.shadow t fun t x => t.setReg x.1 x.2.toNat
  let n := ((List.range 32).filter fun r => ruleFld t r F.GRM_RULE_CFG_EN = 1).length
  let t := t.setFld Reg.PWR_GAIT F.PWR_GAIT_CAP (if s.browned then 3 else 0)
  let t := t.setFld Reg.CLK_STATUS F.CLK_STATUS_GROOM 1
  alertPin s (grmEvent t Tag.grm 0x0004 Sev.degraded [n, 0, 0, 0])

end Sys2Proof.Machine
end

