-- ==== Sys2Proof/Machine/Clk.lean ====
section
/-!
DEFINITION. Machine/Clk.lean: NC_RESET_L and the straps (R290, R291, R366), CHIP release (R286, R303), crossings and their
resets (R283, R287), and loss of lock (R285).
-/
namespace Sys2Proof.Machine

/-! ### NC_RESET_L -/

/-- What STRAP_ROLE, STRAP_TACK and STRAP_NODE read: an unconnected strap its pull (Table TCK-1). -/
def strapRole (x : Straps) : Nat := (x.role.getD 3).val
def strapTack (x : Straps) : Nat := (x.tack.getD 0).val
def strapNode (x : Straps) : Nat := (x.node.getD 0).val

/-- GLB_STRAP as the straps set it, nothing overridden; an unconnected strap reads its pull (R290, Table TCK-1). -/
def strapWord (x : Straps) : Nat :=
  let gait := (x.gait.getD 3).val
  let links := b2n (x.links.getD true)
  strapRole x + strapNode x * 2 ^ 2 + strapTack x * 2 ^ 8 + b2n (x.secure.getD true) * 2 ^ 10 + gait * 2 ^ 11 +
    (x.mgmt.getD 0).val * 2 ^ 13 + links * 2 ^ 16 + links * 2 ^ 17 + gait * 2 ^ 18

/-- HLK_CTRL.EN of H4 to H15. -/
def setFarPorts (s : State) (en : Bool) : State :=
  forEach (rangeFrom 4 12) s fun s p => s.setFld (Reg.HLK_CTRL p) F.HLK_CTRL_EN (b2n en)

/-- What the straps set in CHIP: the node number's upper bits, and which ports are enabled (R149, R168). -/
def strapped (s : State) : State :=
  let s := s.setFld Reg.GLB_NODE F.GLB_NODE_STRAP (s.fld Reg.GLB_STRAP F.GLB_STRAP_NODE)
  let s := forEach (List.range 4) s fun s p => s.setFld (Reg.HLK_CTRL p) F.HLK_CTRL_EN 1
  setFarPorts s !s.flag Reg.GLB_STRAP F.GLB_STRAP_LINKS

/-- A strap fault: the groom records it, and the module is in GROOM_ONLY, its main rails going off in turn (R291, R310, R326). -/
def strapFaulted (s : State) (x : Straps) : State :=
  let t := s.updGrm fun g => { g with strapFault := true, rails := if g.rails = .on then .falling 9 else g.rails }
  let t := if s.grm.rails = .on then t.emit (.pin "MOD_PWRGD" false) else t
  alertPin s (grmEvent t Tag.grm 0x0003 Sev.fatal [strapRole x, strapTack x, 0, 0])

/-- NC_RESET_L rises with MOD_PWRGD released `ns` ago: earlier than 1 ms, or with MOD_PWRGD low, it is ignored. The straps are sampled,
the tick starts at zero, and start-up begins; a reserved ROLE or TACK is a strap fault, in which CHIP stays in reset. A rise during a
strap fault samples the straps again; valid ones leave it, and the rails may come back (R2, R290, R291, R366). -/
def resetRise (s : State) (x : Straps) (ns : Nat) : State :=
  if s.grm.resetHigh then s
  else
    let t := s.updGrm fun g => { g with resetHigh := true }
    if !t.grm.strapFault && (t.grm.rails != .on || decide (ns < 1000000)) then t
    else
      let t := t.setReg Reg.GLB_STRAP (strapWord x)
      if strapRole x = 3 ∨ strapTack x = 3 then strapFaulted t x
      else
        let t := { t with role := strapRole x }
        if t.grm.strapFault then alertPin s (t.updGrm fun g => { g with strapFault := false })
        else (strapped { t with running := true, tick := 0 }).setFld Reg.TCK_STATUS F.TCK_STATUS_PHASE 1

/-- NC_RESET_L rises (R290). -/
def execNcResetLRise (straps : Straps) (ns : Nat) (s : State) : Res := .next (resetRise s straps ns)

/-- NC_RESET_L falls: CHIP reset, and the straps are no longer held (R286, R290). -/
def resetFall (s : State) : State :=
  if !s.grm.resetHigh then s
  else
    let t := (chipReset s).updGrm fun g => { g with resetHigh := false }
    { t with regs := t.regs.filter (·.1 != Reg.GLB_STRAP), role := State.reset.role }

/-- NC_RESET_L falls (R286). -/
def execNcResetLAssert (s : State) : Res := .next (resetFall s)

/-! ### CHIP release (R286, R303) -/

/-- Every CHIP PLL has locked: CHIP is released from its reset values with ARITH on PLL B, and phase 2 begins. -/
def chipRelease (s : State) : State :=
  if !s.running ∨ s.clk.released then s
  else
    let s := strapped { chipClean s with running := true, tick := s.tick }
    let s := s.setReg Reg.CLK_STATUS (s.reg Reg.CLK_STATUS ||| 0xFFFF)
    let s := (onPllB s).updClk fun c => { c with released := true, releasedAt := s.now }
    let s := setVarith s (max s.grm.varith (gaitMv 3))
    clockFollow (s.setFld Reg.TCK_STATUS F.TCK_STATUS_PHASE 2)

/-- CHIP is released (R286). -/
def execChipRelease (s : State) : Res := .next (chipRelease s)

/-! ### Crossings (R283, R287) -/

/-- The items of the given stalls that name a request end with CROSSING_TIMEOUT: attention when its descriptor ends, an append that
runs, an edit that is built; near-memory work, which names no request, ends where `handle` is zero (R283, R339). -/
def crossingItems (s : State) (ns : List Nat) (handle : Nat) : State :=
  let late := St.crossingTimeout
  let s := forEach ns s fun s n => s.updWork n fun w =>
    { w with run := replaceIf (fun (x : AttRun) => At.handle x.item.msg == handle) (fun x => { x with status := late }) w.run }
  let s := forEach ns s fun s n => match (s.work n).appends with
    | a :: _ => match a.run with
      | some r => if Ap.handle a.msg = handle then appendPop (s.freePages (appendPages r)) n late 0 else s
      | none => s
    | [] => s
  let s := forEach (s.kvp.edits.filter fun e => ns.contains e.stall) s fun s e => match e.build with
    | some b =>
      let r := (s.readRoot (Ed.root e.desc)).2.2
      if Root.handle r = handle then editEnd (s.freePages b.fresh) e late (Root.epoch r) 0 else s
    | none => s
  if handle ≠ 0 then s
  else forEach ns s fun s n => s.updStall n fun t =>
    { t with nmuRun := t.nmuRun.map fun (r : NmuDone) => if r.ran then { r with status := late } else r }

/-- Packhorse's page accesses that wait on a crossing end with CROSSING_TIMEOUT: moves, COPY commands and fills (R283). -/
def crossingPages (s : State) (on : Io → Bool) : State :=
  let late := St.crossingTimeout
  let s := forEach (s.pkh.moves.filter fun m => m.stage != .editing && on m.io) s fun s m => moveEnd s m late
  let s := forEach (s.pkh.cmds.filter fun c => c.io.any fun x => on x.2) s fun s c => cmdDone s c late
  forEach (s.pkh.fills.filter fun f => f.ios.any fun x => on x.2) s fun s f => fillEnd s f late

/-- The vault's operations in flight end with CROSSING_TIMEOUT. -/
def crossingVault (s : State) : State :=
  let ops := s.pkh.vault.ops
  let s := s.updVault fun v => { v with ops := [], waiting := [], sent := [] }
  let s := if ops.any (·.2.1 == .format) then s.setFld Reg.PKH_VAULT_CTRL F.PKH_VAULT_CTRL_FORMAT 0 else s
  crossingPages s fun io => match io with
    | .vault cid => ops.any (·.1 == cid)
    | _ => false

/-- BAR2 reads that wait at the host port end with CROSSING_TIMEOUT (R271). -/
def crossingReads (s : State) : State :=
  forEach s.host.reads s fun s x => readDone (bar2Refused s St.crossingTimeout Op.load x.entry x.addr) x 4 []

/-- What waits on the crossing from `src` to `dst` ends (R283, R339): a stall's ARITH source fails the stall; work of the stalls and
of a stack ends by the request it names; page accesses by the unit they wait for; BAR2 reads at the host port. -/
def crossingEnds (s : State) (src dst inst handle : Nat) : State :=
  let between := fun a b => (src == a && dst == b) || (src == b && dst == a)
  if src = 0 then farSettle (s.failStall inst 0)
  else if dst = 0 then crossingItems s [inst] handle
  else if src = 2 ∨ dst = 2 then crossingItems s (rangeFrom (16 * (inst % 8)) 16) handle
  else if between 1 5 then crossingVault s
  else if between 1 4 then crossingPages s (· == .host)
  else if between 3 4 then crossingReads s
  else if between 1 3 then crossingPages s fun io => match io with
    | .remote _ => true
    | _ => false
  else s

/-- The crossing is parked, or one of its clocks stands with the other side's leave: ARITH and STABLE in STABLED, ARITH of a FAILED
stall (R284). -/
def crossingParked (s : State) (src dst inst : Nat) : Bool :=
  let has := fun d => src == d || dst == d
  (s.parked && (has 0 || has 2)) || (has 0 && s.stallFailed inst)

/-- A crossing times out: it closes, what waits on it ends, and CLK records it (R283). A parked crossing is not counted (R284), and
with CHIP in reset none is. -/
def crossingTimeout (s : State) (src dst inst handle : Nat) : State :=
  if s.held || src == dst || crossingParked s src dst inst || s.clk.closed.any (isCrossing src dst inst) then s
  else
    let s := s.updClk fun c => { c with closed := c.closed ++ [⟨src, dst, inst, false⟩] }
    let s := if s.flag Reg.CLK_STATUS F.CLK_STATUS_XTMO then s
      else s.setReg Reg.CLK_XTMO_INFO (src * 2 ^ 28 + dst * 2 ^ 24 + inst * 2 ^ 16)
    let s := (s.setFld Reg.CLK_STATUS F.CLK_STATUS_XTMO 1).bump Reg.CLK_XTMO_CNT
    crossingEnds (s.raise Tag.clk 0x0001 Sev.contained handle [src, dst, inst, 0]) src dst inst handle

/-- A crossing from domain `src` to `dst` times out; `handle` is the request that waited, or zero (R283). -/
def execCrossingTimeout (src dst : Fin 10) (inst : Fin 128) (handle : Nat) (s : State) : Res :=
  .next (crossingTimeout s src dst inst handle)

/-- A reset notice of domain `src` reaches domain `dst` (R287). -/
def execResetNotice (src dst : Fin 10) (inst : Fin 128) (s : State) : Res := .next (s.notice src dst inst)

/-- A crossing reopens (R287). -/
def execCrossingReopen (src dst : Fin 10) (inst : Fin 128) (s : State) : Res := .next (s.reopen src dst inst)

/-! ### Loss of lock (R285) -/

/-- Domain code, instance and CLK_STATUS bit of a PLL (R289). -/
def pllPlace (p : Pll) : Nat × Nat × Option Nat :=
  match p with
  | .arithA => (0, 0, some 0)
  | .arithB => (0, 0, some 1)
  | .mesh => (1, 0, some 2)
  | .stable k => (2, k, some (8 + k))
  | .harness => (3, 0, some 3)
  | .harnessTx q => (3, q, none)
  | .host => (4, 0, some 4)
  | .vault => (5, 0, some 5)
  | .assay => (6, 0, some 6)
  | .groom => (7, 0, some 16)
  | .tickGen => (8, 0, some 7)

/-- The PLLs whose loss takes the module out of service (Table CLK-4). -/
def pllFatal (p : Pll) : Bool :=
  match p with
  | .arithA | .arithB | .mesh | .harness | .assay | .tickGen => true
  | .stable _ | .harnessTx _ | .host | .vault | .groom => false

/-- STABLE of stack k has lost lock: its crossings close and its sixteen stalls fail (R341). -/
def stableLost (s : State) (k : Nat) : State :=
  let s := s.updClk fun c => { c with closed := c.closed ++ [⟨2, 1, k, false⟩, ⟨1, 2, k, false⟩] }
  farSettle (forEach (rangeFrom (16 * k) 16) s fun s n => s.failStall n 1)

/-- A PLL loses lock: CLK notes it and Table CLK-4's effect follows. A CHIP in reset has no lock to lose. -/
def pllLost (s : State) (p : Pll) : State :=
  if s.held && p != .groom then s
  else
    let (dom, inst, b) := pllPlace p
    let s := match b with
      | some i => s.setReg Reg.CLK_STATUS (setBits (s.reg Reg.CLK_STATUS) i i 0)
      | none => s
    let s := (s.setFld Reg.CLK_STATUS F.CLK_STATUS_LOCK_LOST 1).bump Reg.CLK_LOCK_LOSS
    if pllFatal p then fatalShutdown s Tag.clk 0x0002 0 [dom, inst, 0, 0] 6
    else
      let s := if s.held then s else s.raise Tag.clk 0x0002 Sev.degraded 0 [dom, inst, 0, 0]
      match p with
      | .stable k => stableLost s k
      | .host => hostReset s 2
      | .vault => vaultGone s (s.flag Reg.PKH_VAULT_STATUS F.PKH_VAULT_STATUS_PRESENT)
      | .harnessTx q => if (s.port q).state == .disabled then s else toDetect s q 3
      | _ => groomReset s

/-- A PLL loses lock (R285). -/
def execPllLockLoss (pll : Pll) (s : State) : Res := .next (pllLost s pll)

end Sys2Proof.Machine
end

