-- ==== Sys2Proof/Machine/Asy.lean ====
section
/-!
DEFINITION. Machine/Asy.lean: Assay: fuses and fuse commands (R347, R350, R351), the random source (R352) and protected
regions (R357–R359).
-/
namespace Sys2Proof.Machine

/-! ### Fuses -/

/-- KEY_HASH of a slot. -/
def keyHash (k : Nat) : Nat := Config.keyHash k % 2 ^ 512

/-- KEY_VALID: the slots whose hash is not all zero. -/
def keyValid : Nat := (List.range 4).foldl (fun m k => m + b2n (keyHash k != 0) * 2 ^ k) 0

/-- ASY_FUSE. -/
def fuseWord (s : State) : Nat :=
  s.asy.svnMin + b2n Config.secureForce * 2 ^ 23 + s.asy.keyRevoke * 2 ^ 24 + keyValid * 2 ^ 28

/-- The signature of an image is enforced (R297, R348). -/
def State.secure (s : State) : Bool := s.flag Reg.GLB_STRAP F.GLB_STRAP_SECURE || Config.secureForce

/-- A fuse command ends: FUSE_STATUS and ASY 0x0001 (R351). -/
def fuseEnd (s : State) (op arg status : Nat) : State :=
  let s := (s.updAsy fun a => { a with fuse := none }).setFld Reg.ASY_STATUS F.ASY_STATUS_FUSE_BUSY 0
  let s := s.setFld Reg.ASY_STATUS F.ASY_STATUS_FUSE_STATUS status
  s.raise Tag.asy 0x0001 Sev.info 0 [op, arg, status, s.asy.svnMin]

/-- A fuse command starts burning bits. -/
def fuseStart (s : State) (op arg upTo : Nat) : State :=
  (s.updAsy fun a => { a with fuse := some ⟨op, arg, upTo, s.nowAssay⟩ }).setFld Reg.ASY_STATUS F.ASY_STATUS_FUSE_BUSY 1

/-- A GO with FUSE_BUSY 0 (R351). -/
def fuseGo (s : State) (op arg : Nat) : State :=
  if !s.ready ∨ s.flag Reg.TCK_STATUS F.TCK_STATUS_UNSIGNED then fuseEnd s op arg St.rights
  else if op = 1 then
    let goal := min (s.reg Reg.TCK_SVN) 64
    if goal ≤ s.asy.svnMin then fuseEnd s op arg St.noEffect else fuseStart s op arg goal
  else if op = 2 then
    if arg = s.tck.keySlot then fuseEnd s op arg St.rights
    else if bit s.asy.keyRevoke arg then fuseEnd s op arg St.noEffect
    else fuseStart s op arg 0
  else fuseEnd s op arg St.rights

/-- A write of ASY_FUSE_CMD (R351). -/
def fuseCmd (s : State) (data : Nat) : State :=
  let s := (s.rawWrite Reg.ASY_FUSE_CMD data).setFld Reg.ASY_FUSE_CMD F.ASY_FUSE_CMD_GO 0
  if bit data 31 && !s.flag Reg.ASY_STATUS F.ASY_STATUS_FUSE_BUSY then fuseGo s (bits data 9 8) (bits data 1 0) else s

/-- SVN_ADVANCE (R351). -/
def execSvnAdvance (s : State) : Res := .next (fuseCmd s (2 ^ 31 + 0x100))
/-- REVOKE_SLOT (R351). -/
def execRevokeSlot (slot : Fin 4) (s : State) : Res := .next (fuseCmd s (2 ^ 31 + 0x200 + slot))

/-- 2 ms after the last one a bit is programmed, and reads back or not; a brown-out hold pauses programming (R351). -/
def fuseBit (s : State) (ok : Bool) : State :=
  match s.asy.fuse with
  | none => s
  | some f =>
    if s.browned ∨ s.nowAssay < f.last + 2000000 then s
    else if !ok then fuseEnd (s.setFld Reg.ASY_STATUS F.ASY_STATUS_FUSE_ERR 1) f.op f.arg St.internal
    else if f.op = 1 then
      let s := s.updAsy fun a => { a with svnMin := a.svnMin + 1, fuse := some { f with last := s.nowAssay } }
      if f.upTo ≤ s.asy.svnMin then fuseEnd s f.op f.arg St.ok else s
    else fuseEnd (s.updAsy fun a => { a with keyRevoke := setBits a.keyRevoke f.arg f.arg 1 }) f.op f.arg St.ok

/-- A fuse bit is programmed and read back (R351). -/
def execFuseBitProgram (ok : Bool) (s : State) : Res := .next (fuseBit s ok)

/-! ### Protected regions (R357) -/

/-- First page, pages and first shadow page of region r, and the pages of its shadow. -/
def prBase (s : State) (r : Nat) : Nat := s.fld (Reg.ASY_PR_BASE r) F.ASY_PR_BASE_VALUE
def prPages (s : State) (r : Nat) : Nat := s.fld (Reg.ASY_PR_PAGES r) F.ASY_PR_PAGES_VALUE
def prShadow (s : State) (r : Nat) : Nat := s.fld (Reg.ASY_PR_SHADOW r) F.ASY_PR_SHADOW_VALUE
def prShadowPages (s : State) (r : Nat) : Nat := ceilDiv (prPages s r) 16

/-- Region r is enabled. -/
def prOn (s : State) (r : Nat) : Bool := s.flag (Reg.ASY_PR_CTRL r) F.ASY_PR_CTRL_EN

/-- Regions READY. -/
def prReady (s : State) : Nat := ((List.range 16).filter fun r => s.flag (Reg.ASY_PR_CTRL r) F.ASY_PR_CTRL_READY).length

/-- Two ranges `[a, a+m)` and `[b, b+n)` meet. -/
def meets (a m b n : Nat) : Bool := decide (a < b + n) && decide (b < a + m)

/-- The part of module pages `[lo, hi)` that lies in stall n, as pages of the stall. -/
def stallPart (n lo hi : Nat) : Nat × Nat := (max lo (n * stallPages) - n * stallPages, min hi ((n + 1) * stallPages) - n * stallPages)

/-- Stalls that pages `[lo, hi)` touch. -/
def stallsOf (lo hi : Nat) : List Nat :=
  if lo < hi then (rangeFrom (lo / stallPages) ((hi - 1) / stallPages + 1 - lo / stallPages)).filter (· < 128) else []

/-- Every page of `[lo, hi)` is on its stall's free-page stack. -/
def pagesFree (s : State) (lo hi : Nat) : Bool :=
  (stallsOf lo hi).all fun n =>
    let t := s.stall n
    let (a, b) := stallPart n lo hi
    (t.freed.filter fun p => decide (a ≤ p) && decide (p < b)).length +
      t.virgin.foldl (fun k r => k + (min r.2 b - max r.1 a)) 0 == b - a

/-- Pages `[lo, hi)` leave their stalls' free-page stacks (R31); a stall whose count falls below its limit signals Packhorse
(R30). -/
def withdrawPages (s : State) (lo hi : Nat) : State :=
  forEach (stallsOf lo hi) s fun s n =>
    let (a, b) := stallPart n lo hi
    (s.updStall n fun t =>
      { t with freed := t.freed.filter (fun p => !(decide (a ≤ p) && decide (p < b))), virgin := cutRange a b t.virgin }).signalLow n

/-- Pages below which regions and shadows lie: clear of staging (R302). -/
def prLimit : Nat := 18874368 - 16384

/-- The conditions of R357 for region r. -/
def prAllowed (s : State) (r : Nat) : Bool :=
  let b := prBase s r
  let n := prPages s r
  let sh := prShadow s r
  let m := prShadowPages s r
  let others := (List.range 16).filter fun q => q != r && prOn s q
  let clear := fun (a k : Nat) =>
    others.all fun q => !meets a k (prBase s q) (prPages s q) && !meets a k (prShadow s q) (prShadowPages s q)
  decide (1 ≤ n) && decide (b + n ≤ prLimit) && decide (sh + m ≤ prLimit) && clear b n && clear sh m &&
    pagesFree s b (b + n) && pagesFree s sh (sh + m)

/-- Keys are drawn for region r while the random source is healthy (R352, R357). -/
def prKeys (s : State) (r : Nat) : State :=
  if s.flag Reg.ASY_STATUS F.ASY_STATUS_RNG_OK then
    let (a, s) := s.draw
    let (b, s) := s.draw
    s.updAsy fun x => { x with keys := x.keys.put r (a % 2 ^ 256, b % 2 ^ 256), waiting := x.waiting.filter (· != r) }
  else s.updAsy fun x => { x with waiting := x.waiting ++ [r] }

/-- A write of ASY_PRr CTRL: EN from 0 to 1 enables the region when R357 allows it; EN from 1 to 0, before the lock, ends it. -/
def prCtrl (s : State) (r data : Nat) : State :=
  let o := Reg.ASY_PR_CTRL r
  if s.locked ∨ bit data 31 = prOn s r then s
  else if bit data 31 then
    if prAllowed s r then
      let s := (s.setFld o F.ASY_PR_CTRL_EN 1).setFld o F.ASY_PR_CTRL_READY 0
      prKeys (withdrawPages s (prShadow s r) (prShadow s r + prShadowPages s r)) r
    else s.setFld Reg.ASY_STATUS F.ASY_STATUS_PR_ERR 1
  else
    let s := (s.setFld o F.ASY_PR_CTRL_EN 0).setFld o F.ASY_PR_CTRL_READY 0
    s.updAsy fun x => { x with keys := x.keys.del r, waiting := x.waiting.filter (· != r) }

/-- A write of BASE, PAGES or SHADOW of a region, taken only while EN is 0 (R357). -/
def prField (s : State) (o data : Nat) : State := if prOn s ((o - Reg.ASY_PR_BASE 0) / 16) then s else s.rawWrite o data

/-- A write of ASY_PR CTRL (R357). -/
def execPrEnable (region : Fin 16) (data : Word) (s : State) : Res := .next (prCtrl s region data.toNat)

/-- HBM bytes `[lo, hi)` become zeros with good check bytes. -/
def zeroRange (s : State) (lo hi : Nat) : State :=
  { s with
    mem := s.mem.filter fun c => decide (c.1 < lo) || decide (hi ≤ c.1)
    marks := s.marks.filter fun c => decide (64 * c.1 < lo) || decide (hi ≤ 64 * c.1) }

/-- Every line of the region is written as encrypted zeros, and READY is set (R357). -/
def prInit (s : State) (r : Nat) : State :=
  if prOn s r && s.asy.keys.has r && !s.flag (Reg.ASY_PR_CTRL r) F.ASY_PR_CTRL_READY then
    let lo := prBase s r
    let s := forEach (stallsOf lo (lo + prPages s r)) s fun s n => s.drainHome n
    (zeroRange s (lo * pageBytes) ((lo + prPages s r) * pageBytes)).setFld (Reg.ASY_PR_CTRL r) F.ASY_PR_CTRL_READY 1
  else s

/-- A region is initialised (R357). -/
def execPrInitComplete (region : Fin 16) (s : State) : Res := .next (s.ifRuns (prInit s region))

/-! ### Random source (R352) -/

/-- The source qualifies: in phase 2 the fuses are read, the incarnation is drawn, and phase 3 begins, reading the tack store
unless the host is to supply the image (R174, R293, R303, R306). Consumers that waited draw. -/
def rngOk (s : State) : State :=
  if s.held then s
  else
    let s := s.setFld Reg.ASY_STATUS F.ASY_STATUS_RNG_OK 1
    let s := if s.fld Reg.TCK_STATUS F.TCK_STATUS_PHASE = 2 then
        let (r, s) := s.draw
        let s := (s.setReg Reg.HTP_INCARN (r % (2 ^ 32 - 1) + 1)).setFld Reg.TCK_STATUS F.TCK_STATUS_PHASE 3
        if s.fld Reg.GLB_STRAP F.GLB_STRAP_TACK < 2 then s.updTck fun t => { t with reading := true, source := 0 } else s
      else s
    forEach s.asy.waiting s prKeys

/-- The random source qualifies (R352). -/
def execRngQualified (s : State) : Res := .next (rngOk s)

/-- 10 ms after CHIP release the source has not qualified: FAILED with ERR ENTROPY (R352). -/
def entropyLate (s : State) : State :=
  if s.held ∨ s.fld Reg.TCK_STATUS F.TCK_STATUS_PHASE ≠ 2 ∨ s.nowAssay < s.clk.releasedAt + 10000000 then s
  else
    let s := (s.setFld Reg.TCK_STATUS F.TCK_STATUS_PHASE 15).setFld Reg.TCK_STATUS F.TCK_STATUS_ERR 15
    s.setFld Reg.TCK_STATUS F.TCK_STATUS_BUSY 0

/-- The random source has not qualified in time (R352). -/
def execEntropyTimeout (s : State) : Res := .next (entropyLate s)

/-- A health test fails: false repetition count, true adaptive proportion (R352). -/
def rngFail (s : State) (proportion : Bool) : State :=
  if s.held then s
  else
    let s := (s.setFld Reg.ASY_STATUS F.ASY_STATUS_RNG_FAIL 1).setFld Reg.ASY_STATUS F.ASY_STATUS_RNG_OK 0
    (s.bump Reg.ASY_RNG_FAILS).raise Tag.asy 0x0002 Sev.degraded 0 [b2n proportion, 0, 0, 0]

/-- A health test of the random source fails (R352). -/
def execRngTestFail (proportion : Bool) (s : State) : Res := .next (rngFail s proportion)

end Sys2Proof.Machine
end

