-- ==== Sys2Proof/Machine/Bar.lean ====
section
/-!
DEFINITION. Machine/Bar.lean: BAR0 as a whole (R3–R8). One write operation hands each register to the operation its chapter
gives it, and the rest to the access codes of their fields; one read operation computes the fields that show other state. The
GLB rows of chapter Host port and register conventions stand here too.
-/
namespace Sys2Proof.Machine

/-! ### Writes -/

/-- A write of the near-memory ring base: only while the ring is disabled (R37). -/
def nmuBaseWrite (s : State) (n o d : Nat) : State :=
  if s.flag (Reg.STL_NMU_CQ_CTRL n) F.STL_NMU_CQ_CTRL_EN then s else s.rawWrite o d

/-- A write of the source of a table load: ignored while a load runs (R60). -/
def tblSrcWrite (s : State) (n o d : Nat) : State :=
  if s.flag (Reg.FMT_TBL_RESULT n) F.FMT_TBL_RESULT_BUSY then s else s.rawWrite o d

/-- A write of a register of stall `n`. -/
def stallWrite (s : State) (n o d : Nat) : State :=
  if o = Reg.STL_CTRL n then stlCtrlWrite s n d
  else if o = Reg.STL_BUF_PART n then bufPartWrite s n d
  else if o = Reg.STL_NMU_GO n then if bit d 0 then nmuGo s n else s
  else if o = Reg.STL_NMU_CQ_BASE_LO n ∨ o = Reg.STL_NMU_CQ_BASE_HI n then nmuBaseWrite s n o d
  else if o = Reg.STL_NMU_CQ_CTRL n then nmuCqCtrl s n d
  else if o = Reg.STL_NMU_CQ_HEAD n then nmuCqHead s n d
  else if o = Reg.FMT_TBL_SRC_LO n ∨ o = Reg.FMT_TBL_SRC_HI n then tblSrcWrite s n o d
  else if o = Reg.FMT_TBL_CTRL n then tblCtrlWrite s n d
  else if o = Reg.FMT_MINT_SEED n then mintSeedWrite s n d
  else if o = Reg.FMT_ROPE_FREQ n then ropeFreqWrite s n d
  else if o = Reg.ATT_GO n then if bit d 0 then attGo s n else s
  else if o = Reg.KVP_EDIT_GO n then if bit d 0 then kvpEditGo s n else s
  else s.rawWrite o d

/-- A write of a register of harness port `p`. -/
def portWrite (s : State) (p o d : Nat) : State :=
  if o = Reg.HLK_CTRL p then hlkCtrl s p d
  else if o = Reg.HLK_CREDIT p then hlkCredit s p d
  else if o = Reg.HLK_EYE_CTRL p then eyeCtrl s p d
  else s.rawWrite o d

/-- A write of a transport register. -/
def htpWrite (s : State) (o d : Nat) : State :=
  if o = Reg.HTP_ROUTE_DATA then routeWrite s d
  else if o = Reg.HTP_MC_DATA then groupWrite s d
  else if o = Reg.HTP_FENCE then fenceGo s d
  else if o = Reg.HTP_CTRL ∨ o = Reg.HTP_CC_PARAM then ccStay (s.rawWrite o d)
  else s.rawWrite o d

/-- A write of half of the base of the region that IDX selects: only while the region is not valid (R227). -/
def rgnBaseWrite (s : State) (hi : Bool) (d : Nat) : State :=
  s.updRegion (s.fld Reg.TEM_RGN_IDX F.TEM_RGN_IDX_IDX) fun x =>
    if x.valid then x
    else { x with base := if hi then setBits x.base 38 32 (bits d 6 0) else setBits x.base 31 6 (bits d 31 6) }

/-- A write of a team register. -/
def temWrite (s : State) (o d : Nat) : State :=
  if o = Reg.TEM_CHG then temChg s d
  else if o = Reg.TEM_RGN_CFG then rgnCfgWrite s d
  else if o = Reg.TEM_RGN_BASE_LO then rgnBaseWrite s false d
  else if o = Reg.TEM_RGN_BASE_HI then rgnBaseWrite s true d
  else if o = Reg.TEM_RCMD_GO then if bit d 0 then rcmdGo s else s
  else s.rawWrite o d

/-- LDG_ESCROW_RETRY: at most half of LDG_ESCROW_TMO. -/
def retryWrite (s : State) (d : Nat) : State :=
  if s.reg Reg.LDG_ESCROW_TMO < 2 * d then s else s.rawWrite Reg.LDG_ESCROW_RETRY d

/-- A write of a ledger register. -/
def ldgWrite (s : State) (o d : Nat) : State :=
  if Reg.LDG_TEAM 0 ≤ o ∧ o < Reg.LDG_TEAM 16 then ldgTeamWrite s ((o - Reg.LDG_TEAM 0) / 4) d
  else if o = Reg.LDG_ESCROW_RETRY then retryWrite s d
  else if Reg.LDG_AQ_SQ_BASE_LO 0 ≤ o ∧ o < Reg.LDG_AQ_SQ_BASE_LO 64 then
    let q := (o - Reg.LDG_AQ_SQ_BASE_LO 0) / 32
    if o = Reg.LDG_AQ_CTRL q then aqCtrl s q d
    else if s.flag (Reg.LDG_AQ_CTRL q) F.LDG_AQ_CTRL_EN then s
    else s.rawWrite o d
  else s.rawWrite o d

/-- PED_TEAM: a write that changes BLK of an enabled entry is ignored while any node of its team exists (R105, log 604). -/
def pedTeamWrite (s : State) (o d : Nat) : State :=
  let team := s.fld o F.PED_TEAM_TEAM
  let blk := s.fld o F.PED_TEAM_BLK
  let t := s.rawWrite o d
  if s.flag o F.PED_TEAM_EN && t.fld o F.PED_TEAM_BLK != blk && s.nodes.any fun x => Nd.team x.2 == team then s else t

/-- PED_SALT: ignored while any node of the entry's team exists. -/
def pedSaltWrite (s : State) (o d : Nat) : State :=
  let team := s.fld (Reg.PED_TEAM ((o - Reg.PED_SALT 0) / 4)) F.PED_TEAM_TEAM
  if s.nodes.any fun x => Nd.team x.2 == team then s else s.rawWrite o d

/-- A write of a Pedigree register. -/
def pedWrite (s : State) (o d : Nat) : State :=
  if o = Reg.PED_REHASH then pedRehash s d
  else if Reg.PED_TEAM 0 ≤ o ∧ o < Reg.PED_TEAM 16 then pedTeamWrite s o d
  else if Reg.PED_SALT 0 ≤ o ∧ o < Reg.PED_SALT 16 then pedSaltWrite s o d
  else s.rawWrite o d

/-- A write of a Reins register. -/
def rnsWrite (s : State) (o d : Nat) : State :=
  if o = Reg.RNS_HOST_RATE then hostShaperWrite s 0 d
  else if o = Reg.RNS_HOST_BURST then hostShaperWrite s 1 d
  else if o = Reg.RNS_HOST_OVH then hostShaperWrite s 2 d
  else if o = Reg.RNS_TEN_DATA 7 then tenData7 s d
  else if o = Reg.RNS_HIST_SEL then histSel s d
  else if Reg.RNS_MTR_CIR 0 ≤ o ∧ o < Reg.RNS_MTR_CIR 16 then
    meterWrite s ((o - Reg.RNS_MTR_CIR 0) / 16) ((o - Reg.RNS_MTR_CIR 0) % 16 / 4) d
  else if o = Reg.RNS_CTRL then shaperFill ((shaperFill s).rawWrite o d)
  else s.rawWrite o d

/-- PKH_CQ_CTRL: EN from 0 to 1 resets the ring to slot 0 and PHASE 1 (R254). -/
def pkhCqCtrl (s : State) (d : Nat) : State :=
  let was := s.flag Reg.PKH_CQ_CTRL F.PKH_CQ_CTRL_EN
  let s := s.rawWrite Reg.PKH_CQ_CTRL d
  if !was && s.flag Reg.PKH_CQ_CTRL F.PKH_CQ_CTRL_EN then s.updPkh fun p => { p with cqSlot := 0, cqPhase := true } else s

/-- PKH_VAULT_CTRL with DETACH, then FORMAT (R264). -/
def vaultCtrl (s : State) (d : Nat) : State :=
  let s := vaultDetach s (setBits d 1 1 0)
  if bit d 1 then vaultFormat s (setBits d 0 0 0) else s

/-- A write of a Packhorse register. -/
def pkhWrite (s : State) (o d : Nat) : State :=
  if o = Reg.PKH_MAP_DATA 3 then mapWrite s d
  else if o = Reg.PKH_MODEL_DATA 3 then modelWrite s d
  else if o = Reg.PKH_CMD_GO then if bit d 0 then pkhGo s else s
  else if o = Reg.PKH_CQ_HEAD then pkhCqHead s d
  else if o = Reg.PKH_CQ_CTRL then pkhCqCtrl s d
  else if o = Reg.PKH_CQ_BASE_LO ∨ o = Reg.PKH_CQ_BASE_HI then
    if s.flag Reg.PKH_CQ_CTRL F.PKH_CQ_CTRL_EN then s else s.rawWrite o d
  else if o = Reg.PKH_VAULT_CTRL then vaultCtrl s d
  else s.rawWrite o d

/-- First offsets of the MSI-X table and of the PBA, and the end of the PBA. -/
def msixBase : Nat := 0x2410000
def pbaBase : Nat := 0x2420000
def pbaEnd : Nat := 0x2420100

/-- A write of a dword of the MSI-X table, in PCIe layout: address low and high, data, vector control (bit 0 the mask). -/
def msixWrite (s : State) (o d : Nat) : State :=
  let v := (o - msixBase) / 16
  let (addr, data, masked) := s.msixEntry v
  match (o - msixBase) % 16 / 4 with
  | 0 => msixSet s v (setBits addr 31 2 (bits d 31 2)) data masked
  | 1 => msixSet s v (setBits addr 63 32 d) data masked
  | 2 => msixSet s v addr d masked
  | _ => msixSet s v addr data (bit d 0)

/-- A write of a host-port register. -/
def hstWrite (s : State) (o d : Nat) : State :=
  if o = Reg.HST_AP_DATA 3 then apWrite s d
  else if o = Reg.HST_DB_LDG then dbBaseWrite s 0 d
  else if o = Reg.HST_DB_COU then dbBaseWrite s 1 d
  else if o = Reg.HST_DB_PKH then dbBaseWrite s 2 d
  else if Reg.HST_EVQ_BASE_LO 0 ≤ o ∧ o < Reg.HST_EVQ_BASE_LO 16 then
    let k := (o - Reg.HST_EVQ_BASE_LO 0) / 32
    if o = Reg.HST_EVQ_CTRL k then evqCtrl s k d
    else if o = Reg.HST_EVQ_HEAD k then s.rawWrite o d
    else if s.flag (Reg.HST_EVQ_CTRL k) F.HST_EVQ_CTRL_EN then s
    else s.rawWrite o d
  else if msixBase ≤ o ∧ o < msixBase + 0x8000 then msixWrite s o d
  else s.rawWrite o d

/-- A write of TCK_CTRL by itself updates SRC; a write with START or RELOAD and SRC 3 does nothing. START and RELOAD have rows
of their own. -/
def tckCtrlWrite (s : State) (d : Nat) : State :=
  if bits d 1 0 = 3 ∧ (bit d 31 ∨ bit d 30) then s else s.setFld Reg.TCK_CTRL F.TCK_CTRL_SRC (bits d 1 0)

/-- A write of a register of Assay, the groom, clocks, Farrier, start-up or GLB. -/
def ctlWrite (s : State) (o d : Nat) : State :=
  if o = Reg.ASY_FUSE_CMD then fuseCmd s d
  else if Reg.ASY_PR_BASE 0 ≤ o ∧ o < Reg.ASY_PR_BASE 16 then
    let r := (o - Reg.ASY_PR_BASE 0) / 16
    if o = Reg.ASY_PR_CTRL r then prCtrl s r d else prField s o d
  else if o = Reg.PWR_GAIT then gaitWrite s d
  else if o = Reg.PWR_BROWN then brownWrite s d
  else if o = Reg.PWR_STATUS then pwrStatusWrite s d
  else if Reg.GRM_RULE_CFG 0 ≤ o ∧ o < Reg.GRM_RULE_CFG 32 then ruleWrite s o d
  else if o = Reg.TCK_CTRL then tckCtrlWrite s d
  else s.rawWrite o d

/-- A dword write of BAR0 offset `o` (R3–R8). -/
def barWrite (s : State) (o d : Nat) : State :=
  if 0x800000 ≤ o ∧ o < 0x1000000 then stallWrite s ((o - 0x800000) / 0x10000) o d
  else if 0x1800000 ≤ o ∧ o < 0x1900000 then portWrite s ((o - 0x1800000) / 0x10000) o d
  else if 0x1900000 ≤ o ∧ o < 0x1980000 then htpWrite s o d
  else if 0x1980000 ≤ o ∧ o < 0x1A00000 then temWrite s o d
  else if o = Reg.COU_ADM_GO then if bit d 0 then couAdmGo s else s
  else if 0x1C00000 ≤ o ∧ o < 0x1E00000 then ldgWrite s o d
  else if 0x1E00000 ≤ o ∧ o < 0x2000000 then pedWrite s o d
  else if 0x2000000 ≤ o ∧ o < 0x2200000 then rnsWrite s o d
  else if 0x2200000 ≤ o ∧ o < 0x2400000 then pkhWrite s o d
  else if 0x2400000 ≤ o ∧ o < 0x2600000 then hstWrite s o d
  else if o < 0x800000 then ctlWrite s o d
  else s.rawWrite o d

/-- Writing 1 to GLB_LOCK locks every RW-L field until CHIP reset (R4). -/
def lockSet (s : State) (data : Nat) : State := if bit data 0 then s.setFld Reg.GLB_LOCK F.GLB_LOCK_LOCK 1 else s

/-- A write of GLB_LOCK (R4). -/
def execGlbLockSet (data : Word) (s : State) : Res := .next (lockSet s data.toNat)

/-! ### Identity memory (R369) -/

/-- Bytes 0 to 2,043 of the identity memory (Table MOD-7). -/
def identBody : Bytes :=
  toLE 4 0x444F4D4E ++ toLE 2 1 ++ toLE 2 0 ++ padTo 16 ("AMV-NC480-A".toList.map fun c => BitVec.ofNat 8 c.toNat) ++
    [0x41, 0x31] ++ toLE 2 (Config.moduleField 0) ++ toLE 4 (Config.moduleField 1) ++ toLE 16 (Config.moduleField 2) ++
    toLE 16 (Config.moduleField 3) ++ [8, 36] ++ toLE 2 (Config.moduleField 4) ++ zeros 1976

/-- The identity memory, with its CRC. -/
def identMemory : Bytes := identBody ++ toLE 4 (crc32c identBody)

/-! ### Reads -/

/-- Overlay a field on a register value. -/
def put (f : Field) (x v : Nat) : Nat := setBits v f.hi f.lo x

/-- The value of a slot's status register (R58). -/
def slotWord (s : State) (n : Nat) (b : Bool) : Nat :=
  let x := (s.fmtUnit n).slot b
  b2n x.valid * 2 ^ 31 + x.format % 16 * 2 ^ 24 + x.gen % 64 * 2 ^ 18 + s.holdCount n b % 2 ^ 18

/-- A register of stall `n` as it reads, from its stored value `v`. -/
def stallRead (s : State) (n o v : Nat) : Nat :=
  let t := s.stall n
  if o = Reg.STL_ID n then n + n % 16 * 256 + n / 16 * 4096
  else if o = Reg.STL_STATUS n then
    put F.STL_STATUS_NMU_RUN (t.nmuRun.filter (·.ran)).length (put F.STL_STATUS_ALLOC_LOW (b2n (s.allocLow n))
      (put F.STL_STATUS_DUTY (b2n (s.dutyNow n == .ingest)) (put F.STL_STATUS_STATE t.service.num v)))
  else if o = Reg.STL_ALLOC n then t.free
  else if o = Reg.STL_NMU_STATUS n then put F.STL_NMU_STATUS_SPACE (64 - t.nmuQ.length) v
  else if o = Reg.FMT_TBL_STATUS n 0 then slotWord s n false
  else if o = Reg.FMT_TBL_STATUS n 1 then slotWord s n true
  else if o = Reg.FMT_ROPE_FREQ n then (s.fmtUnit n).rope.getD (s.fld (Reg.FMT_ROPE_IDX n) F.FMT_ROPE_IDX_INDEX) 0
  else if o = Reg.ATT_STATUS n then
    let w := s.work n
    put F.ATT_STATUS_MCTX w.ctxs.length (put F.ATT_STATUS_RUN w.run.length (put F.ATT_STATUS_QDEPTH w.att.length v))
  else if o = Reg.KVP_STATUS n then
    put F.KVP_STATUS_AQDEPTH (s.work n).appends.length (put F.KVP_STATUS_SPACE (32 - editQueued s n) v)
  else v

/-- A register of harness port `p` as it reads. -/
def portRead (s : State) (p o v : Nat) : Nat :=
  let x := s.port p
  if o = Reg.HLK_STATUS p then
    put F.HLK_STATUS_GOOD x.good (put F.HLK_STATUS_TXSET x.txSet (put F.HLK_STATUS_RXSET x.rxSet
      (put F.HLK_STATUS_WIDTH (if x.state == .up then widthCode x.rxSet else 0) (put F.HLK_STATUS_STATE x.state.num v))))
  else v

/-- A transport register as it reads. -/
def htpRead (s : State) (o v : Nat) : Nat :=
  let d := s.dest (s.fld Reg.HTP_DQ_IDX F.HTP_DQ_IDX_IDX)
  if o = Reg.HTP_STATUS then put F.HTP_STATUS_MSG_OPEN s.htp.msgs.length (put F.HTP_STATUS_COMB_OPEN s.htp.combs.length v)
  else if o = Reg.HTP_ROUTE_DATA then s.htp.routes.getD (s.fld Reg.HTP_ROUTE_IDX F.HTP_ROUTE_IDX_IDX) 0
  else if o = Reg.HTP_MC_DATA then s.htp.groups.getD (s.fld Reg.HTP_MC_IDX F.HTP_MC_IDX_IDX) 0
  else if o = Reg.HTP_DQ_CWND then d.cwnd
  else if o = Reg.HTP_DQ_TALLY then d.t1 % 65536 * 65536 + d.t0 % 65536
  else if o = Reg.HTP_DQ_RTT then d.rtt
  else v

/-- A team register as it reads. -/
def temRead (s : State) (o v : Nat) : Nat :=
  let x := s.region (s.fld Reg.TEM_RGN_IDX F.TEM_RGN_IDX_IDX)
  if o = Reg.TEM_STATUS then put F.TEM_STATUS_QUEUED s.tem.rcmds.length v
  else if o = Reg.TEM_RGN_BASE_LO then x.base % 2 ^ 32
  else if o = Reg.TEM_RGN_BASE_HI then x.base / 2 ^ 32
  else if o = Reg.TEM_RGN_CFG then
    b2n x.valid * 2 ^ 31 + b2n x.err * 2 ^ 30 + x.active % 2 * 2 ^ 29 + x.size * 4096 + x.team
  else if o = Reg.TEM_RGN_VER then x.version
  else if o = Reg.TEM_RGN_PUB then x.pubnode
  else v

/-- A Reins register as it reads. -/
def rnsRead (s : State) (o v : Nat) : Nat :=
  if o = Reg.RNS_STATUS then put F.RNS_STATUS_WHEEL_USED s.rns.wheel.length v
  else if o = Reg.RNS_HOST_FILL then (BitVec.ofInt 32 (shaperFill s).rns.fill).toNat
  else if Reg.RNS_TEAM_CFG 0 ≤ o ∧ o < Reg.RNS_TEAM_CFG 16 ∧ o % 16 = 4 then
    put F.RNS_TEAM_PERIOD_RUNCNT (s.paceAcc ((o - Reg.RNS_TEAM_CFG 0) / 16)).runs v
  else v

/-- A Packhorse register as it reads. -/
def pkhRead (s : State) (o v : Nat) : Nat :=
  if o = Reg.PKH_STATUS then
    put F.PKH_STATUS_PROMOTING s.promoting (put F.PKH_STATUS_QUEUED s.pkh.cmds.length v)
  else v

/-- A dword of the MSI-X table or of the PBA. -/
def msixRead (s : State) (o : Nat) : Nat :=
  if o < pbaBase then
    let (addr, data, masked) := s.msixEntry ((o - msixBase) / 16)
    match (o - msixBase) % 16 / 4 with
    | 0 => addr % 2 ^ 32
    | 1 => addr / 2 ^ 32
    | 2 => data
    | _ => b2n masked
  else (List.range 32).foldl (fun v i => v + b2n (s.host.pba.contains (8 * (o - pbaBase) + i)) * 2 ^ i) 0

/-- Sensor sample as its register shows it. -/
def sampleWord (s : State) (i : Nat) : Nat := (BitVec.ofInt 16 (s.sample i)).toNat

/-- The groom log as bytes, newest record first (R326). -/
def logBytes (s : State) : Bytes := s.groomLog.flatMap Event.bytes

/-- A register below the stalls as it reads. -/
def ctlRead (s : State) (o v : Nat) : Nat :=
  if o = Reg.GLB_TICK_LO then s.tick.toNat % 2 ^ 32
  else if o = Reg.GLB_MODID_DATA then Machine.fld identMemory (4 * s.fld Reg.GLB_MODID_IDX F.GLB_MODID_IDX_IDX) 4
  else if o = Reg.GRM_CTRL then put F.GRM_CTRL_ALERT (b2n s.alert) v
  else if o = Reg.GRM_SENS_DATA then sampleWord s (s.fld Reg.GRM_SENS_IDX F.GRM_SENS_IDX_IDX)
  else if o = Reg.GRM_LOG_DATA then Machine.fld (logBytes s) (4 * s.fld Reg.GRM_LOG_IDX F.GRM_LOG_IDX_IDX) 4
  else if o = Reg.FAR_CE_DATA then s.far.ce.getD (s.fld Reg.FAR_CE_IDX F.FAR_CE_IDX_IDX) 0
  else if Reg.ASY_ID 0 ≤ o ∧ o < Reg.ASY_ID 4 then Config.deviceId / 2 ^ (8 * (o - Reg.ASY_ID 0)) % 2 ^ 32
  else if o = Reg.ASY_FUSE then fuseWord s
  else if o = Reg.ASY_STATUS then put F.ASY_STATUS_NPR (prReady s) v
  else v

/-- Bits of a register that a read shows: its fields but the WO ones; reserved bits and WO fields read zero (R3, R4), and so
does an offset no register occupies (R7). -/
def readable (o : Nat) : Nat :=
  match regAt o with
  | some (d, _) => d.fields.foldl (fun v f => if f.acc == .wo then v else setBits v f.hi f.lo (2 ^ 32 - 1)) 0
  | none => 0

/-- A register as it stands, from its stored value `v`: the fields that show other state are computed. -/
def shown (s : State) (o v : Nat) : Nat :=
  if 0x800000 ≤ o ∧ o < 0x1000000 then stallRead s ((o - 0x800000) / 0x10000) o v
  else if 0x1800000 ≤ o ∧ o < 0x1900000 then portRead s ((o - 0x1800000) / 0x10000) o v
  else if 0x1900000 ≤ o ∧ o < 0x1980000 then htpRead s o v
  else if 0x1980000 ≤ o ∧ o < 0x1A00000 then temRead s o v
  else if o = Reg.COU_STATUS then put F.COU_STATUS_ADM_QUEUED s.cou.adm.length v
  else if o = Reg.LDG_STATUS then put F.LDG_STATUS_INUSE s.ldg.homes.length v
  else if o = Reg.PED_NODE_FREE then put F.PED_NODE_FREE_FREE s.nodeFree v
  else if 0x2000000 ≤ o ∧ o < 0x2200000 then rnsRead s o v
  else if 0x2200000 ≤ o ∧ o < 0x2400000 then pkhRead s o v
  else if o < 0x800000 then ctlRead s o v
  else v

/-- The value a dword read of BAR0 offset `o` returns. -/
def readReg (s : State) (o : Nat) : Nat :=
  if (msixBase ≤ o ∧ o < msixBase + 0x8000) ∨ (pbaBase ≤ o ∧ o < pbaEnd) then msixRead s o
  else shown s o (s.reg o) &&& readable o

/-- A read that advances an index register, wrapping at 2^bits. -/
def advance (s : State) (o : Nat) (f : Field) : State := s.setFld o f (s.fld o f + 1)

/-- What a dword read changes: the tick snapshot (R288), the self-advancing data registers, and the registers whose read loads
an entry. -/
def readEffect (s : State) (o : Nat) : State :=
  if o = Reg.GLB_TICK_LO then s.setReg Reg.GLB_TICK_HI (s.tick.toNat / 2 ^ 32)
  else if o = Reg.GLB_MODID_DATA then advance s Reg.GLB_MODID_IDX F.GLB_MODID_IDX_IDX
  else if o = Reg.GRM_SENS_DATA then advance s Reg.GRM_SENS_IDX F.GRM_SENS_IDX_IDX
  else if o = Reg.GRM_LOG_DATA then advance s Reg.GRM_LOG_IDX F.GRM_LOG_IDX_IDX
  else if o = Reg.FAR_CE_DATA then advance s Reg.FAR_CE_IDX F.FAR_CE_IDX_IDX
  else if o = Reg.HST_AP_DATA 0 then apRead s
  else if o = Reg.RNS_TEN_DATA 0 then tenData0 s
  else if o = Reg.PKH_MAP_DATA 0 then mapRead s
  else if o = Reg.PKH_MODEL_DATA 0 then modelRead s
  else s

/-- A dword read of BAR0: the state after it, and the value. A load happens before the register is read, an advance after. -/
def barRead (s : State) (o : Nat) : State × Nat :=
  let t := readEffect s o
  let loads := decide (o = Reg.HST_AP_DATA 0 ∨ o = Reg.RNS_TEN_DATA 0 ∨ o = Reg.PKH_MAP_DATA 0 ∨ o = Reg.PKH_MODEL_DATA 0)
  (t, readReg (if loads then t else s) o)

/-- A host read of BAR0, answered with its dword. -/
def hostBarRead (s : State) (o : Nat) : State :=
  if s.barShut o then s.emit (.readCompletion 0 0 (toLE 4 0xFFFFFFFF))
  else
    let (s, v) := barRead s o
    s.emit (.readCompletion 0 0 (toLE 4 v))

/-- A read of GLB_TICK_LO (R288). -/
def execTickSnapshotRead (s : State) : Res := .next (hostBarRead s Reg.GLB_TICK_LO)

/-- A read of GLB_MODID_DATA (R369). -/
def execModidDataRead (s : State) : Res := .next (hostBarRead s Reg.GLB_MODID_DATA)

/-- A read of RNS_TEN_DATA0 loads all eight registers from the entry (R237). -/
def execTenData0Read (s : State) : Res := .next (hostBarRead s (Reg.RNS_TEN_DATA 0))

/-- A read of PKH_MAP_DATA0 loads the four registers (R246). -/
def execPkhMapData0Read (s : State) : Res := .next (hostBarRead s (Reg.PKH_MAP_DATA 0))

/-- A read of PKH_MODEL_DATA0 loads the four registers (R255). -/
def execPkhModelData0Read (s : State) : Res := .next (hostBarRead s (Reg.PKH_MODEL_DATA 0))

/-- A read of HST_AP_DATA0 loads the four registers (R269). -/
def execApData0Read (s : State) : Res := .next (hostBarRead s (Reg.HST_AP_DATA 0))

end Sys2Proof.Machine
end

