-- ==== Sys2Proof/Machine/HostRun.lean ====
section
/-!
DEFINITION. Machine/HostRun.lean: the commands of the host port after which waiting doorbells and BAR0 writes may take effect, in
their order (R267, R270–R274), and the write of BAR0 itself.
-/
namespace Sys2Proof.Machine

/-- Doorbells and BAR0 writes that wait take effect in arrival order, once no BAR2 write to this module is left before them (R272). -/
def hostFlush : Nat → State → State
  | 0, s => s
  | fuel + 1, s =>
    let s := bellsRun s
    if ownWrites s then s
    else match s.host.doorbells with
      | .reg off data :: rest => hostFlush fuel (barWrite (s.updHost fun h => { h with doorbells := rest }) off data)
      | _ => s

/-- All of them, as far as they may. -/
def hostSettle (s : State) : State := hostFlush (s.host.doorbells.length + 1) s

/-- A write joins those that wait, which then take effect as far as they may. -/
def bellQueue (s : State) (b : Bell) : State :=
  hostSettle (s.updHost fun h => { h with doorbells := h.doorbells ++ [b] })

/-- A BAR0 write TLP: a poisoned one is discarded and logged, one with partial byte enables or off a dword boundary is discarded
(R6, R267); one that finds doorbells waiting waits behind them (R272); one on a closed crossing is discarded (R283). -/
def registerWrite (s : State) (off : Nat) (tlp : DwordTlp) (data : Nat) : State :=
  if tlp.poisoned then poisonedWrite s 0 off
  else if tlp.be ≠ 15 ∨ off % 4 ≠ 0 ∨ s.barShut off then s
  else if s.host.doorbells.isEmpty then barWrite s off data
  else bellQueue s (.reg off data)

/-- A write of a register of BAR0 (R3–R7). -/
def execRegisterWrite (off : Nat) (be : DwordTlp) (data : Word) (s : State) : Res := .next (registerWrite s off be data.toNat)

/-! ### Doorbells -/

/-- A doorbell of range k is written: discarded when the range is not enabled or the crossing from HOST is closed, or queued behind
earlier BAR2 writes. -/
def bellWrite (s : State) (k : Nat) (b : Bell) : State :=
  if s.shut 4 1 0 then s
  else if (dbRange s k).isNone then s.bump Reg.HST_DB_MISS else bellQueue s b

/-- SQ_TAIL of an admission queue (R144). -/
def execLdgSqDoorbell (queue : Fin 64) (data : Word) (s : State) : Res := .next (bellWrite s 0 (.ldgSq queue data.toNat))
/-- CQ_HEAD of an admission queue (R144). -/
def execLdgCqDoorbell (queue : Fin 64) (data : Word) (s : State) : Res := .next (bellWrite s 0 (.ldgCq queue data.toNat))
/-- SQ_TAIL of a connection (R207). -/
def execCouSqDoorbell (conn : Fin 8192) (data : Word) (s : State) : Res := .next (bellWrite s 1 (.couSq conn data.toNat))
/-- RQ_TAIL of a connection; `read` is what the new entries of a ring in host memory hold (R204). -/
def execCouRqDoorbell (conn : Fin 8192) (data : Word) (read : HostRead) (s : State) : Res :=
  .next (bellWrite s 1 (.couRq conn data.toNat read))
/-- CQ_HEAD of a Courier completion queue (R208). -/
def execCouCqDoorbell (cq : Fin 256) (data : Word) (s : State) : Res := .next (bellWrite s 1 (.couCq cq data.toNat))
/-- The slot index of a ticket ring (R256). -/
def execPkhTicketDoorbell (ring : Fin 16) (data : Word) (s : State) : Res := .next (bellWrite s 2 (.pkh ring data.toNat))

/-- A BAR4 offset is one that Table HST-4 defines within an enabled range. -/
def bar4Defined (s : State) (off : Nat) : Bool :=
  let page := off / 4096
  let w := off % 4096
  let ix := fun k => match dbRange s k with
    | some (a, b) => if a ≤ page ∧ page < b then some (page - a) else none
    | none => none
  decide (off % 4 = 0) &&
    ((ix 0).any (fun _ => decide (w < 8)) ||
     (ix 1).any (fun j => if j < 32 then decide (w % 16 < 8) else decide (w < 1024)) ||
     (ix 2).any (fun _ => decide (w < 64)))

/-- An access of BAR4 that rings no doorbell: a write outside every defined doorbell, or not a whole dword, is discarded and counted
(R273, R274); a poisoned one is discarded and logged (R267); a read returns zero (R274). Beyond BAR4 a read is an Unsupported Request
(R267). -/
def bar4Access (s : State) (off : Nat) (access : Bar4Access) : State :=
  let inBar := decide (off < 0x1000000)
  match access with
  | .whole => if !inBar || bar4Defined s off then s else s.bump Reg.HST_DB_MISS
  | .part => if inBar then s.bump Reg.HST_DB_MISS else s
  | .poisoned => if inBar then poisonedWrite s 4 off else s
  | .read tag len => if inBar then s.emit (.readCompletion tag 0 (zeros len)) else s.emit (.readCompletion tag 1 [])

/-- A BAR4 access that rings no doorbell (R273, R274). -/
def execBar4UnmappedWrite (off : Nat) (access : Bar4Access) (s : State) : Res := .next (bar4Access s off access)

/-! ### Commands of the host port after which waiting doorbells may take effect -/

/-- A BAR2 write TLP: a poisoned one is discarded and logged, one beyond BAR2 is an Unsupported Request, which a write does not answer
(R267, R270); on a closed crossing to HARNESS it is discarded (R283). -/
def bar2WriteTlp (s : State) (addr : Nat) (data : Bytes) (full poisoned : Bool) : State :=
  if bar2Bytes ≤ addr ∨ s.shut 4 3 0 then s else if poisoned then poisonedWrite s 2 addr else hostSettle (bar2Write s addr data full)

/-- A BAR2 write (R267, R270). -/
def execBar2Write (addr : Nat) (data : Bytes) (full poisoned : Bool) (s : State) : Res :=
  .next (bar2WriteTlp s addr data full poisoned)

/-- HST_CTRL.MERGE ns after its first TLP the STORE is sent (R270). -/
def bar2MergeTimeout (s : State) : State :=
  match s.host.merge with
  | some m => if m.opened + s.fld Reg.HST_CTRL F.HST_CTRL_MERGE ≤ s.nowHost then hostSettle (mergeSend s) else s
  | none => s

/-- The merge time is over (R270). -/
def execBar2MergeTimeout (s : State) : Res := .next (bar2MergeTimeout s)

/-- A BAR2 read TLP; one beyond BAR2 is an Unsupported Request (R267, R271); on a closed crossing it is discarded (R283). -/
def execBar2Read (tag addr len : Nat) (s : State) : Res :=
  .next (if s.shut 4 3 0 then s else if bar2Bytes ≤ addr then s.emit (.readCompletion tag 1 []) else hostSettle (bar2Read s tag addr len))

/-- The shaper's fill has reached zero (R235). -/
def execHostShaperRelease (s : State) : Res := .next (hostSettle (hostShaperRun s))

end Sys2Proof.Machine
end

