-- ==== Sys2Proof/Machine/Mgmt.lean ====
section
/-!
DEFINITION. Machine/Mgmt.lean: the management port (R327, R328): MCTP control and the vendor telemetry commands. A reply is the
MCTP message; its packets, their PEC and the SMBus below them are not modelled.
-/
namespace Sys2Proof.Machine

/-- The groom answers while it has power (R327). -/
def mgmtReply (s : State) (msg : Bytes) : State := if s.grm.up then s.emit (.smbus msg) else s

/-! ### MCTP control -/

namespace Mc
/-- Completion codes of MCTP control. -/
def ok : Nat := 0
def invalidData : Nat := 2
def unsupported : Nat := 5
def noVersion : Nat := 0x80
end Mc

/-- A control reply: message type 0, the request's identifier, command, completion code, data. -/
def controlReply (s : State) (inst cmd code : Nat) (data : Bytes) : State :=
  mgmtReply s (toLE 1 0 ++ toLE 1 inst ++ toLE 1 cmd ++ toLE 1 code ++ data)

/-- The endpoint ID in force; 0 is the null EID. -/
def State.eid (s : State) : Nat := s.fld Reg.GRM_EID F.GRM_EID_EID

/-- Set Endpoint ID: operations 0 and 1 set an EID that is neither null nor the broadcast EID. -/
def setEid (s : State) (inst op eid : Nat) : State :=
  if !s.grm.up then s
  else if 2 ≤ op % 4 ∨ eid = 0 ∨ eid = 255 then controlReply s inst 1 Mc.invalidData []
  else controlReply (s.setFld Reg.GRM_EID F.GRM_EID_EID eid) inst 1 Mc.ok (toLE 1 0 ++ toLE 1 eid ++ toLE 1 0)

/-- Set Endpoint ID (R327). -/
def execSetEndpointId (inst : Fin 32) (op eid : Byte) (s : State) : Res := .next (setEid s inst op.toNat eid.toNat)

/-- Get Endpoint ID: the EID of a simple endpoint. -/
def execGetEndpointId (inst : Fin 32) (s : State) : Res :=
  .next (controlReply s inst 2 Mc.ok (toLE 1 s.eid ++ toLE 1 0 ++ toLE 1 0))

/-- Get Endpoint UUID. -/
def execGetEndpointUuid (inst : Fin 32) (s : State) : Res := .next (controlReply s inst 3 Mc.ok (toLE 16 Config.uuid))

/-- Message types the endpoint supports (Table GRM-3). -/
def messageTypes : List Nat := [0x05, 0x7E]

/-- Get MCTP Version Support: one version for a supported message type, for control, and for the base. -/
def versionSupport (s : State) (inst type : Nat) : State :=
  if type = 0 ∨ type = 0xFF ∨ messageTypes.contains type then
    controlReply s inst 4 Mc.ok (toLE 1 1 ++ toLE 4 (Config.mctpVersion type))
  else controlReply s inst 4 Mc.noVersion []

/-- Get MCTP Version Support (R327). -/
def execGetMctpVersionSupport (inst : Fin 32) (type : Byte) (s : State) : Res := .next (versionSupport s inst type.toNat)

/-- Get Message Type Support (Table GRM-3). -/
def execGetMessageTypeSupport (inst : Fin 32) (s : State) : Res :=
  .next (controlReply s inst 5 Mc.ok (toLE 1 messageTypes.length ++ messageTypes.flatMap (toLE 1)))

/-! ### Vendor telemetry (R328) -/

namespace Vc
def ok : Nat := 0
def invalid : Nat := 1
def notAllowed : Nat := 2
end Vc

/-- A vendor reply: message type 0x7E, PCI vendor ID 0x1FA7, completion byte, data. -/
def vendorReply (s : State) (code : Nat) (data : Bytes) : State :=
  mgmtReply s (toLE 1 0x7E ++ toLE 1 0x1F ++ toLE 1 0xA7 ++ toLE 1 code ++ data)

/-- GET_SENSORS: raw samples of `count` sensors from `first`. -/
def getSensors (s : State) (first count : Nat) : State :=
  if count < 1 ∨ 24 < count ∨ 64 < first + count then vendorReply s Vc.invalid []
  else vendorReply s Vc.ok ((rangeFrom first count).flatMap fun i => toLE 2 (sampleWord s i))

/-- GET_SENSORS (Table GRM-4). -/
def execGetSensors (first count : Byte) (s : State) : Res := .next (getSensors s first.toNat count.toNat)

/-- GET_STATUS: PWR_STATUS, PWR_GAIT, GRM_ASSERTED (Table GRM-4). -/
def execGetStatus (s : State) : Res :=
  .next (vendorReply s Vc.ok ([Reg.PWR_STATUS, Reg.PWR_GAIT, Reg.GRM_ASSERTED].flatMap fun o => toLE 4 (readReg s o)))

/-- GET_LOG: one record, 0 the newest. -/
def getLog (s : State) (k : Nat) : State :=
  if 64 ≤ k then vendorReply s Vc.invalid [] else vendorReply s Vc.ok (slice (logBytes s) (32 * k) 32)

/-- GET_LOG (Table GRM-4). -/
def execGetLog (index : Byte) (s : State) : Res := .next (getLog s index.toNat)

/-- GET_TALLIES: the PWR and GRM tallies (Table GRM-4). -/
def execGetTallies (s : State) : Res :=
  .next (vendorReply s Vc.ok
    ([Reg.PWR_HOLDS, Reg.PWR_SHUTDOWNS, Reg.PWR_GAIT_CHANGES, Reg.GRM_ASSERTS].flatMap fun o => toLE 4 (readReg s o)))

/-- SET_GAIT: allowed with MGMT_EN and CHIP out of reset; a code that is no gait is INVALID. -/
def mgmtGait (s : State) (g : Nat) : State :=
  if !s.grm.up then s
  else if !s.flag Reg.PWR_GAIT F.PWR_GAIT_MGMT_EN || s.held then vendorReply s Vc.notAllowed []
  else if 4 < g then vendorReply s Vc.invalid []
  else vendorReply (setReq s g) Vc.ok []

/-- SET_GAIT (Table GRM-4). -/
def execSetGait (gait : Byte) (s : State) : Res := .next (mgmtGait s gait.toNat)

/-- WAKE: as SET_GAIT with WAKE_GAIT (Table GRM-4). -/
def execWake (s : State) : Res := .next (mgmtGait s (s.fld Reg.PWR_GAIT F.PWR_GAIT_WAKE_GAIT))

/-! ### Anything else -/

/-- A message type that is not supported, or is not available now, is answered with some error completion code. -/
def typeRefused (s : State) (type : Nat) : State :=
  if !s.grm.up then s
  else
    let (r, s) := s.draw
    mgmtReply s (toLE 1 type ++ toLE 1 (r % 255 + 1))

/-- A request of any other type or command: an error completion code and no effect (R327). -/
def mctpRefused (s : State) (type inst cmd : Nat) : State :=
  if type = 0 then controlReply s inst cmd Mc.unsupported []
  else if type = 0x7E then vendorReply s Vc.invalid []
  else typeRefused s type

/-- A request the endpoint does not support (R327). -/
def execUnsupportedMctpRequest (type : Byte) (inst : Fin 32) (cmd : Byte) (s : State) : Res :=
  .next (mctpRefused s type.toNat inst cmd.toNat)

end Sys2Proof.Machine
end

