-- ==== Sys2Proof/Machine/Tck.lean ====
section
/-!
DEFINITION. Machine/Tck.lean: the tack image (R294–R302): verification, records, start-up (R303–R306), the reserved layout
(R31, Table STL-8) and live reload (R307).
-/
namespace Sys2Proof.Machine

/-! ### Image fields (Tables TCK-3, TCK-4, TCK-7) -/

namespace Tk
def imageLen (h : Bytes) : Nat := fld h 8 4
def nsect (h : Bytes) : Nat := fld h 12 1
def keySlot (h : Bytes) : Nat := fld h 13 1
def ovrLinks (h : Bytes) : Bool := bit (fld h 14 2) 1
def ovrGait (h : Bytes) : Bool := bit (fld h 14 2) 0
def svn (h : Bytes) : Nat := fld h 16 4
def nodeLo (h : Bytes) : Nat := fld h 20 2 % 1024
def gait (h : Bytes) : Nat := fld h 22 1 % 4
def links (h : Bytes) : Nat := fld h 23 1 % 2
def imageId (h : Bytes) : Nat := fld h 24 8
/-- Directory entry k. -/
def entry (h : Bytes) (k : Nat) : Bytes := slice h (1024 + 128 * k) 128
def type (e : Bytes) : Nat := fld e 0 1
def live (e : Bytes) : Bool := bit (fld e 1 1) 0
def inst (e : Bytes) : Nat := fld e 2 1
def version (e : Bytes) : Nat := fld e 4 4
def offset (e : Bytes) : Nat := fld e 8 4
def length (e : Bytes) : Nat := fld e 12 4
def digest (e : Bytes) : Bytes := slice e 64 64
/-- A record header. -/
def kind (r : Bytes) : Nat := fld r 0 1
def count (r : Bytes) : Nat := fld r 4 4
def addr (r : Bytes) : Nat := fld r 8 8
end Tk

/-- Bytes of the preamble, and offsets of the two stages (R302). -/
def preambleBytes : Nat := 5632
def stageBase : Nat := 0x47F0000000
def reloadBase : Nat := 0x47FF000000

/-- A string of zero bytes. -/
def allZero (bs : Bytes) : Bool := bs.all (· == 0)

/-- What a section TYPE may write and when (Table TCK-6): the range of BAR0, or of a stall's block; whether the range is of a
stall; whether it may be live; its order. -/
structure SectType where
  lo : Nat
  hi : Nat
  stall : Bool
  live : Bool
  order : Nat
  deriving DecidableEq, Repr

/-- Table TCK-6. -/
def sectType (t : Nat) : Option SectType :=
  if t = Tag.pwr ∨ t = Tag.grm then some ⟨0x200000, 0x300000, false, true, 1⟩
  else if t = Tag.asy then some ⟨0x100000, 0x200000, false, false, 2⟩
  else if t = Tag.far then some ⟨0x400000, 0x500000, false, true, 3⟩
  else if t = Tag.stb then some ⟨0x1000000, 0x1800000, false, false, 4⟩
  else if t = Tag.stl then some ⟨0, 0x10000, true, true, 5⟩
  else if t = Tag.fmt then some ⟨0x4000, 0x8000, true, true, 5⟩
  else if t = Tag.att then some ⟨0x8000, 0xC000, true, true, 5⟩
  else if t = Tag.kvp then some ⟨0xC000, 0x10000, true, true, 5⟩
  else if t = Tag.ped then some ⟨0x1E00000, 0x2000000, false, true, 6⟩
  else if t = Tag.ldg then some ⟨0x1C00000, 0x1E00000, false, true, 6⟩
  else if t = Tag.cou then some ⟨0x1A00000, 0x1C00000, false, true, 6⟩
  else if t = Tag.tem then some ⟨0x1980000, 0x1A00000, false, true, 6⟩
  else if t = Tag.rns then some ⟨0x2000000, 0x2200000, false, true, 6⟩
  else if t = Tag.pkh then some ⟨0x2200000, 0x2400000, false, true, 6⟩
  else if t = Tag.htp then some ⟨0x1900000, 0x1980000, false, true, 7⟩
  else if t = Tag.hst then some ⟨0x2400000, 0x2600000, false, true, 8⟩
  else if t = Tag.hlk then some ⟨0x1800000, 0x1900000, false, true, 9⟩
  else none

/-- A BAR0 offset lies in the TYPE's range. -/
def SectType.holds (x : SectType) (o : Nat) : Bool :=
  if x.stall then decide (0x800000 ≤ o) && decide (o < 0x1000000) && decide (x.lo ≤ o % 0x10000) && decide (o % 0x10000 < x.hi)
  else decide (x.lo ≤ o) && decide (o < x.hi)

/-! ### Verification, steps 1 to 6 (R296, R297) -/

/-- Step 1 after the read: fixed values and reserved fields of the header. -/
def headerOk (h : Bytes) : Bool :=
  fld h 0 4 == 0x4B434154 && fld h 4 2 == 1 && fld h 6 2 == 1024 && beNat (slice h 992 4) == 65537 &&
    decide (fld h 14 2 < 4) && decide (fld h 20 2 < 1024) && decide (fld h 22 1 < 4) && decide (fld h 23 1 < 2) &&
    allZero (slice h 40 440) && allZero (slice h 996 28)

/-- Step 2: 2 LENGTH or 11 NODE; 0 passes. -/
def lengthCheck (s : State) (h : Bytes) (reload : Bool) : Nat :=
  if Tk.imageLen h < preambleBytes ∨ 0x10000000 < Tk.imageLen h ∨ Tk.nsect h < 1 ∨ 32 < Tk.nsect h then 2
  else if s.fld Reg.GLB_NODE F.GLB_NODE_STRAP * 1024 + Tk.nodeLo h = 0xFFFF then 11
  else if reload ∧ Tk.nodeLo h ≠ s.fld Reg.GLB_NODE F.GLB_NODE_IMAGE then 11
  else 0

/-- Step 3 (R350). -/
def keyOk (s : State) (h : Bytes) : Bool :=
  let k := Tk.keySlot h
  decide (k < 4) && keyHash k != 0 && !bit s.asy.keyRevoke k && beNat (sha512 (slice h 480 516)) == keyHash k

/-- Step 4 (R350). -/
def svnOk (s : State) (h : Bytes) : Bool := decide (s.asy.svnMin ≤ Tk.svn h)

/-- Step 5 (R295). -/
def sigGood (h : Bytes) : Bool := rsaVerify (slice h 480 512) (slice h 0 5120) (slice h 5120 512)

/-- Record which of steps 3 to 5 passed. -/
def setChecks (s : State) (key svn sig : Bool) : State :=
  let r := Reg.TCK_STATUS
  ((s.setFld r F.TCK_STATUS_KEY_OK (b2n key)).setFld r F.TCK_STATUS_SVN_OK (b2n svn)).setFld r F.TCK_STATUS_SIG_OK (b2n sig)

/-- Steps 3 to 5: enforced when the module is secure, otherwise recorded (R297): the state, the failing step, and whether the
image is unsigned. -/
def signatureChecks (s : State) (h : Bytes) : State × Nat × Bool :=
  let k := keyOk s h
  let v := svnOk s h
  let g := sigGood h
  if !s.secure then (setChecks s k v g, 0, !(k && v && g))
  else if !k then (setChecks s false false false, 3, false)
  else if !v then (setChecks s true false false, 4, false)
  else if !g then (setChecks s true true false, 5, false)
  else (setChecks s true true true, 0, false)

/-- Step 6 for one used entry by itself. -/
def entryOk (h e : Bytes) : Bool :=
  match sectType (Tk.type e) with
  | none => false
  | some x =>
    decide (fld e 1 1 < 2) && fld e 3 1 == 0 && allZero (slice e 16 48) && Tk.offset e % 64 == 0 && Tk.length e % 8 == 0 &&
      decide (preambleBytes ≤ Tk.offset e) && decide (Tk.offset e + Tk.length e ≤ Tk.imageLen h) && (x.live || !Tk.live e)

/-- Two used entries do not share a name, and their sections do not overlap. -/
def entriesApart (a b : Bytes) : Bool :=
  !(Tk.type a == Tk.type b && Tk.inst a == Tk.inst b) && !meets (Tk.offset a) (Tk.length a) (Tk.offset b) (Tk.length b)

/-- Step 6: the first used entry that fails. -/
def directoryBad (h : Bytes) : Option Nat :=
  (List.range (Tk.nsect h)).find? fun k =>
    !(entryOk h (Tk.entry h k) && (List.range k).all fun j => entriesApart (Tk.entry h j) (Tk.entry h k))

/-- The entry and the record offset of a failure. -/
def setFailInfo (s : State) (entry rec8 : Nat) : State :=
  (s.setFld Reg.TCK_FAIL_INFO F.TCK_FAIL_INFO_ENTRY entry).setFld Reg.TCK_FAIL_INFO F.TCK_FAIL_INFO_REC rec8

/-- Steps 1 to 6 on a preamble that was read, or not (none): the state, the code of the failing step (0: all pass), and whether
the image is unsigned. The registers name the image once its header is sound. -/
def verify (s : State) (pre : Option Bytes) (reload : Bool) : State × Nat × Bool :=
  match pre with
  | none => (s, 10, false)
  | some h =>
    if !headerOk h then (s, 1, false)
    else
      let c := lengthCheck s h reload
      if c ≠ 0 then (s, c, false)
      else
        let s := (s.setReg Reg.TCK_IMAGE_ID_LO (Tk.imageId h)).setReg Reg.TCK_IMAGE_ID_HI (Tk.imageId h / 2 ^ 32)
        let s := s.setReg Reg.TCK_SVN (Tk.svn h)
        match signatureChecks s h with
        | (s, 0, unsigned) =>
          match directoryBad h with
          | some k => (setFailInfo s k 0, 6, false)
          | none => (s, 0, unsigned)
        | (s, c, _) => (s, c, false)

/-! ### Steps 7 and 8 (R296, R300) -/

/-- Step 7 for one section staged at `o`. -/
def digestOk (s : State) (e : Bytes) (o : Nat) : Bool :=
  let (_, st, bs) := s.readMem o (Tk.length e)
  st == St.ok && sha512 bs == Tk.digest e

/-- Bytes of a record's payload as stored, padding included (Table TCK-7). -/
def recPayload (r : Bytes) : Nat :=
  let k := Tk.kind r
  let n := Tk.count r
  if k = 1 ∨ k = 2 ∨ k = 3 then 8 * ceilDiv (4 * n) 8
  else if k = 4 then 8 * ceilDiv n 8
  else if k = 6 then 16
  else 0

/-- A range of HBM that a record may write: aligned, within memory, clear of staging and of the share-count pages. -/
def hbmRangeOk (o n : Nat) : Bool :=
  o % 64 == 0 && decide (o + n ≤ stageBase) && (List.range 128).all fun k => !meets o n (k * stallBytes) (18 * pageBytes)

/-- R300 for one record, its header `r` and its payload `p`, END apart. -/
def recordOk (x : SectType) (r p : Bytes) : Bool :=
  let n := Tk.count r
  let a := Tk.addr r
  decide (1 ≤ n) && fld r 1 3 == 0 &&
    match Tk.kind r with
    | 1 => a % 4 == 0 && (List.range n).all fun i => x.holds (a + 4 * i)
    | 2 => a % 4 == 0 && x.holds a
    | 3 => a % 4 == 0 && x.stall && decide (x.lo ≤ a) && decide (a + 4 * n ≤ x.hi)
    | 4 => hbmRangeOk a n
    | 5 => hbmRangeOk a (64 * n)
    | 6 => n == 4 && a % 4 == 0 && x.holds a && decide (1 ≤ fld p 8 4) && decide (fld p 8 4 ≤ 1000000) && fld p 12 4 == 0
    | _ => false

/-- Step 8 for a section's bytes: the offset of the first record that fails. -/
def recordsBad (x : SectType) (len : Nat) : Nat → Bytes → Nat → Option Nat
  | 0, _, o => some o
  | fuel + 1, bs, o =>
    if len < o + 16 then some o
    else
      let r := bs.take 16
      let n := 16 + recPayload r
      if Tk.kind r = 0 then if Tk.count r = 0 ∧ fld r 1 3 = 0 ∧ o + 16 = len then none else some o
      else if len < o + n ∨ !recordOk x r (slice bs 16 16) then some o
      else recordsBad x len fuel (bs.drop n) (o + n)

/-- Step 8 for a staged section. -/
def sectionBad (s : State) (e : Bytes) (o : Nat) : Option Nat :=
  match sectType (Tk.type e) with
  | none => some 0
  | some x => recordsBad x (Tk.length e) (Tk.length e / 8 + 1) (s.peek o (Tk.length e)) 0

/-! ### Application (R298, R299, R301) -/

/-- Sections in the order of Table TCK-6, ascending directory index within an order. -/
def inOrder (xs : List TackSect) : List TackSect :=
  (rangeFrom 1 9).flatMap fun o => xs.filter fun x => match sectType (Tk.type x.desc) with
    | some t => t.order == o
    | none => false

/-- Lines `[lo, hi)` of HBM are written with zeros, but for FAILED stalls. -/
def zeroFill (s : State) (lo hi : Nat) : State :=
  forEach (stallsOf (lo / pageBytes) (ceilDiv hi pageBytes)) s fun s n =>
    if s.stallFailed n then s
    else zeroRange (s.drainHome n) (max lo (n * stallBytes)) (min hi ((n + 1) * stallBytes))

/-- The condition of a WAIT record. -/
def waitMet (s : State) (r p : Bytes) : Bool := readReg s (Tk.addr r) &&& fld p 0 4 == fld p 4 4

/-- A record that is neither END nor WAIT takes effect. -/
def applyRecord (s : State) (r p : Bytes) : State :=
  let n := Tk.count r
  let a := Tk.addr r
  match Tk.kind r with
  | 1 => forEach (List.range n) s fun s i => barWrite s (a + 4 * i) (fld p (4 * i) 4)
  | 2 => forEach (List.range n) s fun s i => barWrite s a (fld p (4 * i) 4)
  | 3 => forEach (List.range 128) s fun s k =>
      if s.stallFailed k then s
      else forEach (List.range n) s fun s i => barWrite s (0x800000 + 0x10000 * k + a + 4 * i) (fld p (4 * i) 4)
  | 4 => s.poke a (p.take n)
  | 5 => zeroFill s a (a + 64 * n)
  | _ => s

/-- The TCK_SECT slot of a name, or else the first free one. -/
def sectSlot (s : State) (e : Bytes) : Option Nat :=
  let named := fun k => s.flag (Reg.TCK_SECT_INFO k) F.TCK_SECT_INFO_VALID &&
    s.fld (Reg.TCK_SECT_INFO k) F.TCK_SECT_INFO_TYPE == Tk.type e && s.fld (Reg.TCK_SECT_INFO k) F.TCK_SECT_INFO_INST == Tk.inst e
  match (List.range 32).find? named with
  | some k => some k
  | none => (List.range 32).find? fun k => !s.flag (Reg.TCK_SECT_INFO k) F.TCK_SECT_INFO_VALID

/-- A section has been applied: its slot, tally, and at a reload its event (R307, R309). -/
def sectionDone (s : State) (e : Bytes) : State :=
  let s := match sectSlot s e with
    | none => s
    | some k =>
      let s := s.setReg (Reg.TCK_SECT_INFO k) (2 ^ 31 + b2n (Tk.live e) * 2 ^ 30 + Tk.inst e * 256 + Tk.type e)
      let s := s.setReg (Reg.TCK_SECT_VERSION k) (Tk.version e)
      s.updTck fun t => { t with digests := t.digests.put k (Tk.digest e) }
  let s := s.bump Reg.TCK_SECT_APPLIED
  if s.tck.reload then
    s.raise Tag.tck 0x0001 Sev.info 0 ([Tk.type e, Tk.inst e, 0, 0] ++ (toLE 4 (Tk.version e)).map (·.toNat))
  else s

/-- One record of the section in hand is applied; a WAIT that is not met stops here (none), and is asked again later. The sections
stand in HBM, so nothing is applied while it is parked (R284, R308). -/
def applyOne (s : State) : Option State :=
  match s.tck.todo with
  | [] => none
  | x :: xs =>
    if s.parked then none else
    let o := x.at' + s.tck.recAt
    let r := s.peek o 16
    let p := s.peek (o + 16) (recPayload r)
    let next := fun (s : State) =>
      s.updTck fun t => { t with recAt := t.recAt + 16 + recPayload r, waitAt := none }
    if Tk.kind r = 0 then some (sectionDone (s.updTck fun t => { t with todo := xs, recAt := 0, waitAt := none }) x.desc)
    else if Tk.kind r = 6 then if waitMet s r p then some (next s) else none
    else some (next (applyRecord s r p))

/-- Records are applied until the sections are done, or a WAIT is not met. -/
def applyRun : Nat → State → State
  | 0, s => s
  | fuel + 1, s =>
    match applyOne s with
    | some t => applyRun fuel t
    | none => if s.tck.todo.isEmpty || s.tck.waitAt.isSome || s.parked then s else s.updTck fun t => { t with waitAt := some s.now }

/-- As many records as the sections can hold. -/
def applyFuel (s : State) : Nat := s.tck.todo.foldl (fun n x => n + Tk.length x.desc / 8 + 1) 1

/-- The last HLK section has been applied, or there is none: each enabled port enters DETECT (R305). -/
def portsRelease (s : State) : State :=
  let s := s.updTck fun t => { t with portsHeld := false }
  forEach (List.range 16) s fun s p =>
    if s.flag (Reg.HLK_CTRL p) F.HLK_CTRL_EN && (s.port p).state == .disabled then toDetect s p 0 else s

/-- A reload ends with a code (0: no error) at a directory entry (R307). -/
def reloadEnd (s : State) (code entry : Nat) (e : Bytes) : State :=
  let r := Reg.TCK_STATUS
  let s := ((s.setFld r F.TCK_STATUS_RERR code).setFld r F.TCK_STATUS_DONE 1).setFld r F.TCK_STATUS_BUSY 0
  let s := s.updTck fun t => { t with todo := [], recAt := 0, waitAt := none, reload := false }
  if code = 0 then s.bump Reg.TCK_RELOADS
  else (s.bump Reg.TCK_RELOAD_FAIL).raise Tag.tck 0x0002 Sev.degraded 0 [code, entry, Tk.type e, Tk.inst e]

/-- Application has come to its end, or stands at a WAIT. -/
def applySettle (s : State) : State :=
  let s := applyRun (applyFuel s) s
  if !s.tck.todo.isEmpty then s
  else if s.tck.reload then reloadEnd s 0 0 []
  else portsRelease s

/-! ### Start-up (R303–R306) -/

/-- PHASE of TCK_STATUS. -/
def State.phase (s : State) : Nat := s.fld Reg.TCK_STATUS F.TCK_STATUS_PHASE

/-- The phase moves on. -/
def State.setPhase (s : State) (k : Nat) : State := s.setFld Reg.TCK_STATUS F.TCK_STATUS_PHASE k

/-- Start-up ends in FAILED; `retry` when the host may supply another image (R306). -/
def startFail (s : State) (code : Nat) (retry : Bool) : State :=
  let r := Reg.TCK_STATUS
  let s := ((s.setPhase 15).setFld r F.TCK_STATUS_ERR code).setFld r F.TCK_STATUS_BUSY 0
  let s := s.setFld Reg.GLB_SUMMARY F.GLB_SUMMARY_TACK_FAIL 1
  s.updTck fun t => { t with reading := false, retry := retry, todo := [], recAt := 0, waitAt := none }

/-- Stack training and ECC initialisation have ended: every line holds zeros (R303). -/
def hbmReady (s : State) : State :=
  if s.held ∨ s.tck.hbmReady then s else { s with mem := [], marks := [], tck := { s.tck with hbmReady := true } }

/-- HBM initialisation completes (R303). -/
def execHbmInitComplete (s : State) : Res := .next (hbmReady s)

/-- What the source gives: none on a source fault. A read of host memory needs the host port (R268). -/
def sourceRead (s : State) (host : Bool) (x : HostRead) : State × Option Bytes :=
  if host && !s.hostOpen then (s.blocked, none)
  else match x with
    | .data bs => (s, some bs)
    | .poisoned => (s, none)
    | .timeout => (s, none)

/-- The header's overrides take effect (R292). -/
def overrides (s : State) (h : Bytes) : State :=
  let s := if Tk.ovrGait h then s.setFld Reg.GLB_STRAP F.GLB_STRAP_EFF_GAIT (Tk.gait h) else s
  if Tk.ovrLinks h then setFarPorts (s.setFld Reg.GLB_STRAP F.GLB_STRAP_EFF_LINKS (Tk.links h)) (Tk.links h == 0) else s

/-- Phase 3 ends: the preamble is in its buffer, or did not read, and steps 1 to 6 run on it (R296). -/
def preambleRead (s : State) (x : HostRead) : State :=
  if s.phase ≠ 3 ∨ !s.tck.reading then s
  else
    let (s, d) := sourceRead s (s.tck.source == 1) x
    let pre := d.map (padTo preambleBytes)
    match verify s pre false, pre with
    | (s, 0, unsigned), some h =>
      let s := s.setFld Reg.TCK_STATUS F.TCK_STATUS_UNSIGNED (b2n unsigned)
      let s := overrides s h
      (s.setPhase 4).updTck fun t => { t with preamble := h, keySlot := Tk.keySlot h }
    | (s, c, _), _ => startFail s c true

/-- The preamble is read (R296). -/
def execPreambleReadComplete (image : HostRead) (s : State) : Res := .next (preambleRead s image)

/-- The used entries of a preamble. -/
def usedEntries (h : Bytes) : List (Nat × Bytes) := (List.range (Tk.nsect h)).map fun k => (k, Tk.entry h k)

/-- Phase 4 ends: the image is staged, preamble and sections, and step 7 runs on the staged bytes (R296, R302). `x` gives the
image from byte 5,632. -/
def fetched (s : State) (x : HostRead) : State :=
  if s.phase ≠ 4 ∨ !s.tck.hbmReady ∨ !s.tck.reading then s
  else
    let h := s.tck.preamble
    match sourceRead s (s.tck.source == 1) x with
    | (s, none) => startFail s 10 true
    | (s, some bs) =>
      let s := s.poke stageBase (h ++ padTo (Tk.imageLen h - preambleBytes) bs)
      match (usedEntries h).find? fun x => !digestOk s x.2 (stageBase + Tk.offset x.2) with
      | some (k, _) => startFail (setFailInfo s k 0) 7 true
      | none => (s.setPhase 5).updTck fun t => { t with reading := false }

/-- The sections are staged (R296). -/
def execFetchComplete (image : HostRead) (s : State) : Res := .next (fetched s image)

/-- Phase 5 ends: step 8 runs on every section, and application begins (R298, R300). -/
def checked (s : State) : State :=
  if s.phase ≠ 5 then s
  else
    let es := usedEntries s.tck.preamble
    match es.findSome? fun x => (sectionBad s x.2 (stageBase + Tk.offset x.2)).map fun o => (x.1, o) with
    | some (k, o) => startFail (setFailInfo s k (o / 8)) 8 true
    | none =>
      let todo := inOrder (es.map fun x => ⟨x.1, x.2, stageBase + Tk.offset x.2⟩)
      applySettle ((s.setPhase 6).updTck fun t => { t with todo := todo, recAt := 0, waitAt := none, reload := false })

/-- Every record passes step 8 (R300). -/
def execCheckComplete (s : State) : Res := .next (checked s)

/-- A WAIT record at which application stands is asked again; once met, application goes on (R301). -/
def waitAgain (s : State) : State := if s.tck.waitAt.isSome then applySettle s else s

/-- A WAIT's condition is met (R301). -/
def execTackWaitMet (s : State) : Res := .next (waitAgain s)

/-- A WAIT's TIMEOUT is over and its condition is not met: WAIT_TMO (R301). -/
def waitOver (s : State) : State :=
  match s.tck.waitAt, s.tck.todo with
  | some t0, x :: _ =>
    let o := x.at' + s.tck.recAt
    let r := s.peek o 16
    let p := s.peek (o + 16) 16
    if s.now < t0 + 1000 * fld p 8 4 ∨ waitMet s r p then s
    else
      let s := setFailInfo s x.entry (s.tck.recAt / 8)
      if s.tck.reload then reloadEnd s 9 x.entry x.desc else startFail s 9 false
  | _, _ => s

/-- A WAIT times out (R301). -/
def execTackWaitTimeout (s : State) : Res := .next (waitOver s)

/-! ### The reserved layout (R31, Table STL-8) -/

/-- The ranges of Table STL-8 in use: base and size. -/
def reserved (s : State) : List (Nat × Nat) :=
  let c := s.role == roleC
  let conns := s.connCap
  let exts := s.fld Reg.COU_EXT_CAP F.COU_EXT_CAP_EXT
  let peds := s.fld Reg.PED_NODE_CAP F.PED_NODE_CAP_CAP
  let tiers := s.tierPages 1 + s.tierPages 2 + s.tierPages 3
  let bufs := s.fld Reg.PKH_WBUF_CFG F.PKH_WBUF_CFG_NBUF * s.fld Reg.PKH_WBUF_CFG F.PKH_WBUF_CFG_BUFSZ
  let keys := s.fld Reg.ASY_VKEY_N F.ASY_VKEY_N_N
  let use := fun (b : Bool) (base size : Nat) => if b then [(base, size)] else []
  use c (s.base Reg.LDG_REC_BASE_LO) 0x2000000 ++ use true (s.base Reg.LDG_CTX_BASE_LO) 0x8000000 ++
    use true (s.base Reg.HTP_RX_BASE_LO) 0x4000000 ++ use true (s.base Reg.HTP_TX_BASE_LO) 0x400000 ++
    use true (s.base Reg.HTP_MC_BASE_LO) 0x800000 ++ use (decide (0 < conns)) (s.base Reg.COU_CONN_BASE_LO) (0x8000 * conns) ++
    use (decide (0 < exts)) (s.base Reg.COU_EXT_BASE_LO) (32 * exts) ++
    use (c && decide (0 < peds)) (s.base Reg.PED_NODE_BASE_LO) (64 * peds) ++
    use true (s.base Reg.TEM_MAP_BASE_LO) 0x100000 ++ use true (s.base Reg.TEM_STAGE_BASE_LO) 0x2000000 ++
    use c (s.base Reg.RNS_TEN_BASE_LO) 0x200000 ++ use (decide (0 < tiers)) (s.base Reg.PKH_TREC_BASE_LO) (16 * tiers) ++
    use (decide (0 < bufs)) (s.base Reg.PKH_WBUF_BASE_LO) (pageBytes * bufs) ++ use true (s.base Reg.PKH_VQ_BASE_LO) 0x100000 ++
    ((List.range 16).flatMap fun r => use (s.reg (Reg.PKH_TKT_RING r) != 0xFFFFFFFF) (s.reg (Reg.PKH_TKT_RING r) * pageBytes) pageBytes) ++
    use c (s.base Reg.FAR_OWNER_BASE_LO) 0x12000000 ++ use (decide (0 < keys)) (s.base Reg.ASY_VKEY_BASE_LO) (1024 * keys)

/-- The software areas in use: stall, first page, pages. -/
def softAreas (s : State) : List (Nat × Nat × Nat) :=
  ((List.range 128).map fun n =>
    (n, s.fld (Reg.STL_RSV_FIRST n) F.STL_RSV_FIRST_FIRST, s.fld (Reg.STL_RSV_COUNT n) F.STL_RSV_COUNT_COUNT)).filter (0 < ·.2.2)

/-- Every range in use, software areas included, as pages: first page and count. -/
def reservedPages (s : State) : List (Nat × Nat) :=
  (reserved s).map (fun x => (x.1 / pageBytes, ceilDiv x.2 pageBytes)) ++
    (softAreas s).map fun x => (x.1 * stallPages + x.2.1, x.2.2)

/-- Pages no range may meet: share counts, staging, and shadows of enabled regions. -/
def keptPages (s : State) : List (Nat × Nat) :=
  (List.range 128).map (fun n => (n * stallPages, 18)) ++ [(stageBase / pageBytes, 16384)] ++
    ((List.range 16).filter (prOn s)).map fun r => (prShadow s r, prShadowPages s r)

/-- No two ranges of a list meet. -/
def allApart : List (Nat × Nat) → Bool
  | [] => true
  | x :: xs => (xs.all fun y => !meets x.1 x.2 y.1 y.2) && allApart xs

/-- The layout check of R31. -/
def layoutOk (s : State) : Bool :=
  let ps := reservedPages s
  (reserved s).all (fun x => x.1 != 0 && x.1 % pageBytes == 0 && decide (x.1 + x.2 ≤ hbmBytes)) &&
    (softAreas s).all (fun x => x.1 + x.2.1 != 0 && decide (x.2.1 + x.2.2 ≤ stallPages)) &&
    allApart ps && ps.all fun x => (keptPages s).all fun y => !meets x.1 x.2 y.1 y.2

/-- Pages of every range in use leave their stalls' stacks. -/
def withdrawReserved (s : State) : State := forEach (reservedPages s) s fun s x => withdrawPages s x.1 (x.1 + x.2)

/-- The lower 240 MiB of staging return to stall 127's stack (R302). -/
def releaseStaging (s : State) : State := s.updStall 127 fun t => { t with virgin := t.virgin ++ [(131072, 146432)] }

/-- Step 7 of R304, once step 6 has ended: the gait's ramp and relock are complete. -/
def serveReady (s : State) : State :=
  if !s.tck.finishing || s.clk.shift != .none then s
  else
    let h := s.tck.preamble
    let s := s.updTck fun t => { t with finishing := false }
    let s := (s.setFld Reg.GLB_SUMMARY F.GLB_SUMMARY_READY 1).setFld Reg.TCK_STATUS F.TCK_STATUS_BUSY 0
    let f := fun x => s.fld Reg.TCK_STATUS x
    (s.setPhase 7).raise Tag.tck 0x0003 Sev.info 0
      ([Tk.nsect h, f F.TCK_STATUS_KEY_OK, f F.TCK_STATUS_SVN_OK, f F.TCK_STATUS_SIG_OK] ++ (toLE 4 (Tk.svn h)).map (·.toNat))

/-- After the last section: steps 1 to 6 of R304, and step 7 when the gait stands. -/
def serve (s : State) : State :=
  if s.phase ≠ 6 ∨ !s.tck.todo.isEmpty then s
  else if s.tck.finishing then serveReady s
  else
    let h := s.tck.preamble
    let s := s.setFld Reg.GLB_NODE F.GLB_NODE_IMAGE (Tk.nodeLo h)
    let s := withdrawReserved s
    if !layoutOk s then
      let s := s.updTck fun t => { t with portsHeld := true }
      startFail (forEach (List.range 16) s toDisabled) 16 false
    else
      let s := s.setFld Reg.GLB_LOCK F.GLB_LOCK_LOCK 1
      let s := forEach (List.range 128) s fun s n => if (s.stall n).service == .outOfService then s.setService n .inService else s
      let s := setReq (releaseStaging s) (s.fld Reg.GLB_STRAP F.GLB_STRAP_EFF_GAIT)
      serveReady (s.updTck fun t => { t with finishing := true })

/-- Start-up completes (R304). -/
def execApplyComplete (s : State) : Res := .next (serve s)

/-- VARITH reaches its level (R314), which may end step 6 of R304. -/
def execVarithRampComplete (s : State) : Res := .next (serveReady (rampDone s))

/-- PLL A relocks (R279), which may end step 6 of R304. -/
def execPllRelockComplete (s : State) : Res := .next (serveReady (relockDone s))

/-- START with SRC 1: an image is read from host memory where phase 3 waits for one, or after a failure in phases 3 to 5; in
any other phase START is ignored (R306). -/
def tckStart (s : State) (d : Nat) : State :=
  let s := tckCtrlWrite s d
  let waits := s.phase == 3 && s.fld Reg.GLB_STRAP F.GLB_STRAP_TACK == 2 && !s.tck.reading
  let again := s.phase == 15 && s.tck.retry
  if bit d 31 && bits d 1 0 == 1 && (waits || again) then
    let r := Reg.TCK_STATUS
    let s := ((s.setPhase 3).setFld r F.TCK_STATUS_ERR 0).setFld r F.TCK_STATUS_BUSY 1
    let s := s.setFld Reg.GLB_SUMMARY F.GLB_SUMMARY_TACK_FAIL 0
    s.updTck fun t => { t with reading := true, source := 1, retry := false }
  else s

/-- A write of TCK_CTRL with START (R306). -/
def execTckStart (data : Word) (s : State) : Res := .next (tckStart s data.toNat)

/-! ### Live reload (R307) -/

/-- A piece of a staged image: local HBM when SRC is 2, else what the source gave. -/
def imagePiece (s : State) (src : Nat) (img : Bytes) (o n : Nat) : State × Option Bytes :=
  if src = 2 then
    let (s, st, bs) := s.readMem (s.reg Reg.TCK_SRC_LO + s.reg Reg.TCK_SRC_HI * 2 ^ 32 + o) n
    (s, if st = St.ok then some bs else none)
  else (s, some (slice img o n))

/-- Steps 2 and 3 of R307 over the selected entries of a directory of `n` sections: the code and entry of the first failure. An
entry beyond the last section is not live. -/
def selectionBad (s : State) (n : Nat) (es : List (Nat × Bytes)) : Option (Nat × Nat) :=
  match es.find? fun x => !Tk.live x.2 || decide (n ≤ x.1) with
  | some x => some (13, x.1)
  | none =>
    if 0x1000000 < es.foldl (fun n x => n + Tk.length x.2) 0 then some (14, (es.headD (0, [])).1)
    else
      let used := (List.range 32).filter fun k => s.flag (Reg.TCK_SECT_INFO k) F.TCK_SECT_INFO_VALID
      let slotOf := fun (e : Bytes) => used.find? fun k =>
        s.fld (Reg.TCK_SECT_INFO k) F.TCK_SECT_INFO_TYPE == Tk.type e && s.fld (Reg.TCK_SECT_INFO k) F.TCK_SECT_INFO_INST == Tk.inst e
      let bad := fun (x : Nat × Bytes) => match slotOf x.2 with
        | some k => decide (Tk.version x.2 < s.reg (Reg.TCK_SECT_VERSION k))
        | none => decide (32 - used.length < ((es.filter fun y => decide (y.1 ≤ x.1) && (slotOf y.2).isNone).length))
      (es.find? bad).map fun x => (12, x.1)

/-- The reload stage: each selected section with the offset it is copied to, one right after another. -/
def reloadPlaces : Nat → List (Nat × Bytes) → List TackSect
  | _, [] => []
  | o, x :: xs => ⟨x.1, x.2, o⟩ :: reloadPlaces (o + Tk.length x.2) xs

/-- Step 4 of R307: the sections are copied into the reload stage; the entry whose source failed. -/
def reloadCopy (src : Nat) (img : Bytes) : List TackSect → State → State × Option Nat
  | [], s => (s, none)
  | x :: xs, s =>
    match imagePiece s src img (Tk.offset x.desc) (Tk.length x.desc) with
    | (s, none) => (s, some x.entry)
    | (s, some bs) => reloadCopy src img xs (s.poke x.at' bs)

/-- A reload keeps what it was asked until parked memory runs again. -/
def reloadWaits (s : State) (src : Nat) (x : HostRead) : State := s.updTck fun t => { t with reloadWait := some (src, x) }

/-- RELOAD: a signed image is verified, its selected sections staged, checked and applied (R307). Where it reads or writes HBM it waits
while that is parked (R284, R308). -/
def reloadGo (s : State) (src : Nat) (x : HostRead) : State :=
  let r := Reg.TCK_STATUS
  let s := (s.setFld r F.TCK_STATUS_BUSY 1).setFld r F.TCK_STATUS_RERR 0
  if s.parked ∧ src = 2 then reloadWaits s src x else
  let (s, d) := if src = 2 then (s, some []) else sourceRead s (src == 1) x
  let (s, pre) := match d with
    | none => (s, none)
    | some img => imagePiece s src img 0 preambleBytes
  match verify s pre true, d, pre with
  | (s, 0, unsigned), some img, some h =>
    let es := ((List.range 32).filter fun k => bit (s.reg Reg.TCK_SEL) k).map fun k => (k, Tk.entry h k)
    let stop := fun (s : State) (code k : Nat) (o : Nat) => reloadEnd (setFailInfo s k (o / 8)) code k (Tk.entry h k)
    match selectionBad s (Tk.nsect h) es with
    | some (c, k) => stop s c k 0
    | none =>
      if s.parked then reloadWaits s src x else
      let todo := inOrder (reloadPlaces reloadBase es)
      match reloadCopy src img todo s with
      | (s, some k) => stop s 10 k 0
      | (s, none) =>
        match todo.find? fun x => !digestOk s x.desc x.at' with
        | some x => stop s 7 x.entry 0
        | none =>
          match todo.findSome? fun x => (sectionBad s x.desc x.at').map fun o => (x.entry, o) with
          | some (k, o) => stop s 8 k o
          | none =>
            let s := if unsigned then s.setFld r F.TCK_STATUS_UNSIGNED 1 else s
            applySettle (s.updTck fun t => { t with todo := todo, recAt := 0, waitAt := none, reload := true })
  | (s, c, _), _, _ =>
    let k := s.fld Reg.TCK_FAIL_INFO F.TCK_FAIL_INFO_ENTRY
    reloadEnd s c (if c = 6 then k else 0) (if c = 6 then (pre.map fun h => Tk.entry h k).getD [] else [])

/-- A write of TCK_CTRL with RELOAD: ignored while BUSY, with SRC 3, or before the module serves (R307). -/
def tckReload (s : State) (d : Nat) (x : HostRead) : State :=
  let s := tckCtrlWrite s d
  if bit d 30 && bits d 1 0 != 3 && s.ready && !s.flag Reg.TCK_STATUS F.TCK_STATUS_BUSY then reloadGo s (bits d 1 0) x else s

/-- Parked memory runs again: a reload that waited for it goes on (R308). -/
def reloadResume (s : State) : State :=
  match s.tck.reloadWait with
  | some (src, x) => reloadGo (s.updTck fun t => { t with reloadWait := none }) src x
  | none => if s.tck.todo.isEmpty then s else applySettle s

/-- STABLED is left (R316), and a reload goes on. -/
def execStabledExitComplete (s : State) : Res :=
  .next (if s.clk.stable = .exiting then reloadResume (stableLeft s) else s)

/-- A write of TCK_CTRL with RELOAD (R307). -/
def execTckReload (data : Word) (image : HostRead) (s : State) : Res := .next (tckReload s data.toNat image)

end Sys2Proof.Machine
end

