-- ==== Sys2Proof/Machine/SpdmResp.lean ====
section
/-!
DEFINITION. Machine/SpdmResp.lean: the SPDM 1.2 responder (R353–R355). The layouts of its messages are those of DMTF DSP0274,
which the spec names: PRESUMED.
-/
namespace Sys2Proof.Machine

/-- Change the responder's state. -/
def State.updSpdm (s : State) (f : Spdm → Spdm) : State := s.updAsy fun a => { a with spdm := f a.spdm }

/-- The responder answers in state ON, after phase 2. -/
def spdmOn (s : State) : Bool :=
  s.grm.up && s.grm.rails == .on && !s.held && decide (3 ≤ s.phase) && s.fld Reg.TCK_STATUS F.TCK_STATUS_ERR != 15

/-- An SPDM message leaves as an MCTP message of type 5. -/
def spdmSend (s : State) (msg : Bytes) : State := mgmtReply s (toLE 1 5 ++ msg)

namespace Sp
def invalid : Nat := 0x01
def busy : Nat := 0x03
def unexpected : Nat := 0x04
def unspecified : Nat := 0x05
def unsupported : Nat := 0x07
def mismatch : Nat := 0x41
/-- Request codes. -/
def getVersion : Nat := 0x84
def getCapabilities : Nat := 0xE1
def negotiate : Nat := 0xE3
def getDigests : Nat := 0x81
def getCertificate : Nat := 0x82
def challenge : Nat := 0x83
def getMeasurements : Nat := 0xE0
end Sp

/-- ERROR with a code and its data byte. -/
def spdmError (s : State) (code data : Nat) : State := spdmSend s (toLE 1 0x12 ++ toLE 1 0x7F ++ toLE 1 code ++ toLE 1 data)

/-- The header of a response. -/
def respHead (code p1 p2 : Nat) : Bytes := toLE 1 0x12 ++ toLE 1 code ++ toLE 1 p1 ++ toLE 1 p2

/-- A request comes to the responder: refused as an unavailable type, or for its version, or for its place in the exchange. A
request other than GET_MEASUREMENTS ends the transcript of the measurements. -/
def spdmTake (s : State) (code stage : Nat) (only : Bool) (req : Bytes) (serve : State → Bytes → State) : State :=
  if !spdmOn s then typeRefused s 5
  else
    let r := patch req 1 (toLE 1 code)
    let s := if code = Sp.getMeasurements then s else s.updSpdm fun x => { x with meas := [] }
    if fld r 0 1 ≠ (if code = Sp.getVersion then 0x10 else 0x12) then spdmError s Sp.mismatch 0
    else if s.asy.spdm.stage < stage ∨ (only ∧ s.asy.spdm.stage ≠ stage) then spdmError s Sp.unexpected 0
    else serve s r

/-! ### Connection -/

/-- GET_VERSION: version 1.2 only, and the exchange starts afresh. -/
def spdmVersion (s : State) (r : Bytes) : State :=
  let resp := toLE 1 0x10 ++ toLE 1 0x04 ++ toLE 2 0 ++ toLE 1 0 ++ toLE 1 1 ++ toLE 2 0x1200
  spdmSend (s.updSpdm fun x => { x with stage := 1, vca := r ++ resp, certs := [], meas := [] }) resp

/-- GET_VERSION (Table ASY-3). -/
def execGetVersion (req : Bytes) (s : State) : Res := .next (spdmTake s Sp.getVersion 0 false req spdmVersion)

/-- GET_CAPABILITIES: CERT_CAP, CHAL_CAP, MEAS_CAP = 2, MEAS_FRESH_CAP. -/
def spdmCapabilities (s : State) (r : Bytes) : State :=
  let resp := respHead 0x61 0 0 ++ toLE 1 0 ++ toLE 1 Config.spdmCtExponent ++ toLE 2 0 ++ toLE 4 0x36 ++
    toLE 4 Config.spdmTransfer ++ toLE 4 Config.spdmMessage
  spdmSend (s.updSpdm fun x => { x with stage := 2, vca := x.vca ++ r ++ resp }) resp

/-- GET_CAPABILITIES (Table ASY-3). -/
def execGetCapabilities (req : Bytes) (s : State) : Res := .next (spdmTake s Sp.getCapabilities 1 true req spdmCapabilities)

/-- NEGOTIATE_ALGORITHMS: RSAPSS 4096 and SHA-512 must be offered. -/
def spdmAlgorithms (s : State) (r : Bytes) : State :=
  if !bit (fld r 8 4) 6 || !bit (fld r 12 4) 2 then spdmError s Sp.invalid 0
  else
    let resp := respHead 0x63 0 0 ++ toLE 2 36 ++ toLE 1 1 ++ toLE 1 0 ++ toLE 4 8 ++ toLE 4 0x40 ++ toLE 4 4 ++ zeros 16
    spdmSend (s.updSpdm fun x => { x with stage := 3, vca := x.vca ++ r ++ resp }) resp

/-- NEGOTIATE_ALGORITHMS (Table ASY-3). -/
def execNegotiateAlgorithms (req : Bytes) (s : State) : Res := .next (spdmTake s Sp.negotiate 2 true req spdmAlgorithms)

/-! ### Certificates -/

/-- The bytes of IDCERT (Table ASY-1). -/
def idCert : Bytes := (List.range Config.idCertLen).map fun i => BitVec.ofNat 8 (Config.idCertByte i)

/-- A response that joins the transcript of the certificates. -/
def certSend (s : State) (r resp : Bytes) : State := spdmSend (s.updSpdm fun x => { x with certs := x.certs ++ r ++ resp }) resp

/-- GET_DIGESTS: slot 0, SHA-512 of IDCERT. -/
def spdmDigests (s : State) (r : Bytes) : State := certSend s r (respHead 0x01 0 1 ++ sha512 idCert)

/-- GET_DIGESTS (Table ASY-3). -/
def execGetDigests (req : Bytes) (s : State) : Res := .next (spdmTake s Sp.getDigests 3 false req spdmDigests)

/-- GET_CERTIFICATE: slot 0, portions of up to 1,024 bytes. -/
def spdmCertificate (s : State) (r : Bytes) : State :=
  let off := fld r 4 2
  let n := min (min (fld r 6 2) 1024) (Config.idCertLen - off)
  if fld r 2 1 % 16 ≠ 0 ∨ Config.idCertLen ≤ off then spdmError s Sp.invalid 0
  else certSend s r (respHead 0x02 0 0 ++ toLE 2 n ++ toLE 2 (Config.idCertLen - off - n) ++ slice idCert off n)

/-- GET_CERTIFICATE (Table ASY-3). -/
def execGetCertificate (req : Bytes) (s : State) : Res := .next (spdmTake s Sp.getCertificate 3 false req spdmCertificate)

/-! ### Measurements (R354) -/

/-- A measurement block: index, DMTF specification, the value's type and the value. -/
def measBlock (index type : Nat) (v : Bytes) : Nat × Bytes :=
  (index, toLE 1 index ++ toLE 1 1 ++ toLE 2 (v.length + 3) ++ toLE 1 type ++ toLE 2 v.length ++ v)

/-- The block of TCK_SECT slot k, when it is in use. -/
def sectBlock (s : State) (k : Nat) : List (Nat × Bytes) :=
  let i := s.reg (Reg.TCK_SECT_INFO k)
  if bit i 31 then
    [measBlock (4 + k) 1 (toLE 1 i ++ toLE 1 (i / 256) ++ toLE 4 (s.reg (Reg.TCK_SECT_VERSION k)) ++ padTo 64 (s.tck.digests.getD k []))]
  else []

/-- The blocks that are present, by index (Table ASY-4). -/
def measBlocks (s : State) : List (Nat × Bytes) :=
  let f := fun x => toLE 1 (s.fld Reg.TCK_STATUS x)
  let w := fuseWord s
  let id := s.pkh.vault.ident
  [measBlock 1 0x80 (toLE 16 Config.deviceId ++ toLE 1 0xA1 ++ toLE 1 (bits w 31 28) ++ toLE 1 (bits w 27 24) ++
      toLE 1 (bits w 6 0) ++ toLE 1 (bits w 23 23)),
    measBlock 2 0x82 (toLE 4 (s.reg Reg.GLB_STRAP)),
    measBlock 3 0x83 (toLE 4 (s.reg Reg.TCK_IMAGE_ID_LO) ++ toLE 4 (s.reg Reg.TCK_IMAGE_ID_HI) ++ toLE 4 (s.reg Reg.TCK_SVN) ++
      toLE 1 s.tck.keySlot ++ f F.TCK_STATUS_KEY_OK ++ f F.TCK_STATUS_SVN_OK ++ f F.TCK_STATUS_SIG_OK ++
      f F.TCK_STATUS_UNSIGNED ++ f F.TCK_STATUS_PHASE)] ++
    (List.range 32).flatMap (sectBlock s) ++
    if s.vaultState = Vs.ready then [measBlock 36 0x82 (slice id 8 16 ++ slice id 40 4 ++ sha512 (padTo 512 id))] else []

/-! ### Signatures (R355) -/

/-- The string that precedes the hash in a signed message: four times the version, padding to 100 bytes, the context. -/
def signContext (what : String) : Bytes :=
  let text := fun (x : String) => x.toList.map fun c => BitVec.ofNat 8 c.toNat
  let c := text what
  let v := text "dmtf-spdm-v1.2.*"
  v ++ v ++ v ++ v ++ zeros (36 - c.length) ++ c

/-- A 32-byte nonce is drawn. -/
def drawNonce (s : State) : State × Bytes :=
  let (r, s) := s.draw
  (s, toLE 32 r)

/-- A response starts to be signed over a transcript, its salt drawn. -/
def signStart (s : State) (code : Nat) (resp transcript : Bytes) (context : String) : State :=
  let (salt, s) := s.draw
  let g : Signing :=
    { code := code, response := resp, message := signContext context ++ sha512 transcript, salt := salt % 2 ^ 512 }
  s.updSpdm fun x => { x with signing := some g }

/-- A request that needs a value of the random source, and perhaps a signature, now: the error it gets, or none. -/
def signRefused (s : State) (signed : Bool) : Option Nat :=
  if signed && s.asy.spdm.signing.isSome then some Sp.busy
  else if !s.flag Reg.ASY_STATUS F.ASY_STATUS_RNG_OK then some Sp.unspecified
  else none

/-- An error of `signRefused` is sent; Busy is counted. -/
def signError (s : State) (code : Nat) : State :=
  spdmError (if code = Sp.busy then s.bump Reg.ASY_SPDM_BUSY else s) code 0

/-- CHALLENGE: slot 0; the response is signed over the transcript of the exchange. -/
def spdmChallenge (s : State) (r : Bytes) : State :=
  let sum := fld r 3 1
  if fld r 2 1 ≠ 0 ∨ (sum ≠ 0 ∧ sum ≠ 1 ∧ sum ≠ 0xFF) then spdmError s Sp.invalid 0
  else match signRefused s true with
    | some c => signError s c
    | none =>
      let (s, nonce) := drawNonce s
      let resp := respHead 0x03 0 1 ++ sha512 idCert ++ nonce ++
        (if sum = 0 then [] else sha512 ((measBlocks s).flatMap (·.2))) ++ toLE 2 0
      let t := s.asy.spdm.vca ++ s.asy.spdm.certs ++ r ++ resp
      signStart (s.updSpdm fun x => { x with certs := [] }) Sp.challenge resp t "responder-challenge_auth signing"

/-- CHALLENGE (Table ASY-3). -/
def execChallenge (req : Bytes) (s : State) : Res := .next (spdmTake s Sp.challenge 3 false req spdmChallenge)

/-- GET_MEASUREMENTS: the number of blocks, one block, or all; signed when a signature is asked for. -/
def spdmMeasurements (s : State) (r : Bytes) : State :=
  let signed := bit (fld r 2 1) 0
  let op := fld r 3 1
  let all := measBlocks s
  let sel := if op = 0 then [] else if op = 0xFF then all else all.filter (·.1 == op)
  if (op ≠ 0 ∧ sel.isEmpty) ∨ (signed ∧ fld r 36 1 ≠ 0) then spdmError s Sp.invalid 0
  else match signRefused s signed with
    | some c => signError s c
    | none =>
      let (s, nonce) := drawNonce s
      let body := sel.flatMap (·.2)
      let resp := respHead 0x60 (if op = 0 then all.length else 0) 0 ++ toLE 1 sel.length ++ toLE 3 body.length ++ body ++
        nonce ++ toLE 2 0
      let m := s.asy.spdm.meas ++ r ++ resp
      if signed then
        signStart (s.updSpdm fun x => { x with meas := [] }) Sp.getMeasurements resp (s.asy.spdm.vca ++ m)
          "responder-measurements signing"
      else spdmSend (s.updSpdm fun x => { x with meas := m }) resp

/-- GET_MEASUREMENTS (Table ASY-3). -/
def execGetMeasurements (req : Bytes) (s : State) : Res := .next (spdmTake s Sp.getMeasurements 3 false req spdmMeasurements)

/-- A signature ends: the signed response is sent, counted and recorded (R355, R360). -/
def signDone (s : State) : State :=
  match s.asy.spdm.signing with
  | none => s
  | some x =>
    let sig := toBE 512 (Config.sign (x.message.map (·.toNat)) x.salt)
    let s := spdmSend (s.updSpdm fun y => { y with signing := none }) (x.response ++ sig)
    (s.bump Reg.ASY_SIGNS).raise Tag.asy 0x0003 Sev.info 0 [x.code]

/-- A signature completes (R355). -/
def execSpdmSignatureComplete (s : State) : Res := .next (signDone s)

/-- Any other request: ERROR UnsupportedRequest with the request's code (R353). -/
def execUnsupportedSpdmRequest (req : Bytes) (s : State) : Res :=
  .next (if spdmOn s then spdmError s Sp.unsupported (fld req 1 1) else typeRefused s 5)

end Sys2Proof.Machine
end

