-- ==== Sys2Proof/Machine/Dispatch.lean ====
section
/-! DEFINITION. Machine/Dispatch.lean: exec, one arm per command of the opcode table, each one call of that command's meaning. -/
namespace Sys2Proof.Machine

def exec (i : Instr) (s : State) : Host.Outcome State Fault Refusal :=
  match i with
  | .ncResetLRise straps ns => Sys2Proof.Machine.execNcResetLRise straps ns s
  | .ncResetLAssert => Sys2Proof.Machine.execNcResetLAssert s
  | .registerWrite off be data => Sys2Proof.Machine.execRegisterWrite off be data s
  | .glbLockSet data => Sys2Proof.Machine.execGlbLockSet data s
  | .tickSnapshotRead => Sys2Proof.Machine.execTickSnapshotRead s
  | .modidDataRead => Sys2Proof.Machine.execModidDataRead s
  | .eventDeliver => Sys2Proof.Machine.execEventDeliver s
  | .outReq stall => Sys2Proof.Machine.execOutReq stall s
  | .inReq stall => Sys2Proof.Machine.execInReq stall s
  | .stallDrained stall => Sys2Proof.Machine.execStallDrained stall s
  | .bufPartWrite stall data => Sys2Proof.Machine.execBufPartWrite stall data s
  | .homeWriteApply stall => Sys2Proof.Machine.execHomeWriteApply stall s
  | .nmuGo stall data => Sys2Proof.Machine.execNmuGo stall data s
  | .nmuFill stall => Sys2Proof.Machine.execNmuFill stall s
  | .nmuCopy stall => Sys2Proof.Machine.execNmuCopy stall s
  | .nmuCompare stall => Sys2Proof.Machine.execNmuCompare stall s
  | .nmuReduce stall => Sys2Proof.Machine.execNmuReduce stall s
  | .nmuComplete stall => Sys2Proof.Machine.execNmuComplete stall s
  | .nmuCqHeadWrite stall data => Sys2Proof.Machine.execNmuCqHeadWrite stall data s
  | .nmuCqEnable stall data => Sys2Proof.Machine.execNmuCqEnable stall data s
  | .meshRouterFault stall port => Sys2Proof.Machine.execMeshRouterFault stall port s
  | .dutyTakeEffect stall => Sys2Proof.Machine.execDutyTakeEffect stall s
  | .tableLoadGo stall data => Sys2Proof.Machine.execTableLoadGo stall data s
  | .tableLoadCommit stall => Sys2Proof.Machine.execTableLoadCommit stall s
  | .mintSeedWrite stall data => Sys2Proof.Machine.execMintSeedWrite stall data s
  | .ropeFreqWrite stall data => Sys2Proof.Machine.execRopeFreqWrite stall data s
  | .attGo stall data => Sys2Proof.Machine.execAttGo stall data s
  | .attDecode stall damage => Sys2Proof.Machine.execAttDecode stall damage s
  | .attPrefill stall damage => Sys2Proof.Machine.execAttPrefill stall damage s
  | .attBackward stall damage => Sys2Proof.Machine.execAttBackward stall damage s
  | .attDescriptorEnd stall which => Sys2Proof.Machine.execAttDescriptorEnd stall which s
  | .mergeRecord stall => Sys2Proof.Machine.execMergeRecord stall s
  | .mergeContextOpen stall => Sys2Proof.Machine.execMergeContextOpen stall s
  | .mergeTimeout stall => Sys2Proof.Machine.execMergeTimeout stall s
  | .tombstoneExpiry stall => Sys2Proof.Machine.execTombstoneExpiry stall s
  | .append stall => Sys2Proof.Machine.execAppend stall s
  | .appendCommit stall => Sys2Proof.Machine.execAppendCommit stall s
  | .kvpEditGo stall data => Sys2Proof.Machine.execKvpEditGo stall data s
  | .editOpen stall => Sys2Proof.Machine.execEditOpen stall s
  | .editAttach stall => Sys2Proof.Machine.execEditAttach stall s
  | .editReplace stall => Sys2Proof.Machine.execEditReplace stall s
  | .editTruncate stall => Sys2Proof.Machine.execEditTruncate stall s
  | .editCompact stall => Sys2Proof.Machine.execEditCompact stall s
  | .editRelease stall => Sys2Proof.Machine.execEditRelease stall s
  | .editCommit stall => Sys2Proof.Machine.execEditCommit stall s
  | .releaseFree stall => Sys2Proof.Machine.execReleaseFree stall s
  | .graceEmpty root => Sys2Proof.Machine.execGraceEmpty root s
  | .pedLookup => Sys2Proof.Machine.execPedLookup s
  | .pedAttach => Sys2Proof.Machine.execPedAttach s
  | .pedAttachReply => Sys2Proof.Machine.execPedAttachReply s
  | .pedInsert => Sys2Proof.Machine.execPedInsert s
  | .evictionHandVisit => Sys2Proof.Machine.execEvictionHandVisit s
  | .withdrawnNodeEvict => Sys2Proof.Machine.execWithdrawnNodeEvict s
  | .pedRehashGo data => Sys2Proof.Machine.execPedRehashGo data s
  | .rehashMigrate => Sys2Proof.Machine.execRehashMigrate s
  | .ldgSqDoorbell queue data => Sys2Proof.Machine.execLdgSqDoorbell queue data s
  | .ldgCqDoorbell queue data => Sys2Proof.Machine.execLdgCqDoorbell queue data s
  | .ldgAdmit queue read => Sys2Proof.Machine.execLdgAdmit queue read s
  | .ldgCancelCmd queue read => Sys2Proof.Machine.execLdgCancelCmd queue read s
  | .retarget queue read => Sys2Proof.Machine.execRetarget queue read s
  | .ldgWhoOwnsCmd queue read => Sys2Proof.Machine.execLdgWhoOwnsCmd queue read s
  | .lookupResult => Sys2Proof.Machine.execLookupResult s
  | .offer => Sys2Proof.Machine.execOffer s
  | .grant => Sys2Proof.Machine.execGrant s
  | .accept => Sys2Proof.Machine.execAccept s
  | .ldgCommit => Sys2Proof.Machine.execLdgCommit s
  | .revert => Sys2Proof.Machine.execRevert s
  | .whoOwns => Sys2Proof.Machine.execWhoOwns s
  | .ownerIs => Sys2Proof.Machine.execOwnerIs s
  | .refuse => Sys2Proof.Machine.execRefuse s
  | .ldgCancel => Sys2Proof.Machine.execLdgCancel s
  | .cancelReply => Sys2Proof.Machine.execCancelReply s
  | .step => Sys2Proof.Machine.execStep s
  | .ldgRelease => Sys2Proof.Machine.execLdgRelease s
  | .released => Sys2Proof.Machine.execReleased s
  | .escrowTimeout => Sys2Proof.Machine.execEscrowTimeout s
  | .grantRetry => Sys2Proof.Machine.execGrantRetry s
  | .offerRetry => Sys2Proof.Machine.execOfferRetry s
  | .cancelRetry => Sys2Proof.Machine.execCancelRetry s
  | .contextSilence => Sys2Proof.Machine.execContextSilence s
  | .homeDeadline => Sys2Proof.Machine.execHomeDeadline s
  | .deadlineGraceExpiry => Sys2Proof.Machine.execDeadlineGraceExpiry s
  | .closeComplete => Sys2Proof.Machine.execCloseComplete s
  | .dutySample => Sys2Proof.Machine.execDutySample s
  | .dutySplitAdjust entry => Sys2Proof.Machine.execDutySplitAdjust entry s
  | .ldgTeamEnable entry data => Sys2Proof.Machine.execLdgTeamEnable entry data s
  | .portEnable port data => Sys2Proof.Machine.execPortEnable port data s
  | .portRetrain port => Sys2Proof.Machine.execPortRetrain port s
  | .laneRetrain port lane => Sys2Proof.Machine.execLaneRetrain port lane s
  | .trainingMarkerDetect port lane => Sys2Proof.Machine.execTrainingMarkerDetect port lane s
  | .trainingFrame port lane words => Sys2Proof.Machine.execTrainingFrame port lane words s
  | .qualificationWindowEnd port lane errors converged => Sys2Proof.Machine.execQualificationWindowEnd port lane errors converged s
  | .codewordLock port => Sys2Proof.Machine.execCodewordLock port s
  | .helloTimer port => Sys2Proof.Machine.execHelloTimer port s
  | .hello port slot => Sys2Proof.Machine.execHello port slot s
  | .trainingTimeout port => Sys2Proof.Machine.execTrainingTimeout port s
  | .codewordReceive port first second others => Sys2Proof.Machine.execCodewordReceive port first second others s
  | .alignBlock port => Sys2Proof.Machine.execAlignBlock port s
  | .laneSignalLoss port lane => Sys2Proof.Machine.execLaneSignalLoss port lane s
  | .retrainSetTimeout port => Sys2Proof.Machine.execRetrainSetTimeout port s
  | .credit port slot => Sys2Proof.Machine.execCredit port slot s
  | .creditReportTimer port => Sys2Proof.Machine.execCreditReportTimer port s
  | .width port slot => Sys2Proof.Machine.execWidth port slot s
  | .recalPeriod port => Sys2Proof.Machine.execRecalPeriod port s
  | .recalSlotTimeout port => Sys2Proof.Machine.execRecalSlotTimeout port s
  | .recalReq port => Sys2Proof.Machine.execRecalReq port s
  | .recalDone port => Sys2Proof.Machine.execRecalDone port s
  | .hoofbeatTimer port => Sys2Proof.Machine.execHoofbeatTimer port s
  | .hoofbeat port slot => Sys2Proof.Machine.execHoofbeat port slot s
  | .neighbourLoss port => Sys2Proof.Machine.execNeighbourLoss port s
  | .eyeScanGo port data => Sys2Proof.Machine.execEyeScanGo port data s
  | .eyeScanComplete port right left up down => Sys2Proof.Machine.execEyeScanComplete port right left up down s
  | .store port pkt => Sys2Proof.Machine.execStore port pkt s
  | .load port pkt => Sys2Proof.Machine.execLoad port pkt s
  | .fetchAdd port pkt => Sys2Proof.Machine.execFetchAdd port pkt s
  | .swap port pkt => Sys2Proof.Machine.execSwap port pkt s
  | .cas port pkt => Sys2Proof.Machine.execCas port pkt s
  | .reduce port pkt => Sys2Proof.Machine.execReduce port pkt s
  | .mstore port pkt => Sys2Proof.Machine.execMstore port pkt s
  | .put port pkt => Sys2Proof.Machine.execPut port pkt s
  | .attnPacket port pkt => Sys2Proof.Machine.execAttnPacket port pkt s
  | .appendPacket port pkt => Sys2Proof.Machine.execAppendPacket port pkt s
  | .recordPacket port pkt => Sys2Proof.Machine.execRecordPacket port pkt s
  | .ledgerPacket port pkt => Sys2Proof.Machine.execLedgerPacket port pkt s
  | .pedigreePacket port pkt => Sys2Proof.Machine.execPedigreePacket port pkt s
  | .teamPacket port pkt => Sys2Proof.Machine.execTeamPacket port pkt s
  | .unlistedOpcode port pkt => Sys2Proof.Machine.execUnlistedOpcode port pkt s
  | .transitPacket port pkt => Sys2Proof.Machine.execTransitPacket port pkt s
  | .orderedRelease => Sys2Proof.Machine.execOrderedRelease s
  | .sync port pkt => Sys2Proof.Machine.execSync port pkt s
  | .syncAck port pkt => Sys2Proof.Machine.execSyncAck port pkt s
  | .ack port pkt => Sys2Proof.Machine.execAck port pkt s
  | .loadResp port pkt => Sys2Proof.Machine.execLoadResp port pkt s
  | .atomicResp port pkt => Sys2Proof.Machine.execAtomicResp port pkt s
  | .retransmitTimeout node conn seq => Sys2Proof.Machine.execRetransmitTimeout node conn seq s
  | .syncTimeout node => Sys2Proof.Machine.execSyncTimeout node s
  | .quietTimeEnd => Sys2Proof.Machine.execQuietTimeEnd s
  | .htpFenceGo data => Sys2Proof.Machine.execHtpFenceGo data s
  | .fenceComplete => Sys2Proof.Machine.execFenceComplete s
  | .combineWindowExpiry => Sys2Proof.Machine.execCombineWindowExpiry s
  | .queueAgeDiscard port => Sys2Proof.Machine.execQueueAgeDiscard port s
  | .mstoreMemberTimeout => Sys2Proof.Machine.execMstoreMemberTimeout s
  | .messageContextTimeout => Sys2Proof.Machine.execMessageContextTimeout s
  | .routeDataWrite data => Sys2Proof.Machine.execRouteDataWrite data s
  | .mcDataWrite data => Sys2Proof.Machine.execMcDataWrite data s
  | .couAdmGo data => Sys2Proof.Machine.execCouAdmGo data s
  | .register => Sys2Proof.Machine.execRegister s
  | .revoke => Sys2Proof.Machine.execRevoke s
  | .revokeComplete => Sys2Proof.Machine.execRevokeComplete s
  | .connect => Sys2Proof.Machine.execConnect s
  | .close => Sys2Proof.Machine.execClose s
  | .cqSetup => Sys2Proof.Machine.execCqSetup s
  | .connectRetry conn => Sys2Proof.Machine.execConnectRetry conn s
  | .connectTimeout conn => Sys2Proof.Machine.execConnectTimeout conn s
  | .cSend port pkt => Sys2Proof.Machine.execCSend port pkt s
  | .cWrite port pkt => Sys2Proof.Machine.execCWrite port pkt s
  | .cWriteImm port pkt => Sys2Proof.Machine.execCWriteImm port pkt s
  | .cRead port pkt => Sys2Proof.Machine.execCRead port pkt s
  | .cAtomic port pkt => Sys2Proof.Machine.execCAtomic port pkt s
  | .cConnect port pkt => Sys2Proof.Machine.execCConnect port pkt s
  | .cClose port pkt => Sys2Proof.Machine.execCClose port pkt s
  | .cAck port pkt => Sys2Proof.Machine.execCAck port pkt s
  | .cReadResp port pkt => Sys2Proof.Machine.execCReadResp port pkt s
  | .cAtomicResp port pkt => Sys2Proof.Machine.execCAtomicResp port pkt s
  | .cConnectResp port pkt => Sys2Proof.Machine.execCConnectResp port pkt s
  | .courierAccessComplete read => Sys2Proof.Machine.execCourierAccessComplete read s
  | .couSqDoorbell conn data => Sys2Proof.Machine.execCouSqDoorbell conn data s
  | .couRqDoorbell conn data read => Sys2Proof.Machine.execCouRqDoorbell conn data read s
  | .couCqDoorbell cq data => Sys2Proof.Machine.execCouCqDoorbell cq data s
  | .wrSend conn entry data => Sys2Proof.Machine.execWrSend conn entry data s
  | .wrWrite conn entry data => Sys2Proof.Machine.execWrWrite conn entry data s
  | .wrWriteImm conn entry data => Sys2Proof.Machine.execWrWriteImm conn entry data s
  | .wrRead conn entry => Sys2Proof.Machine.execWrRead conn entry s
  | .wrAtomic conn entry => Sys2Proof.Machine.execWrAtomic conn entry s
  | .temChgGo data => Sys2Proof.Machine.execTemChgGo data s
  | .prepare => Sys2Proof.Machine.execPrepare s
  | .chgReady => Sys2Proof.Machine.execChgReady s
  | .temCommit => Sys2Proof.Machine.execTemCommit s
  | .chgDone => Sys2Proof.Machine.execChgDone s
  | .abort => Sys2Proof.Machine.execAbort s
  | .probe => Sys2Proof.Machine.execProbe s
  | .probeAck => Sys2Proof.Machine.execProbeAck s
  | .teamEnd => Sys2Proof.Machine.execTeamEnd s
  | .publish => Sys2Proof.Machine.execPublish s
  | .publishAccept => Sys2Proof.Machine.execPublishAccept s
  | .rread => Sys2Proof.Machine.execRread s
  | .rreadComplete => Sys2Proof.Machine.execRreadComplete s
  | .prepareRetry => Sys2Proof.Machine.execPrepareRetry s
  | .commitRetry => Sys2Proof.Machine.execCommitRetry s
  | .changeTimeout => Sys2Proof.Machine.execChangeTimeout s
  | .temGraceExpiry => Sys2Proof.Machine.execTemGraceExpiry s
  | .oldMapFree => Sys2Proof.Machine.execOldMapFree s
  | .preparedMapTimeout => Sys2Proof.Machine.execPreparedMapTimeout s
  | .probeTimeout => Sys2Proof.Machine.execProbeTimeout s
  | .regionCreate data => Sys2Proof.Machine.execRegionCreate data s
  | .regionDestroy data => Sys2Proof.Machine.execRegionDestroy data s
  | .rcmdGo data => Sys2Proof.Machine.execRcmdGo data s
  | .hostShaperRelease => Sys2Proof.Machine.execHostShaperRelease s
  | .hostShaperWrite reg data => Sys2Proof.Machine.execHostShaperWrite reg data s
  | .meterWrite port reg data => Sys2Proof.Machine.execMeterWrite port reg data s
  | .tenData7Write data => Sys2Proof.Machine.execTenData7Write data s
  | .tenData0Read => Sys2Proof.Machine.execTenData0Read s
  | .wheelRelease stall => Sys2Proof.Machine.execWheelRelease stall s
  | .histSelWrite data => Sys2Proof.Machine.execHistSelWrite data s
  | .histDepthSample => Sys2Proof.Machine.execHistDepthSample s
  | .paceWindowEnd slot => Sys2Proof.Machine.execPaceWindowEnd slot s
  | .pkhCmdGo data => Sys2Proof.Machine.execPkhCmdGo data s
  | .demote => Sys2Proof.Machine.execDemote s
  | .promote => Sys2Proof.Machine.execPromote s
  | .copy reads => Sys2Proof.Machine.execCopy reads s
  | .free => Sys2Proof.Machine.execFree s
  | .promotionRequest => Sys2Proof.Machine.execPromotionRequest s
  | .promotionComplete page read => Sys2Proof.Machine.execPromotionComplete page read s
  | .demotionCopyComplete page => Sys2Proof.Machine.execDemotionCopyComplete page s
  | .tierIoFail page => Sys2Proof.Machine.execTierIoFail page s
  | .pkhTicketDoorbell ring data => Sys2Proof.Machine.execPkhTicketDoorbell ring data s
  | .ticketTake ring => Sys2Proof.Machine.execTicketTake ring s
  | .ticket => Sys2Proof.Machine.execTicket s
  | .prefetch => Sys2Proof.Machine.execPrefetch s
  | .ticketRelease => Sys2Proof.Machine.execTicketRelease s
  | .fillStart => Sys2Proof.Machine.execFillStart s
  | .fillComplete model layer reads => Sys2Proof.Machine.execFillComplete model layer reads s
  | .ticketDeadline => Sys2Proof.Machine.execTicketDeadline s
  | .vaultPresence present => Sys2Proof.Machine.execVaultPresence present s
  | .vaultAttachComplete ident link lbaOk mdtsOk limits => Sys2Proof.Machine.execVaultAttachComplete ident link lbaOk mdtsOk limits s
  | .smartRead log => Sys2Proof.Machine.execSmartRead log s
  | .vaultCompletion cid ok data => Sys2Proof.Machine.execVaultCompletion cid ok data s
  | .vaultCommandTimeout => Sys2Proof.Machine.execVaultCommandTimeout s
  | .deallocateIssue => Sys2Proof.Machine.execDeallocateIssue s
  | .vaultDetach data => Sys2Proof.Machine.execVaultDetach data s
  | .vaultDetached => Sys2Proof.Machine.execVaultDetached s
  | .vaultFormat data => Sys2Proof.Machine.execVaultFormat data s
  | .vaultRemoval => Sys2Proof.Machine.execVaultRemoval s
  | .pkhMapWrite data => Sys2Proof.Machine.execPkhMapWrite data s
  | .pkhMapData0Read => Sys2Proof.Machine.execPkhMapData0Read s
  | .pkhModelWrite data => Sys2Proof.Machine.execPkhModelWrite data s
  | .pkhModelData0Read => Sys2Proof.Machine.execPkhModelData0Read s
  | .pkhCqHeadWrite data => Sys2Proof.Machine.execPkhCqHeadWrite data s
  | .bar2Write addr data full poisoned => Sys2Proof.Machine.execBar2Write addr data full poisoned s
  | .bar2MergeTimeout => Sys2Proof.Machine.execBar2MergeTimeout s
  | .bar2Read tag addr len => Sys2Proof.Machine.execBar2Read tag addr len s
  | .bar4UnmappedWrite off access => Sys2Proof.Machine.execBar4UnmappedWrite off access s
  | .flr => Sys2Proof.Machine.execFlr s
  | .hotReset => Sys2Proof.Machine.execHotReset s
  | .hostLinkDown => Sys2Proof.Machine.execHostLinkDown s
  | .perstLAssert => Sys2Proof.Machine.execPerstLAssert s
  | .busMasterEnable enable speed width => Sys2Proof.Machine.execBusMasterEnable enable speed width s
  | .msixUnmask vector => Sys2Proof.Machine.execMsixUnmask vector s
  | .msixCoalesceExpiry => Sys2Proof.Machine.execMsixCoalesceExpiry s
  | .evqEnable queue data => Sys2Proof.Machine.execEvqEnable queue data s
  | .apertureWrite data => Sys2Proof.Machine.execApertureWrite data s
  | .apData0Read => Sys2Proof.Machine.execApData0Read s
  | .doorbellBaseWrite reg data => Sys2Proof.Machine.execDoorbellBaseWrite reg data s
  | .pllRelockComplete => Sys2Proof.Machine.execPllRelockComplete s
  | .crossingTimeout src dst inst handle => Sys2Proof.Machine.execCrossingTimeout src dst inst handle s
  | .pllLockLoss pll => Sys2Proof.Machine.execPllLockLoss pll s
  | .resetNotice src dst inst => Sys2Proof.Machine.execResetNotice src dst inst s
  | .crossingReopen src dst inst => Sys2Proof.Machine.execCrossingReopen src dst inst s
  | .chipRelease => Sys2Proof.Machine.execChipRelease s
  | .rngQualified => Sys2Proof.Machine.execRngQualified s
  | .entropyTimeout => Sys2Proof.Machine.execEntropyTimeout s
  | .tckStart data => Sys2Proof.Machine.execTckStart data s
  | .preambleReadComplete image => Sys2Proof.Machine.execPreambleReadComplete image s
  | .hbmInitComplete => Sys2Proof.Machine.execHbmInitComplete s
  | .fetchComplete image => Sys2Proof.Machine.execFetchComplete image s
  | .checkComplete => Sys2Proof.Machine.execCheckComplete s
  | .tackWaitMet => Sys2Proof.Machine.execTackWaitMet s
  | .tackWaitTimeout => Sys2Proof.Machine.execTackWaitTimeout s
  | .applyComplete => Sys2Proof.Machine.execApplyComplete s
  | .tckReload data image => Sys2Proof.Machine.execTckReload data image s
  | .groomPowerUp => Sys2Proof.Machine.execGroomPowerUp s
  | .groomPowerLoss => Sys2Proof.Machine.execGroomPowerLoss s
  | .inputStartLevel input => Sys2Proof.Machine.execInputStartLevel input s
  | .railPowerGood rail => Sys2Proof.Machine.execRailPowerGood rail s
  | .railFault rail input => Sys2Proof.Machine.execRailFault rail input s
  | .railDisableStep => Sys2Proof.Machine.execRailDisableStep s
  | .shutdownHoldRelease lowNs inputNs => Sys2Proof.Machine.execShutdownHoldRelease lowNs inputNs s
  | .gaitRequest data => Sys2Proof.Machine.execGaitRequest data s
  | .varithRampComplete => Sys2Proof.Machine.execVarithRampComplete s
  | .stabledEntryComplete => Sys2Proof.Machine.execStabledEntryComplete s
  | .stabledExitComplete => Sys2Proof.Machine.execStabledExitComplete s
  | .brownoutWarn input => Sys2Proof.Machine.execBrownoutWarn input s
  | .brownoutRecover input time => Sys2Proof.Machine.execBrownoutRecover input time s
  | .undervoltage input => Sys2Proof.Machine.execUndervoltage input s
  | .overvoltage input => Sys2Proof.Machine.execOvervoltage input s
  | .thermalTrip => Sys2Proof.Machine.execThermalTrip s
  | .groomSamplePeriod samples => Sys2Proof.Machine.execGroomSamplePeriod samples s
  | .setEndpointId inst op eid => Sys2Proof.Machine.execSetEndpointId inst op eid s
  | .getEndpointId inst => Sys2Proof.Machine.execGetEndpointId inst s
  | .getEndpointUuid inst => Sys2Proof.Machine.execGetEndpointUuid inst s
  | .getMctpVersionSupport inst type => Sys2Proof.Machine.execGetMctpVersionSupport inst type s
  | .getMessageTypeSupport inst => Sys2Proof.Machine.execGetMessageTypeSupport inst s
  | .getSensors first count => Sys2Proof.Machine.execGetSensors first count s
  | .getStatus => Sys2Proof.Machine.execGetStatus s
  | .getLog index => Sys2Proof.Machine.execGetLog index s
  | .getTallies => Sys2Proof.Machine.execGetTallies s
  | .setGait gait => Sys2Proof.Machine.execSetGait gait s
  | .wake => Sys2Proof.Machine.execWake s
  | .getVersion req => Sys2Proof.Machine.execGetVersion req s
  | .getCapabilities req => Sys2Proof.Machine.execGetCapabilities req s
  | .negotiateAlgorithms req => Sys2Proof.Machine.execNegotiateAlgorithms req s
  | .getDigests req => Sys2Proof.Machine.execGetDigests req s
  | .getCertificate req => Sys2Proof.Machine.execGetCertificate req s
  | .challenge req => Sys2Proof.Machine.execChallenge req s
  | .getMeasurements req => Sys2Proof.Machine.execGetMeasurements req s
  | .spdmSignatureComplete => Sys2Proof.Machine.execSpdmSignatureComplete s
  | .farPageResolve => Sys2Proof.Machine.execFarPageResolve s
  | .poisonedPageReclaim bad => Sys2Proof.Machine.execPoisonedPageReclaim bad s
  | .scrubLine stall errors => Sys2Proof.Machine.execScrubLine stall errors s
  | .svnAdvance => Sys2Proof.Machine.execSvnAdvance s
  | .revokeSlot slot => Sys2Proof.Machine.execRevokeSlot slot s
  | .fuseBitProgram ok => Sys2Proof.Machine.execFuseBitProgram ok s
  | .rngTestFail proportion => Sys2Proof.Machine.execRngTestFail proportion s
  | .prEnable region data => Sys2Proof.Machine.execPrEnable region data s
  | .prInitComplete region => Sys2Proof.Machine.execPrInitComplete region s
  | .equaliseHalfTimeout port => Sys2Proof.Machine.execEqualiseHalfTimeout port s
  | .vaultLinkDown => Sys2Proof.Machine.execVaultLinkDown s
  | .lostMemberOfferTimeout => Sys2Proof.Machine.execLostMemberOfferTimeout s
  | .unsupportedMctpRequest type inst cmd => Sys2Proof.Machine.execUnsupportedMctpRequest type inst cmd s
  | .unsupportedSpdmRequest req => Sys2Proof.Machine.execUnsupportedSpdmRequest req s

end Sys2Proof.Machine
end

