-- ==== Sys2Proof/Safety.lean ====
section
/-!
DEFINITION. Safety.lean: the terms the statements are written in: what counts as a safe state, and per chapter the conditions under
which a command has the effect its rules give it and the effects that several statements name.
-/
namespace Sys2Proof

open Sys2Proof.Machine

/-- The command answers a next state with the given property. -/
def Gives (c : Instr) (s : State) (P : State → Prop) : Prop := ∃ t, exec c s = .next t ∧ P t

/-- Memory and the stalls are not parked in STABLED (R284, R316): the command answers a next state with the given property. -/
def GivesRuns (c : Instr) (s : State) (P : State → Prop) : Prop := s.parked = false → Gives c s P

/-- A packet for this node passes the local path: nothing is parked (R316), and the crossing to MESH is open (R283). -/
abbrev Reaches (s : State) : Prop := s.parked = false ∧ s.shut 3 1 0 = false

/-- HBM is in its canonical form: offsets strictly rising, no listed zero byte. -/
def MemOk (s : State) : Prop := Memory.wf s.mem = true

/-! ### The stall array -/

/-- A near-memory descriptor heads stall `k`'s queue and may start now: the unit is enabled and runs fewer than four, the ring is
not full, no fence or overlap holds it back, and neither STABLED nor FAILED stops the stall (R33, R37, R316). -/
def NmuReady (s : State) (k : Nat) (d : Bytes) (q : List Bytes) : Prop :=
  (s.stall k).nmuQ = d :: q ∧ nmuMayStart s k d = true ∧ s.stallFailed k = false ∧ s.clk.stable = .none

/-- `[o, o+n)` is local HBM whose home stalls hold no queued write and are not FAILED, so an access of a line acts at once. -/
def Quiet (s : State) (o n : Nat) : Prop :=
  o + n ≤ hbmBytes ∧ ∀ m, homeStall o ≤ m → m ≤ homeStall (o + n - 1) → (s.stall m).storeQ = [] ∧ s.stallFailed m = false

/-- Every line of `[o, o+n)` is clean. -/
def Clean (s : State) (o n : Nat) : Prop := ∀ l, o / 64 ≤ l → 64 * l < o + n → s.marks.get? l = none

/-! ### Attention -/

/-- An attention descriptor heads stall `k`'s queue and may start now (R68, R41, R315), the stall is not FAILED and STABLED does not
hold it. -/
def AttReady (s : State) (k : Nat) (it : AttItem) (rest : List AttItem) : Prop :=
  (s.work k).att = it :: rest ∧ attMayStart s k = true ∧ s.stallFailed k = false ∧ s.clk.stable = .none

/-- The attention command that serves an OP. -/
def attCommand (k : Fin 128) : Nat → Instr
  | 1 => .attDecode k none
  | 2 => .attPrefill k none
  | _ => .attBackward k none

/-! ### Page tables -/

/-- Nothing is in flight in HBM: no bad line, no queued line write, no FAILED stall, and STABLED is not held. -/
def Settled (s : State) : Prop :=
  s.marks = [] ∧ s.clk.stable = .none ∧ ∀ n, (s.stall n).storeQ = [] ∧ s.stallFailed n = false

/-- An append heads stall `k`'s queue and may start now (R41, R93, R95). -/
def AppendReady (s : State) (k : Nat) (a : AppendItem) (rest : List AppendItem) : Prop :=
  (s.work k).appends = a :: rest ∧ appendCould s k = true ∧ s.stallFailed k = false ∧ s.clk.stable = .none ∧
    (s.dutyNow k = .decode → attCould s k = false)

/-- `e` is the edit of operation `op` that stall `k` starts next (R95, R100). -/
def EditReady (s : State) (k op : Nat) (e : EditItem) : Prop :=
  s.kvp.edits.find? (fun e => e.stall == k && Ed.op e.desc == op && mayEdit s e) = some e

/-- The root line of an edit's table. -/
def rootLine (s : State) (e : EditItem) : Bytes := Memory.read s.mem (Ed.root e.desc) 64

/-- The edit names a LIVE table, and its EXPECT passes (R100). -/
def TableLive (s : State) (e : EditItem) : Prop :=
  rootOk (Ed.root e.desc) = true ∧ Root.state (rootLine s e) = Root.live ∧
    (Ed.noExpect e.desc = true ∨ Ed.expect e.desc = Root.epoch (rootLine s e))

/-- Pair header `i` of an edit's table lies in HBM; `h` is what it holds. -/
def PairAt (s : State) (e : EditItem) (i : Nat) (h : Bytes) : Prop :=
  pairIdx (rootLine s e) (Ed.layer e.desc) (Ed.kvh e.desc) = some i ∧
    pairOff (Ed.root e.desc) (rootLine s e) i + 64 ≤ hbmBytes ∧
    h = Memory.read s.mem (pairOff (Ed.root e.desc) (rootLine s e) i) 64

/-- The entries of a pair's list, PATCH in its place (R90). -/
def listEntries (s : State) (h : Bytes) : List (Nat × Nat) :=
  (List.range (Pair.npages h)).map fun i =>
    if i = Pair.patchIdx h then Pair.patchEnt h
    else (leNat (Memory.read s.mem (entryOff h i) 8), leNat (Memory.read s.mem (entryOff h i + 8) 4))

/-- Every list entry of a pair lies in HBM. -/
def ListOk (h : Bytes) : Prop := ∀ i, i < Pair.npages h → i ≠ Pair.patchIdx h → entryOff h i + 16 ≤ hbmBytes

/-- The edit writes no completion entry to memory. -/
def NoEntry (e : EditItem) : Prop := e.origin ≠ .software ∨ Ed.cqe e.desc = false

/-- The edit left the queue and its submitter was told: an internal one in the list of ends, software through the ring of stall
`ring`, where the entry waits while the ring is full (R100). -/
def EditEnds (s : State) (e : EditItem) (ring st result count : Nat) (t : State) : Prop :=
  t.kvp.edits = s.kvp.edits.filter (fun x => x.ord != e.ord) ∧
    (e.origin ≠ .software → t.kvp.done = s.kvp.done ++ [⟨e.origin, st, result, count⟩]) ∧
    (e.origin = .software → Ed.cqe e.desc = true → s.flag (Reg.STL_NMU_CQ_CTRL ring) F.STL_NMU_CQ_CTRL_EN = true →
      nmuRingFull s ring = true → ∃ d, (t.stall ring).nmuRun = (s.stall ring).nmuRun ++ [⟨d, st, result, count, false⟩])

/-- The edit stays queued with its new version built. -/
def EditBuilds (s : State) (e : EditItem) (b : Build) (t : State) : Prop :=
  ∃ w, t.kvp.edits = replaceIf (fun x => x.ord == e.ord)
    (fun _ => { e with build := some b, promoting := none, passed := true, waited := w }) s.kvp.edits

/-! ### Pedigree -/

/-- Node record `i` lies in HBM, apart from every other record. -/
def NodeOk (s : State) (i : Nat) : Prop := i < s.nodeCap ∧ s.nodeOff i + 64 ≤ hbmBytes ∧ s.nodeOff 0 % 64 = 0

/-- The bucket of a key has room in the table that takes inserts (R107, R117). -/
def BucketRoom (s : State) (key : Nat) : Prop :=
  match s.ped.rehash with
  | none => (s.ped.table.getD (key % 2 ^ s.pedLog2) []).length < 4
  | some (n, t, _) => (t.getD (key % 2 ^ n) []).length < 4

/-- Block 1 of a sequence hashes to this key and check (R105, R106). -/
def block1 (s : State) (team slot tokens prompt : Nat) : Nat × Nat :=
  pedBlock ((List.range (s.pedBlk slot)).map fun i => leNat (Memory.read s.mem (tokenOff tokens prompt i) 4))
    (pedStart team (s.reg (Reg.PED_SALT slot)))

/-- The tokens of block 1 lie in HBM. -/
def Block1Ok (s : State) (slot tokens prompt : Nat) : Prop :=
  ∀ i, i < s.pedBlk slot → tokenOff tokens prompt i + 4 ≤ hbmBytes

/-! ### Ledger -/

/-- Admission queue `q`, on a ring in local HBM, hands out command `c` next (R144). -/
def CmdAt (s : State) (q : Nat) (c : Bytes) : Prop :=
  let b := s.base (Reg.LDG_AQ_SQ_BASE_LO q)
  let n := 2 ^ s.fld (Reg.LDG_AQ_CTRL q) F.LDG_AQ_CTRL_SQ_LOG2
  let i := (s.aq q).head % n
  mayTake s q = true ∧ Settled s ∧ s.walk = false ∧ (s.aq q).passed = [] ∧ i ≠ (s.aq q).tail % n ∧ bit b 63 = false ∧
    b + 128 * i + 128 ≤ hbmBytes ∧ c = Memory.read s.mem (b + 128 * i) 128

/-- The state once queue `q` has handed out its next command. -/
def cmdTaken (s : State) (q : Nat) : State :=
  let n := 2 ^ s.fld (Reg.LDG_AQ_CTRL q) F.LDG_AQ_CTRL_SQ_LOG2
  s.updAq q fun y => { y with head := (y.head % n + 1) % n }

/-- `t` has written completion entry `e` to the next slot of queue `q`'s ring (R144). -/
def CqEntry (s : State) (q : Nat) (e : Bytes) (t : State) : Prop :=
  let b := s.base (Reg.LDG_AQ_CQ_BASE_LO q)
  let o := 32 * (s.aq q).cqSlot
  let e' := patch e 6 (toLE 1 (b2n (s.aq q).phase))
  (bit b 63 = false → b + o + 32 ≤ hbmBytes → Memory.read t.mem (b + o) 32 = e') ∧
    (bit b 63 = true → s.hostOpen = true → ∃ l l', t.out = s.out ++ l ++ .hostWrite (b % 2 ^ 63 + o) e' :: l')

/-- The next slot of queue `q`'s completion ring is in host memory or apart from `[o, o+n)`. -/
def CqApart (s : State) (q o n : Nat) : Prop :=
  let b := s.base (Reg.LDG_AQ_CQ_BASE_LO q)
  let c := b + 32 * (s.aq q).cqSlot
  bit b 63 = true ∨ c + 32 ≤ o ∨ o + n ≤ c

/-- A slot's record as it stands. -/
def recAt (s : State) (slot : Nat) : Bytes := Memory.read s.mem (s.recOff slot) 128

/-- Record lines of `slot` lie in HBM. -/
def RecOk (s : State) (slot : Nat) : Prop := s.recOff slot % 64 = 0 ∧ s.recOff slot + 128 ≤ hbmBytes

/-- The handle names a slot in use at this home (R119), and its record can be read. -/
def Named (s : State) (h : Nat) : Prop := handleStatus s h = St.ok ∧ RecOk s (hSlot h) ∧ Settled s

/-- The first ledger message of a KIND in the inbox is `m`. -/
def LdgNext (s : State) (kind : Nat) (m : Msg) : Prop := s.takeLdg kind = some (m, { s with inbox := s.inbox.erase m })

/-- The lines of a context are readable (R131). -/
def CtxOk (s : State) (c : OwnerCtx) : Prop := Settled s ∧ s.ctxOff c.place + 2048 ≤ hbmBytes

/-- How R134's procedure ends a step: none, or the status and reason. -/
def stepVerdict (c : OwnerCtx) (status token now : Nat) : Option (Nat × Nat) :=
  let why := if status = St.ok ∧ token ≠ 0xFFFFFFFF then
      stopReason c.stop (stopStep c.stop c.d token) token ((Lr.ngen c.record + 1) % 2 ^ 32) (Lr.maxNew c.record)
    else 0
  if status ≠ St.ok then some (status, 0)
  else if why ≠ 0 then some (St.ok, why)
  else if c.cancel then some (St.cancelled, 0)
  else match c.deadline with
    | some t => if t ≤ now then some (St.deadline, 0) else none
    | none => none

/-! ### Harness links -/

/-- Harness port `p` has its four lanes. -/
def Lanes4 (s : State) (p : Nat) : Prop := (s.port p).lanes.length = 4

/-- `t` differs from `s` in ports and their crossings, and in what an event record and a control slot change. -/
def LinkOnly (s t : State) : Prop :=
  t = { s with ports := t.ports, regs := t.regs, out := t.out, far := t.far, host := t.host, groomLog := t.groomLog, clk := t.clk }

/-- Lanes on which a port sends frames that train: the set it chooses from (R160, R161). -/
def trainSet (x : Port) : Nat := if x.state = .equalise then x.laneEn else x.lastSet

/-- `t` has port `p` in LOCK on the set `m`. -/
def LocksOn (p m : Nat) (t : State) : Prop :=
  (t.port p).state = .lock ∧ (t.port p).txSet = m ∧ (t.port p).rxSet = m ∧ .align p m (alignBlocks m) ∈ t.out

/-- `t` has port `p` UP with the neighbour that HELLO slot `h` names (Table HLK-4, HLK_NEIGHBOUR). -/
def UpWith (p : Nat) (h : Bytes) (now : Nat) (t : State) : Prop :=
  (t.port p).state = .up ∧ (t.port p).armed = true ∧ (t.port p).lifeTick = now ∧ (t.port p).peerShare = Sl.quad h 8 ∧
    t.flag (Reg.HLK_NEIGHBOUR p) F.HLK_NEIGHBOUR_VALID = true ∧ t.fld (Reg.HLK_NEIGHBOUR p) F.HLK_NEIGHBOUR_NODE = Sl.node h ∧
    t.fld (Reg.HLK_NEIGHBOUR p) F.HLK_NEIGHBOUR_PORT = Sl.port h ∧ t.fld (Reg.HLK_NEIGHBOUR p) F.HLK_NEIGHBOUR_ROLE = Sl.role h

/-- `t` has entered RETRAIN on port `p` with a cause (R161). -/
def Retrains (s : State) (p cause : Nat) (t : State) : Prop :=
  (t.port p).state = .retrain ∧ (t.port p).lastSet = (s.port p).txSet ∧ (t.port p).cause = cause ∧
    (t.port p).armed = (s.port p).armed ∧ t.reg (Reg.HLK_RETRAINS p) = (s.reg (Reg.HLK_RETRAINS p) + 1) % 2 ^ 32

/-- Control slot `b` as a port receives it. -/
def slot64 (b : Bytes) : Bytes := padTo 64 b

/-! ### Transport -/

/-- The byte at offset `a` of local HBM once its home controller has applied the writes it holds (R28). -/
def homeByte (s : State) (a : Nat) : Byte := Memory.byte (s.drainHome (homeStall a)).mem a

/-- Bytes `[a, a+n)` of local HBM, read so. -/
def homeRead (s : State) (a n : Nat) : Bytes := (List.range n).map fun i => homeByte s (a + i)

/-- Every line of `[a, a+n)` is good and its stall not FAILED. -/
def LinesGood (s : State) (a n : Nat) : Prop :=
  ∀ l ∈ linesOf a n, s.marks.get? l = none ∧ s.stallFailed (homeStall (64 * l)) = false

/-- HBM outside `[a, a+n)` reads as before. -/
def SameOutside (s : State) (a n : Nat) (t : State) : Prop :=
  ∀ x, x < hbmBytes → x < a ∨ a + n ≤ x → homeByte t x = homeByte s x

/-- A good packet `p` of opcode `op` stands in the bytes `pkt`, and no meter stands at the port (R171, R236). -/
def GoodPkt (s : State) (port op : Nat) (pkt : Bytes) (p : Pkt) : Prop :=
  Pkt.parse pkt = some (p, p.crc) ∧ p.opcode = op ∧
    (s.flag (Reg.HLK_NEIGHBOUR port) F.HLK_NEIGHBOUR_VALID = false ∨ s.fld (Reg.HLK_NEIGHBOUR port) F.HLK_NEIGHBOUR_ROLE ≠ 3)

/-- Request `p` for this node is new by its sequence, and its turn has come (R175 steps 4 to 6, R179). -/
def NewReq (s : State) (p : Pkt) : Prop :=
  p.dst = s.node ∧ Reaches s ∧ ∃ r, s.htp.rx.get? p.src = some r ∧ seqCheck s r p = .fresh ∧ r.csn < 2 ^ 32 ∧
    (p.ordered = true → p.seq = (r.csn + 1) % 2 ^ 32) ∧
    ∀ l ∈ rangeFrom ((s.base Reg.HTP_RX_BASE_LO + 1024 * p.src) / 64) 16, s.lineStatus l = St.ok

/-- The packet's team has an entry here, not ended, of the packet's epoch (Table TEM-4). -/
def TeamNow (s : State) (p : Pkt) : Prop :=
  ∃ k, s.teamSlot p.team = some k ∧ p.epoch = s.fld (Reg.TEM_TEAM_STATUS k) F.TEM_TEAM_STATUS_EPOCH ∧
    s.fld (Reg.TEM_TEAM_STATUS k) F.TEM_TEAM_STATUS_STATE ≠ 2

/-- The sequence of `p` has completed: CSN has reached it, or its window bit is set (R176). -/
def SeqDone (s : State) (p : Pkt) (t : State) : Prop :=
  ∀ r, s.htp.rx.get? p.src = some r → ∃ q, t.htp.rx.get? p.src = some q ∧ q.incarn = r.incarn ∧
    (p.seq = (r.csn + 1) % 2 ^ 32 → r.window = [] → q.csn = p.seq ∧ q.window = []) ∧
    (p.seq ≠ (r.csn + 1) % 2 ^ 32 → (r.csn + 1) % 2 ^ 32 ∉ r.window → q.csn = r.csn ∧ q.window = r.window ++ [p.seq])

/-- A packet with the given property waits at a port output of `t` or has left by it. -/
def Sent (P : Pkt → Prop) (t : State) : Prop :=
  ∃ q, P q ∧ ∃ port, .packet port q ∈ t.out ∨ ∃ it ∈ (t.port port).txq, it.pkt = q

/-- A route to the sender of `p` is usable for its answer. -/
def CanAnswer (s : State) (p : Pkt) : Prop :=
  (s.choosePort { dst := p.src, src := s.node, opcode := Op.ack, path := p.path }).isSome = true

/-- `p` is answered by `op` with a status and data (Table HTP-2). -/
def Answered (s : State) (p : Pkt) (op status : Nat) (data : Bytes) (t : State) : Prop :=
  CanAnswer s p → Sent (fun q => q.dst = p.src ∧ q.src = s.node ∧ q.opcode = op ∧ q.seq = p.seq ∧ q.tse = p.tse ∧
    q.status = status ∧ q.unsync = false ∧ q.payload = data) t

/-- No combining group reaches into the lines of `[a, a+n)`, and the packet opens and joins none (R186). -/
def Uncombined (s : State) (p : Pkt) : Prop :=
  s.htp.combs = [] ∧ (p.nocomb = true ∨ s.flag Reg.HTP_CTRL F.HTP_CTRL_COMB_EN = false ∨
    s.fld Reg.HTP_COMB_WIN F.HTP_COMB_WIN_WIN = 0 ∨ (p.opcode ≠ Op.load ∧ p.opcode ≠ Op.fetchAdd))

/-- The units a memory request does not reach. -/
def UnitsKept (s t : State) : Prop :=
  t.ldg = s.ldg ∧ t.ped = s.ped ∧ t.kvp = s.kvp ∧ t.tem = s.tem ∧ t.pkh = s.pkh ∧ t.cou = s.cou ∧ t.works = s.works

/-- A STORE or PUT of payload `d` has been taken at its target. -/
def StoreTaken (s : State) (p : Pkt) (t : State) : Prop :=
  homeRead t p.addr p.length = p.payload ∧ SameOutside s p.addr p.length t ∧ UnitsKept s t

/-- The commands of the six message opcodes (R180). -/
def msgCommand (port : Fin 16) (pkt : Bytes) (op : Nat) : Instr :=
  if op = Op.attn then .attnPacket port pkt else if op = Op.append then .appendPacket port pkt
  else if op = Op.record then .recordPacket port pkt else if op = Op.ledger then .ledgerPacket port pkt
  else if op = Op.pedigree then .pedigreePacket port pkt else .teamPacket port pkt

/-- Old value of an atomic's operand. -/
def oldVal (s : State) (p : Pkt) : Nat := leNat (homeRead s p.addr p.size)

/-- The fairness stage has room for packet `p` at port `q` (R234). -/
def FairRoom (s : State) (q : Nat) (p : Pkt) : Prop :=
  s.flag Reg.RNS_CTRL F.RNS_CTRL_FAIR_EN = false ∨ ((s.port q).txq = [] ∧ p.slots ≤ s.fld Reg.RNS_FAIR_QMAX F.RNS_FAIR_QMAX_QMAX)

/-- No request to destination `d` waits, of the transport or of Courier. -/
def NoneWait (s : State) (d : Nat) : Prop :=
  (s.dest d).waiting = [] ∧ ∀ c x, (c, x) ∈ s.cou.conns → x.peer = d → x.waiting = []

/-! ### Courier -/

/-- The record lines of connection `c` hold nothing bad (Table FAR-3). -/
def ConnGood (s : State) (c : Nat) : Prop :=
  ∀ m ∈ s.marks, m.1 < (s.base Reg.COU_CONN_BASE_LO + 32768 * c) / 64 ∨ (s.base Reg.COU_CONN_BASE_LO + 32768 * c) / 64 + 512 ≤ m.1

/-- A good Courier packet of opcode `op` reaches the OPEN connection `p.flow` from its peer (Table COU-6, step 1). -/
def CouOpen (s : State) (port op : Nat) (pkt : Bytes) (p : Pkt) : Prop :=
  GoodPkt s port op pkt p ∧ p.dst = s.node ∧ Reaches s ∧ p.flow < s.connCap ∧ s.couOn = true ∧ (s.conn p.flow).state = .opened ∧
    p.src = (s.conn p.flow).peer ∧ ConnGood s p.flow

/-- It is of the connection's team too (step 3). -/
def CouAt (s : State) (port op : Nat) (pkt : Bytes) (p : Pkt) : Prop :=
  CouOpen s port op pkt p ∧ p.team = (s.conn p.flow).team

/-- Its sequence is new (R202). -/
def CouFresh (s : State) (p : Pkt) : Prop := couSeq s p.flow (s.conn p.flow) p = .fresh

/-- Extent record `i` is readable and holds `e`. -/
def ExtAt (s : State) (i : Nat) (e : Bytes) : Prop :=
  i < s.extCap ∧ s.extOff i % 32 = 0 ∧ s.extOff i + 32 ≤ hbmBytes ∧ LinesGood s (s.extOff i) 32 ∧ e = homeRead s (s.extOff i) 32

/-- `p` is answered with a Courier status and cause (R196). -/
def CouSays (s : State) (p : Pkt) (op status cause : Nat) (t : State) : Prop :=
  CanAnswer s p → Sent (fun q => q.dst = p.src ∧ q.opcode = op ∧ q.seq = p.seq ∧ q.flow = p.flow ∧ couStatus q = (status, cause)) t

/-- The sequence of `p` has completed on its connection (R202). -/
def ConnDone (s : State) (p : Pkt) (t : State) : Prop :=
  let x := s.conn p.flow
  let y := t.conn p.flow
  (p.seq = (x.csn + 1) % 2 ^ 32 → x.window = [] → y.csn = p.seq ∧ y.window = []) ∧
    (p.seq ≠ (x.csn + 1) % 2 ^ 32 → (x.csn + 1) % 2 ^ 32 ∉ x.window → p.seq ∉ x.window → y.csn = x.csn ∧ y.window = x.window ++ [p.seq])

/-- The queue `k`, on a ring in local HBM with room, has taken entry `e` into its next slot (R208). -/
def CouCqe (s : State) (k : Nat) (e : Bytes) (t : State) : Prop :=
  let q := s.couCq k
  q.valid = true → q.full = false → q.held = [] → bit q.base 63 = false → q.base + 32 * q.slot + 32 ≤ hbmBytes →
    LinesGood s (q.base + 32 * q.slot) 32 → homeRead t (q.base + 32 * q.slot) 32 = patch e 7 (toLE 1 (b2n q.phase))

/-- Command `b` heads Courier's queue and may be taken (R198). -/
def AdmAt (s : State) (op : Nat) (b : Bytes) (rest : List Bytes) : Prop :=
  s.cou.adm = b :: rest ∧ s.couOn = true ∧ (s.couCq (s.fld Reg.COU_CTRL F.COU_CTRL_ADM_CQ)).full = false ∧ Ca.op b = op ∧
    Ca.reserved b = false

/-- The queue that command completions go to. -/
def Machine.State.admCq (s : State) : Nat := s.fld Reg.COU_CTRL F.COU_CTRL_ADM_CQ

/-- CONNECT's operands are in range (R198). -/
def ConnectOk (s : State) (b : Bytes) : Prop :=
  Ca.conn b < s.connCap ∧ Ca.domain b < 4096 ∧ Ca.team b < 4096 ∧ 4 ≤ Ca.log2a b ∧ Ca.log2a b ≤ 12 ∧ 4 ≤ Ca.log2b b ∧ Ca.log2b b ≤ 12

/-- Work request `w` is next on the send ring of connection `c`, a ring in local HBM, and may be taken (R207). -/
def WrAt (s : State) (c : Nat) (w : Bytes) : Prop :=
  let x := s.conn c
  s.couOn = true ∧ s.walk = false ∧ x.state = .opened ∧ x.sqHead ≠ x.sqTail ∧ (s.couCq x.cq).full = false ∧
    bit x.sendBase 63 = false ∧ x.sendBase % 64 = 0 ∧ x.sendBase + 64 * x.sqHead + 64 ≤ hbmBytes ∧
    LinesGood s (x.sendBase + 64 * x.sqHead) 64 ∧ w = homeRead s (x.sendBase + 64 * x.sqHead) 64 ∧
    (Wq.fence w = true → x.wrs = [])

/-- The commands that take work requests. -/
def wrCommand (c : Fin 8192) (e d : HostRead) : Nat → Instr
  | 1 => .wrSend c e d
  | 2 => .wrWrite c e d
  | 3 => .wrWriteImm c e d
  | 4 => .wrRead c e
  | _ => .wrAtomic c e

/-! ### Teams -/

/-- The first team message of a KIND in the inbox is `m`. -/
def TemNext (s : State) (kind : Nat) (m : Msg) : Prop := s.takeTem kind = some (m, { s with inbox := s.inbox.erase m })

/-- Node `n` is sent a team message with the given property: delivered at once here, handed to the transport elsewhere. -/
def TeamTold (s : State) (n : Nat) (P : Bytes → Prop) (t : State) : Prop :=
  (n = s.node → ∃ m ∈ t.inbox, m.op = Op.team ∧ P m.data) ∧
    (n ≠ s.node → ∃ r ∈ (t.dest n).waiting ++ (t.dest n).out, r.pkt.opcode = Op.team ∧ P r.pkt.payload)

/-- A message of a KIND for a team and epoch (Table TEM-3). -/
def TeamMsg (kind team epoch status : Nat) (d : Bytes) : Prop :=
  Tm.kind d = kind ∧ Tm.team d = team % 4096 ∧ Tm.epoch d = epoch % 256 ∧ Tm.status d = status % 256

/-- The change has completed with a status (R216). -/
def ChgDone (status : Nat) (t : State) : Prop :=
  t.tem.change = none ∧ t.flag Reg.TEM_CHG F.TEM_CHG_BUSY = false ∧ t.flag Reg.TEM_CHG F.TEM_CHG_DONE = true ∧
    t.fld Reg.TEM_CHG F.TEM_CHG_STATUS = status % 256

/-- `m` belongs to the change `c` in progress here. -/
def ChgFor (s : State) (c : Change) (m : Bytes) : Prop :=
  s.tem.change = some c ∧ c.map.team = Tm.team m ∧ c.map.epoch = Tm.epoch m

/-- STATUS of a team entry. -/
def temStatus (s : State) (k : Nat) (f : Field) : Nat := s.fld (Reg.TEM_TEAM_STATUS k) f

/-- The PUT of `data` to an offset of node `n` has been handed to the transport. -/
def PutSent (n off : Nat) (data : Bytes) (t : State) : Prop :=
  ∀ i, 4096 * i < data.length → ∃ r ∈ (t.dest n).waiting ++ (t.dest n).out, r.pkt.opcode = Op.put ∧
    r.pkt.offset = off + 4096 * i ∧ r.pkt.payload = (data.drop (4096 * i)).take 4096

/-! ### Reins -/

/-- F of the host shaper at this tick (R235). -/
def shaperNow (s : State) : Int :=
  let burst : Int := s.reg Reg.RNS_HOST_BURST
  if s.flag Reg.RNS_CTRL F.RNS_CTRL_SHAPE_EN = false then burst
  else min burst (s.rns.fill + ((s.rns.fillRem + s.reg Reg.RNS_HOST_RATE * (s.nowH - s.rns.fillTick)) / 1000 : Nat))

/-- The tenant entry of 32 bytes as it reads. -/
def tenAt (s : State) (t : Nat) : Bytes := homeRead s (s.tenOff t) 32

/-- Lines of a tenant entry are good and in HBM. -/
def TenGood (s : State) (t : Nat) : Prop := s.tenOff t + 32 ≤ hbmBytes ∧ LinesGood s (s.tenOff t) 32

/-- A packet of `n` payload bytes at the meter of a port: Tc and Tp at this tick, and its cost, in thousandths of a byte (R236). -/
def meterNow (s : State) (p n : Nat) : Nat × Nat × Nat :=
  let c := 64 * s.fld (Reg.RNS_MTR_SIZES p) F.RNS_MTR_SIZES_CBS
  let q := max c (64 * s.fld (Reg.RNS_MTR_SIZES p) F.RNS_MTR_SIZES_PBS)
  let (tc, tp, last) := s.rns.meters.getD p (1000 * c, 1000 * q, s.nowH)
  let cir := s.reg (Reg.RNS_MTR_CIR p)
  (min (1000 * c) (tc + cir * (s.nowH - last)), min (1000 * q) (tp + max cir (s.reg (Reg.RNS_MTR_PIR p)) * (s.nowH - last)),
    1000 * (36 + n + s.fld (Reg.RNS_MTR_CFG p) F.RNS_MTR_CFG_OVH))

/-! ### Packhorse -/

/-- Command `c` has completed: it has left the queue, and a completion ring in local HBM with room has its entry (R254, R37). -/
def PkhSays (s : State) (c : PkhCmd) (status result bytes : Nat) (t : State) : Prop :=
  let b := s.base Reg.PKH_CQ_BASE_LO
  let o := b + 16 * s.pkh.cqSlot
  t.pkh.cmds = s.pkh.cmds.filter (·.id != c.id) ∧
    (bit (fld c.desc 1 1) 0 = true → s.flag Reg.PKH_CQ_CTRL F.PKH_CQ_CTRL_EN = true → pkhRingFull s = false → s.pkh.held = [] →
      bit b 63 = false → o + 16 ≤ hbmBytes → LinesGood s o 16 →
      fld (homeRead t o 16) 0 4 = fld c.desc 4 4 ∧ fld (homeRead t o 16) 4 1 = status % 256 ∧
        fld (homeRead t o 16) 5 1 = Pc.op c.desc ∧ fld (homeRead t o 16) 6 2 = b2n s.pkh.cqPhase ∧
        fld (homeRead t o 16) 8 4 = result % 2 ^ 32 ∧ fld (homeRead t o 16) 12 4 = bytes % 2 ^ 32)

/-- The command asks for no completion entry and no event. -/
def NoCqe (c : PkhCmd) : Prop := fld c.desc 1 1 % 4 = 0

/-- A move of a page is in progress in `t`. -/
def Moving (src dst : Nat) (stage : Stage) (t : State) : Prop :=
  ∃ m ∈ t.pkh.moves, m.src = src ∧ m.dst = dst ∧ m.stage = stage

/-- A REPLACE of the entry at index `i`, read under `epoch`, has been submitted (R248 step 4). -/
def Replaces (root epoch i pte : Nat) (t : State) : Prop :=
  ∃ e ∈ t.kvp.edits, Ed.op e.desc = 0x12 ∧ Ed.root e.desc = root ∧ fld e.desc 2 2 = epoch % 65536 ∧ bit (fld e.desc 1 1) 2 = false ∧
    fld e.desc 32 4 = i % 2 ^ 32 ∧ Ed.arg e.desc = pte % 2 ^ 64

/-- A ticket's record of a given status, buffer and address has been handed to the transport for REPLY (Table PKH-7). -/
def TicketSays (s : State) (tk : Bytes) (status waddr len buf : Nat) (t : State) : Prop :=
  t.reg Reg.PKH_TICKETS = (s.reg Reg.PKH_TICKETS + 1) % 2 ^ 32 ∧
    (Tk.reply tk / 2 ^ 48 ≠ s.node → ∃ r ∈ (t.dest (Tk.reply tk / 2 ^ 48)).waiting ++ (t.dest (Tk.reply tk / 2 ^ 48)).out,
      r.pkt.opcode = Op.put ∧ r.pkt.offset = Tk.reply tk % 2 ^ 48 ∧ fld r.pkt.payload 0 4 = Tk.tag tk ∧
      fld r.pkt.payload 4 1 = status % 256 ∧ fld r.pkt.payload 8 8 = waddr % 2 ^ 64 ∧ fld r.pkt.payload 16 4 = len % 2 ^ 32 ∧
      fld r.pkt.payload 20 2 = buf % 65536)

/-- The first taken ticket of an OP is `tk`, taken at tick `at'`. -/
def TakenNext (s : State) (p : Nat → Bool) (tk : Bytes) (at' : Nat) : Prop :=
  s.pkh.taken.find? (fun x => p (Tk.op x.1)) = some (tk, at')

/-- A layer's descriptor in its model entry's table (R255). -/
def LayerIs (s : State) (model layer src pages : Nat) : Prop :=
  let e := s.modelEntry model
  let o := Me.ltab e + 16 * layer
  model < 64 ∧ Me.v e = true ∧ layer < Me.nlayers e ∧ o + 16 ≤ hbmBytes ∧ LinesGood s o 16 ∧
    fld (homeRead s o 16) 0 8 = src ∧ fld (homeRead s o 16) 8 4 = pages

/-- STATE of the vault. -/
def vaultIs (t : State) (x : Nat) : Prop := t.fld Reg.PKH_VAULT_STATUS F.PKH_VAULT_STATUS_STATE = x

/-- A vault command of the opcode has been issued: it has left, or waits for room in its queue (R260). -/
def VaultCmd (s : State) (opcode : Nat) (t : State) : Prop :=
  (∃ l q cid lba n d l', t.out = s.out ++ l ++ .vaultCmd q opcode cid lba n d :: l') ∨
    ∃ l, t.pkh.vault.waiting = s.pkh.vault.waiting ++ l ∧ ∃ c ∈ l, c.opcode = opcode

/-- HBM outside the vault's queues, 1 MiB at PKH_VQ_BASE, reads as before. -/
def QueuesOnly (s t : State) : Prop := SameOutside s (s.base Reg.PKH_VQ_BASE_LO) 0x100000 t

/-! ### Host port -/

/-- A BAR2 request meets no wait in the host shaper (R235). -/
def ShaperFree (s : State) : Prop := 0 ≤ shaperNow s ∧ s.rns.waiting = [] ∧ s.walk = false

/-- A STORE of `data` for BAR2 address `addr` under aperture entry `e` has gone out: taken by this module's home controllers where
the entry names this node, handed to the transport otherwise (R269, R270, R192). -/
def Bar2Stored (s : State) (e : Bytes) (addr : Nat) (data : Bytes) (t : State) : Prop :=
  let o := Aper.base e + addr % 0x10000000
  (Aper.node e ≠ s.node → ∃ r ∈ (t.dest (Aper.node e)).waiting ++ (t.dest (Aper.node e)).out, r.pkt.opcode = Op.store ∧
    r.pkt.offset = o ∧ r.pkt.payload = data ∧ r.pkt.team = Aper.team e ∧ r.pkt.epoch = apEpoch s e ∧
    r.pkt.ordered = Aper.ordered e) ∧
  (Aper.node e = s.node → o % 64 = 0 → o + data.length ≤ hbmBytes → LinesGood s o data.length → homeRead t o data.length = data ∧
    SameOutside s o data.length t)

/-- A write TLP of whole lines (R270). -/
def WholeLines (addr : Nat) (data : Bytes) : Prop := addr % 64 = 0 ∧ data.length % 64 = 0 ∧ data ≠ []

/-- Vector `v` has been sent in `t` as the MSI-X table says. -/
def MsixOut (s : State) (v : Nat) (t : State) : Prop :=
  ∃ l l', t.out = s.out ++ l ++ .msix v (s.msixEntry v).1 (s.msixEntry v).2.1 :: l'

/-! ### Tack image -/

/-- Start-up has ended in FAILED with an error code; the image may or may not be supplied again (R306). -/
def Failed (s : State) (code : Nat) (retry : Bool) (t : State) : Prop :=
  t.phase = 15 ∧ t.fld Reg.TCK_STATUS F.TCK_STATUS_ERR = code ∧ t.flag Reg.TCK_STATUS F.TCK_STATUS_BUSY = false ∧
    t.flag Reg.GLB_SUMMARY F.GLB_SUMMARY_TACK_FAIL = true ∧ t.ready = s.ready ∧ t.locked = s.locked ∧ t.tck.retry = retry ∧
    t.tck.todo = []

/-- The bytes of the source reach the controller: from the tack store, or through an open host port. -/
def SourceOpen (s : State) : Prop := s.tck.source ≠ 1 ∨ s.hostOpen = true

/-- Steps 3 to 5 do not stop verification (R297). -/
def ChecksPass (s : State) (h : Bytes) : Prop := s.secure = false ∨ (keyOk s h = true ∧ svnOk s h = true ∧ sigGood h = true)

/-- A reload ends with an error and has applied nothing (R307). -/
def ReloadFails (s : State) (code entry type inst : Nat) (t : State) : Prop :=
  t.fld Reg.TCK_STATUS F.TCK_STATUS_RERR = code ∧ t.flag Reg.TCK_STATUS F.TCK_STATUS_DONE = true ∧
    t.flag Reg.TCK_STATUS F.TCK_STATUS_BUSY = false ∧ t.reg Reg.TCK_RELOAD_FAIL = (s.reg Reg.TCK_RELOAD_FAIL + 1) % 2 ^ 32 ∧
    t.reg Reg.TCK_SECT_APPLIED = s.reg Reg.TCK_SECT_APPLIED ∧ t.mem = s.mem ∧ t.tck.todo = [] ∧
    (s.far.events.length < 256 → t.far.events = s.far.events ++ [s.record Tag.tck 0x0002 Sev.degraded 0 [code, entry, type, inst]])

/-- The module serves: step 7 of R304 is done. -/
def Serves (t : State) : Prop :=
  t.ready = true ∧ t.phase = 7 ∧ t.flag Reg.TCK_STATUS F.TCK_STATUS_BUSY = false ∧ t.tck.finishing = false

/-! ### Power and the groom -/

/-- A controlled shutdown has begun with the given CAUSE and detail (R312). -/
def ShutDown (s : State) (cause what input : Nat) (t : State) : Prop :=
  t.held = true ∧ t.running = false ∧ t.mem = [] ∧ t.grm.rails = .falling 9 ∧ t.grm.hold = true ∧
    t.flag Reg.PWR_STATUS F.PWR_STATUS_SHUTDOWN = true ∧ t.fld Reg.PWR_STATUS F.PWR_STATUS_CAUSE = cause ∧
    t.reg Reg.PWR_SHUTDOWNS = (s.reg Reg.PWR_SHUTDOWNS + 1) % 2 ^ 32 ∧ t.fld Reg.PWR_GAIT F.PWR_GAIT_REQ = 3 ∧ t.alert = true ∧
    ∃ e ∈ t.groomLog, e.tag = Tag.pwr ∧ e.code = 0x0003 ∧ e.sev = Sev.fatal ∧
      e.detail = padTo 12 (([cause, what] ++ two input).map (BitVec.ofNat 8))

/-- The main rails are on or coming up. -/
def RailsUp (s : State) : Prop := s.grm.rails = .on ∨ ∃ k, s.grm.rails = .rising k

/-- ARITH runs, out of STABLED, with no clock change under way (R279, R316). -/
def ClockQuiet (s : State) : Prop := s.held = false ∧ s.clk.stable = .none ∧ s.clk.shift = .none

/-- Nothing waits for a faster gait (R315). -/
def NothingHeld (s : State) : Prop := s.rns.waiting = [] ∧ s.host.doorbells = [] ∧ s.htp.answered = []

/-- A gait change was counted and logged where the gait is another (R314). -/
def GaitIs (s : State) (g why : Nat) (t : State) : Prop :=
  t.gait = g ∧ (g ≠ s.gait → t.reg Reg.PWR_GAIT_CHANGES = (s.reg Reg.PWR_GAIT_CHANGES + 1) % 2 ^ 32 ∧
    ∃ e ∈ t.groomLog, e.tag = Tag.pwr ∧ e.code = 0x0004 ∧ e.detail = padTo 12 ([s.gait, g, why, 0].map (BitVec.ofNat 8))) ∧
  (g = s.gait → t.reg Reg.PWR_GAIT_CHANGES = s.reg Reg.PWR_GAIT_CHANGES)

/-! ### Farrier -/

/-- No answer for a FAILED stall is due (R341). -/
def NoneDue (s : State) : Prop := s.far.failDue = []

/-- Event queue `q` takes the record: its next index has moved on by one. -/
def EvqTakes (s : State) (q : Nat) (t : State) : Prop :=
  t.host.evqIdx.getD q 0 = (s.host.evqIdx.getD q 0 + 1) % 2 ^ s.fld (Reg.HST_EVQ_CTRL q) F.HST_EVQ_CTRL_LOG2

/-- Event queue `q` is enabled and not full (R277). -/
def EvqOpen (s : State) (q : Nat) : Prop :=
  s.flag (Reg.HST_EVQ_CTRL q) F.HST_EVQ_CTRL_EN = true ∧
    let n := 2 ^ s.fld (Reg.HST_EVQ_CTRL q) F.HST_EVQ_CTRL_LOG2
    (s.host.evqIdx.getD q 0 + 1) % n ≠ s.fld (Reg.HST_EVQ_HEAD q) F.HST_EVQ_HEAD_HEAD % n

/-- The state in which Farrier has taken `page` in hand (R336). -/
def taken (s : State) (page : Nat) (rest : List Nat) : State :=
  s.updFar fun f => { f with toResolve := rest, resolved := (page :: f.resolved.filter (· != page)).take 64 }

/-- The line that the scrubber of stall `n` reads next (R340). -/
def scrubNext (s : State) (n : Nat) : Nat := n * stallLines + s.far.scrubAt.getD n 0

/-- The scrubber of stall `n` may read (R340, R315). -/
def ScrubOn (s : State) (n : Nat) : Prop :=
  s.flag Reg.FAR_CTRL F.FAR_CTRL_SCRUB_EN = true ∧ s.walk = false ∧ s.stallFailed n = false ∧ n ∉ s.far.scrubDone ∧
    (s.stall n).storeQ = [] ∧ NoneDue s

/-- The stall's uncorrectable lines stay below its limit with one more (R341). -/
def BelowLimit (s : State) (n : Nat) : Prop :=
  (s.far.chUe.getD n []).length + 1 < s.fld Reg.FAR_STALL_LIMIT F.FAR_STALL_LIMIT_CH_UE

/-! ### Assay and the management port -/

/-- A fuse command has ended with a status: FUSE_BUSY is 0 and ASY 0x0001 is raised (R351, R360). -/
def FuseEnds (s : State) (op arg status svn : Nat) (t : State) : Prop :=
  t.asy.fuse = none ∧ t.flag Reg.ASY_STATUS F.ASY_STATUS_FUSE_BUSY = false ∧
    t.fld Reg.ASY_STATUS F.ASY_STATUS_FUSE_STATUS = status ∧ t.asy.svnMin = svn ∧ t.mem = s.mem ∧
    (s.far.events.length < 256 → t.far.events = s.far.events ++ [s.record Tag.asy 0x0001 Sev.info 0 [op, arg, status, svn]])

/-- The burnt bits of KEY_REVOKE and SVN_MIN are those of `s`. -/
def SameFuses (s t : State) : Prop := t.asy.svnMin = s.asy.svnMin ∧ t.asy.keyRevoke = s.asy.keyRevoke

/-- Assay takes fuse commands (R351). -/
def FuseOpen (s : State) : Prop := s.ready = true ∧ s.flag Reg.TCK_STATUS F.TCK_STATUS_UNSIGNED = false

/-- `[a, a+m)` and `[b, b+n)` have nothing in common. -/
def Apart (a m b n : Nat) : Prop := a + m ≤ b ∨ b + n ≤ a

/-- The conditions under which region r may be enabled (R357). -/
def PrMayEnable (s : State) (r : Nat) : Prop :=
  let b := prBase s r
  let n := prPages s r
  let sh := prShadow s r
  let m := (n + 15) / 16
  1 ≤ n ∧ b + n ≤ 18874368 - 16384 ∧ sh + m ≤ 18874368 - 16384 ∧ pagesFree s b (b + n) = true ∧ pagesFree s sh (sh + m) = true ∧
    ∀ q, q < 16 → q ≠ r → prOn s q = true → Apart b n (prBase s q) (prPages s q) ∧ Apart sh m (prBase s q) (prPages s q) ∧
      Apart b n (prShadow s q) ((prPages s q + 15) / 16) ∧ Apart sh m (prShadow s q) ((prPages s q + 15) / 16)

/-- The groom answers with one MCTP message, and nothing else changes. -/
def Replies (s : State) (msg : Bytes) (t : State) : Prop := t = { s with out := s.out ++ [.smbus msg] }

/-- A list of numbers as bytes. -/
def asBytes (l : List Nat) : Bytes := l.map (BitVec.ofNat 8)

/-- An MCTP control reply and a vendor reply (R327, R328, Table GRM-3). -/
def ctlMsg (inst cmd code : Nat) (data : Bytes) : Bytes := asBytes [0, inst, cmd, code] ++ data
def vendorMsg (code : Nat) (data : Bytes) : Bytes := asBytes [0x7E, 0x1F, 0xA7, code] ++ data

/-- The responder answers: the module is ON and start-up past phase 2 (R353). -/
def SpdmAnswers (s : State) : Prop :=
  s.grm.up = true ∧ s.grm.rails = .on ∧ s.held = false ∧ 3 ≤ s.phase ∧ s.fld Reg.TCK_STATUS F.TCK_STATUS_ERR ≠ 15

/-- An SPDM message leaves; beside it only Assay and the free values may change. -/
def Spoke (s : State) (msg : Bytes) (t : State) : Prop :=
  t = { s with out := s.out ++ [.smbus (asBytes [5] ++ msg)], asy := t.asy, freeCtr := t.freeCtr }

/-- An SPDM ERROR leaves. -/
def SpokeError (s : State) (code data : Nat) (t : State) : Prop := Spoke s (asBytes [0x12, 0x7F, code, data]) t

/-- A request of version 1.2 that comes in its place of the exchange (R353). -/
def InPlace (s : State) (req : Bytes) (least : Nat) : Prop :=
  SpdmAnswers s ∧ 4 ≤ req.length ∧ fld req 0 1 = 0x12 ∧ least ≤ s.asy.spdm.stage

end Sys2Proof
end

