-- ==== Sys2Proof/Certificates/Slice0/Obligations.lean ====
section
/-!
DEFINITION. Certificates/Slice0/Obligations.lean: the statements for the provers, chapter by chapter. Each command's conclusion is
that exec answers a next state with what the rules give, under conditions on the state and the operands alone.
-/
open Sys2Proof Sys2Proof.Machine

/-- R3, R6, and of R4 and R7: a BAR0 write whose byte enables are not all four bytes of one aligned dword is discarded; every read
row answers the host with the whole dword as the register reads. Outside the MSI-X table and its PBA, a bit that belongs to no
field of a register, or to a write-only one, reads zero, and so does every bit of an offset no block occupies, whose write is
ignored. R283: beyond a closed crossing a write is discarded and a read returns 0xFFFF_FFFF. -/
def Obligations.Bar0WholeDwords : Prop :=
  (∀ (off : Nat) (tlp : DwordTlp) (data : Word) (s : State), tlp.poisoned = false → tlp.be ≠ 15 ∨ off % 4 ≠ 0 ∨ s.barShut off = true →
    exec (.registerWrite off tlp data) s = .next s) ∧
  (∀ (c : Instr) (o : Nat) (s : State),
    (c = .tickSnapshotRead ∧ o = Reg.GLB_TICK_LO) ∨ (c = .modidDataRead ∧ o = Reg.GLB_MODID_DATA) ∨
    (c = .tenData0Read ∧ o = Reg.RNS_TEN_DATA 0) ∨ (c = .pkhMapData0Read ∧ o = Reg.PKH_MAP_DATA 0) ∨
    (c = .pkhModelData0Read ∧ o = Reg.PKH_MODEL_DATA 0) ∨ (c = .apData0Read ∧ o = Reg.HST_AP_DATA 0) →
    (s.barShut o = true → exec c s = .next (s.emit (.readCompletion 0 0 (toLE 4 0xFFFFFFFF)))) ∧
    (s.barShut o = false → Gives c s fun t => t.out = (readEffect s o).out ++ [.readCompletion 0 0 (toLE 4 (barRead s o).2)] ∧
      t = { readEffect s o with out := t.out })) ∧
  (∀ (s : State) (o i : Nat), ¬(0x2410000 ≤ o ∧ o < 0x2420100) →
    (∀ (d : RegDesc) (k : Nat) (f : FieldDesc), regAt o = some (d, k) → f ∈ d.fields → f.acc ≠ .wo → i < f.lo ∨ f.hi < i) →
    (readReg s o).testBit i = false) ∧
  (∀ (s : State) (o : Nat) (data : Word), (0x600000 ≤ o ∧ o < 0x800000) ∨ 0x2600000 ≤ o →
    readReg s o = 0 ∧ (s.host.doorbells = [] → exec (.registerWrite o ⟨15, false⟩ data) s = .next s))

/-- R4 and Table GLB-1, on a register of each kind: RW takes the value, RW-L takes it while GLB_LOCK is 0 and within the stated
range and is left as it was otherwise, W1C is cleared by 1 and kept by 0, RO ignores the write; and a 1 to GLB_LOCK locks. The
register write finds no doorbell waiting before it (R272). -/
def Obligations.AccessCodes : Prop :=
  ∀ (k : Fin 128) (data : Word) (s : State),
    (s.host.doorbells = [] → s.shut 4 1 0 = false → Gives (.registerWrite (Reg.STL_ALLOC_LOW k) ⟨15, false⟩ data) s fun t =>
      t.fld (Reg.STL_ALLOC_LOW k) F.STL_ALLOC_LOW_LOW = bits data.toNat 17 0 ∧
      (∀ o, o ≠ Reg.STL_ALLOC_LOW k → t.reg o = s.reg o) ∧ t = { s with regs := t.regs }) ∧
    (s.host.doorbells = [] → s.shut 4 1 0 = false → Gives (.registerWrite (Reg.STL_RSV_FIRST k) ⟨15, false⟩ data) s fun t =>
      t.fld (Reg.STL_RSV_FIRST k) F.STL_RSV_FIRST_FIRST =
        (if s.locked = false ∧ bits data.toNat 17 0 ≤ 147455 then bits data.toNat 17 0
          else s.fld (Reg.STL_RSV_FIRST k) F.STL_RSV_FIRST_FIRST) ∧
      (∀ o, o ≠ Reg.STL_RSV_FIRST k → t.reg o = s.reg o) ∧ t = { s with regs := t.regs }) ∧
    (s.host.doorbells = [] → s.shut 4 1 0 = false → Gives (.registerWrite (Reg.STL_STATUS k) ⟨15, false⟩ data) s fun t =>
      t.flag (Reg.STL_STATUS k) F.STL_STATUS_PART_ERR =
        (s.flag (Reg.STL_STATUS k) F.STL_STATUS_PART_ERR && !bit data.toNat 5) ∧
      t.stalls = s.stalls ∧ (∀ o, o ≠ Reg.STL_STATUS k → t.reg o = s.reg o) ∧ t = { s with regs := t.regs }) ∧
    (s.host.doorbells = [] → exec (.registerWrite (Reg.STL_ID k) ⟨15, false⟩ data) s = .next s) ∧
    (data.toNat % 2 = 1 → Gives (.glbLockSet data) s fun t => t.locked = true ∧
      (∀ o, o ≠ Reg.GLB_LOCK → t.reg o = s.reg o) ∧ t = { s with regs := t.regs }) ∧
    (data.toNat % 2 = 0 → exec (.glbLockSet data) s = .next s)

/-- R43 and Table STL-6: OUT_REQ takes an IN_SERVICE stall to DRAINING, IN_REQ an OUT_OF_SERVICE stall to IN_SERVICE, and a
DRAINING stall without queued or running work goes OUT_OF_SERVICE. Each change raises STL 0x0001 with the old and the new state
and leaves every other stall, HBM and the other units alone. A request in any other state sets CTRL_CONFLICT and changes nothing
else. -/
def Obligations.StallServiceStates : Prop :=
  (∀ (k : Fin 128) (s : State) (c : Instr) (old new : Service),
    (s.stall k).service = old →
    (c = .outReq k ∧ old = .inService ∧ new = .draining) ∨
    (c = .inReq k ∧ old = .outOfService ∧ new = .inService) ∨
    (c = .stallDrained k ∧ old = .draining ∧ new = .outOfService ∧ stallIdle s k = true) →
    Gives c s fun t => t.stall k = { s.stall k with service := new } ∧ (∀ m, m ≠ k.val → t.stall m = s.stall m) ∧
      (s.far.events.length < 256 →
        t.far.events = s.far.events ++ [s.record Tag.stl 0x0001 Sev.info k [old.num, new.num]]) ∧
      t = { s with stalls := t.stalls, far := t.far, regs := t.regs }) ∧
  (∀ (k : Fin 128) (s : State) (c : Instr),
    (c = .outReq k ∧ (s.stall k).service ≠ .inService) ∨ (c = .inReq k ∧ (s.stall k).service ≠ .outOfService) →
    Gives c s fun t => t.flag (Reg.STL_STATUS k) F.STL_STATUS_CTRL_CONFLICT = true ∧
      (∀ o, o ≠ Reg.STL_STATUS k → t.reg o = s.reg o) ∧ t = { s with regs := t.regs })

/-- R28: the home controller applies its oldest queued line write: every byte of the line reads as the write gave it, every other
byte of HBM as before, and the queue is shorter by that write. STL_BUF_PART: regions that sum to 47 are stored while the stall is
OUT_OF_SERVICE and unlocked, a wrong sum sets PART_ERR and is ignored, and any other write is ignored. R41: a pending duty takes
effect once the items that ran when it was set have completed. R42: a FAILED stall's controller applies nothing. -/
def Obligations.StallHomeAndRegisters : Prop :=
  (∀ (k : Fin 128) (s : State) (w : HomeWrite) (q : List HomeWrite),
    (s.stall k).storeQ = w :: q → s.stallFailed k = false → s.clk.stable ≠ .stabled → s.clk.stable ≠ .exiting →
    Gives (.homeWriteApply k) s fun t => (t.stall k).storeQ = q ∧
      (∀ i, i < 64 → Memory.byte t.mem (64 * w.line + i) = (padTo 64 w.data).getD i 0) ∧
      (∀ a, a < 64 * w.line ∨ 64 * w.line + 64 ≤ a → Memory.byte t.mem a = Memory.byte s.mem a) ∧
      t.marks.get? w.line = none ∧ t = { s with mem := t.mem, marks := t.marks, stalls := t.stalls }) ∧
  (∀ (k : Fin 128) (data : Word) (s : State),
    let d := data.toNat
    (bits d 21 16 + bits d 13 8 + bits d 5 0 = 47 → (s.stall k).service = .outOfService → s.locked = false →
      Gives (.bufPartWrite k data) s fun t => t.fld (Reg.STL_BUF_PART k) F.STL_BUF_PART_NMU = bits d 21 16 ∧
        t.fld (Reg.STL_BUF_PART k) F.STL_BUF_PART_QRY = bits d 13 8 ∧
        t.fld (Reg.STL_BUF_PART k) F.STL_BUF_PART_COIN = bits d 5 0 ∧
        (∀ o, o ≠ Reg.STL_BUF_PART k → t.reg o = s.reg o) ∧ t = { s with regs := t.regs }) ∧
    (bits d 21 16 + bits d 13 8 + bits d 5 0 ≠ 47 →
      Gives (.bufPartWrite k data) s fun t => t.flag (Reg.STL_STATUS k) F.STL_STATUS_PART_ERR = true ∧
        (∀ o, o ≠ Reg.STL_STATUS k → t.reg o = s.reg o) ∧ t = { s with regs := t.regs }) ∧
    (bits d 21 16 + bits d 13 8 + bits d 5 0 = 47 → (s.stall k).service ≠ .outOfService ∨ s.locked = true →
      exec (.bufPartWrite k data) s = .next s)) ∧
  (∀ (k : Fin 128) (s : State) (d : Duty), (s.stall k).dutyNext = some d →
    let old := (s.stall k).dutyWait
    let due := (∀ x ∈ (s.work k).run, x.item.ord ∉ old) ∧ ∀ a ∈ (s.work k).appends, a.run ≠ none → a.ord ∉ old
    (due → exec (.dutyTakeEffect k) s = .next (s.setStall k { s.stall k with duty := d, dutyNext := none, dutyWait := [] })) ∧
    (¬ due → exec (.dutyTakeEffect k) s = .next s)) ∧
  (∀ (k : Fin 128) (s : State), s.stallFailed k = true → exec (.homeWriteApply k) s = .next s)

/-- R33: GO copies the staged descriptor to the end of an IN_SERVICE stall's queue while it has room, discards it and sets
OVERFLOW while it has none; on a stall not IN_SERVICE it completes with RIGHTS. R34: a descriptor at its turn that fails a check
ends with the check's status and changes no memory. R37: a finished descriptor's entry goes to the next slot of a host-memory
ring, enabling a ring resets it to slot 0 and PHASE 1, and a write of the consumer index stores it. -/
def Obligations.NearMemoryQueue : Prop :=
  (∀ (k : Fin 128) (data : Word) (s : State), data.toNat % 2 = 1 →
    ((s.stall k).nmuQ.length < 64 → (s.stall k).service = .inService →
      exec (.nmuGo k data) s = .next (s.setStall k
        { s.stall k with nmuQ := (s.stall k).nmuQ ++ [s.staged (Reg.STL_NMU_DESC k 0) 8] })) ∧
    (64 ≤ (s.stall k).nmuQ.length →
      Gives (.nmuGo k data) s fun t => t.flag (Reg.STL_NMU_STATUS k) F.STL_NMU_STATUS_OVERFLOW = true ∧
        t = { s with regs := t.regs }) ∧
    ((s.stall k).nmuQ.length < 64 → (s.stall k).service ≠ .inService →
      Gives (.nmuGo k data) s fun t => (∃ r, (t.stall k).nmuRun = (s.stall k).nmuRun ++ [r] ∧ r.status = St.rights) ∧
        t = { s with stalls := t.stalls })) ∧
  (∀ (k : Fin 128) (s : State) (d : Bytes) (q : List Bytes) (c : Instr) (op : Nat),
    (c = .nmuFill k ∧ op = 1) ∨ (c = .nmuCopy k ∧ op = 2) ∨ (c = .nmuCompare k ∧ op = 3) ∨ (c = .nmuReduce k ∧ op = 4) →
    nmuOp d = op ∨ nmuOp d = 0 ∨ 4 < nmuOp d → NmuReady s k d q → nmuCheck d ≠ St.ok →
    (exec c s = .next (s.setStall k { s.stall k with
        nmuQ := q, nmuRun := (s.stall k).nmuRun ++ [⟨d, nmuCheck d, 0, 0, true⟩] })) ∧
    (nmuOp d = 0 ∨ 4 < nmuOp d ∨ (nmuOp d = 4 ∧ (1 < nmuRedOp d ∨ 2 < nmuDtype d)) → nmuCheck d = St.rights) ∧
    (1 ≤ nmuOp d ∧ nmuOp d ≤ 3 → nmuCheck d = St.bounds)) ∧
  (∀ (k : Fin 128) (s : State), (s.stall k).nmuRun ≠ [] →
    s.clk.stable ≠ .stabled → s.clk.stable ≠ .exiting → (∀ r ∈ (s.stall k).nmuRun, nmuCqe r.desc = true) →
    s.flag (Reg.STL_NMU_CQ_CTRL k) F.STL_NMU_CQ_CTRL_EN = true → nmuRingFull s k = false →
    bit (s.base (Reg.STL_NMU_CQ_BASE_LO k)) 63 = true → s.hostOpen = true →
    Gives (.nmuComplete k) s fun t => ∃ i r, (s.stall k).nmuRun[i]? = some r ∧ (t.stall k).nmuRun = (s.stall k).nmuRun.eraseIdx i ∧
      t.mem = s.mem ∧
      ((t.stall k).nmuSlot, (t.stall k).nmuPhase) = ringNext (s.stall k).nmuSlot
        (s.fld (Reg.STL_NMU_CQ_CTRL k) F.STL_NMU_CQ_CTRL_LOG2_SIZE) (s.stall k).nmuPhase ∧
      ∃ more, t.out = s.out ++ .hostWrite
        (s.base (Reg.STL_NMU_CQ_BASE_LO k) % 2 ^ 63 + 16 * (s.stall k).nmuSlot) (nmuEntry r (s.stall k).nmuPhase) :: more) ∧
  (∀ (k : Fin 128) (data : Word) (s : State), bit data.toNat 31 = true →
    s.flag (Reg.STL_NMU_CQ_CTRL k) F.STL_NMU_CQ_CTRL_EN = false →
    Gives (.nmuCqEnable k data) s fun t => (t.stall k).nmuSlot = 0 ∧ (t.stall k).nmuPhase = true ∧
      t.flag (Reg.STL_NMU_CQ_CTRL k) F.STL_NMU_CQ_CTRL_EN = true ∧ t = { s with regs := t.regs, stalls := t.stalls }) ∧
  (∀ (k : Fin 128) (data : Word) (s : State), nmuRingFull s k = false →
    Gives (.nmuCqHeadWrite k data) s fun t =>
      t.fld (Reg.STL_NMU_CQ_HEAD k) F.STL_NMU_CQ_HEAD_HEAD = bits data.toNat 11 0 ∧
      (∀ o, o ≠ Reg.STL_NMU_CQ_HEAD k → t.reg o = s.reg o) ∧ t = { s with regs := t.regs })

/-- R35: FILL writes its pattern, little-endian, to every 8-byte word of the destination; COPY leaves the destination equal to the
whole of the source as it stood before, even when the ranges overlap. Both end OK with all bytes done, and no byte outside the
destination changes. -/
def Obligations.NearMemoryFillCopy : Prop :=
  ∀ (k : Fin 128) (s : State) (d : Bytes) (q : List Bytes),
    NmuReady s k d q → nmuCheck d = St.ok → Quiet s (nmuDst d) (nmuLen d) →
    (nmuOp d = 1 → Gives (.nmuFill k) s fun t =>
      (t.stall k).nmuRun = (s.stall k).nmuRun ++ [⟨d, St.ok, 0, nmuLen d, true⟩] ∧ (t.stall k).nmuQ = q ∧
      (∀ i, i < nmuLen d → (Memory.byte t.mem (nmuDst d + i)).toNat = nmuSrc d / 256 ^ (i % 8) % 256) ∧
      (∀ a, a < nmuDst d ∨ nmuDst d + nmuLen d ≤ a → Memory.byte t.mem a = Memory.byte s.mem a) ∧
      t = { s with mem := t.mem, marks := t.marks, stalls := t.stalls }) ∧
    (nmuOp d = 2 → Quiet s (nmuSrc d) (nmuLen d) → Clean s (nmuSrc d) (nmuLen d) → Gives (.nmuCopy k) s fun t =>
      (t.stall k).nmuRun = (s.stall k).nmuRun ++ [⟨d, St.ok, 0, nmuLen d, true⟩] ∧ (t.stall k).nmuQ = q ∧
      (∀ i, i < nmuLen d → Memory.byte t.mem (nmuDst d + i) = Memory.byte s.mem (nmuSrc d + i)) ∧
      (∀ a, a < nmuDst d ∨ nmuDst d + nmuLen d ≤ a → Memory.byte t.mem a = Memory.byte s.mem a) ∧
      t = { s with mem := t.mem, marks := t.marks, stalls := t.stalls })

/-- R35: COMPARE of equal ranges gives RESULT 0xFFFF_FFFF, of ranges that differ the offset of the first differing byte, and writes
nothing. REDUCE sets each element of the destination to the two elements combined (ranges apart, or the same), and no byte outside
the destination changes. -/
def Obligations.NearMemoryCompareReduce : Prop :=
  ∀ (k : Fin 128) (s : State) (d : Bytes) (q : List Bytes),
    NmuReady s k d q → nmuCheck d = St.ok → Quiet s (nmuDst d) (nmuLen d) → Quiet s (nmuSrc d) (nmuLen d) →
    Clean s (nmuSrc d) (nmuLen d) → Clean s (nmuDst d) (nmuLen d) →
    (nmuOp d = 3 → Gives (.nmuCompare k) s fun t =>
      (∃ r, (t.stall k).nmuRun = (s.stall k).nmuRun ++ [r] ∧ r.status = St.ok ∧
        ((r.result = 0xFFFFFFFF ∧
            ∀ i, i < nmuLen d → Memory.byte s.mem (nmuDst d + i) = Memory.byte s.mem (nmuSrc d + i)) ∨
          (r.result < nmuLen d ∧ Memory.byte s.mem (nmuDst d + r.result) ≠ Memory.byte s.mem (nmuSrc d + r.result) ∧
            ∀ i, i < r.result → Memory.byte s.mem (nmuDst d + i) = Memory.byte s.mem (nmuSrc d + i)))) ∧
      t = { s with stalls := t.stalls }) ∧
    (nmuOp d = 4 → Gives (.nmuReduce k) s fun t =>
      (t.stall k).nmuRun = (s.stall k).nmuRun ++ [⟨d, St.ok, 0, nmuLen d, true⟩] ∧
      (nmuDst d + nmuLen d ≤ nmuSrc d ∨ nmuSrc d + nmuLen d ≤ nmuDst d ∨ nmuSrc d = nmuDst d →
        ∀ i, i < nmuLen d / (if nmuDtype d = 1 then 2 else 4) →
          let w := if nmuDtype d = 1 then 2 else 4
          leNat (Memory.read t.mem (nmuDst d + w * i) w) =
            reduceElem (nmuRedOp d) (nmuDtype d) (leNat (Memory.read s.mem (nmuDst d + w * i) w))
              (leNat (Memory.read s.mem (nmuSrc d + w * i) w)) % 256 ^ w) ∧
      (∀ a, a < nmuDst d ∨ nmuDst d + nmuLen d ≤ a → Memory.byte t.mem a = Memory.byte s.mem a) ∧
      t = { s with mem := t.mem, marks := t.marks, stalls := t.stalls })

/-- R58, R60: a GO with no load running stages the record and its check and sets BUSY; a GO while BUSY starts nothing. A staged
load whose check passed commits when the slot's HOLD is zero: the slot becomes VALID with the record's FORMAT and lengths, GEN
advances modulo 64 and FMT 0x0001 follows; with HOLD not zero it is refused with ERR 8, with a failed check with that ERR, both
slots stay as they were and FMT 0x0002 follows. -/
def Obligations.CodeTableLoads : Prop :=
  (∀ (k : Fin 128) (data : Word) (s : State), bit data.toNat 1 = true →
    let o := s.base (Reg.FMT_TBL_SRC_LO k)
    (s.flag (Reg.FMT_TBL_RESULT k) F.FMT_TBL_RESULT_BUSY = false → Quiet s o 320 → Clean s o 320 →
      Gives (.tableLoadGo k data) s fun t => t.flag (Reg.FMT_TBL_RESULT k) F.FMT_TBL_RESULT_BUSY = true ∧
        (t.fmtUnit k).load = some (bit data.toNat 0, (Memory.read s.mem o 1 |> leNat) % 16, Memory.read s.mem (o + 64) 256,
          checkRecord (Memory.read s.mem o 320)) ∧
        (t.fmtUnit k).a = (s.fmtUnit k).a ∧ (t.fmtUnit k).b = (s.fmtUnit k).b ∧
        t = { s with regs := t.regs, fmts := t.fmts }) ∧
    (s.flag (Reg.FMT_TBL_RESULT k) F.FMT_TBL_RESULT_BUSY = true →
      Gives (.tableLoadGo k data) s fun t => (∀ o, o ≠ Reg.FMT_TBL_CTRL k → t.reg o = s.reg o) ∧ t = { s with regs := t.regs })) ∧
  (∀ (k : Fin 128) (s : State) (slot : Bool) (fmt : Nat) (lens : Bytes) (err : Nat),
    (s.fmtUnit k).load = some (slot, fmt, lens, err) → s.clk.stable ≠ .stabled → s.clk.stable ≠ .exiting →
    s.far.events.length < 256 →
    (err = 0 → s.holdCount k slot = 0 → Gives (.tableLoadCommit k) s fun t =>
      (t.fmtUnit k).slot slot = { valid := true, format := fmt, gen := (((s.fmtUnit k).slot slot).gen + 1) % 64, lens := lens } ∧
      (t.fmtUnit k).slot (!slot) = (s.fmtUnit k).slot (!slot) ∧ (t.fmtUnit k).load = none ∧
      t.flag (Reg.FMT_TBL_RESULT k) F.FMT_TBL_RESULT_BUSY = false ∧ t.flag (Reg.FMT_TBL_RESULT k) F.FMT_TBL_RESULT_DONE = true ∧
      t.fld (Reg.FMT_TBL_RESULT k) F.FMT_TBL_RESULT_ERR = 0 ∧
      t.far.events = s.far.events ++ [s.record Tag.fmt 0x0001 Sev.info k
        [b2n slot, (((s.fmtUnit k).slot slot).gen + 1) % 64, fmt, 0]] ∧
      t = { s with regs := t.regs, fmts := t.fmts, far := t.far }) ∧
    (∀ e, e < 16 → (err = e ∧ e ≠ 0) ∨ (err = 0 ∧ e = 8 ∧ s.holdCount k slot ≠ 0) → Gives (.tableLoadCommit k) s fun t =>
      (t.fmtUnit k).a = (s.fmtUnit k).a ∧ (t.fmtUnit k).b = (s.fmtUnit k).b ∧ (t.fmtUnit k).load = none ∧
      t.flag (Reg.FMT_TBL_RESULT k) F.FMT_TBL_RESULT_BUSY = false ∧ t.flag (Reg.FMT_TBL_RESULT k) F.FMT_TBL_RESULT_DONE = true ∧
      t.fld (Reg.FMT_TBL_RESULT k) F.FMT_TBL_RESULT_ERR = e ∧
      t.far.events = s.far.events ++ [s.record Tag.fmt 0x0002 Sev.info k [b2n slot, e, 0, 0]] ∧
      t = { s with regs := t.regs, fmts := t.fmts, far := t.far }))

/-- R51, R52: FMT_MINT_SEED takes the written state, zero loading 1; FMT_ROPE_FREQ stores entry F[INDEX] and advances INDEX, from
127 to 0. R49: whatever 32 values it is given, the mint writes a block of the format's length that holds no Inf and no NaN
element: every magnitude is at most the format's largest, and scale byte 0xFF goes with all-zero codes. -/
def Obligations.MintState : Prop :=
  (∀ (k : Fin 128) (data : Word) (s : State), Gives (.mintSeedWrite k data) s fun t =>
    t.reg (Reg.FMT_MINT_SEED k) = (if data.toNat = 0 then 1 else data.toNat) ∧
    (∀ o, o ≠ Reg.FMT_MINT_SEED k → t.reg o = s.reg o) ∧ t = { s with regs := t.regs }) ∧
  (∀ (k : Fin 128) (data : Word) (s : State), Gives (.ropeFreqWrite k data) s fun t =>
    let i := s.fld (Reg.FMT_ROPE_IDX k) F.FMT_ROPE_IDX_INDEX
    (t.fmtUnit k).rope.getD i 0 = data.toNat ∧ (∀ j, j ≠ i → (t.fmtUnit k).rope.getD j 0 = (s.fmtUnit k).rope.getD j 0) ∧
    t.fld (Reg.FMT_ROPE_IDX k) F.FMT_ROPE_IDX_INDEX = (i + 1) % 128 ∧
    (∀ o, o ≠ Reg.FMT_ROPE_IDX k → t.reg o = s.reg o) ∧ t = { s with regs := t.regs, fmts := t.fmts }) ∧
  (∀ (c : Nat) (f : MxFmt) (stochastic : Bool) (lfsr : Nat) (xs : List Machine.Num), mxFmt c = some f → xs.length = 32 →
    let block := (f.mint stochastic lfsr xs).1
    block.length = f.blockBytes ∧
      (∀ e ∈ (f.unpack block).1,
        (f.eb ≠ 0 → e % 2 ^ (f.w - 1) ≤ f.top) ∧ (f.eb = 0 → e ≠ 128)) ∧
      ((f.unpack block).2 = 0xFF → ∀ e ∈ (f.unpack block).1, e = 0))

/-- R68, R70, R71: GO puts the staged descriptor last in the queue while it holds fewer than 64, and sets OVERFLOW otherwise. A
descriptor at its turn leaves the queue and produces a leaf record with its HANDLE, TAG, LAYER, PIDX and PCOUNT and the status it
ends with; one that fails a check of Table ATT-2 changes no memory, its status is the check's, and it has no record exactly when
check 7 or 8 refused it, its place in the merge tree being unknown. One for a FAILED stall is answered by Farrier and leaves a
tombstone (R341). In a role other than C the status is RIGHTS (R14). When it ends it leaves the running
places. -/
def Obligations.AttentionDescriptors : Prop :=
  (∀ (k : Fin 128) (data : Word) (s : State), data.toNat % 2 = 1 → s.stallFailed k = false →
    ((s.work k).att.length < 64 → Gives (.attGo k data) s fun t =>
      (∃ it, (t.work k).att = (s.work k).att ++ [it] ∧ it.msg = s.staged (Reg.ATT_DESC k 0) 32 ∧
        it.inSvc = ((s.stall k).service == .inService)) ∧ t = { s with works := t.works, kvp := t.kvp }) ∧
    (64 ≤ (s.work k).att.length → Gives (.attGo k data) s fun t =>
      t.flag (Reg.ATT_STATUS k) F.ATT_STATUS_OVERFLOW = true ∧ t = { s with regs := t.regs })) ∧
  (∀ (k : Fin 128) (data : Word) (s : State), data.toNat % 2 = 1 → s.stallFailed k = true → (s.work k).att.length < 64 →
    let d := s.staged (Reg.ATT_DESC k 0) 32
    Gives (.attGo k data) s fun t => (t.work k).att = (s.work k).att ∧ ∃ c ∈ (t.work k).ctxs, c.key = attKey d ∧ c.tomb ≠ none) ∧
  (∀ (k : Fin 128) (s : State) (it : AttItem) (rest : List AttItem) (op : Nat),
    (op = 1 ∨ op = 2 ∨ op = 3) → At.op it.msg = op → AttReady s k it rest →
    (attCheck s k it ≠ St.ok → Gives (attCommand k op) s fun t =>
      (∃ x, (t.work k).run = (s.work k).run ++ [x] ∧ x.item = it ∧ x.status = attCheck s k it ∧
        (x.record = none ↔ (attFirst s it = St.ok ∧ badPlace k it.msg = true))) ∧
      (t.work k).att = rest ∧ t.mem = s.mem ∧ t.marks = s.marks ∧ t.stalls = s.stalls) ∧
    (attCheck s k it = St.ok → Gives (attCommand k op) s fun t =>
      (t.work k).att = rest ∧ ∃ x r, (t.work k).run = (s.work k).run ++ [x] ∧ x.item = it ∧ x.record = some r ∧
        Rec.status r = x.status % 256 ∧ Rec.handle r = At.handle it.msg ∧ Rec.tag r = At.tag it.msg ∧
        Rec.layer r = At.layer it.msg ∧ Rec.pidx r = At.pidx it.msg ∧ Rec.pcount r = At.pcount it.msg ∧ Rec.level r = 0) ∧
    (s.role ≠ roleC → attCheck s k it = St.rights)) ∧
  (∀ (k : Fin 128) (i : Fin 2) (s : State) (x : AttRun), (s.work k).run[i.val]? = some x →
    s.clk.stable ≠ .stabled → s.clk.stable ≠ .exiting →
    Gives (.attDescriptorEnd k i) s fun t => (t.work k).run = (s.work k).run.eraseIdx i)

/-- R72: a position is visible to a row exactly when it lies in the range, is not after the row's position under CAUSAL, and is within
a non-zero WINDOW; any other position has no part in the row's scan, as a score of −∞ has none. R77's procedure: canonical NaN when
either child is NaN, the other child unchanged when one is empty, and the same entry for both orders of children whose maxima are
equal. -/
def Obligations.MergeEntryRules : Prop :=
  (∀ x y : Entry, f32isNan x.m = true ∨ f32isNan y.m = true →
    mergeEntry x y = ⟨f32qnan, f32qnan, x.o.map fun _ => f32qnan⟩) ∧
  (∀ (x : Entry) (d : Nat), f32isNan x.m = false →
    mergeEntry x (emptyEntry d) = x ∧ (x.m ≠ f32ninf → mergeEntry (emptyEntry d) x = x)) ∧
  (∀ x y : Entry, f32isNan x.m = false → x.m = y.m → x.m ≠ f32ninf → x.m ≠ f32pinf → x.m < 2 ^ 32 →
    mergeEntry x y = mergeEntry y x) ∧
  (∀ (m : Bytes) (r p : Nat), visible m r p = true ↔
    (At.lo m ≤ p ∧ p < At.hi m ∧ (At.causal m = true → p ≤ At.qpos m + r) ∧
      (At.window m ≠ 0 → (At.qpos m + r : Int) - At.window m < p))) ∧
  (∀ (m : Bytes) (q : List Machine.Num) (r : Nat) (rows : List (Nat × List Machine.Num × List Machine.Num)),
    scanEntry m q r (rows.filter fun x => visible m r x.1) = scanEntry m q r rows) ∧
  (∀ (d : Nat) (a : ScanAcc) (ps : List (Nat × Nat × List Machine.Num)) (i : Nat) (v : List Machine.Num), a.m < 2 ^ 32 → f32isNan a.m = false →
    (∀ x ∈ ps, x.2.1 < 2 ^ 32) → scanTile d a (ps ++ [(i, f32ninf, v)]) = scanTile d a ps)

/-- R79, R180: a record that finds no context opens one while fewer than 64 are open and waits in the MRG class otherwise; one that
matches a tombstone is discarded and counted in ATT_LATE; one that its context does not await is discarded with ATT 0x0004. The
oldest context open for ATT_MERGE_TMO is counted in ATT_MERGE_LOST and stays as a tombstone, and after a further ATT_MERGE_TMO no
such tombstone is left. What stands for the first packets of a RECORD changes no context that is there. -/
def Obligations.MergeContexts : Prop :=
  (∀ (k : Fin 128) (s : State) (it : MrgItem) (rest : List MrgItem), (s.work k).mrg = it :: rest →
    s.clk.stable ≠ .stabled → s.clk.stable ≠ .exiting → s.stallFailed k = false →
    ((s.work k).ctxs.find? (fun c => c.key == Rec.key it.record) = none →
      (64 ≤ (s.work k).ctxs.length → exec (.mergeRecord k) s =
        .next (s.updWork k fun w => { w with mrg := rest, mrgWait := w.mrgWait ++ [it] })) ∧
      ((s.work k).ctxs.length < 64 → it.own = none → it.line = none → it.part = false →
        ctxAccepts { key := Rec.key it.record, head := it.record, opened := s.now } it = true →
        Gives (.mergeRecord k) s fun t => (t.work k).mrg = rest ∧
          (∃ c, (t.work k).ctxs = (s.work k).ctxs.filter (fun x => x.key != Rec.key it.record) ++ [c] ∧
            c.key = Rec.key it.record ∧ c.opened = s.now ∧ c.kids.get? (Rec.level it.record) = some it.record) ∧
          t = { s with works := t.works })) ∧
    (∀ c, (s.work k).ctxs.find? (fun c => c.key == Rec.key it.record) = some c →
      (it.part = true → exec (.mergeRecord k) s = .next (s.updWork k fun w => { w with mrg := rest })) ∧
      (it.part = false → c.tomb ≠ none → Gives (.mergeRecord k) s fun t => (t.work k).ctxs = (s.work k).ctxs ∧
        t.reg (Reg.ATT_LATE k) = (s.reg (Reg.ATT_LATE k) + 1) % 2 ^ 32 ∧ t = { s with works := t.works, regs := t.regs }) ∧
      (it.part = false → c.tomb = none → ctxAccepts c it = false → s.far.events.length < 256 → Gives (.mergeRecord k) s fun t =>
        (t.work k).ctxs = (s.work k).ctxs ∧ (∃ e, t.far.events = s.far.events ++ [e] ∧ e.tag = Tag.att ∧ e.code = 0x0004 ∧
          e.subject = Rec.handle it.record) ∧ t.mem = s.mem) ∧
      (∀ m own r j, it.part = false → c.tomb = none → ctxAccepts c it = true → it.own = none → it.line = none → c.line = none →
        c.own = some (m, own) → c.ownDone = false → localNode m own (c.kids.put (Rec.level it.record) it.record) = some (r, j) →
        let p := At.sbase m + (At.local' m - 2 ^ leafLevel m) * At.sstride m
        At.local' m ≠ 0 → p < 128 → Gives (.mergeRecord k) s fun t =>
          (∃ l, (t.work p).mrg = l ++ [{ line := none, record := r }]) ∧
          t.reg (Reg.ATT_MERGES k) = (s.reg (Reg.ATT_MERGES k) + j) % 2 ^ 32 ∧
          (∀ x ∈ (t.work k).ctxs, x.key ≠ c.key) ∧ t = { s with works := t.works, regs := t.regs }))) ∧
  (∀ (k : Fin 128) (s : State) (it : MrgItem) (rest : List MrgItem), (s.work k).mrgWait = it :: rest →
    s.clk.stable ≠ .stabled → s.clk.stable ≠ .exiting →
    ((s.work k).ctxs.length < 64 → exec (.mergeContextOpen k) s =
      .next (mergeTake (s.updWork k fun w => { w with mrgWait := rest }) k it)) ∧
    (64 ≤ (s.work k).ctxs.length → exec (.mergeContextOpen k) s = .next s)) ∧
  (∀ (k : Fin 128) (s : State) (c : MergeCtx),
    (s.work k).ctxs.find? (fun c => c.tomb.isNone && decide (c.opened + s.reg (Reg.ATT_MERGE_TMO k) ≤ s.now)) = some c →
    Gives (.mergeTimeout k) s fun t =>
      (t.work k).ctxs = (s.work k).ctxs.filter (fun x => x.key != c.key) ++ [{ c with tomb := some s.now }] ∧
      (c.own = none → c.line = none → t.reg (Reg.ATT_MERGE_LOST k) = (s.reg (Reg.ATT_MERGE_LOST k) + 1) % 2 ^ 32)) ∧
  (∀ (k : Fin 128) (s : State), Gives (.tombstoneExpiry k) s fun t =>
    (∀ c, c ∈ (t.work k).ctxs ↔ c ∈ (s.work k).ctxs ∧
      ∀ x, c.tomb = some x → s.now < x + s.reg (Reg.ATT_MERGE_TMO k)) ∧ t = { s with works := t.works })

/-- R93: an append refused RIGHTS (a module that is not C-role, a stall that was not IN_SERVICE when it arrived, reserved bits)
leaves the queue, counts in KVP_APPEND_ERR, and writes nothing to HBM. R94, R86, R87: an append of one head to an empty pair of raw
pages writes each minted position to its place on a new page and keeps its run: the new entry with FIRST and FILL, the new LEN, the
reserved list page, and the reserved page it did not use. At its commit the header of the last pair takes the new LEN, the append
leaves the queue, and KVP_APPENDS counts it. -/
def Obligations.Appends : Prop :=
  (∀ (k : Fin 128) (s : State) (a : AppendItem) (rest : List AppendItem), AppendReady s k a rest →
    s.role ≠ roleC ∨ a.inSvc = false ∨ appendReserved a.msg = true →
    Gives (.append k) s fun t => (∃ l, (t.work k).appends = rest ++ l) ∧
      (Ap.ack a.msg = false → t.mem = s.mem ∧ t.marks = s.marks ∧ t.out = s.out ∧
        t.reg (Reg.KVP_APPEND_ERR k) = (s.reg (Reg.KVP_APPEND_ERR k) + 1) % 2 ^ 32 ∧
        (s.far.events.length < 256 → ∃ e, t.far.events = s.far.events ++ [e] ∧ e.tag = Tag.kvp ∧ e.code = 0x0002 ∧
          e.sev = Sev.contained ∧ e.subject = Ap.handle a.msg ∧ e.detail.headD 0 = BitVec.ofNat 8 St.rights))) ∧
  (∀ (k : Fin 128) (s : State) (a : AppendItem) (rest : List AppendItem) (i p q l : Nat) (ps : List Nat),
    let m := a.msg
    let root := Ap.root m
    let r := Memory.read s.mem root 64
    let h := Memory.read s.mem (pairOff root r i) 64
    let sz := posBytes (Root.fmt r) (Root.d r)
    let page := k.val * stallPages + p
    AppendReady s k a rest → Settled s → s.role = roleC → a.inSvc = true → appendReserved m = false →
    rootOk root = true → homeStall root = k.val → Root.state r = Root.live → fmtKnown (Root.fmt r) = true → Ap.nkv m = 1 →
    pairIdx r (Ap.layer m) (Ap.kvh0 m) = some i → pairOff root r i + 64 ≤ hbmBytes →
    1 ≤ Ap.npos m → Ap.npos m ≤ 256 → Ap.npos m ≤ rawCap (Root.fmt r) (Root.d r) →
    64 + Ap.npos m * 2 * Root.d r * ifmtBytes (Ap.ifmt m) ≤ m.length →
    (Ap.ack m = true → Ap.ackDest m % 64 = 0 ∧ Ap.ackDest m < 2 ^ 48) →
    Pair.npages h = 0 → Pair.len h ≤ Ap.pos m → Pair.cpk h = false → Pair.list h 0 = 0 →
    (s.stall k).freed = p :: q :: l :: ps → p < stallPages →
    (s.ownerBase + 16 * page + 16 ≤ page * pageBytes ∨ (page + 1) * pageBytes ≤ s.ownerBase + 16 * page) →
    Gives (.append k) s fun t =>
      (t.work k).appends = { a with run := some ⟨[⟨i, none,
          [(mkPte true false false false (Root.fmt r) (Ap.npos m) s.node page, Ap.pos m)],
          Ap.pos m + Ap.npos m, some (k.val * stallPages + l)⟩], [k.val * stallPages + q]⟩ } :: rest ∧
      (∀ j, j < Ap.npos m → Memory.read t.mem (page * pageBytes + j * sz) sz =
        ((mintRows (s.mint k) m (Root.fmt r) (Root.d r)).1.getD j []).headD []) ∧
      (t.stall k).freed = ps) ∧
  (∀ (k : Fin 128) (s : State) (a : AppendItem) (rest : List AppendItem) (run : AppendRun) (ps : List AppendPair) (p : AppendPair),
    let root := Ap.root a.msg
    let r := Memory.read s.mem root 64
    (s.work k).appends = a :: rest → a.run = some run → run.pairs = ps ++ [p] → Settled s → root % 64 = 0 →
    root + 64 ≤ hbmBytes → pairOff root r p.pair + 64 ≤ hbmBytes → Gives (.appendCommit k) s fun t =>
      (∃ l, (t.work k).appends = rest ++ l) ∧
      (Ap.ack a.msg = false → t.reg (Reg.KVP_APPENDS k) = (s.reg (Reg.KVP_APPENDS k) + 1) % 2 ^ 32 ∧
        Pair.len (Memory.read t.mem (pairOff root r p.pair) 64) = p.len % 2 ^ 32))

/-- R100: GO puts the staged edit last in the queue while SPACE is not zero, and sets OVERFLOW otherwise; on a module that is not
C-role it completes with RIGHTS, and so it does for a stall that is not IN_SERVICE (R42; its reading for edits is the model's,
log 511). Table KVP-9: OPEN refuses a reserved FMT or HDIM with RIGHTS and a table of no pairs or more than
1,279 with BOUNDS, and otherwise makes a LIVE root at EPOCH 0 that holds the edit's HANDLE and shape, with no grace page. ATTACH
gives an empty pair its N shared entries: NSHARED and NPAGES are N and LEN is the last FIRST + FILL; EPOCH does not change; a valid entry with
a reserved FMT is refused with RIGHTS (R44). -/
def Obligations.EditQueueOpenAttach : Prop :=
  (∀ (k : Fin 128) (data : Word) (s : State),
    let d := s.staged (Reg.KVP_EDIT_DESC k 0) 16
    (bit data.toNat 0 = false → exec (.kvpEditGo k data) s = .next s) ∧
    (bit data.toNat 0 = true → 32 ≤ editQueued s k → Gives (.kvpEditGo k data) s fun t =>
      t.flag (Reg.KVP_STATUS k) F.KVP_STATUS_OVERFLOW = true ∧ t = { s with regs := t.regs }) ∧
    (bit data.toNat 0 = true → editQueued s k < 32 → s.role = roleC → 0x10 ≤ Ed.op d → Ed.op d ≤ 0x15 →
      (s.stall k).service = .inService → (Ed.op d = 0x10 ∨ rootOk (Ed.root d) = false ∨
        (s.stall (homeStall (Ed.root d))).service = .inService) →
      exec (.kvpEditGo k data) s = .next { s with kvp := { s.kvp with
        ord := s.kvp.ord + 1, edits := s.kvp.edits ++ [{ sub := k, desc := d, ord := s.kvp.ord, origin := .software }] } }) ∧
    (bit data.toNat 0 = true → editQueued s k < 32 → s.role ≠ roleC ∨ Ed.op d < 0x10 ∨ 0x15 < Ed.op d ∨ (s.stall k).service ≠ .inService →
      Gives (.kvpEditGo k data) s fun t => t.kvp.edits = s.kvp.edits ∧
        (Ed.cqe d = true → s.flag (Reg.STL_NMU_CQ_CTRL k) F.STL_NMU_CQ_CTRL_EN = true → nmuRingFull s k = true →
          ∃ x, (t.stall k).nmuRun = (s.stall k).nmuRun ++ [⟨x, St.rights, 0, 0, false⟩]))) ∧
  (∀ (k : Fin 128) (s : State) (e : EditItem), EditReady s k 0x10 e → Settled s →
    let d := e.desc
    let np := Ed.nlayers d * Ed.nkvh d
    let bad := fmtKnown (Ed.fmt d) = false ∨ Ed.hdim d = 3 ∨ (Ed.cpk d = true ∧ isMx (Ed.fmt d) = false)
    (bad → Gives (.editOpen k) s fun t => EditEnds s e k St.rights 0 0 t ∧ (NoEntry e → t.mem = s.mem)) ∧
    (¬ bad → np = 0 ∨ 1279 < np ∨ s.inRetire k = true → Gives (.editOpen k) s fun t =>
      EditEnds s e k St.bounds 0 0 t ∧ (NoEntry e → t.mem = s.mem)) ∧
    (∀ p ps, ¬ bad → 1 ≤ np → np ≤ 255 → s.inRetire k = false → (s.stall k).freed = p :: ps → p < stallPages →
      let page := k.val * stallPages + p
      Gives (.editOpen k) s fun t => EditEnds s e k St.ok page 0 t ∧ (t.stall k).freed = ps ∧
        (NoEntry e →
          let r := Memory.read t.mem (page * pageBytes) 64
          Root.epoch r = 0 ∧ Root.cur r = 0 ∧ Root.old r = 0 ∧ Root.state r = Root.live ∧ Root.lowered r = false ∧
            Root.handle r = Ed.handle d ∧ Root.layer0 r = Ed.layer d ∧ Root.nlayers r = Ed.nlayers d ∧
            Root.kvh0 r = Ed.kvh d ∧ Root.nkvh r = Ed.nkvh d ∧ Root.fmt r = Ed.fmt d ∧ Root.hdim r = Ed.hdim d ∧
            Root.grace r = noPage ∧ Root.ngrace r = 0 ∧
            ∀ i, i < np → Memory.read t.mem (pairOff (page * pageBytes) r i) 64 = emptyPair (Ed.cpk d)))) ∧
  (∀ (k : Fin 128) (s : State) (e : EditItem) (i : Nat) (h : Bytes) (p : Nat) (ps : List Nat),
    let n := Ed.index e.desc
    let r := rootLine s e
    let es := if e.given = [] then (List.range n).map fun j =>
        (leNat (Memory.read s.mem (Ed.arg e.desc + 16 * j) 8), leNat (Memory.read s.mem (Ed.arg e.desc + 16 * j + 8) 4))
      else e.given
    let last := es.getLastD (0, 0)
    let known := ∀ x ∈ es, pteV x.1 = true → fmtKnown (pteFmt x.1) = true
    EditReady s k 0x11 e → Settled s → TableLive s e → PairAt s e i h →
    (Pair.npages h ≠ 0 → Gives (.editAttach k) s fun t =>
      EditEnds s e k St.bounds (Root.epoch r) 0 t ∧ (NoEntry e → t.mem = s.mem)) ∧
    (Pair.npages h = 0 → 1 ≤ n → n ≤ 4096 → (e.given = [] → Ed.arg e.desc + 16 * n ≤ hbmBytes) → ¬ known →
      Gives (.editAttach k) s fun t => EditEnds s e k St.rights (Root.epoch r) 0 t ∧ (NoEntry e → t.mem = s.mem)) ∧
    (Pair.npages h = 0 → listPages h = 0 → 1 ≤ n → n ≤ 1024 → (e.given = [] → Ed.arg e.desc + 16 * n ≤ hbmBytes) → es.length = n →
      known → ascending es = true → (s.stall k).freed = p :: ps → p < stallPages → Gives (.editAttach k) s fun t =>
        EditEnds s e k St.ok (Root.epoch r) 0 t ∧ (t.stall k).freed = ps ∧
        (NoEntry e →
          let h' := Memory.read t.mem (pairOff (Ed.root e.desc) r i) 64
          Pair.npages h' = n ∧ Pair.nshared h' = n ∧ Pair.len h' = (last.2 + pteFill last.1) % 2 ^ 32 ∧
            Pair.list h' 0 = k.val * stallPages + p)))

/-- R100: an edit whose table is not a table, is RELEASING, or has another EPOCH than EXPECT ends with BOUNDS, NO_EFFECT or
EPOCH_STALE and changes nothing. R97: RELEASE sets STATE to RELEASING and leaves EPOCH; the other structural edits build their new
version without touching a line a walker may read. REPLACE keeps FIRST and sends the old page to grace; TRUNCATE sends every page
with FIRST at or past POS to grace and has no effect when POS is at least LEN; COMPACT packs two consecutive raw pages that fit one
page into a new page that holds their positions. -/
def Obligations.StructuralEdits : Prop :=
  (∀ (k : Fin 128) (s : State) (e : EditItem) (c : Instr) (op : Nat),
    (c = .editAttach k ∧ op = 0x11) ∨ (c = .editReplace k ∧ op = 0x12) ∨ (c = .editTruncate k ∧ op = 0x13) ∨
      (c = .editCompact k ∧ op = 0x14) ∨ (c = .editRelease k ∧ op = 0x15) →
    EditReady s k op e → Settled s →
    let r := rootLine s e
    (rootOk (Ed.root e.desc) = false → Gives c s fun t => EditEnds s e e.sub St.bounds 0 0 t ∧ (NoEntry e → t.mem = s.mem)) ∧
    (rootOk (Ed.root e.desc) = true → Root.state r = 0 ∨ Root.state r = 3 → Gives c s fun t =>
      EditEnds s e e.sub St.bounds (Root.epoch r) 0 t ∧ (NoEntry e → t.mem = s.mem)) ∧
    (rootOk (Ed.root e.desc) = true → Root.state r = Root.releasing → Gives c s fun t =>
      EditEnds s e k (if op = 0x15 then St.noEffect else St.bounds) (Root.epoch r) 0 t ∧ (NoEntry e → t.mem = s.mem)) ∧
    (rootOk (Ed.root e.desc) = true → Root.state r = Root.live → Ed.noExpect e.desc = false → e.passed = false →
      Ed.expect e.desc ≠ Root.epoch r → s.far.events.length < 256 → Gives c s fun t =>
        EditEnds s e k St.epochStale (Root.epoch r) 0 t ∧
        (NoEntry e → t.mem = s.mem ∧ t.reg (Reg.KVP_STALE k) = (s.reg (Reg.KVP_STALE k) + 1) % 2 ^ 32 ∧ ∃ ev, t.far.events = s.far.events ++ [ev] ∧ ev.tag = Tag.kvp ∧ ev.code = 0x0005)) ∧
    (op = 0x15 → TableLive s e → Gives c s fun t =>
      t.kvp.edits = replaceIf (fun x => x.ord == e.ord) (fun _ => { e with releasing := some (Root.epoch r) }) s.kvp.edits ∧
      Root.state (rootLine t e) = Root.releasing ∧ Root.epoch (rootLine t e) = Root.epoch r ∧
      Root.cur (rootLine t e) = Root.cur r ∧ Root.old (rootLine t e) = Root.old r ∧
      (∀ a, a < Ed.root e.desc ∨ Ed.root e.desc + 64 ≤ a → Memory.byte t.mem a = Memory.byte s.mem a))) ∧
  (∀ (k : Fin 128) (s : State) (e : EditItem) (i : Nat) (h : Bytes), Settled s → TableLive s e → PairAt s e i h → ListOk h →
    let r := rootLine s e
    let es := listEntries s h
    let x := Ed.index e.desc
    let new := Ed.arg e.desc
    let old := es.getD x (0, 0)
    let pos := Ed.pos e.desc
    (EditReady s k 0x12 e → Pair.nshared h ≤ x → x + 1 < Pair.npages h → pteV new = true → pteNode new = s.node →
      pteFmt new = Root.fmt r → fmtKnown (Root.fmt r) = true → pteFill new ≠ 0 → pteFill new = pteFill old.1 →
      (pteCpk new = false → pteFill new ≤ rawCap (Root.fmt r) (Root.d r)) → Gives (.editReplace k) s fun t => t.mem = s.mem ∧
        ∃ b, EditBuilds s e b t ∧ b.grace = [graceEntry false (ptePoison old.1) (ptePage old.1)] ∧ b.lowered = false ∧
          ∃ ws, b.pairs = [.inPlace i (Pair.setPatch h x new old.2) ws]) ∧
    (EditReady s k 0x13 e → Ed.allPairs e.desc = false → Pair.len h ≤ pos → Gives (.editTruncate k) s fun t =>
      EditEnds s e k St.noEffect (Root.epoch r) 0 t ∧ (NoEntry e → t.mem = s.mem)) ∧
    (EditReady s k 0x13 e → Ed.allPairs e.desc = false → pos < Pair.len h → es.length ≤ 4096 →
      (∀ y ∈ es, y.2 < pos → y.2 + pteFill y.1 ≤ pos) → Gives (.editTruncate k) s fun t => t.mem = s.mem ∧
        ∃ b, EditBuilds s e b t ∧ b.lowered = true ∧
          b.grace.map (fun g => bits g 28 0) = (es.dropWhile fun y => decide (y.2 < pos)).map fun y => ptePage y.1 % 2 ^ 29) ∧
    (∀ a c l p ps, EditReady s k 0x14 e → Ed.allPairs e.desc = false → Ed.recode e.desc = false → es = [a, c, l] →
      fmtKnown (Root.fmt r) = true → Pair.nshared h = 0 → a.2 + pteFill a.1 = c.2 → pteFill a.1 ≠ 0 → pteFill c.1 ≠ 0 →
      (∀ y, y = a ∨ y = c → pteV y.1 = true ∧ ptePoison y.1 = false ∧ pteCpk y.1 = false ∧ pteNode y.1 = s.node ∧
        isHbm (ptePage y.1) = true ∧ pteFmt y.1 = Root.fmt r ∧ pteSlot y.1 = false) →
      pteFill a.1 + pteFill c.1 ≤ rawCap (Root.fmt r) (Root.d r) → (s.stall k).freed = p :: ps → p < stallPages →
      let page := k.val * stallPages + p
      let sz := posBytes (Root.fmt r) (Root.d r)
      Gives (.editCompact k) s fun t => (t.stall k).freed = ps ∧
        Memory.read t.mem (page * pageBytes) ((pteFill a.1 + pteFill c.1) * sz) =
          Memory.read s.mem (ptePage a.1 * pageBytes) (pteFill a.1 * sz) ++
            Memory.read s.mem (ptePage c.1 * pageBytes) (pteFill c.1 * sz) ∧
        ∃ b, EditBuilds s e b t ∧ b.lowered = true ∧ b.fresh = [page] ∧
          b.grace = [graceEntry false false (ptePage a.1), graceEntry false false (ptePage c.1)] ∧
          b.pairs = [.repack i
            [(mkPte true false false false (Root.fmt r) (pteFill a.1 + pteFill c.1) s.node page, a.2)] 2]))

/-- R99, R97, R372: a built edit waits while OLD_TALLY is not zero. Otherwise its commit advances EPOCH by one modulo 2¹⁶, moves
CUR_TALLY to OLD_TALLY, clears CUR_TALLY, records the pages it freed with their count and LOWERED, and counts in KVP_EDITS. A
RELEASING table waits while a walker holds it, and then its root line is cleared and its root page freed. A grace page is emptied
only at OLD_TALLY zero, and then GRACE names no page and LOWERED is clear. -/
def Obligations.EditCommits : Prop :=
  (∀ (k : Fin 128) (s : State) (e : EditItem) (b : Build), Settled s → rootOk (Ed.root e.desc) = true → homeStall (Ed.root e.desc) = k.val →
    s.kvp.edits.find? (fun e => e.stall == k.val && mayCommit s e) = some e → e.build = some b →
    let r := rootLine s e
    (Root.old r ≠ 0 → exec (.editCommit k) s = .next s) ∧
    (∀ g gs, Root.old r = 0 → Root.grace r = noPage → Root.lowered r = false → b.grace.length ≤ 4096 →
      (∀ p ∈ b.pairs, ∃ i h ws, p = .inPlace i h ws) → (s.stall k).freed = g :: gs → g < stallPages →
      Gives (.editCommit k) s fun t =>
        EditEnds s e k St.ok ((Root.epoch r + 1) % 65536) b.grace.length t ∧
        (NoEntry e →
          let r' := rootLine t e
          t.reg (Reg.KVP_EDITS k) = (s.reg (Reg.KVP_EDITS k) + 1) % 2 ^ 32 ∧ Root.epoch r' = (Root.epoch r + 1) % 65536 ∧ Root.cur r' = 0 ∧ Root.old r' = Root.cur r ∧
            Root.lowered r' = b.lowered ∧ Root.ngrace r' = b.grace.length ∧ Root.state r' = Root.state r ∧
            (b.grace = [] → Root.grace r' = noPage ∧ (t.stall k).freed = (s.stall k).freed) ∧
            (b.grace ≠ [] → Root.grace r' = k.val * stallPages + g ∧ (t.stall k).freed = gs)))) ∧
  (∀ (k : Fin 128) (s : State) (e : EditItem), Settled s → rootOk (Ed.root e.desc) = true →
    s.kvp.edits.find? (fun e => e.stall == k.val && releaseReady s e) = some e →
    let root := Ed.root e.desc
    let r := rootLine s e
    (Root.cur r = 0 → Root.old r = 0 → Root.grace r = noPage → Root.lowered r = false → Gives (.releaseFree k) s fun t =>
      (∀ x ∈ t.kvp.edits, x.ord ≠ e.ord ∧ (e.ord < x.ord → Ed.root x.desc = root → Ed.op x.desc = 0x10)) ∧
      (t.stall (homeStall root)).freed.head? = some (root / pageBytes % stallPages) ∧
      (NoEntry e → (∀ x ∈ s.works, x.2.appends = [] ∧ x.2.late = []) →
        (∀ x ∈ s.kvp.edits, x.ord ≠ e.ord → Ed.root x.desc ≠ root) → Root.state (rootLine t e) = 0))) ∧
  (∀ (k : Fin 128) (s : State), Settled s → (∀ e ∈ s.kvp.edits, e.stall = k.val → e.releasing ≠ none →
      rootOk (Ed.root e.desc) = true ∧ (Root.cur (rootLine s e) ≠ 0 ∨ Root.old (rootLine s e) ≠ 0)) →
    exec (.releaseFree k) s = .next s) ∧
  (∀ (root : Nat) (s : State), Settled s → rootOk root = true →
    let r := Memory.read s.mem root 64
    (Root.old r ≠ 0 → exec (.graceEmpty root) s = .next s) ∧
    (Root.old r = 0 → Root.state r = 1 ∨ Root.state r = 2 → Root.grace r < hbmPages → Root.ngrace r ≤ 4096 →
      Gives (.graceEmpty root) s fun t =>
        let r' := Memory.read t.mem root 64
        Root.grace r' = noPage ∧ Root.ngrace r' = 0 ∧ Root.lowered r' = false ∧ Root.state r' = Root.state r ∧
          Root.epoch r' = Root.epoch r ∧ Root.cur r' = Root.cur r ∧ Root.old r' = 0 ∧
          (t.stall (Root.grace r / stallPages)).freed.head? = some (Root.grace r % stallPages)))

/-- R105, R111: a lookup while EN is 0 ends OK and one for a team without an enabled entry ends RIGHTS, both with MATCH 0; one whose
prompt leaves no block to probe, or whose first block is not indexed, ends OK with MATCH 0 and attaches nothing; at 64 running
lookups none starts. A first block whose node is LIVE is pinned: PINS rises by one, USE is set, TICK is the local tick, and the
lookup waits for every module of the holder. The last answer takes the pin off and gives MATCH = J × BLK, or BOUNDS with MATCH 0.
R112: an attach that names no table of the holder fails with BOUNDS; one that may go on adds one to the share count of the page it
takes and submits an ATTACH of the holder's entries with FIRST below M, FILL lowered to M − FIRST. -/
def Obligations.PedigreeLookups : Prop :=
  (∀ (s : State) (l : Lookup) (rest : List Lookup), s.ped.lookups = l :: rest →
    let slot := s.pedTeam (l.handle % 4096)
    (64 ≤ s.ped.attaching.length → exec .pedLookup s = .next s) ∧
    (∀ st, s.ped.attaching.length < 64 →
      (s.flag Reg.PED_CTRL F.PED_CTRL_EN = false ∧ st = St.ok) ∨
      (s.flag Reg.PED_CTRL F.PED_CTRL_EN = true ∧ slot = none ∧ st = St.rights) ∨
      (s.flag Reg.PED_CTRL F.PED_CTRL_EN = true ∧ st = St.ok ∧ ∃ j, slot = some j ∧ (l.len ≤ s.pedBlk j ∨
        (Settled s ∧ Block1Ok s j l.tokens l.len ∧ s.pedProbe (block1 s (l.handle % 4096) j l.tokens l.len) = none))) →
      GivesRuns .pedLookup s fun t => (∃ r, t.ldg.results = s.ldg.results ++ [r] ∧ r.handle = l.handle ∧ r.matched = 0 ∧
          r.spill = 0 ∧ r.node = 0xFFFFFFFF ∧ r.status = st) ∧
        t.ped = { s.ped with lookups := rest } ∧ t.reg Reg.PED_LOOKUPS = (s.reg Reg.PED_LOOKUPS + 1) % 2 ^ 32 ∧
        t = { s with ped := t.ped, ldg := t.ldg, regs := t.regs }) ∧
    (∀ j e h, s.ped.attaching.length < 64 → s.flag Reg.PED_CTRL F.PED_CTRL_EN = true → slot = some j → Settled s →
      s.pedBlk j < l.len → l.len ≤ 2 * s.pedBlk j → Block1Ok s j l.tokens l.len →
      s.pedProbe (block1 s (l.handle % 4096) j l.tokens l.len) = some e → NodeOk s e.node →
      Nd.state (s.nodeAt e.node) = Nd.live → s.ped.holders.get? (Nd.holder (s.nodeAt e.node)) = some h →
      GivesRuns .pedLookup s fun t =>
        Nd.pins (t.nodeAt e.node) = (Nd.pins (s.nodeAt e.node) + 1) % 65536 ∧ Nd.use (t.nodeAt e.node) = true ∧
        fld (t.nodeAt e.node) 32 8 = s.now % 2 ^ 64 ∧ Nd.state (t.nodeAt e.node) = Nd.live ∧
        t.ped.attaching = s.ped.attaching ++ [⟨l.handle, s.pedBlk j, 1, 1, e.node, Nd.holder (s.nodeAt e.node), St.ok, h.mods⟩] ∧
        t.ped.lookups = rest)) ∧
  (∀ (s : State) (m : Msg) (a : Attaching), s.takePed Pm.attachReply = some (m, { s with inbox := s.inbox.erase m }) →
    s.ped.attaching.find? (fun a => a.handle == Pm.handle m.data && a.waiting.contains m.src) = some a →
    Settled s → NodeOk s a.node →
    let st := if a.status = St.ok then Pm.status m.data else a.status
    (a.waiting.erase m.src ≠ [] → s.parked = false → exec .pedAttachReply s = .next { s with
      inbox := s.inbox.erase m,
      ped := { s.ped with
        attaching := replaceIf (· == a) (fun _ => ⟨a.handle, a.blk, a.j, a.jall, a.node, a.holder, st, a.waiting.erase m.src⟩)
          s.ped.attaching } }) ∧
    (a.waiting.erase m.src = [] → GivesRuns .pedAttachReply s fun t =>
      t.ped = { s.ped with attaching := s.ped.attaching.erase a } ∧
      Nd.pins (t.nodeAt a.node) = Nd.pins (s.nodeAt a.node) - 1 ∧
      t.ldg.results = s.ldg.results ++ [⟨a.handle, if st = St.ok then a.j * a.blk else 0, (a.jall - a.j) * a.blk, a.node,
        if st = St.ok then St.ok else St.bounds, a.blk, a.holder⟩] ∧
      t = { s with mem := t.mem, ped := t.ped, ldg := t.ldg, regs := t.regs, far := t.far, inbox := s.inbox.erase m })) ∧
  (∀ (s : State) (m : Msg), s.kvp.done = [] → s.ped.jobs = [] →
    s.takePed Pm.attach = some (m, { s with inbox := s.inbox.erase m }) →
    let held := s.holderRoots (Pm.holder m.data)
    (∀ x xs, Pm.roots m.data = x :: xs → held.find? (·.1 == x.1) = none → GivesRuns .pedAttach s fun t =>
      t.mem = s.mem ∧ t.kvp = s.kvp ∧ t.ped = s.ped) ∧
    (∀ n root hroot p f, Settled s → s.role = roleC → Pm.roots m.data = [(n, root)] →
      held.find? (·.1 == n) = some (n, hroot) → rootOk root = true → rootOk hroot = true →
      let r := Memory.read s.mem root 64
      let hr := Memory.read s.mem hroot 64
      let page := ptePage p
      slice r 16 6 = slice hr 16 6 → Root.hdim r = Root.hdim hr → Root.fmt r = Root.fmt hr → Root.pairs r = 1 →
      Pair.npages (Memory.read s.mem (root + 64) 64) = 0 → ListOk (Memory.read s.mem (hroot + 64) 64) →
      listEntries s (Memory.read s.mem (hroot + 64) 64) = [(p, f)] → f < Pm.pos m.data → isHbm page = true →
      leNat (Memory.read s.mem (shareOff page) 2) < 65535 → GivesRuns .pedAttach s fun t =>
        (∃ e, t.kvp.edits = s.kvp.edits ++ [e] ∧ Ed.op e.desc = 0x11 ∧ Ed.root e.desc = root ∧ Ed.index e.desc = 1 ∧
          Ed.layer e.desc = Root.layer0 r ∧ Ed.kvh e.desc = Root.kvh0 r ∧
          e.given = [(pteSetFill p (min (pteFill p) (Pm.pos m.data - f)), f)]) ∧
        leNat (Memory.read t.mem (shareOff page) 2) = leNat (Memory.read s.mem (shareOff page) 2) + 1 ∧
        (∀ b, b < shareOff page ∨ shareOff page + 2 ≤ b → Memory.byte t.mem b = Memory.byte s.mem b)))

/-- R113: an insert while EN is 0, or with no whole block, ends NO_EFFECT; for a team without an enabled entry it ends RIGHTS. With
its holder's tables kept, an insert of one block creates a LIVE node of depth 1 without children or pins that names the holder, puts
its entry in the bucket of its key, and counts in PED_INSERTS. R114, R115: the hand clears USE of a LIVE node, passes a pinned one,
and evicts a LIVE node with USE, PINS and NLIVE zero when it does not spill: the node is FREE and no bucket holds its entry. R116:
a WITHDRAWN node is evicted once its PINS is zero, not before. -/
def Obligations.PedigreeNodes : Prop :=
  (∀ (s : State) (x : Insert), s.ped.inserts.find? (·.waiting.isEmpty) = some x →
    (∀ st, x.holder = none → (s.flag Reg.PED_CTRL F.PED_CTRL_EN = false ∧ st = St.noEffect) ∨
        (s.flag Reg.PED_CTRL F.PED_CTRL_EN = true ∧ s.pedTeam (x.handle % 4096) = none ∧ st = St.rights) ∨
        (s.flag Reg.PED_CTRL F.PED_CTRL_EN = true ∧ st = St.noEffect ∧
          ∃ j, s.pedTeam (x.handle % 4096) = some j ∧ x.len < s.pedBlk j) →
      s.parked = false → exec .pedInsert s = .next { s with
        ped := { s.ped with inserts := s.ped.inserts.filter (·.handle != x.handle) },
        ldg := { s.ldg with inserted := s.ldg.inserted ++ [(x.handle, st)] } }) ∧
    (∀ hk h j, x.holder = some hk → hk < 65536 → s.ped.holders.get? hk = some h →
      s.pedTeam (x.handle % 4096) = some j → s.pedBlk j ≤ x.len → x.len < 2 * s.pedBlk j → Settled s →
      Block1Ok s j x.tokens x.prompt →
      let kc := block1 s (x.handle % 4096) j x.tokens x.prompt
      s.pedProbe kc = none → BucketRoom s kc.1 → s.nodeFree ≠ 0 → s.nodeCap < 0xFFFFFFFF →
      (∀ i, i < s.nodeCap → NodeOk s i) → GivesRuns .pedInsert s fun t => ∃ i, i < s.nodeCap ∧
        Nd.state (s.nodeAt i) = Nd.free ∧ t.pedProbe kc = some ⟨kc.1, kc.2 % 2 ^ 32, i⟩ ∧
        Nd.state (t.nodeAt i) = Nd.live ∧ Nd.depth (t.nodeAt i) = 1 ∧ Nd.team (t.nodeAt i) = x.handle % 4096 ∧
        Nd.parent (t.nodeAt i) = 0xFFFFFFFF ∧ Nd.nchild (t.nodeAt i) = 0 ∧ Nd.nlive (t.nodeAt i) = 0 ∧
        Nd.pins (t.nodeAt i) = 0 ∧ Nd.holder (t.nodeAt i) = hk ∧
        t.reg Reg.PED_INSERTS = (s.reg Reg.PED_INSERTS + 1) % 2 ^ 32 ∧
        t.ldg.inserted = s.ldg.inserted ++ [(x.handle, St.ok)])) ∧
  (∀ (s : State) (i : Nat), handRuns s = true → i = s.ped.hand % s.nodeCap → NodeOk s i → Settled s →
    let b := s.nodeAt i
    (Nd.state b = Nd.live → Nd.use b = true → GivesRuns .evictionHandVisit s fun t =>
      Nd.use (t.nodeAt i) = false ∧ Nd.state (t.nodeAt i) = Nd.live ∧ Nd.pins (t.nodeAt i) = Nd.pins b ∧
      t.ped = { s.ped with hand := (i + 1) % s.nodeCap } ∧
      (∀ a, a < s.nodeOff i ∨ s.nodeOff i + 64 ≤ a → Memory.byte t.mem a = Memory.byte s.mem a) ∧
      t = { s with mem := t.mem, marks := t.marks, ped := t.ped }) ∧
    (Nd.use b = false → Nd.pins b ≠ 0 →
      s.parked = false → exec .evictionHandVisit s = .next { s with ped := { s.ped with hand := (i + 1) % s.nodeCap } }) ∧
    (Nd.state b = Nd.live → Nd.use b = false → Nd.pins b = 0 → Nd.nlive b = 0 → Nd.parent b ≠ i →
      s.flag Reg.PED_CTRL F.PED_CTRL_SPILL_EN = false ∨ s.flag Reg.PKH_VAULT_STATUS F.PKH_VAULT_STATUS_PRESENT = false →
      GivesRuns .evictionHandVisit s fun t => Nd.state (t.nodeAt i) = Nd.free ∧
        (∀ e ∈ t.ped.table.getD (Nd.key b % 2 ^ s.pedLog2) [], e.node ≠ i) ∧
        t.reg Reg.PED_EVICTS = (s.reg Reg.PED_EVICTS + 1) % 2 ^ 32)) ∧
  (∀ s : State, (∀ i, i < s.nodeCap → Nd.state (s.nodeAt i) = Nd.withdrawn → Nd.pins (s.nodeAt i) ≠ 0) →
    exec .withdrawnNodeEvict s = .next s) ∧
  (∀ (s : State) (i : Nat), s.role = roleC → Settled s → NodeOk s i → Nd.state (s.nodeAt i) = Nd.withdrawn → Nd.pins (s.nodeAt i) = 0 →
    (∀ j, j < s.nodeCap → j ≠ i → Nd.state (s.nodeAt j) = Nd.withdrawn → Nd.pins (s.nodeAt j) ≠ 0) →
    Nd.parent (s.nodeAt i) ≠ i → GivesRuns .withdrawnNodeEvict s fun t =>
      Nd.state (t.nodeAt i) = Nd.free ∧ t.reg Reg.PED_EVICTS = (s.reg Reg.PED_EVICTS + 1) % 2 ^ 32)

/-- R117: a GO while a rehash runs, with NEW_LOG2 outside 10 to 18, or for more than 2¹⁹ buckets in all is ignored and sets
REHASH_REFUSED; any other GO starts a rehash with the cursor at 0 and leaves the old table. While the migrated entries find room in
their new buckets, a step of the migrator changes the answer of no probe: every key is found, with the same node, exactly as before;
the cursor advances, and at the last bucket the new table takes over with LOG2 = NEW_LOG2. At WALK the migrator waits. On a module
that is not C-role a GO starts nothing (R14). -/
def Obligations.PedigreeRehash : Prop :=
  (∀ (data : Word) (s : State),
    let n := data.toNat % 32
    let refused := s.ped.rehash ≠ none ∨ n < 10 ∨ 18 < n ∨ 2 ^ 19 < 2 ^ s.pedLog2 + 2 ^ n
    (bit data.toNat 31 = true → s.role = roleC → refused → Gives (.pedRehashGo data) s fun t =>
      t.flag Reg.PED_STATUS F.PED_STATUS_REHASH_REFUSED = true ∧ t.ped = s.ped ∧ t = { s with regs := t.regs }) ∧
    (bit data.toNat 31 = true → s.role = roleC → ¬ refused → Gives (.pedRehashGo data) s fun t => t.ped = { s.ped with rehash := some (n, [], 0) } ∧
      t.pedCursor = 0 ∧ t.flag Reg.PED_STATUS F.PED_STATUS_REHASH = true ∧ t.pedLog2 = s.pedLog2 ∧
      (∀ kc, t.pedProbe kc = s.pedProbe kc) ∧ t = { s with regs := t.regs, ped := t.ped }) ∧
    (bit data.toNat 31 = false ∨ s.role ≠ roleC → Gives (.pedRehashGo data) s fun t => t.fld Reg.PED_REHASH F.PED_REHASH_NEW_LOG2 = n ∧
      (∀ o, o ≠ Reg.PED_REHASH → t.reg o = s.reg o) ∧ t = { s with regs := t.regs })) ∧
  (∀ s : State, s.walk = true → exec .rehashMigrate s = .next s) ∧
  (∀ (s : State) (n d : Nat) (new : Tab (List PedEntry)), s.walk = false → s.ped.rehash = some (n, new, d) → n < 32 →
    s.pedLog2 ≤ 18 → s.pedCursor < 2 ^ s.pedLog2 →
    let c := s.pedCursor
    let es := s.ped.table.getD c []
    (∀ e ∈ es, e.key % 2 ^ s.pedLog2 = c ∧ Nd.state (s.nodeAt e.node) ≠ Nd.withdrawn) →
    (∀ b, (new.getD b []).length + (es.filter fun e => e.key % 2 ^ n == b).length ≤ 4) → GivesRuns .rehashMigrate s fun t =>
      (∀ kc, t.pedProbe kc = s.pedProbe kc) ∧
      (c + 1 < 2 ^ s.pedLog2 → t.pedCursor = c + 1 ∧ t.pedLog2 = s.pedLog2 ∧ t.ped.rehash ≠ none) ∧
      (c + 1 = 2 ^ s.pedLog2 → t.ped.rehash = none ∧ t.pedLog2 = n ∧
        t.flag Reg.PED_STATUS F.PED_STATUS_REHASH = false) ∧
      t = { s with regs := t.regs, ped := t.ped, far := t.far })

/-- R145, R122, Table LDG-5: a command on a module that is not C-role, or with reserved bits, completes with RIGHTS; an ADMIT of a
team without an entry too. An ADMIT that passes its checks makes a LOOKUP record of its slot owned by the home with OWNSEQ 0,
submits the lookup and completes with OK. CANCEL of a HELD or ESCROW record takes it to CLOSING with CANCELLED; of a LOOKUP record
it sets CANCEL_PEND and completes later; of a PREFILL or DECODE record it sets CANCEL_PEND and goes to the owner; of a CLOSING
record it has no effect. RETARGET of a HELD record grants it to the named node. Their completions carry the
record's MATCH, NGEN and REASON (Table LDG-13). WHO_OWNS gives the record's state and owner. A handle that R119 refuses completes with that status and changes no record. -/
def Obligations.LedgerCommands : Prop :=
  (∀ (q : Fin 64) (x : HostRead) (s : State) (c : Bytes) (i : Instr) (op : Nat),
    (i = .ldgAdmit q x ∧ op = 1) ∨ (i = .ldgCancelCmd q x ∧ op = 2) ∨ (i = .retarget q x ∧ op = 3) ∨
      (i = .ldgWhoOwnsCmd q x ∧ op = 4) → s.parked = false → CmdAt s q c →
    (s.role ≠ roleC ∨ Lc.reserved c = true → Gives i s fun t =>
      CqEntry s q (cqEntry (Lc.tag c) St.rights (Lc.op c) 0 0 0 0 0 0 0) t ∧ t.ldg.homes = s.ldg.homes) ∧
    (s.role = roleC → Lc.reserved c = false → Lc.op c ≠ op → exec i s = .next s) ∧
    (∀ st, s.role = roleC → Lc.reserved c = false → Lc.op c = op → op = 2 ∨ op = 4 ∨ (op = 3 ∧ Lc.pNode c ≠ 0xFFFF) →
      handleStatus s (Lc.handle c) = st → st ≠ St.ok → Gives i s fun t =>
        CqEntry s q (cqEntry (Lc.tag c) st op 0 (Lc.handle c) 0 0 0 0 0) t ∧ t.ldg.homes = s.ldg.homes)) ∧
  (∀ (q : Fin 64) (x : HostRead) (s : State) (c : Bytes), CmdAt s q c → s.role = roleC → Lc.reserved c = false → Lc.op c = 1 →
    (s.ldgTeam (Lc.team c) = none → GivesRuns (.ldgAdmit q x) s fun t =>
      CqEntry s q (cqEntry (Lc.tag c) St.rights 1 0 0 0 0 0 0 0) t ∧ t.ldg.homes = s.ldg.homes ∧ t.ped = s.ped) ∧
    (∀ s2 s3 fill k, admitCheck (cmdTaken s q) c = (s2, St.ok, fill) → takeSlot s2 = (s3, some k) → RecOk s k →
      CqApart s q (s.recOff k) 128 →
      let h := mkHandle s.node k (s.slotGen k) (Lc.team c)
      GivesRuns (.ldgAdmit q x) s fun t => CqEntry s q (cqEntry (Lc.tag c) St.ok 1 1 h 0 0 0 0 0) t ∧
        t.ldg.homes.get? k = some {} ∧ t.reg Reg.LDG_ADMITS = (s.reg Reg.LDG_ADMITS + 1) % 2 ^ 32 ∧
        t.ped.lookups = s.ped.lookups ++ [⟨h, Lc.promptLen c, Lc.tokens c, Lc.roots c⟩] ∧
        Lr.handle (recAt t k) = h % 2 ^ 64 ∧ Lr.state (recAt t k) = Lr.lookup ∧ Lr.owner (recAt t k) = s.node ∧
        Lr.seq (recAt t k) = 0 ∧ Lr.phase (recAt t k) = 0 ∧ Lr.pending (recAt t k) = 0xFFFF ∧
        Lr.pNode (recAt t k) = Lc.pNode c ∧ Lr.promptLen (recAt t k) = Lc.promptLen c ∧
        Lr.maxNew (recAt t k) = Lc.maxNew c ∧ Lr.ngen (recAt t k) = 0 ∧ Lr.keep (recAt t k) = Lc.keep c ∧
        Lr.deadline (recAt t k) = (if Lc.deadline c = 0 then 0 else (s.now + Lc.deadline c) % 2 ^ 64))) ∧
  (∀ (q : Fin 64) (x : HostRead) (s : State) (c : Bytes), CmdAt s q c → s.role = roleC → Lc.reserved c = false →
    Named s (Lc.handle c) →
    let h := Lc.handle c
    let slot := hSlot h
    let r := recAt s slot
    CqApart s q (s.recOff slot) 128 →
    (Lc.op c = 2 →
      (Lr.state r = Lr.held ∨ Lr.state r = Lr.escrow → GivesRuns (.ldgCancelCmd q x) s fun t =>
        CqEntry s q (cqEntry (Lc.tag c) St.ok 2 6 h 0 0 (Lr.matched r) (Lr.ngen r) 0) t ∧ Lr.state (recAt t slot) = Lr.closing ∧
        Lr.endStatus (recAt t slot) = St.cancelled ∧ Lr.owner (recAt t slot) = s.node) ∧
      (Lr.state r = Lr.lookup → Lr.cancelPend r = false → GivesRuns (.ldgCancelCmd q x) s fun t =>
        Lr.cancelPend (recAt t slot) = true ∧ Lr.state (recAt t slot) = Lr.lookup ∧ t.out = s.out ∧
        (∀ a, s.ldg.homes.get? slot = some a →
          t.ldg.homes.get? slot = some { a with cancel := some ⟨q, Lc.tag c, h, none⟩ })) ∧
      (Lr.state r = Lr.prefill ∨ Lr.state r = Lr.decode → Lr.cancelPend r = false → GivesRuns (.ldgCancelCmd q x) s fun t =>
        Lr.cancelPend (recAt t slot) = true ∧ Lr.state (recAt t slot) = Lr.state r ∧
        (∀ a, s.ldg.homes.get? slot = some a →
          t.ldg.homes.get? slot = some { a with cancel := some ⟨q, Lc.tag c, h, some s.now⟩ })) ∧
      (Lr.state r = Lr.closing → GivesRuns (.ldgCancelCmd q x) s fun t =>
        CqEntry s q (cqEntry (Lc.tag c) St.noEffect 2 6 h 0 0 (Lr.matched r) (Lr.ngen r) (Lr.reason r)) t ∧ recAt t slot = r)) ∧
    (Lc.op c = 3 →
      (Lc.pNode c = 0xFFFF → GivesRuns (.retarget q x) s fun t =>
        CqEntry s q (cqEntry (Lc.tag c) St.bounds 3 0 h 0 0 0 0 0) t ∧ recAt t slot = r) ∧
      (Lc.pNode c ≠ 0xFFFF → Lr.state r = Lr.held → GivesRuns (.retarget q x) s fun t =>
        CqEntry s q (cqEntry (Lc.tag c) St.ok 3 3 h 0 0 (Lr.matched r) (Lr.ngen r) (Lr.reason r)) t ∧ Lr.state (recAt t slot) = Lr.escrow ∧
        Lr.pending (recAt t slot) = Lc.pNode c ∧ Lr.seq (recAt t slot) = Lr.seq r ∧ Lr.owner (recAt t slot) = Lr.owner r ∧
        Lr.grantTick (recAt t slot) = s.now % 2 ^ 64) ∧
      (Lc.pNode c ≠ 0xFFFF → Lr.state r ≠ Lr.held → GivesRuns (.retarget q x) s fun t =>
        CqEntry s q (cqEntry (Lc.tag c) St.noEffect 3 (Lr.state r) h 0 0 (Lr.matched r) (Lr.ngen r) (Lr.reason r)) t ∧ recAt t slot = r)) ∧
    (Lc.op c = 4 → GivesRuns (.ldgWhoOwnsCmd q x) s fun t => recAt t slot = r ∧
      CqEntry s q (cqEntry (Lc.tag c) St.ok 4 (Lr.state r) h (Lr.owner r) (Lr.seq r) (Lr.matched r) (Lr.ngen r) (Lr.reason r)) t))

/-- R124, R126, R127, R128, R135, R143 and Table LDG-5, the home's side of an escrow. A valid OFFER of a P or G owner makes the
record ESCROW, owned by the home, with OWNSEQ one higher, PHASE 1 and the named node PENDING; one that names the home makes it
CLOSING with the OFFER's end status, reason and NGEN; after the team's END an OFFER that names another node, or comes after
LDG_ESCROW_TMO, makes it CLOSING with MEMBER_LOST (Table TEM-5); a repeated one is discarded; any other is stale. A matching ACCEPT commits:
OWNER = PENDING, OWNSEQ = g, PREFILL or DECODE by PHASE; a duplicate or late one changes nothing. REFUSE and the escrow timeout
revert the record to HELD with OWNSEQ = g, and an expiry in the same tick wins over an ACCEPT. A lookup result moves the record on
in the order of R134. A CANCEL_REPLY clears CANCEL_PEND. -/
def Obligations.EscrowAtHome : Prop :=
  (∀ (s : State) (m : Msg), LdgNext s Lm.offer m →
    let h := Lm.handle m.data
    let slot := hSlot h
    let r := recAt s slot
    let valid := Lm.src m.data = Lr.owner r ∧ Lm.seq m.data = Lr.seq r ∧ (Lr.state r = Lr.prefill ∨ Lr.state r = Lr.decode)
    let lost := ∃ a n, s.ldg.homes.get? slot = some a ∧ a.lostAt = some n ∧
      (Lm.target m.data ≠ s.node ∨ n + s.reg Reg.LDG_ESCROW_TMO ≤ s.now)
    Named s h →
    (valid → ¬ lost → Lm.target m.data ≠ s.node → GivesRuns .offer s fun t => Lr.state (recAt t slot) = Lr.escrow ∧
      Lr.owner (recAt t slot) = s.node ∧ Lr.seq (recAt t slot) = (Lr.seq r + 1) % 65536 ∧ Lr.phase (recAt t slot) = 1 ∧
      Lr.pending (recAt t slot) = Lm.target m.data ∧
      Lr.firstToken (recAt t slot) = (if Lr.state r = Lr.prefill then Lm.token m.data else 0xFFFFFFFF) ∧
      (∀ a, a < s.recOff slot ∨ s.recOff slot + 128 ≤ a → Memory.byte t.mem a = Memory.byte s.mem a)) ∧
    (valid → lost → GivesRuns .offer s fun t => Lr.state (recAt t slot) = Lr.closing ∧ Lr.owner (recAt t slot) = s.node ∧
      Lr.endStatus (recAt t slot) = St.memberLost) ∧
    (valid → ¬ lost → Lm.target m.data = s.node → GivesRuns .offer s fun t => Lr.state (recAt t slot) = Lr.closing ∧
      Lr.owner (recAt t slot) = s.node ∧ Lr.seq (recAt t slot) = (Lr.seq r + 1) % 65536 ∧ Lr.endStatus (recAt t slot) = Lm.endStatus m.data ∧ Lr.reason (recAt t slot) = Lm.reason m.data ∧
      Lr.ngen (recAt t slot) = Lm.ngen m.data) ∧
    (Lr.state r = Lr.escrow → (Lm.seq m.data + 1) % 65536 = Lr.seq r →
      s.parked = false → exec .offer s = .next { s with inbox := s.inbox.erase m }) ∧
    (¬ valid → ¬ (Lr.state r = Lr.escrow ∧ (Lm.seq m.data + 1) % 65536 = Lr.seq r) → GivesRuns .offer s fun t =>
      t.mem = s.mem ∧ t.ldg = s.ldg ∧ t.reg Reg.LDG_STALE = (s.reg Reg.LDG_STALE + 1) % 2 ^ 32)) ∧
  (∀ (s : State) (m : Msg), LdgNext s Lm.accept m →
    let h := Lm.handle m.data
    let slot := hSlot h
    let r := recAt s slot
    let g := (Lr.seq r + 1) % 65536
    Named s h →
    (Lr.state r = Lr.escrow → escrowOver s r = false → Lm.src m.data = Lr.pending r → Lm.seq m.data = g →
      GivesRuns .accept s fun t =>
        Lr.state (recAt t slot) = (if Lr.phase r = 0 then Lr.prefill else Lr.decode) ∧
        Lr.owner (recAt t slot) = Lr.pending r ∧ Lr.seq (recAt t slot) = g ∧ Lr.pending (recAt t slot) = 0xFFFF ∧
        t.reg Reg.LDG_ESCROWS = (s.reg Reg.LDG_ESCROWS + 1) % 2 ^ 32 ∧
        (∀ a, a < s.recOff slot ∨ s.recOff slot + 128 ≤ a → Memory.byte t.mem a = Memory.byte s.mem a)) ∧
    (Lr.state r = Lr.escrow → escrowOver s r = true → CqApart s (Lr.aq r) (s.recOff slot) 128 → GivesRuns .accept s fun t =>
      Lr.state (recAt t slot) = Lr.held ∧ Lr.seq (recAt t slot) = g ∧ Lr.owner (recAt t slot) = s.node) ∧
    ((Lr.state r = Lr.prefill ∨ Lr.state r = Lr.decode) → Lm.src m.data = Lr.owner r → Lm.seq m.data = Lr.seq r →
      GivesRuns .accept s fun t => t.mem = s.mem ∧ t.ldg = s.ldg) ∧
    (Lr.state r = Lr.held ∨ Lr.state r = Lr.lookup ∨ Lr.state r = Lr.closing ∨ (Lr.state r = Lr.escrow ∧
        escrowOver s r = false ∧ (Lm.src m.data ≠ Lr.pending r ∨ Lm.seq m.data ≠ g)) → GivesRuns .accept s fun t =>
      t.mem = s.mem ∧ t.ldg = s.ldg ∧ t.reg Reg.LDG_STALE = (s.reg Reg.LDG_STALE + 1) % 2 ^ 32)) ∧
  (∀ (s : State) (slot : Nat) (c : Instr),
    let r := recAt s slot
    let g := (Lr.seq r + 1) % 65536
    (∃ m, c = .refuse ∧ LdgNext s Lm.refuse m ∧ slot = hSlot (Lm.handle m.data) ∧ Named s (Lm.handle m.data) ∧
      Lm.src m.data = Lr.pending r ∧ Lm.seq m.data = g) ∨
    (c = .escrowTimeout ∧ RecOk s slot ∧ Settled s ∧
      findSlot s (fun _ _ r => Lr.state r == Lr.escrow && escrowOver s r) = some slot) →
    Lr.state r = Lr.escrow → CqApart s (Lr.aq r) (s.recOff slot) 128 → GivesRuns c s fun t =>
      Lr.state (recAt t slot) = Lr.held ∧ Lr.seq (recAt t slot) = g ∧ Lr.owner (recAt t slot) = s.node ∧
      Lr.pending (recAt t slot) = 0xFFFF ∧ t.reg Reg.LDG_REVERTS = (s.reg Reg.LDG_REVERTS + 1) % 2 ^ 32) ∧
  (∀ (s : State) (x : LookupResult) (rest : List LookupResult), s.ldg.results = x :: rest → Named s x.handle →
    let slot := hSlot x.handle
    let r := recAt s slot
    let late := Lr.deadline r ≠ 0 ∧ Lr.deadline r ≤ s.now
    Lr.state r = Lr.lookup → CqApart s (Lr.aq r) (s.recOff slot) 128 →
    (∀ c, s.ldg.homes.get? slot = some c → ∀ d, c.cancel = some d → CqApart s d.aq (s.recOff slot) 128) →
    GivesRuns .lookupResult s fun t => t.ldg.results = rest ∧
      (Lr.cancelPend r = true → Lr.state (recAt t slot) = Lr.closing ∧ Lr.endStatus (recAt t slot) = St.cancelled) ∧
      (Lr.cancelPend r = false → late → Lr.state (recAt t slot) = Lr.closing ∧ Lr.endStatus (recAt t slot) = St.deadline) ∧
      (Lr.cancelPend r = false → ¬ late → Lr.pNode r = 0xFFFF → Lr.state (recAt t slot) = Lr.held ∧
        Lr.matched (recAt t slot) = x.matched % 2 ^ 32) ∧
      (Lr.cancelPend r = false → ¬ late → Lr.pNode r ≠ 0xFFFF → Lr.state (recAt t slot) = Lr.escrow ∧
        Lr.pending (recAt t slot) = Lr.pNode r ∧ Lr.matched (recAt t slot) = x.matched % 2 ^ 32)) ∧
  (∀ (s : State) (m : Msg), LdgNext s Lm.cancelReply m → Named s (Lm.handle m.data) →
    let slot := hSlot (Lm.handle m.data)
    ∀ a c, s.ldg.homes.get? slot = some a → a.cancel = some c → CqApart s c.aq (s.recOff slot) 128 → GivesRuns .cancelReply s fun t =>
      Lr.cancelPend (recAt t slot) = false ∧ Lr.state (recAt t slot) = Lr.state (recAt s slot) ∧
      t.ldg.homes.get? slot = some { a with cancel := none })

/-- R128, R129, R132, R135: the home's retries send the message again and touch no record. GRANT_RETRY sends the GRANT of an ESCROW
record with the time that remains, CANCEL_RETRY the CANCEL of a pending one; both note the tick of the send. A record that the home
owns and whose DEADLINE has passed is CLOSING with DEADLINE, and one that no OFFER reached in time after its team's END is CLOSING
with MEMBER_LOST (R225); the home owns both, and an ended escrow has used its g. WHO_OWNS changes nothing at the home and is answered
with the record's owner, OWNSEQ, state and NGEN. An owner sends its OFFER again and a silent context asks, without other change. An
owner past its deadline's grace ends the request with DEADLINE. -/
def Obligations.LedgerTimers : Prop :=
  (∀ (s : State) (slot : Nat) (a : HomeAux), RecOk s slot → Settled s → s.ldg.homes.get? slot = some a →
    let r := recAt s slot
    (findSlot s (fun _ h r => Lr.state r == Lr.escrow && !escrowOver s r &&
        decide (h.grantSent + s.reg Reg.LDG_ESCROW_RETRY ≤ s.now)) = some slot → Lr.stopBlk r + 1152 ≤ hbmBytes →
      s.parked = false → exec .grantRetry s = .next (sendLdg { s with ldg := { s.ldg with
          homes := s.ldg.homes.put slot { a with grantSent := s.now } } } (Lr.pending r) Lm.grant (Lr.handle r)
        { target := Lr.pending r, seq := (Lr.seq r + 1) % 65536,
          remain := if Lr.deadline r = 0 then 2 ^ 64 - 1 else Lr.deadline r - s.now,
          token := Lr.firstToken r, payload := r ++ Memory.read s.mem (Lr.stopBlk r) 1152 })) ∧
    (findSlot s (fun _ h r => (Lr.state r == Lr.prefill || Lr.state r == Lr.decode) && match h.cancel with
        | some ⟨_, _, _, some t⟩ => decide (t + s.reg Reg.LDG_ESCROW_RETRY ≤ s.now)
        | _ => false) = some slot →
      s.parked = false → exec .cancelRetry s = .next (sendLdg { s with ldg := { s.ldg with
          homes := s.ldg.homes.put slot { a with cancel := a.cancel.map fun c => { c with sent := some s.now } } } }
        (Lr.owner r) Lm.cancel (Lr.handle r) { seq := Lr.seq r })) ∧
    (findSlot s (fun _ _ r => (Lr.state r == Lr.held || Lr.state r == Lr.escrow) && Lr.deadline r != 0 &&
        decide (Lr.deadline r ≤ s.now)) = some slot → GivesRuns .homeDeadline s fun t =>
      Lr.state (recAt t slot) = Lr.closing ∧ Lr.endStatus (recAt t slot) = St.deadline ∧ Lr.owner (recAt t slot) = s.node ∧
      Lr.seq (recAt t slot) = (if Lr.state r = Lr.escrow then (Lr.seq r + 1) % 65536 else Lr.seq r)) ∧
    (findSlot s (fun _ h r => (Lr.state r == Lr.prefill || Lr.state r == Lr.decode) && match h.lostAt with
        | some t => decide (t + s.reg Reg.LDG_ESCROW_TMO ≤ s.now)
        | none => false) = some slot → GivesRuns .lostMemberOfferTimeout s fun t =>
      Lr.state (recAt t slot) = Lr.closing ∧ Lr.endStatus (recAt t slot) = St.memberLost ∧
      Lr.owner (recAt t slot) = s.node ∧ Lr.seq (recAt t slot) = Lr.seq r)) ∧
  (∀ (s : State) (m : Msg), LdgNext s Lm.whoOwns m → Named s (Lm.handle m.data) →
    let h := Lm.handle m.data
    let r := recAt s (hSlot h)
    s.parked = false → exec .whoOwns s = .next (sendLdg { s with inbox := s.inbox.erase m } (Lm.src m.data) Lm.ownerIs h
      { status := St.ok, target := Lr.owner r, seq := Lr.seq r, state := Lr.state r, ngen := Lr.ngen r })) ∧
  (∀ (s : State) (c : OwnerCtx) (x : Nat × Bytes), c.offer = some x →
    s.ldg.ctxs.find? (fun c => c.offer.isSome && !c.offerOver &&
      decide (c.offerAt + s.reg Reg.LDG_ESCROW_RETRY ≤ s.now)) = some c →
    s.parked = false → exec .offerRetry s = .next ({ s with ldg := { s.ldg with
        ctxs := replaceIf (·.handle == c.handle) (fun _ => { c with offerAt := s.now }) s.ldg.ctxs } }.sendMsg
      (hHome c.handle) Op.ledger (hTeam c.handle) 0xFF x.2)) ∧
  (∀ (s : State) (c : OwnerCtx),
    s.ldg.ctxs.find? (fun c => decide (c.heard + (s.reg Reg.LDG_ESCROW_TMO + 2 * s.reg Reg.LDG_ESCROW_RETRY) ≤ s.now)) = some c →
    s.parked = false → exec .contextSilence s = .next (sendLdg { s with ldg := { s.ldg with
        ctxs := replaceIf (·.handle == c.handle) (fun _ => { c with heard := s.now }) s.ldg.ctxs } }
      (hHome c.handle) Lm.whoOwns c.handle { seq := c.seq })) ∧
  (∀ (s : State) (c : OwnerCtx),
    s.ldg.ctxs.find? (fun c => c.acting && match c.deadline with
      | some t => decide (t + s.reg Reg.LDG_DEADLINE_GRACE ≤ s.now)
      | none => false) = some c →
    GivesRuns .deadlineGraceExpiry s fun t => ∃ d x, t.ctx c.handle = some d ∧ d.acting = false ∧ d.offer = some (hHome c.handle, x) ∧
      d.step = c.step ∧ d.record = c.record ∧ Lm.endStatus x = St.deadline ∧ Lm.reason x = 0 ∧
      Lm.ngen x = Lr.ngen c.record % 2 ^ 32) ∧
  (∀ s : State,
    (findSlot s (fun _ h r => Lr.state r == Lr.escrow && !escrowOver s r &&
      decide (h.grantSent + s.reg Reg.LDG_ESCROW_RETRY ≤ s.now)) = none → exec .grantRetry s = .next s) ∧
    ((s.ldg.ctxs.find? fun c => c.offer.isSome && !c.offerOver &&
      decide (c.offerAt + s.reg Reg.LDG_ESCROW_RETRY ≤ s.now)) = none → exec .offerRetry s = .next s))

/-- R125, R128–R131, R134, R136, R137: a GRANT that the module may take installs a context that does not act, and one that it may not
take installs none; a repeated GRANT installs nothing new. COMMIT of the granted sequence lets a P context act and resolves step 0
at a G owner; COMMIT, REVERT and OWNER_IS of a later sequence discard the context; an OWNER_IS that keeps it ends the
retries of its OFFER. CANCEL marks a context of its OWNSEQ and no
other. A commit entry that fails R133 changes no context; one that passes commits its token and ends the request exactly in the
order of R134: status, stop check, cancel, deadline. -/
def Obligations.OwnerContexts : Prop :=
  (∀ (s : State) (m : Msg), LdgNext s Lm.grant m →
    let h := Lm.handle m.data
    let fits := s.role = Lr.phase (slice m.data 64 128) ∧ s.ldg.ctxs.length < 65536 ∧ s.ldgTeam (hTeam h) ≠ none
    (s.ctx h = none → fits → GivesRuns .grant s fun t => ∃ c, t.ctx h = some c ∧ c.acting = false ∧ c.offer = none ∧
      c.seq = Lm.seq m.data ∧ c.cancel = false ∧ c.record = slice m.data 64 128 ∧ c.stop = slice m.data 192 1152 ∧
      (Lr.ngen c.record = 0 → c.d = List.replicate 8 0 ∧ c.line = []) ∧
      c.deadline = (if Lm.remain m.data = 2 ^ 64 - 1 then none else some (s.now + Lm.remain m.data))) ∧
    (s.ctx h = none → ¬ fits → GivesRuns .grant s fun t => t.ldg = s.ldg ∧ t.mem = s.mem) ∧
    (∀ c, s.ctx h = some c → isNewer 16 (Lm.seq m.data) c.seq = false → GivesRuns .grant s fun t => t.mem = s.mem ∧
      t.ldg = { s.ldg with ctxs := replaceIf (·.handle == c.handle) (fun _ => { c with heard := s.now }) s.ldg.ctxs })) ∧
  (∀ (s : State) (m : Msg) (c : OwnerCtx), LdgNext s Lm.commit m → s.ctx (Lm.handle m.data) = some c →
    (Lm.target m.data = s.node → hHome c.handle ≠ s.node → Lm.seq m.data = c.seq → c.offer = none → c.acting = false →
      (s.role ≠ roleG → exec .ldgCommit s =
        .next ({ s with inbox := s.inbox.erase m }.setCtx { c with acting := true, heard := s.now })) ∧
      (s.role = roleG → c.record.length = 128 → GivesRuns .ldgCommit s fun t => ∃ d, t.ctx (Lm.handle m.data) = some d ∧
        d.step = (c.step + 1) % 2 ^ 32 ∧
        (stepVerdict c St.ok (Lr.firstToken c.record) s.now = none → d.acting = true ∧ d.offer = none) ∧
        (∀ st why, stepVerdict c St.ok (Lr.firstToken c.record) s.now = some (st, why) → d.acting = false ∧
          ∃ x, d.offer = some (hHome c.handle, x) ∧ Lm.endStatus x = st % 256 ∧ Lm.reason x = why % 16))) ∧
    (Lm.target m.data ≠ s.node → isNewer 16 (Lm.seq m.data) c.seq = true →
      s.parked = false → exec .ldgCommit s = .next ({ s with inbox := s.inbox.erase m }.dropCtx c.handle))) ∧
  (∀ (s : State) (m : Msg) (c : OwnerCtx), s.ctx (Lm.handle m.data) = some c →
    (LdgNext s Lm.revert m → s.parked = false → exec .revert s = .next (if isNewer 16 c.seq (Lm.seq m.data) then
        { s with inbox := s.inbox.erase m }.setCtx { c with heard := s.now }
      else { s with inbox := s.inbox.erase m }.dropCtx c.handle)) ∧
    (LdgNext s Lm.ownerIs m → Lm.status m.data ≠ St.uncorrectable → s.parked = false → exec .ownerIs s = .next
      (if isNewer 16 c.seq (Lm.seq m.data) then { s with inbox := s.inbox.erase m }
      else if Lm.target m.data = s.node ∧ isOlder 16 c.seq (Lm.seq m.data) = false then
        (if c.offer.isSome then { s with inbox := s.inbox.erase m }.setCtx { c with offerOver := true }
        else { s with inbox := s.inbox.erase m })
      else { s with inbox := s.inbox.erase m }.dropCtx c.handle)) ∧
    (LdgNext s Lm.cancel m → Lm.seq m.data = c.seq → c.offer = none →
      s.parked = false → exec .ldgCancel s = .next ({ s with inbox := s.inbox.erase m }.setCtx { c with cancel := true })) ∧
    (LdgNext s Lm.cancel m → Lm.seq m.data ≠ c.seq → GivesRuns .ldgCancel s fun t => t.ldg = s.ldg ∧ t.mem = s.mem)) ∧
  (∀ s : State, s.flag Reg.LDG_CTRL F.LDG_CTRL_FIN_EN = false → exec .step s = .next s) ∧
  (∀ (s : State) (m : Msg) (c : OwnerCtx), LdgNext s Lm.step m → s.flag Reg.LDG_CTRL F.LDG_CTRL_FIN_EN = true →
    Lm.nent m.data = 1 → s.role = roleG →
    let e := slice m.data 64 32
    let status := fld e 10 1
    let token := fld e 12 4
    s.ctx (fld e 0 8) = some c → c.acting = true → CtxOk s c → bit (fld e 11 1) 0 = false →
    (fld e 8 2 ≠ c.seq ∨ fld e 16 4 ≠ (c.step + 1) % 2 ^ 32 → GivesRuns .step s fun t => t.ldg = s.ldg ∧ t.mem = s.mem ∧
      t.reg Reg.LDG_STALE = (s.reg Reg.LDG_STALE + 1) % 2 ^ 32) ∧
    (fld e 8 2 = c.seq → fld e 16 4 = (c.step + 1) % 2 ^ 32 → c.record.length = 128 → GivesRuns .step s fun t =>
      ∃ d, t.ctx c.handle = some d ∧ d.step = (c.step + 1) % 2 ^ 32 ∧
        (status = St.ok → token ≠ 0xFFFFFFFF → Lr.ngen d.record = (Lr.ngen c.record + 1) % 2 ^ 32 ∧
          d.d = stopStep c.stop c.d token ∧ t.reg Reg.LDG_TOKENS = (s.reg Reg.LDG_TOKENS + 1) % 2 ^ 32) ∧
        (stepVerdict c status token s.now = none → d.acting = true ∧ d.offer = c.offer) ∧
        (∀ st why, stepVerdict c status token s.now = some (st, why) → d.acting = false ∧
          ∃ x, d.offer = some (hHome c.handle, x) ∧ Lm.endStatus x = st % 256 ∧ Lm.reason x = why % 16)))

/-- R140: the match state of sequence j is exact. After any tokens, from state zero, the bit of a sequence of length n is set if and
only if the last n tokens are the sequence. The check gives STOP_TOKEN for a listed id, then STOP_SEQ for a matching sequence, then
MAX_TOKENS, then 0. -/
def Obligations.StopCheck : Prop :=
  (∀ (stop : Bytes) (ts : List Nat) (j : Fin 8),
    let n := fld stop (2 + j) 1
    1 ≤ n → n ≤ 32 →
    let d := ts.foldl (stopStep stop) (List.replicate 8 0)
    (bit (d.getD j 0) (n - 1) = true ↔
      n ≤ ts.length ∧ ∀ i, i < n → ts.getD (ts.length - n + i) 0 = fld stop (128 + 128 * j + 4 * i) 4)) ∧
  (∀ (stop : Bytes) (d : List Nat) (t ngen maxNew : Nat),
    let id := ∃ i, i < fld stop 0 1 ∧ fld stop (64 + 4 * i) 4 = t
    let seq := ∃ j, j < fld stop 1 1 ∧ bit (d.getD j 0) (fld stop (2 + j) 1 - 1) = true
    (id → stopReason stop d t ngen maxNew = 1) ∧ (¬ id → seq → stopReason stop d t ngen maxNew = 2) ∧
    (¬ id → ¬ seq → ngen = maxNew → stopReason stop d t ngen maxNew = 3) ∧
    (¬ id → ¬ seq → ngen ≠ maxNew → stopReason stop d t ngen maxNew = 0))

/-- R143, R120: a close whose insert, edits and answers have ended frees the slot: its record is FREE, its GEN is one higher modulo
2¹⁴, and it is reused last. RELEASED takes its module off the close. RELEASE submits edits for the roots that are LIVE tables of the
handle and skips any other. R146: enabling a team entry sets I to the smaller of 8 × IMIN and S, and the highest-numbered I stalls
of the span are to take INGEST duty; each sample, 1,000 ticks after the last, adds the queued appends and
descriptors; each period adjusts I by the procedure. -/
def Obligations.ClosingAndDuty : Prop :=
  (∀ (s : State) (slot : Nat) (a : HomeAux) (c : Closing), s.kvp.done = [] → s.ldg.inserted = [] → s.ldg.releases = [] →
    s.ldg.homes.find? (fun (_, h) => match h.close with
      | some c => !c.insert && c.edits == 0 && c.waiting.isEmpty
      | none => false) = some (slot, a) → a.close = some c → a.cancel = none → RecOk s slot → Settled s →
    s.ldg.homes.get? slot = some a →
    let r := recAt s slot
    GivesRuns .closeComplete s fun t => t.ldg.homes.get? slot = none ∧ t.slotGen slot = (s.slotGen slot + 1) % 2 ^ 14 ∧
      t.ldg.freed = s.ldg.freed ++ [slot] ∧ Lr.state (recAt t slot) = Lr.free ∧
      (s.flag (Reg.LDG_AQ_CTRL (Lr.aq r)) F.LDG_AQ_CTRL_EN = true → cqFull s (Lr.aq r) = false →
        (s.aq (Lr.aq r)).held = [] → (s.aq (Lr.aq r)).notices = [] → CqApart s (Lr.aq r) (s.recOff slot) 128 →
        CqEntry s (Lr.aq r) (cqEntry (Lr.tag r) (Lr.endStatus r) 0x80 (Lr.state r) (Lr.handle r) (Lr.owner r) (Lr.seq r)
          (Lr.matched r) (Lr.ngen r) (Lr.reason r)) t)) ∧
  (∀ (s : State) (m : Msg) (a : HomeAux), LdgNext s Lm.released m → handleStatus s (Lm.handle m.data) = St.ok →
    s.ldg.homes.get? (hSlot (Lm.handle m.data)) = some a →
    s.parked = false → exec .released s = .next { s with
      inbox := s.inbox.erase m,
      ldg := { s.ldg with
        homes := s.ldg.homes.put (hSlot (Lm.handle m.data))
          { a with close := (a.close.map fun c => { c with waiting := c.waiting.erase (Lm.src m.data) }) } } }) ∧
  (∀ (s : State) (m : Msg) (root : Nat), LdgNext s Lm.release m → s.kvp.done = [] → s.ldg.inserted = [] → s.ldg.releases = [] →
    Settled s → s.role = roleC → Lm.nent m.data = 1 → root = fld m.data 64 8 % 2 ^ 48 → rootOk root = true →
    let r := Memory.read s.mem root 64
    (Root.handle r = Lm.handle m.data → Root.state r = Root.live → GivesRuns .ldgRelease s fun t => t.mem = s.mem ∧
      ∃ e, t.kvp.edits = s.kvp.edits ++ [e] ∧ Ed.op e.desc = 0x15 ∧ Ed.root e.desc = root) ∧
    (Root.handle r ≠ Lm.handle m.data ∨ Root.state r ≠ Root.live → GivesRuns .ldgRelease s fun t =>
      t.mem = s.mem ∧ t.kvp = s.kvp)) ∧
  (∀ (e : Fin 16) (data : Word) (s : State), s.role = roleC → s.flag (Reg.LDG_TEAM e) F.LDG_TEAM_EN = false →
    bit data.toNat 31 = true → bits data.toNat 25 21 ≤ 16 → bits data.toNat 20 16 ≤ bits data.toNat 25 21 →
    let l := s.spanStalls (data.toNat % 4096)
    let i := min (8 * bits data.toNat 20 16) l.length
    Gives (.ldgTeamEnable e data) s fun t => (t.split e).i = i ∧ (t.split e).start = s.now ∧
      (∀ k, k < l.length → ((t.stall (l.getD k 0)).dutyNext.getD (t.stall (l.getD k 0)).duty) =
        (if l.length ≤ k + i then Duty.ingest else Duty.decode)) ∧
      t = { s with regs := t.regs, ldg := t.ldg, stalls := t.stalls }) ∧
  (∀ (s : State) (e : Fin 16), s.role = roleC → s.flag (Reg.LDG_TEAM e) F.LDG_TEAM_EN = true →
    let l := s.spanStalls (s.fld (Reg.LDG_TEAM e) F.LDG_TEAM_TEAM)
    (s.now < (s.split e).sampled + 1000 → Gives .dutySample s fun t => t.split e = s.split e ∧ t = { s with ldg := t.ldg }) ∧
    ((s.split e).sampled + 1000 ≤ s.now → Gives .dutySample s fun t => (t.split e).sampled = s.now ∧ (t.split e).n = (s.split e).n + 1 ∧ (t.split e).i = (s.split e).i ∧
      (t.split e).a = (s.split e).a + (l.map fun k => (s.work k).appends.length).sum ∧
      (t.split e).q = (s.split e).q + (l.map fun k => (s.work k).att.length).sum ∧ t = { s with ldg := t.ldg })) ∧
  (∀ (s : State) (e : Fin 16), s.role = roleC → s.flag (Reg.LDG_TEAM e) F.LDG_TEAM_EN = true →
    (s.split e).start + s.reg Reg.LDG_SPLIT_PERIOD ≤ s.now →
    let x := s.split e
    let st := (s.spanStalls (s.fld (Reg.LDG_TEAM e) F.LDG_TEAM_TEAM)).length
    let lo := min (8 * s.fld (Reg.LDG_TEAM e) F.LDG_TEAM_IMIN) st
    let hi := min (8 * s.fld (Reg.LDG_TEAM e) F.LDG_TEAM_IMAX) st
    let h := s.fld (Reg.LDG_TEAM e) F.LDG_TEAM_HYST * x.n * st
    let on := s.flag Reg.LDG_CTRL F.LDG_CTRL_SPLIT_EN = true
    Gives (.dutySplitAdjust e) s fun t => (t.split e).a = 0 ∧ (t.split e).q = 0 ∧ (t.split e).n = 0 ∧
      (¬ on → (t.split e).i = x.i) ∧
      (on → x.q + h < x.a → x.i + 8 ≤ hi → (t.split e).i = x.i + 8) ∧
      (on → x.a + h < x.q → lo + 8 ≤ x.i → (t.split e).i + 8 = x.i) ∧
      (on → lo ≤ x.i → x.i ≤ hi → x.a ≤ x.q + h → x.q ≤ x.a + h → (t.split e).i = x.i))

/-- R158, R162, R305: EN = 0 takes a port to DISABLED and disarms its loss watch; EN = 1 takes a DISABLED port to DETECT once
start-up has released the ports; RETRAIN takes an UP port to DETECT; LANE_RETRAIN takes one lane of an UP port out of its good lanes
to train alone. Training markers take DETECT to EQUALISE and, on a lane of the active set, UP to RETRAIN. Codeword lock takes LOCK
to HELLO. HLK_TRAIN.TMO without UP takes a port to DETECT and counts. A lost lane signal of the active set starts RETRAIN. -/
def Obligations.LinkStates : Prop :=
  (∀ (p : Fin 16) (data : Word) (s : State),
    let x := s.port p
    (bit data.toNat 31 = false → Gives (.portEnable p data) s fun t => (t.port p).state = .disabled ∧
      (x.state ≠ .disabled → (t.port p).armed = false ∧ (t.port p).txq = [])) ∧
    (bit data.toNat 31 = true → x.state = .disabled → Gives (.portEnable p data) s fun t =>
      (t.port p).state = (if s.tck.portsHeld then .disabled else .detect) ∧
      (s.tck.portsHeld = false → (t.port p).laneEn = bits data.toNat 7 4)) ∧
    (bit data.toNat 31 = true → x.state ≠ .disabled → bits data.toNat 30 30 = 0 → bit data.toNat 2 = false →
      Gives (.portEnable p data) s fun t => t.port p = x)) ∧
  (∀ (p : Fin 16) (k : Fin 4) (s : State),
    let x := s.port p
    s.flag (Reg.HLK_CTRL p) F.HLK_CTRL_EN = true → s.fld (Reg.HLK_CTRL p) F.HLK_CTRL_RETRAIN = 0 →
      s.fld (Reg.HLK_CTRL p) F.HLK_CTRL_LANE_RETRAIN = 0 →
    (x.state = .up → Gives (.portRetrain p) s fun t =>
      (t.port p).state = .detect ∧ (t.port p).armed = x.armed ∧ (t.port p).cause = 0 ∧ (t.port p).txq = [] ∧
      ∀ j, j < 4 → t.shut 9 3 (4 * p + j) = true) ∧
    (x.state = .up → Lanes4 s p → Gives (.laneRetrain p k) s fun t =>
      (t.port p).state = .up ∧ bit (t.port p).good k = false ∧ ((t.port p).lane k).alone = true ∧
      (∀ j, j ≠ k.val → (t.port p).lane j = x.lane j)) ∧
    (x.state ≠ .up → x.state ≠ .disabled →
      (Gives (.portRetrain p) s fun t => t.port p = x) ∧ Gives (.laneRetrain p k) s fun t => t.port p = x)) ∧
  (∀ (p : Fin 16) (k : Fin 4) (s : State),
    let x := s.port p
    (x.state = .detect → bit x.laneEn k = true →
      exec (.trainingMarkerDetect p k) s = .next { s with ports := s.ports.put p { x with state := .equalise } }) ∧
    (x.state = .up → bit x.rxSet k = true → Gives (.trainingMarkerDetect p k) s (Retrains s p 2)) ∧
    (x.state = .up → bit x.rxSet k = false → Lanes4 s p → Gives (.trainingMarkerDetect p k) s fun t =>
      (t.port p).state = .up ∧ ((t.port p).lane k).alone = true) ∧
    (x.state ≠ .detect → x.state ≠ .up → exec (.trainingMarkerDetect p k) s = .next s) ∧
    (x.state = .up → bit x.rxSet k = true → Gives (.laneSignalLoss p k) s fun t => Retrains s p 3 t ∧ t.shut 9 3 (4 * p + k) = true) ∧
    (x.state = .up → bit x.rxSet k = false → Lanes4 s p → Gives (.laneSignalLoss p k) s fun t =>
      (t.port p).state = .up ∧ bit (t.port p).good k = false ∧ (∀ j, j ≠ k.val → (t.port p).lane j = x.lane j)) ∧
    (x.state ≠ .up → Lanes4 s p → Gives (.laneSignalLoss p k) s fun t => (t.port p).state = x.state ∧
      ((t.port p).lane k).good = false ∧ ((t.port p).lane k).rxReady = false ∧ t.shut 9 3 (4 * p + k) = true)) ∧
  (∀ (p : Fin 16) (s : State),
    let x := s.port p
    let late := x.trainStart + s.fld (Reg.HLK_TRAIN p) F.HLK_TRAIN_TMO * 100000 ≤ s.nowH
    (x.state = .lock → Gives (.codewordLock p) s fun t => (t.port p).state = .hello ∧ (t.port p).helloRx = 0 ∧
      (t.port p).helloTx = 0 ∧ t = { s with ports := t.ports } ∧ ∀ q, q ≠ p.val → t.port q = s.port q) ∧
    (x.state ≠ .lock → exec (.codewordLock p) s = .next s) ∧
    (x.state ≠ .disabled → x.state ≠ .up → late → Gives (.trainingTimeout p) s fun t => (t.port p).state = .detect ∧
      (t.port p).armed = x.armed ∧ t.reg (Reg.HLK_TRAIN_FAIL p) = (s.reg (Reg.HLK_TRAIN_FAIL p) + 1) % 2 ^ 32) ∧
    (x.state = .disabled ∨ x.state = .up ∨ ¬ late → exec (.trainingTimeout p) s = .next s)) ∧
  (∀ (p : Fin 16) (k : Fin 4) (data : Word) (s : State) (c : Instr),
    c = .portEnable p data ∨ c = .portRetrain p ∨ c = .laneRetrain p k ∨ c = .trainingMarkerDetect p k ∨
      c = .laneSignalLoss p k ∨ c = .codewordLock p ∨ c = .trainingTimeout p → Gives c s fun t => LinkOnly s t ∧
    ((s.port p).rxPart = none → ∀ q, q ≠ p.val → t.port q = s.port q))

/-- R159–R161: a training frame moves this end's taps by one unit within their limits as its requests ask, unless the frames are
FAST, and is answered; its status word takes this end's own requests back to hold, and a frame leaves with both words; a lane is good after 16 frames in a row with RX_READY both ways. RX_READY follows a qualification window
with no more than QUAL_MAX errors, or QUAL_MAX ÷ 16 where the frames are FAST. The port locks on the first set of R160's list whose
lanes are good: once every lane it wants is good, once half of TMO has elapsed with a good lane, or 120 µs into RETRAIN; with none
then, RETRAIN goes to DETECT. -/
def Obligations.LinkTraining : Prop :=
  (∀ (p : Fin 16) (k : Fin 4) (words : TrainWords) (s : State),
    let x := s.port p
    let l := x.lane k
    let c := words.control.toNat
    let a := words.status.toNat
    let hold := laneFast x k || bit c 5
    let n := if bit c 4 && l.rxReady then l.bothFrames + 1 else 0
    (lanetrains x k = false → exec (.trainingFrame p k words) s = .next s) ∧
    (lanetrains x k = true → Lanes4 s p → Gives (.trainingFrame p k words) s fun t =>
      let l' := (t.port p).lane k
      (hold = true ∨ bits c 1 0 = 0 → l'.pre = l.pre) ∧ (hold = true ∨ bits c 3 2 = 0 → l'.post = l.post) ∧
      (hold = false → (bits c 1 0 = 1 → l'.pre = if l.pre < 0 then l.pre + 1 else l.pre) ∧
        (bits c 1 0 = 2 → l'.pre = if -16 < l.pre then l.pre - 1 else l.pre) ∧ (bits c 1 0 = 3 → l'.pre = -4) ∧
        (bits c 3 2 = 1 → l'.post = if l.post < 0 then l.post + 1 else l.post) ∧
        (bits c 3 2 = 2 → l'.post = if -24 < l.post then l.post - 1 else l.post) ∧ (bits c 3 2 = 3 → l'.post = -8)) ∧
      l'.bothFrames = n ∧ (l'.good = true ↔ 16 ≤ n) ∧
      (∀ j, j ≠ k.val → (t.port p).lane j = x.lane j) ∧
      (hold = true ∨ l.rxReady = true → l'.reqPre = 0 ∧ l'.reqPost = 0) ∧
      (hold = false → l.rxReady = false →
        (l.reqPre ≠ 0 → l'.reqPre = if bits a 1 0 = 0 then l.reqPre else 0) ∧
        (l.reqPost ≠ 0 → l'.reqPost = if bits a 3 2 = 0 then l.reqPost else 0)) ∧
      (∃ control status rest, t.out = s.out ++ .trainFrame p k control status l.prbs :: rest ∧
        bits control 1 0 = l'.reqPre % 4 ∧ bits control 3 2 = l'.reqPost % 4 ∧ bit control 4 = l.rxReady ∧
        bit control 5 = laneFast x k ∧ control / 64 = k ∧ (hold = true → status = 0) ∧
        (hold = false → (bits c 1 0 = 0 → bits status 1 0 = 0) ∧ (bits c 3 2 = 0 → bits status 3 2 = 0) ∧
          (bits c 1 0 = 1 → bits status 1 0 = if l.pre < 0 then 1 else 3) ∧
          (bits c 1 0 = 2 → bits status 1 0 = if -16 < l.pre then 1 else 2))) ∧
      l'.prbs = (l.prbs + 7872) % 8191 ∧
      (l.alone = false → x.state = .equalise ∨ x.state = .retrain → within (trainSet x) (t.port p).good = true →
        ∀ m, pickSet ((t.port p).good &&& trainSet x) = some m → LocksOn p m t))) ∧
  (∀ (p : Fin 16) (k : Fin 4) (errors : Nat) (converged : Bool) (s : State),
    let x := s.port p
    let q := s.fld (Reg.HLK_TRAIN p) F.HLK_TRAIN_QUAL_MAX
    let m := if laneFast x k then q / 16 else q
    (lanetrains x k = false → exec (.qualificationWindowEnd p k errors converged) s = .next s) ∧
    (lanetrains x k = true → Lanes4 s p → Gives (.qualificationWindowEnd p k errors converged) s fun t =>
      (((t.port p).lane k).rxReady = true ↔ converged = true ∧ errors ≤ m) ∧
      (((t.port p).lane k).rxReady = false → ((t.port p).lane k).good = false) ∧
      (∀ j, j ≠ k.val → (t.port p).lane j = x.lane j))) ∧
  (∀ (p : Fin 16) (s : State),
    let x := s.port p
    let half := x.trainStart + s.fld (Reg.HLK_TRAIN p) F.HLK_TRAIN_TMO * 100000 / 2 ≤ s.nowH
    (x.state = .equalise → half → ∀ m, pickSet (x.good &&& x.laneEn) = some m →
      Gives (.equaliseHalfTimeout p) s fun t => LocksOn p m t ∧ (t.port p).lanes = x.lanes) ∧
    (x.state ≠ .equalise ∨ pickSet (x.good &&& x.laneEn) = none → exec (.equaliseHalfTimeout p) s = .next s) ∧
    (x.state = .retrain → x.retrainStart + 120000 ≤ s.nowH →
      (∀ m, pickSet (x.good &&& x.lastSet) = some m → Gives (.retrainSetTimeout p) s fun t => LocksOn p m t) ∧
      (pickSet (x.good &&& x.lastSet) = none → Gives (.retrainSetTimeout p) s fun t =>
        (t.port p).state = .detect ∧ (t.port p).armed = x.armed)) ∧
    (x.state ≠ .retrain ∨ s.nowH < x.retrainStart + 120000 → exec (.retrainSetTimeout p) s = .next s)) ∧
  (∀ g m : Nat, pickSet g = some m ↔ ∃ i : Nat, [0xF, 0x3, 0xC, 1, 2, 4, 8][i]? = some m ∧ within m g = true ∧
    ∀ j m' : Nat, j < i → [0xF, 0x3, 0xC, 1, 2, 4, 8][j]? = some m' → within m' g = false)

/-- R156–R158, R161–R164: what each control slot does and when each is sent. In HELLO a port sends a HELLO every 1 µs and goes UP,
its loss watch armed, after three matching HELLOs each way; its own node number holds it and sets HELLO_CONFLICT. A CREDIT slot sets
R_c to the peer's count of slots sent and returns the lost ones in F_c. WIDTH with ACT moves the receive set; without it each end
applies R160 to both masks. Recalibration passes ask for IDLE slots after 1 ms. A HOOFBEAT is sent unless a START was, is a sign of
life, and starts RETRAIN when it names another node. A silent neighbour is lost once. -/
def Obligations.LinkControlSlots : Prop :=
  (∀ (p : Fin 16) (s : State),
    let x := s.port p
    s.role < 4 → x.state = .hello → (x.helloTx = 0 ∨ x.helloLast + 1000 ≤ s.nowH) → Gives (.helloTimer p) s fun t =>
      (∃ b rest, t.out = s.out ++ .ctrlSlot p b :: rest ∧ Sl.type b = 1 ∧ Sl.node b = s.node % 65536 ∧ Sl.port b = p ∧
        Sl.role b = s.role ∧
        Sl.quad b 8 = (List.range 4).map fun c => 32 * bits (s.reg (Reg.HLK_CREDIT p)) (8 * c + 7) (8 * c)) ∧
      (∀ h, x.helloSeen = some h → x.helloHeld = false → 3 ≤ x.helloRx → 3 ≤ x.helloTx + 1 → UpWith p h s.nowH t) ∧
      (x.helloSeen = none ∨ x.helloHeld = true ∨ x.helloRx < 3 ∨ x.helloTx + 1 < 3 →
        (t.port p).state = .hello ∧ (t.port p).helloTx = x.helloTx + 1)) ∧
  (∀ (p : Fin 16) (slot : Bytes) (s : State),
    let x := s.port p
    let b := slot64 slot
    x.state = .hello →
    (Sl.node b = s.node → Gives (.hello p slot) s fun t => (t.port p).state = .hello ∧ (t.port p).helloHeld = true ∧
      t.flag (Reg.HLK_STATUS p) F.HLK_STATUS_HELLO_CONFLICT = true) ∧
    (Sl.node b ≠ s.node → ∀ h, x.helloSeen = some h → helloMatch h b = true → 3 ≤ x.helloRx + 1 → 3 ≤ x.helloTx →
      Gives (.hello p slot) s (UpWith p b s.nowH)) ∧
    (Sl.node b ≠ s.node → (x.helloSeen = none ∨ x.helloTx < 3) → Gives (.hello p slot) s fun t =>
      (t.port p).state = .hello ∧ (t.port p).helloHeld = false ∧ (x.helloSeen = none → (t.port p).helloRx = 1))) ∧
  (∀ (p : Fin 16) (slot : Bytes) (s : State),
    let x := s.port p
    let b := slot64 slot
    x.state = .up →
    (x.recv.length = 4 → x.freed.length = 4 → Gives (.credit p slot) s fun t => ∀ c, c < 4 →
      (t.port p).recv.getD c 0 = fld b (16 + 2 * c) 2 ∧ (t.port p).peerFreed.getD c 0 = fld b (8 + 2 * c) 2 ∧
      ((t.port p).freed.getD c 0 + x.recv.getD c 0) % 65536 = (x.freed.getD c 0 + fld b (16 + 2 * c) 2) % 65536) ∧
    (bit (fld b 6 1) 0 = true → exec (.width p slot) s =
      .next { s with ports := s.ports.put p { x with rxSet := fld b 5 1 % 16 } }) ∧
    (bit (fld b 6 1) 0 = false → ∀ m, pickSet (x.good &&& fld b 5 1 / 16) = some m → Gives (.width p slot) s fun t =>
      (t.port p).txSet = m ∧ (t.port p).state = .up ∧ (t.port p).rxSet = x.rxSet ∧ (m ≠ x.txSet → ∃ w rest,
        t.out = s.out ++ .ctrlSlot p w :: .align p m (alignBlocks m) :: rest ∧ Sl.type w = 4 ∧ Sl.act w = true ∧ Sl.mask w = m)) ∧
    (Gives (.hoofbeat p slot) s fun t => (t.port p).lifeTick = s.nowH ∧
      (Sl.node b = s.fld (Reg.HLK_NEIGHBOUR p) F.HLK_NEIGHBOUR_NODE → t = { s with ports := t.ports } ∧
        (t.port p).state = .up) ∧
      (Sl.node b ≠ s.fld (Reg.HLK_NEIGHBOUR p) F.HLK_NEIGHBOUR_NODE → Retrains s p 4 t)) ∧
    exec (.recalReq p) s = .next { s with ports := s.ports.put p { x with idleReq := true } } ∧
    exec (.recalDone p) s = .next { s with ports := s.ports.put p { x with idleReq := false } }) ∧
  (∀ (p : Fin 16) (slot : Bytes) (s : State), (s.port p).state ≠ .up →
    exec (.hoofbeat p slot) s = .next { s with ports := s.ports.put p { s.port p with lifeTick := s.nowH } }) ∧
  (∀ (p : Fin 16) (s : State),
    let x := s.port p
    x.state = .up →
    (x.creditDirty = true ∨ x.lastCredit + 1000 ≤ s.nowH → Gives (.creditReportTimer p) s fun t =>
      t.port p = { x with lastCredit := s.nowH, creditDirty := false } ∧ ∃ b, t = { s with ports := t.ports, out := s.out ++ [.ctrlSlot p b] } ∧
        Sl.type b = 3 ∧ (x.freed.length = 4 → x.sent.length = 4 → ∀ c, c < 4 →
          fld b (8 + 2 * c) 2 = x.freed.getD c 0 % 65536 ∧ fld b (16 + 2 * c) 2 = x.sent.getD c 0 % 65536)) ∧
    (x.hoofLast + 50000 ≤ s.nowH → Gives (.hoofbeatTimer p) s fun t => (t.port p).hoofLast = s.nowH ∧
      (t.port p).sentStart = false ∧ (x.sentStart = true → t.out = s.out) ∧
      (x.sentStart = false → ∃ b, t.out = s.out ++ [.ctrlSlot p b] ∧ Sl.type b = 2 ∧ Sl.node b = s.node % 65536 ∧
        Sl.port b = p ∧ fld b 7 1 = x.hoofSeq % 256 ∧ fld b 24 1 = s.fld Reg.PWR_STATUS F.PWR_STATUS_GAIT)) ∧
    (s.flag (Reg.HLK_RECAL p) F.HLK_RECAL_EN = true →
      x.recalLast + s.fld (Reg.HLK_RECAL p) F.HLK_RECAL_PERIOD * 100000 ≤ s.nowH → Gives (.recalPeriod p) s fun t =>
      (t.port p).recalLast = s.nowH ∧ t = { s with ports := t.ports } ∧ (Lanes4 s p → ∀ k, k < 4 → bit x.rxSet k = true →
        (x.lane k).pass = none → ((t.port p).lane k).pass = some (65536, s.nowH))) ∧
    (∀ k n a, k < 4 → Lanes4 s p → (x.lane k).pass = some (n, a) → (x.lane k).requested = false → a + 1000000 ≤ s.nowH →
      Gives (.recalSlotTimeout p) s fun t => ((t.port p).lane k).requested = true ∧
        ∃ b, t = { s with ports := t.ports, out := s.out ++ [.ctrlSlot p b] } ∧ Sl.type b = 5)) ∧
  (∀ (p : Fin 16) (s : State),
    let x := s.port p
    (x.armed = true → x.lifeTick + 400000 ≤ s.nowH → Gives (.neighbourLoss p) s fun t => (t.port p).armed = false ∧
      (t.port p).state = x.state ∧ t.flag (Reg.HLK_STATUS p) F.HLK_STATUS_NB_LOST = true ∧
      t.flag (Reg.HLK_NEIGHBOUR p) F.HLK_NEIGHBOUR_VALID = false ∧
      t.reg (Reg.HLK_NB_LOST p) = (s.reg (Reg.HLK_NB_LOST p) + 1) % 2 ^ 32 ∧ t.mem = s.mem) ∧
    (x.armed = false ∨ s.nowH < x.lifeTick + 400000 → exec (.neighbourLoss p) s = .next s))

/-- R150, R151, R153, R155, R161, R166: the symbols of a codeword go to the lanes in turn, five Gray-coded PAM4 symbols each, and are
read back so. What the RS decoder answers is a codeword that differs from the received one in at most 15 symbols, those it names. A
codeword that decodes is counted and its slots used: a packet that fits its START slot is received whole. One that does not discards
every slot, and the 64th in a row starts RETRAIN. In LOCK a codeword only advances the scrambler. The scrambler is x³¹ + x²⁸ + 1,
loaded with ones by ALIGN, and descrambling twice gives the bytes back. ALIGN blocks leave when 16,384 codewords are over. A GO starts
a margin scan unless one is busy; its end writes the margins. -/
def Obligations.Codewords : Prop :=
  (∀ (w : Nat) (cw : List Nat), w = 1 ∨ w = 2 ∨ w = 4 → cw.length = 544 → (∀ v ∈ cw, v < 1024) →
    gather 544 (spread w cw) = cw ∧ ∀ l ∈ spread w cw, l.length = 2720 / w) ∧
  (∀ (cw c es : List Nat), rsFix cw = some (c, es) → es.length ≤ 15 ∧ c.length = cw.length ∧
    (∀ j, j < 30 → gfEval c (gfExp j) = 0) ∧ ∀ i, i ∉ es → c.getD i 0 = cw.getD i 0) ∧
  (∀ (p : Fin 16) (first second : List Pam) (others : List (List Pam)) (s : State),
    let x := s.port p
    let d := if laneShut s p then none else lineDecode x.rxSet (first :: second :: others)
    let c : Instr := .codewordReceive p first second others
    (x.state ≠ .lock → x.state ≠ .up → x.state ≠ .hello → exec c s = .next s) ∧
    (x.state = .lock → exec c s = .next { s with
      ports := s.ports.put p { x with scram := (descramble x.scram (zeros 640)).2 } }) ∧
    (x.state = .up → d = none → Gives c s fun t =>
      (t.port p).rxPart = none ∧ (t.port p).rxBad = true ∧ (t.port p).rxq = x.rxq ∧
      t.reg (Reg.HLK_CW p) = (s.reg (Reg.HLK_CW p) + 1) % 2 ^ 32 ∧
      t.reg (Reg.HLK_FEC_HIST5 p) = (s.reg (Reg.HLK_FEC_HIST5 p) + 1) % 2 ^ 32 ∧
      (x.uncorrRun + 1 < 64 → (t.port p).state = .up ∧ (t.port p).uncorrRun = x.uncorrRun + 1) ∧
      (64 ≤ x.uncorrRun + 1 → Retrains s p 1 t)) ∧
    (∀ w, x.state = .up → d = some w → w.header = 1 →
      let plain := (descramble x.scram w.body).1
      let n := 36 + payloadLen (fld plain 4 1) (fld plain 10 2)
      n ≤ 64 → Gives c s fun t =>
        (t.port p).rxq = x.rxq ++ [(slice plain 0 64).take n] ∧ (t.port p).rxPart = none ∧ (t.port p).lifeTick = s.nowH ∧
        (t.port p).uncorrRun = 0 ∧ (t.port p).state = .up ∧ t.mem = s.mem ∧
        t.reg (Reg.HLK_CW p) = (s.reg (Reg.HLK_CW p) + 1) % 2 ^ 32 ∧
        (let h := Reg.HLK_FEC_HIST p (fecBucket (w.fixed.foldl (· + ·) 0)); t.reg h = (s.reg h + 1) % 2 ^ 32))) ∧
  (∀ (p : Nat) (x : Port) (s : State), s.pending = [] → s.ports.get? p = some x →
    x.state = .lock ∨ x.state = .hello ∨ x.state = .up → x.alignAt ≤ (tickOnce s).nowH →
    ∃ t, step s = .next t ∧ .align p x.txSet (alignBlocks x.txSet) ∈ t.out) ∧
  (∀ (v : Nat) (bs : Bytes), v < 2 ^ 31 → (descramble v (descramble v bs).1).1 = bs) ∧
  (∀ (v n i : Nat), v < 2 ^ 31 → 31 ≤ i → i < 8 * n →
    let b := fun j => (bit (((descramble v (zeros n)).1.getD (j / 8) 0).toNat) (j % 8)).toNat
    b i = (b (i - 31) + b (i - 28)) % 2) ∧
  (∀ (p : Fin 16) (s : State),
    exec (.alignBlock p) s = .next { s with ports := s.ports.put p { s.port p with scram := 2 ^ 31 - 1 } }) ∧
  (∀ (p : Fin 16) (data : Word) (s : State),
    (bit data.toNat 30 = true → (s.port p).eyeBusy = false → Gives (.eyeScanGo p data) s fun t =>
      (t.port p).eyeBusy = true ∧ t.flag (Reg.HLK_EYE_CTRL p) F.HLK_EYE_CTRL_BUSY = true ∧
      t.flag (Reg.HLK_EYE_CTRL p) F.HLK_EYE_CTRL_GO = false ∧ t = { s with ports := t.ports, regs := t.regs }) ∧
    ((s.port p).eyeBusy = true → Gives (.eyeScanGo p data) s fun t => t = { s with regs := t.regs })) ∧
  (∀ (p : Fin 16) (r l u d : Byte) (s : State),
    ((s.port p).eyeBusy = false → exec (.eyeScanComplete p r l u d) s = .next s) ∧
    ((s.port p).eyeBusy = true → Gives (.eyeScanComplete p r l u d) s fun t => (t.port p).eyeBusy = false ∧
      t.flag (Reg.HLK_EYE_CTRL p) F.HLK_EYE_CTRL_BUSY = false ∧
      t.reg (Reg.HLK_EYE_RESULT p) = r.toNat * 2 ^ 24 + l.toNat * 2 ^ 16 + u.toNat * 2 ^ 8 + d.toNat ∧
      t = { s with ports := t.ports, regs := t.regs }))

/-- R169, R175, R176, R181, R187: a new STORE or PUT that passes its checks is taken by the home controllers: its bytes read as the
payload and every other byte as before. LOAD is answered with the bytes of its range. FETCH_ADD adds modulo 2^(8 × SIZE), SWAP
writes A, CAS writes A where the old value is B, each answered with the old value; REDUCE combines line by line. The sequence
completes and the answer carries OK. One that fails step 8 completes its sequence with the check's status and changes no byte. A
held ORDERED request whose turn has come is applied the same way. -/
def Obligations.MemoryRequests : Prop :=
  (∀ (port : Fin 16) (pkt : Bytes) (s : State) (p : Pkt) (c : Instr), p.opcode = Op.store ∧ c = .store port pkt ∨
      p.opcode = Op.put ∧ c = .put port pkt ∨
      (p.ordered = true ∧ p.opcode = Op.store ∧ c = .orderedRelease ∧ p ∈ s.htp.held ∧
        s.htp.held.find? (fun q => (s.csn q.src + 1) % 2 ^ 32 == q.seq) = some p) →
    (c = .orderedRelease ∨ GoodPkt s port p.opcode pkt p) →
    NewReq s p ∨ (c = .orderedRelease ∧ s.parked = false) → TeamNow s p → memCheck s p = St.ok → LinesGood s p.addr p.length → Uncombined s p →
    p.payload.length = p.length →
    Gives c s fun t => StoreTaken s p t ∧ SeqDone s p t ∧ Answered s p Op.ack St.ok [] t ∧
      (c = .orderedRelease → t.htp.held = s.htp.held.erase p)) ∧
  (∀ (port : Fin 16) (pkt : Bytes) (s : State) (p : Pkt), GoodPkt s port Op.load pkt p → NewReq s p → TeamNow s p →
    memCheck s p = St.ok → LinesGood s p.addr p.length → Uncombined s p →
    Gives (.load port pkt) s fun t => SameOutside s 0 0 t ∧ UnitsKept s t ∧ SeqDone s p t ∧
      Answered s p Op.loadResp St.ok (homeRead s p.addr p.length) t) ∧
  (∀ (port : Fin 16) (pkt : Bytes) (s : State) (p : Pkt) (c : Instr),
    (p.opcode = Op.fetchAdd ∧ c = .fetchAdd port pkt) ∨ (p.opcode = Op.swap ∧ c = .swap port pkt) ∨
      (p.opcode = Op.cas ∧ c = .cas port pkt) → GoodPkt s port p.opcode pkt p → NewReq s p → TeamNow s p →
    memCheck s p = St.ok → LinesGood s p.addr p.size → Uncombined s p →
    let a := fld p.payload 0 p.size
    let old := oldVal s p
    Gives c s fun t => SameOutside s p.addr p.size t ∧ UnitsKept s t ∧ SeqDone s p t ∧
      Answered s p Op.atomicResp St.ok (padTo 64 (toLE 8 old)) t ∧
      (p.opcode = Op.fetchAdd → oldVal t p = (old + a) % 2 ^ (8 * p.size)) ∧ (p.opcode = Op.swap → oldVal t p = a) ∧
      (p.opcode = Op.cas → oldVal t p = if old = fld p.payload 8 p.size then a else old)) ∧
  (∀ (port : Fin 16) (pkt : Bytes) (s : State) (p : Pkt), GoodPkt s port Op.reduce pkt p → NewReq s p → TeamNow s p →
    memCheck s p = St.ok → LinesGood s p.addr p.length → Uncombined s p →
    Gives (.reduce port pkt) s fun t => SameOutside s p.addr p.length t ∧ UnitsKept s t ∧ SeqDone s p t ∧
      Answered s p Op.ack St.ok [] t ∧ ∀ i, i < p.length / 64 → homeRead t (p.addr + 64 * i) 64 =
        reduceBytes (bits p.offset 5 4) (bits p.offset 3 0) (homeRead s (p.addr + 64 * i) 64) (slice p.payload (64 * i) 64)) ∧
  (∀ (port : Fin 16) (pkt : Bytes) (s : State) (p : Pkt) (c : Instr),
    (p.opcode = Op.store ∧ c = .store port pkt) ∨ (p.opcode = Op.put ∧ c = .put port pkt) ∨
      (p.opcode = Op.load ∧ c = .load port pkt) ∨ (p.opcode = Op.swap ∧ c = .swap port pkt) ∨
      (p.opcode = Op.cas ∧ c = .cas port pkt) ∨ (p.opcode = Op.reduce ∧ c = .reduce port pkt) ∨
      (p.opcode = Op.fetchAdd ∧ c = .fetchAdd port pkt) → GoodPkt s port p.opcode pkt p → NewReq s p → TeamNow s p →
    memCheck s p ≠ St.ok → Gives c s fun t => t.mem = s.mem ∧ t.stalls = s.stalls ∧ UnitsKept s t ∧ SeqDone s p t ∧
      (¬ (rangeInSpan (s.spanGroups p.team) p.addr p.span = true) → memCheck s p = St.bounds) ∧
      (p.opcode ≠ Op.load → isAtomic p.opcode = false → Answered s p Op.ack (memCheck s p) [] t))

/-- R170–R175, R182, R184, R188: what stops a request before step 6. A request of a source without pair state is answered UNSYNC and
EPOCH_STALE; a duplicate STORE is answered again and counted in HTP_DUP; one behind the window is counted in HTP_OLD_DUP alone; a
bad check value is counted in HTP_CRC, or in HLK_STOMP where it is the inverted one. An unlisted request completes its sequence with
RIGHTS, one from 0x45 up is counted in HTP_BAD_OP. A packet for another node leaves one crossbar further by the port R182 chooses,
and is dropped at 63 hops. An MSTORE that arrives is stored where LOCAL and answered with MC; one of this module's own, in the form
log 911 gives its row, is refused where the group's entry or member list is empty, and otherwise takes the next group sequence,
counts once at each member and leaves on the group's ports. -/
def Obligations.RequestSequence : Prop :=
  (∀ (port : Fin 16) (pkt : Bytes) (s : State) (p : Pkt), GoodPkt s port Op.store pkt p → p.dst = s.node →
    Reaches s →
    (s.htp.rx.get? p.src = none → Gives (.store port pkt) s fun t => t.mem = s.mem ∧ t.stalls = s.stalls ∧ t.htp.rx = s.htp.rx ∧
      (CanAnswer s p → Sent (fun q => q.dst = p.src ∧ q.opcode = Op.ack ∧ q.unsync = true ∧ q.status = St.epochStale ∧
        q.seq = p.seq) t)) ∧
    (∀ r, s.htp.rx.get? p.src = some r → (∀ l ∈ rangeFrom ((s.base Reg.HTP_RX_BASE_LO + 1024 * p.src) / 64) 16,
        s.lineStatus l = St.ok) →
      let a := (p.seq + 2 ^ 32 - r.csn) % 2 ^ 32
      let b := (r.csn + 2 ^ 32 - p.seq) % 2 ^ 32
      (b < 4096 ∨ (1 ≤ a ∧ a ≤ 4096 ∧ p.seq ∈ r.window) → Gives (.store port pkt) s fun t => t.mem = s.mem ∧
        t.stalls = s.stalls ∧ t.htp.rx = s.htp.rx ∧ t.reg Reg.HTP_DUP = (s.reg Reg.HTP_DUP + 1) % 2 ^ 32 ∧
        Answered s p Op.ack St.ok [] t) ∧
      (4096 < a → 4096 ≤ b → Gives (.store port pkt) s fun t => t.mem = s.mem ∧ t.stalls = s.stalls ∧ t.htp = s.htp ∧
        t.out = s.out ∧ t.reg Reg.HTP_OLD_DUP = (s.reg Reg.HTP_OLD_DUP + 1) % 2 ^ 32))) ∧
  (∀ (port : Fin 16) (pkt : Bytes) (s : State) (p : Pkt) (crc : Nat), Pkt.parse pkt = some (p, crc) → p.opcode = Op.store →
    crc ≠ p.crc →
    (crc = p.crc ^^^ 0xFFFFFFFF → Gives (.store port pkt) s fun t => t.mem = s.mem ∧ t.htp = s.htp ∧ t.out = s.out ∧
      t.reg (Reg.HLK_STOMP port) = (s.reg (Reg.HLK_STOMP port) + 1) % 2 ^ 32 ∧ t.reg Reg.HTP_CRC = s.reg Reg.HTP_CRC) ∧
    (crc ≠ p.crc ^^^ 0xFFFFFFFF → Gives (.store port pkt) s fun t => t.mem = s.mem ∧ t.htp = s.htp ∧ t.out = s.out ∧
      t.reg Reg.HTP_CRC = (s.reg Reg.HTP_CRC + 1) % 2 ^ 32)) ∧
  (∀ (port : Fin 16) (pkt : Bytes) (s : State) (p : Pkt), GoodPkt s port p.opcode pkt p → listedOp p.opcode = false →
    (p.opcode < 0x30 → NewReq s p → Gives (.unlistedOpcode port pkt) s fun t => SeqDone s p t ∧ t.mem = s.mem ∧
      t.stalls = s.stalls ∧ UnitsKept s t ∧ Answered s p Op.ack St.rights [] t) ∧
    (0x45 ≤ p.opcode → p.dst = s.node → Gives (.unlistedOpcode port pkt) s fun t => t.mem = s.mem ∧ t.htp = s.htp ∧
      t.out = s.out ∧ t.reg Reg.HTP_BAD_OP = (s.reg Reg.HTP_BAD_OP + 1) % 2 ^ 32)) ∧
  (∀ (port : Fin 16) (pkt : Bytes) (s : State) (p : Pkt) (o : Nat), GoodPkt s port p.opcode pkt p → p.dst ≠ s.node →
    p.opcode ≠ Op.mstore →
    (p.hops = 63 → Gives (.transitPacket port pkt) s fun t => t.htp = s.htp ∧
      t.reg Reg.HTP_HOPS = (s.reg Reg.HTP_HOPS + 1) % 2 ^ 32) ∧
    (p.hops ≠ 63 → s.choosePort p = some o → FairRoom s o p →
      Gives (.transitPacket port pkt) s fun t => t.mem = s.mem ∧ t.htp = s.htp ∧ Sent (· = { p with hops := p.hops + 1 }) t) ∧
    (p.hops ≠ 63 → s.choosePort p = none → Gives (.transitPacket port pkt) s fun t => t.mem = s.mem ∧
      t.reg Reg.HTP_NOROUTE = (s.reg Reg.HTP_NOROUTE + 1) % 2 ^ 32)) ∧
  (∀ (s : State) (p : Pkt) (o : Nat), s.choosePort p = some o → s.portUp o = true ∧
    o ∈ routePorts (s.htp.routes.getD p.dst 0) ∧ bit (s.htp.routes.getD p.dst 0) 31 = true) ∧
  (∀ (port : Fin 16) (pkt : Bytes) (s : State) (p : Pkt) (c : Nat), Pkt.parse pkt = some (p, c) → p.src = s.node →
    pkt ∉ (s.port port).rxq → s.htp.quietDone = true →
    let g := p.dst % 4096
    let e := s.htp.groups.getD g 0
    let list := s.base Reg.HTP_MC_BASE_LO + 2048 * g
    list + 2048 ≤ hbmBytes → LinesGood s list 2048 →
    let n := leNat (homeRead s list 2)
    let members := (List.range n).map fun i => leNat (homeRead s (list + 2 + 2 * i) 2)
    (bit e 31 = false ∨ n = 0 ∨ 1023 < n → Gives (.mstore port pkt) s fun t => t.htp = s.htp ∧ t.out = s.out ∧ SameOutside s 0 0 t) ∧
    (bit e 31 = true → 1 ≤ n → n ≤ 1023 → Gives (.mstore port pkt) s fun t =>
      t.htp.nextGseq = (s.htp.nextGseq + 1) % 2 ^ 32 ∧
      (∀ d, d ≠ s.node → d ∈ members →
        (∃ m ∈ t.htp.mstores, m.gseq = s.htp.nextGseq ∧ d ∈ m.members ∧ m.sentAt = s.nowH ∧ m.pkt.payload = p.payload) ∧
        (t.dest d).t0 = (s.dest d).t0 + (if s.htp.phase then 0 else 1) ∧
        (t.dest d).t1 = (s.dest d).t1 + (if s.htp.phase then 1 else 0)) ∧
      (∀ d, d = s.node ∨ d ∉ members → t.dest d = s.dest d) ∧
      ∀ i, i < 16 → bit e i = true → s.portUp i = true → FairRoom s i p → Sent (fun q => q.opcode = Op.mstore ∧ q.dst = g ∧
        q.src = s.node ∧ q.seq = s.htp.nextGseq ∧ q.addr = p.offset ∧ q.payload = p.payload) t)) ∧
  (∀ (port : Fin 16) (pkt : Bytes) (s : State) (p : Pkt), GoodPkt s port Op.mstore pkt p → p.src ≠ s.node → TeamNow s p →
    memCheck s p = St.ok → LinesGood s p.addr p.length → Uncombined s p → Reaches s →
    p.payload.length = p.length →
    let e := s.htp.groups.getD (p.dst % 4096) 0
    (bit e 31 = false → Gives (.mstore port pkt) s fun t => t.mem = s.mem ∧ t.stalls = s.stalls ∧ t.htp = s.htp) ∧
    (bit e 31 = true → bit e 30 = true → Gives (.mstore port pkt) s fun t => StoreTaken s p t ∧ t.htp.rx = s.htp.rx ∧
      (CanAnswer s p → Sent (fun q => q.dst = p.src ∧ q.opcode = Op.ack ∧ q.mc = true ∧ q.seq = p.seq ∧ q.status = St.ok) t)) ∧
    (bit e 31 = true → bit e 30 = false → p.hops ≠ 63 → Gives (.mstore port pkt) s fun t => t.mem = s.mem ∧ ∀ i, i < 16 →
      bit e i = true → i ≠ port.val → s.portUp i = true → FairRoom s i p → Sent (· = { p with hops := p.hops + 1 }) t))

/-- R176, R180: a message packet that passes its checks and finds room is written into the context of its (SRC, FLOW), adds its
LENGTH to the tally, completes its sequence and is answered OK. The message is whole when the tally is MLEN × 64, whatever order its
packets came in, and only then is delivered: LEDGER and TEAM to their units, ATTN to the wheel, RECORD to the merge stall, APPEND to
the stall's queue. A RECORD's merge stall learns of it when its first packets, with the merge line and the header, have come. A
packet that fails a check is refused and touches no context. A context open for HTP_MSG_TMO is discarded and
counted. -/
def Obligations.Messages : Prop :=
  (∀ (port : Fin 16) (pkt : Bytes) (s : State) (p : Pkt), isMessage p.opcode = true → GoodPkt s port p.opcode pkt p →
    NewReq s p → (p.opcode ≠ Op.team → TeamNow s p) → p.payload.length = p.length →
    let ctx := s.htp.msgs.find? fun c => c.src == p.src && c.flow == p.flow && !c.whole
    let room := ctx ≠ none ∨ (s.htp.msgs.length < 4096 ∧ ∀ b, msgBuffer s p.opcode p.unit = some b →
      bufferUsed s p.opcode p.unit + 64 * p.mlen ≤ b)
    let had := match ctx with
      | some c => c.tally
      | none => 0
    (msgCheck s p ≠ St.ok → Gives (msgCommand port pkt p.opcode) s fun t => t.htp.msgs = s.htp.msgs ∧ SeqDone s p t ∧
      Answered s p Op.ack (msgCheck s p) [] t) ∧
    (msgCheck s p = St.ok → ¬ room → Gives (msgCommand port pkt p.opcode) s fun t => t.htp = s.htp ∧ t.out = s.out) ∧
    (msgCheck s p = St.ok → room → had + p.length ≠ 64 * p.mlen → Gives (msgCommand port pkt p.opcode) s fun t =>
      SeqDone s p t ∧ Answered s p Op.ack St.ok [] t ∧ t.inbox = s.inbox ∧ (p.opcode ≠ Op.record → t.works = s.works) ∧
      (p.opcode = Op.record → ctx = none → p.moff = 0 → 128 ≤ p.length → (t.work p.unit).mrg = (s.work p.unit).mrg ++
        [{ line := some (p.payload.take 64), record := (p.payload.drop 64).take 32, part := true }]) ∧
      ∃ c ∈ t.htp.msgs, c.src = p.src ∧ c.flow = p.flow ∧ c.tally = had + p.length ∧
        (∀ i, i < p.length → c.data.getD (p.moff + i) 0 = p.payload.getD i 0) ∧
        (∀ c0, ctx = some c0 → ∀ i, (i < p.moff ∨ p.moff + p.length ≤ i) → c.data.getD i 0 = c0.data.getD i 0)) ∧
    (∀ d, msgCheck s p = St.ok → room → had + p.length = 64 * p.mlen → (∀ c, ctx = some c → c.op = p.opcode ∧ c.fwd = none) →
      (∀ i, i < 64 * p.mlen → d.getD i 0 = if p.moff ≤ i ∧ i < p.moff + p.length then p.payload.getD (i - p.moff) 0
        else match ctx with
          | some c => c.data.getD i 0
          | none => 0) → d.length = 64 * p.mlen → Gives (msgCommand port pkt p.opcode) s fun t =>
      SeqDone s p t ∧ Answered s p Op.ack St.ok [] t ∧
      (p.opcode = Op.ledger ∨ p.opcode = Op.team → ∃ m, t.inbox = s.inbox ++ [m] ∧ m.op = p.opcode ∧ m.src = p.src ∧ m.data = d) ∧
      (p.opcode = Op.attn → s.rns.wheel.length < 8192 → ∃ x, t.rns.wheel = s.rns.wheel ++ [x] ∧ x.stall = p.unit ∧ x.msg = d ∧
        x.src = p.src) ∧
      (p.opcode = Op.record → ∃ l, (t.work p.unit).mrg = l ++ [{ line := some (d.take 64), record := d.drop 64 }]) ∧
      (p.opcode = Op.append → s.stallFailed p.unit = false → (s.work p.unit).appends.length < 64 →
        ∃ a, (t.work p.unit).appends = (s.work p.unit).appends ++ [a] ∧ a.msg = d))) ∧
  (∀ s : State, let late := fun (c : MsgCtx) => !c.whole && decide (c.opened + s.reg Reg.HTP_MSG_TMO ≤ s.nowH)
    Gives .messageContextTimeout s fun t => t.htp = { s.htp with msgs := s.htp.msgs.filter fun c => !late c } ∧
      t.reg Reg.HTP_MSG_TMO_CNT = (s.reg Reg.HTP_MSG_TMO_CNT + (s.htp.msgs.filter late).length) % 2 ^ 32 ∧ t.mem = s.mem)

/-- R174, R177, R178, R183, R190: SYNC of a new incarnation resets the pair to CSN = s and is answered with SYNC_ACK; the SYNC_ACK of
the SYNC outstanding opens the destination, any other changes nothing. An answer counts its request off once, and a request sent
once under the present path epoch gives the round trip: CWND grows by AI ÷ CWND below TARGET, or shrinks. A timeout sends the request
again on the next path with RETX, halves CWND under the present path epoch and advances it, and gives up after RETRY_MAX. Waiting
SYNCs start when the quiet time of 10 ms ends; a SYNC unanswered is sent again unchanged. With CC_EN = 0 every CWND is INIT. R182, R183: a route write stores the entry, advances IDX and the path epoch. -/
def Obligations.SenderRules : Prop :=
  (∀ (port : Fin 16) (pkt : Bytes) (s : State) (p : Pkt), GoodPkt s port Op.sync pkt p → p.dst = s.node →
    Gives (.sync port pkt) s fun t =>
      (CanAnswer s p → Sent (fun q => q.opcode = Op.syncAck ∧ q.dst = p.src ∧ q.seq = p.seq ∧ q.offset = s.reg Reg.HTP_INCARN) t) ∧
      ((∃ r, s.htp.rx.get? p.src = some r ∧ r.incarn = p.offset % 2 ^ 32) → t.htp.rx = s.htp.rx) ∧
      ((∀ r, s.htp.rx.get? p.src = some r → r.incarn ≠ p.offset % 2 ^ 32) →
        t.htp.rx.get? p.src = some { incarn := p.offset % 2 ^ 32, csn := p.seq, window := [], cache := [] })) ∧
  (∀ (port : Fin 16) (pkt : Bytes) (s : State) (p a : Pkt) (b c : Nat), GoodPkt s port Op.syncAck pkt p → p.dst = s.node →
    (s.dest p.src).sync = .sent a b c → (s.dest p.src).out = [] → NoneWait s p.src →
    (a.seq = p.seq → Gives (.syncAck port pkt) s fun t => t.dest p.src = { s.dest p.src with sync := .done }) ∧
    (a.seq ≠ p.seq → Gives (.syncAck port pkt) s fun t => t.htp = s.htp)) ∧
  (∀ (port : Fin 16) (pkt : Bytes) (s : State) (p : Pkt) (r : Req) (c : Instr), GoodPkt s port p.opcode pkt p →
    p.dst = s.node → (p.opcode = Op.ack ∧ p.mc = false ∧ c = .ack port pkt) ∨ (p.opcode = Op.loadResp ∧ c = .loadResp port pkt) ∨
      (p.opcode = Op.atomicResp ∧ c = .atomicResp port pkt) →
    ((s.dest p.src).out.find? (·.pkt.seq == p.seq) = none → Gives c s fun t => t.htp = s.htp) ∧
    ((s.dest p.src).out.find? (·.pkt.seq == p.seq) = some r → p.unsync = false → r.origin = .silent → NoneWait s p.src →
      let x := s.dest p.src
      let rtt := (s.nowH % 2 ^ 32 + 2 ^ 32 - p.tse) % 2 ^ 32
      let target := s.fld Reg.HTP_CC_TARGET F.HTP_CC_TARGET_TARGET
      let sample := r.sends = 1 ∧ r.pathEpoch = x.pathEpoch
      Gives c s fun t => let y := t.dest p.src
        y.out = x.out.erase r ∧ y.t0 = x.t0 - (if r.phase then 0 else 1) ∧ y.t1 = x.t1 - (if r.phase then 1 else 0) ∧
        y.nextSeq = x.nextSeq ∧ (∀ d, d ≠ p.src → t.dest d = s.dest d) ∧ (sample → y.rtt = rtt) ∧
        (¬ sample ∨ s.flag Reg.HTP_CTRL F.HTP_CTRL_CC_EN = false → y.cwnd = x.cwnd) ∧
        (sample → s.flag Reg.HTP_CTRL F.HTP_CTRL_CC_EN = true →
          (rtt < target → y.cwnd = min (4096 * 256) (x.cwnd + s.fld Reg.HTP_CC_PARAM F.HTP_CC_PARAM_AI * 4096 / x.cwnd)) ∧
          (target ≤ rtt → (∃ a, x.lastDecrease = some a ∧ r.lastSend < a) → y.cwnd = x.cwnd) ∧
          (target ≤ rtt → (∀ a, x.lastDecrease = some a → a ≤ r.lastSend) → y.lastDecrease = some s.nowH ∧
            y.cwnd = max 256 (max (x.cwnd / 2) (x.cwnd * (256 * rtt -
              s.fld Reg.HTP_CC_PARAM F.HTP_CC_PARAM_BETA * (rtt - target)) / (256 * rtt))))))) ∧
  (∀ (d : Fin 65536) (seq : Word) (s : State) (r : Req), let x := s.dest d
    x.out.find? (·.pkt.seq == seq.toNat) = some r →
    let due := r.lastSend + s.fld Reg.HTP_RETX F.HTP_RETX_RTO * 2 ^ (r.sends - 1) ≤ s.nowH
    let now := r.pathEpoch = x.pathEpoch
    (¬ due → exec (.retransmitTimeout d none seq) s = .next s) ∧
    (due → r.sends ≤ s.fld Reg.HTP_RETX F.HTP_RETX_RETRY_MAX → Gives (.retransmitTimeout d none seq) s fun t =>
      let y := t.dest d
      (now → y.pathEpoch = (x.pathEpoch + 1) % 65536 ∧
        (s.flag Reg.HTP_CTRL F.HTP_CTRL_CC_EN = true → y.cwnd = max 256 (x.cwnd / 2))) ∧
      (¬ now → y.pathEpoch = x.pathEpoch ∧ y.cwnd = x.cwnd) ∧ t.reg Reg.HTP_RETX_TALLY = (s.reg Reg.HTP_RETX_TALLY + 1) % 2 ^ 32 ∧
      ∃ q ∈ y.out, q.pkt = { r.pkt with path := s.nextPath r.pkt.path, retx := true, tse := s.nowH % 2 ^ 32 } ∧
        q.sends = r.sends + 1 ∧ q.lastSend = s.nowH) ∧
    (due → s.fld Reg.HTP_RETX F.HTP_RETX_RETRY_MAX < r.sends → Gives (.retransmitTimeout d none seq) s fun t =>
      t.reg Reg.HTP_GIVEUP = (s.reg Reg.HTP_GIVEUP + 1) % 2 ^ 32)) ∧
  (∀ (d : Fin 65536) (s : State) (a : Pkt) (k tick : Nat), (s.dest d).sync = .sent a k tick →
    tick + s.fld Reg.HTP_RETX F.HTP_RETX_RTO * 2 ^ (k - 1) ≤ s.nowH →
    (k ≤ s.fld Reg.HTP_RETX F.HTP_RETX_RETRY_MAX → Gives (.syncTimeout d) s fun t =>
      (t.dest d).sync = .sent a (k + 1) s.nowH ∧ (∀ o, s.choosePort a = some o → FairRoom s o a → Sent (· = a) t) ∧ (t.dest d).out = (s.dest d).out ∧ (t.dest d).waiting = (s.dest d).waiting) ∧
    (s.fld Reg.HTP_RETX F.HTP_RETX_RETRY_MAX < k → (s.dest d).out = [] → (s.dest d).waiting = [] →
      Gives (.syncTimeout d) s fun t => t.dest d = { s.dest d with sync := .none })) ∧
  (∀ (s : State), (s.nowH < 10000000 → exec .quietTimeEnd s = .next s) ∧
    (10000000 ≤ s.nowH → s.htp.mstoreWait = [] → Gives .quietTimeEnd s fun t => t.htp.quietDone = true ∧ ∀ d x,
      (d, x) ∈ s.htp.dests → s.htp.dests.get? d = some x → (s.dest d).waiting ≠ [] → (s.dest d).sync = .none →
      ∃ q, (t.dest d).sync = .sent q 1 s.nowH ∧ q.opcode = Op.sync ∧ q.dst = d ∧ q.offset = s.reg Reg.HTP_INCARN ∧
        q.seq = ((s.dest d).nextSeq + 2 ^ 32 - 1) % 2 ^ 32)) ∧
  (∀ (data : Word) (s : State), bit data.toNat 0 = false → s.host.doorbells = [] → s.shut 4 1 0 = false → Gives (.registerWrite Reg.HTP_CTRL ⟨15, false⟩ data) s fun t =>
    ∀ d, (t.dest d).cwnd = 256 * s.fld Reg.HTP_CC_PARAM F.HTP_CC_PARAM_INIT) ∧
  (∀ (data : Word) (s : State), let i := s.fld Reg.HTP_ROUTE_IDX F.HTP_ROUTE_IDX_IDX
    Gives (.routeDataWrite data) s fun t => t.htp.routes.getD i 0 = data.toNat ∧
      (∀ j, j ≠ i → t.htp.routes.getD j 0 = s.htp.routes.getD j 0) ∧
      t.fld Reg.HTP_ROUTE_IDX F.HTP_ROUTE_IDX_IDX = (i + 1) % 65536 ∧
      t.dest i = { s.dest i with pathEpoch := ((s.dest i).pathEpoch + 1) % 65536 } ∧ t.mem = s.mem) ∧
  (∀ (data : Word) (s : State), let i := s.fld Reg.HTP_MC_IDX F.HTP_MC_IDX_IDX
    Gives (.mcDataWrite data) s fun t => t.htp.groups.getD i 0 = data.toNat ∧
      (∀ j, j ≠ i → t.htp.groups.getD j 0 = s.htp.groups.getD j 0) ∧
      t.fld Reg.HTP_MC_IDX F.HTP_MC_IDX_IDX = (i + 1) % 4096 ∧ t.mem = s.mem)

/-- R184–R186, R188: a fence inverts the phase bit and completes once the old phase's tallies are zero over its scope, with
MEMBER_LOST where a covered request was given up. A request that matches an open group joins it and waits; a group of FETCH_ADDs,
when its window is over, adds the sum of its addends once, and member k receives the old value plus the addends before it; a group
of LOADs reads once for all. Packets that waited more than 100 µs are discarded and counted. Members of a multicast store that have
not answered within RTO are each sent the same data as a STORE. -/
def Obligations.FencesAndGroups : Prop :=
  (∀ (data : Word) (s : State), bit data.toNat 31 = true →
    (s.flag Reg.HTP_FENCE F.HTP_FENCE_BUSY = false → Gives (.htpFenceGo data) s fun t => t.htp = { s.htp with
        phase := !s.htp.phase
        fence := some (if bit data.toNat 28 then none else some (data.toNat % 65536)) } ∧
      t.flag Reg.HTP_FENCE F.HTP_FENCE_BUSY = true ∧ t.flag Reg.HTP_FENCE F.HTP_FENCE_GO = false ∧
      t = { s with htp := t.htp, regs := t.regs }) ∧
    (s.flag Reg.HTP_FENCE F.HTP_FENCE_BUSY = true → Gives (.htpFenceGo data) s fun t => t = { s with regs := t.regs })) ∧
  (∀ (s : State) (scope : Option Nat), s.htp.fence = some scope →
    let covers := fun (d : Nat) => scope = none ∨ scope = some d
    let tally := fun (x : Dest) => if s.htp.phase then x.t0 else x.t1
    let lost := fun (x : Dest) => if s.htp.phase then x.lost0 else x.lost1
    ((∃ d x, (d, x) ∈ s.htp.dests ∧ covers d ∧ tally x ≠ 0) → exec .fenceComplete s = .next s) ∧
    ((∀ d x, (d, x) ∈ s.htp.dests → covers d → tally x = 0) → Gives .fenceComplete s fun t => t.htp.fence = none ∧
      t.flag Reg.HTP_FENCE F.HTP_FENCE_BUSY = false ∧ t.flag Reg.HTP_FENCE F.HTP_FENCE_DONE = true ∧
      ((∃ d x, (d, x) ∈ s.htp.dests ∧ covers d ∧ lost x = true) → t.fld Reg.HTP_FENCE F.HTP_FENCE_STATUS = St.memberLost) ∧
      ((∀ d x, (d, x) ∈ s.htp.dests → covers d → lost x = false) → t.fld Reg.HTP_FENCE F.HTP_FENCE_STATUS = St.ok))) ∧
  (∀ (port : Fin 16) (pkt : Bytes) (s : State) (p : Pkt) (g : Comb), GoodPkt s port Op.fetchAdd pkt p → NewReq s p →
    TeamNow s p → memCheck s p = St.ok → p.nocomb = false → s.htp.combs = [g] → g.addr = p.addr → g.size = p.size →
    g.length = 0 → g.members.length < 63 → Gives (.fetchAdd port pkt) s fun t =>
      t.htp.combs = [{ g with members := g.members ++ [p] }] ∧ t.mem = s.mem ∧ t.stalls = s.stalls ∧ t.htp.rx = s.htp.rx ∧
      t.reg Reg.HTP_COMB_FADDS = (s.reg Reg.HTP_COMB_FADDS + 1) % 2 ^ 32) ∧
  (∀ (s : State) (g : Comb), s.htp.combs = [g] → g.opened + s.fld Reg.HTP_COMB_WIN F.HTP_COMB_WIN_WIN ≤ s.nowH →
    (∀ p ∈ g.members, s.isOld p = false) →
    ((g.size = 4 ∨ g.size = 8) → g.addr % g.size = 0 → g.addr + g.size ≤ hbmBytes → LinesGood s g.addr g.size →
        (∀ p ∈ g.members, p.opcode = Op.fetchAdd) →
      let m := 2 ^ (8 * g.size)
      let old := leNat (homeRead s g.addr g.size)
      let add := fun (p : Pkt) => fld p.payload 0 g.size
      GivesRuns .combineWindowExpiry s fun t => t.htp.combs = [] ∧ SameOutside s g.addr g.size t ∧
        leNat (homeRead t g.addr g.size) = (old + (g.members.map add).sum) % m ∧
        ∀ k p, g.members[k]? = some p →
          Answered s p Op.atomicResp St.ok (padTo 64 (toLE 8 ((old + ((g.members.take k).map add).sum) % m))) t) ∧
    (g.size = 0 → g.length ≠ 0 → LinesGood s g.addr g.length → g.addr + g.length ≤ hbmBytes →
        (∀ p ∈ g.members, p.opcode = Op.load) →
      GivesRuns .combineWindowExpiry s fun t => t.htp.combs = [] ∧ SameOutside s 0 0 t ∧
        ∀ p ∈ g.members, Answered s p Op.loadResp St.ok (homeRead s g.addr g.length) t)) ∧
  (∀ (port : Fin 16) (s : State), let late := fun (it : PortItem) => decide (it.stamp + 100000 < s.nowH)
    let parked := fun (x : Nat × PortItem) => x.1 == port.val && decide (x.2.stamp + 100000 < s.nowH)
    Gives (.queueAgeDiscard port) s fun t => (t.port port).txq = (s.port port).txq.filter (!late ·) ∧
      t.htp = { s.htp with parked := s.htp.parked.filter (!parked ·) } ∧
      t.reg Reg.HTP_AGED = (s.reg Reg.HTP_AGED + (s.htp.parked.filter parked).length +
        ((s.port port).txq.filter late).length) % 2 ^ 32 ∧ t.mem = s.mem) ∧
  (∀ (s : State) (m : Mstore) (d : Nat), s.htp.mstores = [m] → m.sentAt + s.fld Reg.HTP_RETX F.HTP_RETX_RTO ≤ s.nowH →
    m.members.Nodup → d ∈ m.members → d ∉ m.uni → Gives .mstoreMemberTimeout s fun t =>
      (∃ y, t.htp.mstores = [y] ∧ d ∈ y.uni ∧ y.members = m.members) ∧
      ∃ r ∈ (t.dest d).waiting ++ (t.dest d).out, r.pkt.opcode = Op.store ∧ r.pkt.payload = m.pkt.payload ∧
        r.origin = .member m.gseq)

/-- R197–R199, R208–R210: GO queues the staged command or sets OVERFLOW; a reserved OP or reserved bits complete it with RIGHTS. REGISTER writes the lowest-numbered FREE record with STATE
VALID and TALLY 0 and returns its key. REVOKE of a VALID record of its GEN makes it REVOKING with REFUSED 0 at once; it completes
when TALLY is zero, with COUNT = REFUSED, the record FREE and GEN one higher. CQ_SETUP sets a ring up with PHASE 1. CONNECT makes a
FREE record CONNECTING and sends C_CONNECT with ISS, or OPEN for a Shuong 2 peer; it retries every RTO and times out to FREE. CLOSE
frees a connection with nothing outstanding, and one with packets outstanding is CLOSING until they end. -/
def Obligations.CourierAdmin : Prop :=
  (∀ (data : Word) (s : State), bit data.toNat 0 = true →
    (s.cou.adm.length < 16 → Gives (.couAdmGo data) s fun t => t = { s with cou := t.cou } ∧
      t.cou = { s.cou with adm := s.cou.adm ++ [s.staged (Reg.COU_ADM 0) 16] }) ∧
    (16 ≤ s.cou.adm.length → Gives (.couAdmGo data) s fun t => t = { s with regs := t.regs } ∧
      t.flag Reg.COU_STATUS F.COU_STATUS_OVERFLOW = true)) ∧
  (∀ (s : State) (b : Bytes) (rest : List Bytes) (i : Nat) (e : Bytes), AdmAt s 1 b rest → Ca.domain b < 4096 → Ca.rights b < 8 →
    ExtAt s i e → s.extOff i / 64 = (s.extOff i + 31) / 64 → (∀ n, (s.stall n).storeQ = []) → s.marks = [] →
    (∀ n, s.stallFailed n = false) → (∀ j, j < i → Ex.state (Memory.read s.mem (s.extOff j) 32) ≠ 0) → Ex.state e = 0 →
    Ca.base b % 64 = 0 → Ca.len b % 64 = 0 → 64 ≤ Ca.len b → Ca.len b ≤ 2 ^ 40 → Ca.host b = true ∨ Ca.base b + Ca.len b ≤ hbmBytes →
    (s.couCq s.admCq).valid = false ∨ bit (s.couCq s.admCq).base 63 = true → GivesRuns .register s fun t => t.cou.adm = rest ∧
      let r := homeRead t (s.extOff i) 32
      Ex.base r = Ca.base b ∧ Ex.len r = Ca.len b ∧ Ex.gen r = Ex.gen e ∧ Ex.domain r = Ca.domain b ∧ Ex.state r = 1 ∧
      Ex.host r = Ca.host b ∧ Ex.rights r = Ca.rights b ∧ Ex.tally r = 0 ∧ Ex.refused r = 0 ∧ SameOutside s (s.extOff i) 32 t) ∧
  (∀ (s : State) (b : Bytes) (rest : List Bytes) (e : Bytes), AdmAt s 2 b rest → ExtAt s (Ca.key b / 16384) e →
    let o := s.extOff (Ca.key b / 16384)
    (Ex.state e = 0 ∨ Ex.gen e ≠ Ca.key b % 16384 → GivesRuns .revoke s fun t => t.cou.adm = rest ∧ t.cou.revokes = s.cou.revokes ∧
      CouCqe s s.admCq (CouDone.entry { wrid := Ca.tag b, status := St.keyInvalid, kind := 5, key := Ca.key b }) t) ∧
    (Ex.state e = 2 → Ex.gen e = Ca.key b % 16384 → GivesRuns .revoke s fun t => t.cou.adm = rest ∧ t.cou.revokes = s.cou.revokes ∧
      CouCqe s s.admCq (CouDone.entry { wrid := Ca.tag b, status := St.noEffect, kind := 5, key := Ca.key b }) t) ∧
    (Ex.state e = 1 → Ex.gen e = Ca.key b % 16384 → GivesRuns .revoke s fun t => t.cou.adm = rest ∧
      t.cou.revokes = s.cou.revokes ++ [(Ca.key b / 16384, Ca.tag b)] ∧ Ex.state (homeRead t o 32) = 2 ∧
      Ex.refused (homeRead t o 32) = 0 ∧ Ex.tally (homeRead t o 32) = Ex.tally e ∧ SameOutside s o 32 t)) ∧
  (∀ (s : State) (i tag : Nat) (e : Bytes), s.cou.revokes = [(i, tag)] → ExtAt s i e →
    Ex.tally e = 0 → (s.couCq s.admCq).valid = false ∨ bit (s.couCq s.admCq).base 63 = true →
    GivesRuns .revokeComplete s fun t => t.cou.revokes = [] ∧ Ex.state (homeRead t (s.extOff i) 32) = 0 ∧
      Ex.gen (homeRead t (s.extOff i) 32) = (Ex.gen e + 1) % 2 ^ 14 ∧
      t.reg Reg.COU_REVOKES = (s.reg Reg.COU_REVOKES + 1) % 2 ^ 32) ∧
  (∀ (s : State) (b : Bytes) (rest : List Bytes) (c : Instr), c ∈ [.register, .revoke, .connect, .close, .cqSetup] →
    s.cou.adm = b :: rest → s.couOn = true → (s.couCq s.admCq).full = false →
    Ca.op b = 0 ∨ 5 < Ca.op b ∨ Ca.reserved b = true → GivesRuns c s fun t => t.cou.adm = rest ∧ t.cou.conns = s.cou.conns ∧
      CouCqe s s.admCq (CouDone.entry {
        wrid := Ca.tag b, status := St.rights, kind := 5,
        conn := if Ca.op b = 3 ∨ Ca.op b = 4 then Ca.conn b else 0xFFFF,
        peer := if Ca.op b = 3 then Ca.peer b else if Ca.op b = 4 then (s.conn (Ca.conn b)).peer else 0,
        key := if Ca.op b = 2 then Ca.key b else 0 }) t) ∧
  (∀ (s : State) (b : Bytes) (rest : List Bytes), AdmAt s 5 b rest → 4 ≤ Ca.log2a b → Ca.log2a b ≤ 16 → Ca.cq b ≠ s.admCq →
    Gives .cqSetup s fun t => t.cou.adm = rest ∧ t.couCq (Ca.cq b) = ⟨true, Ca.base b, Ca.log2a b, 0, 0, true, []⟩ ∧
      CouCqe s s.admCq (CouDone.entry { wrid := Ca.tag b, kind := 5 }) t) ∧
  (∀ (s : State) (b : Bytes) (rest : List Bytes), AdmAt s 3 b rest → ConnectOk s b →
    let c := Ca.conn b
    ((s.conn c).state ≠ .free → GivesRuns .connect s fun t => t.conn c = s.conn c ∧ t.cou.adm = rest ∧ CouCqe s s.admCq
      (CouDone.entry { wrid := Ca.tag b, status := St.noEffect, kind := 5, conn := c, peer := Ca.peer b }) t) ∧
    ((s.conn c).state = .free → Ca.s2 b = false → s.htp.quietDone = true → GivesRuns .connect s fun t => t.cou.adm = rest ∧
      let y := t.conn c
      y.state = .connecting ∧ y.peer = Ca.peer b ∧ y.peerConn = Ca.peerConn b ∧ y.team = Ca.team b ∧ y.domain = Ca.domain b ∧
      y.nextSeq = (Ca.iss b + 1) % 2 ^ 32 ∧ y.cmd = some (Ca.tag b) ∧ y.sentAt = s.nowH ∧
      (∀ h, h = s.nextPath (s.dest (Ca.peer b)).lastPath →
        (s.choosePort { dst := Ca.peer b, path := h, opcode := Co.connect, src := s.node, team := Ca.team b }).isSome = true →
        (∀ q, s.choosePort { dst := Ca.peer b, path := h, opcode := Co.connect, src := s.node, team := Ca.team b } = some q →
          FairRoom s q { dst := Ca.peer b }) →
        Sent (fun p => p.dst = Ca.peer b ∧ p.opcode = Co.connect ∧ p.flow = Ca.peerConn b ∧ p.seq = Ca.iss b ∧ p.offset = c) t)) ∧
    ((s.conn c).state = .free → Ca.s2 b = true → GivesRuns .connect s fun t => (t.conn c).state = .opened ∧
      (t.conn c).csn = Ca.peerIss b ∧ (t.conn c).nextSeq = (Ca.iss b + 1) % 2 ^ 32)) ∧
  (∀ (c : Fin 8192) (s : State),
    ((s.conn c).state = .connecting → (s.conn c).sentAt + s.fld Reg.HTP_RETX F.HTP_RETX_RTO ≤ s.nowH →
      Gives (.connectRetry c) s fun t => t.conn c = { s.conn c with sentAt := s.nowH }) ∧
    ((s.conn c).state ≠ .connecting → exec (.connectRetry c) s = .next s ∧ exec (.connectTimeout c) s = .next s) ∧
    ((s.conn c).state = .connecting → (s.conn c).started + s.reg Reg.COU_CONNECT_TMO ≤ s.nowH → Gives (.connectTimeout c) s fun t =>
      t.conn c = {} ∧ ∀ tag, (s.conn c).cmd = some tag → CouCqe s s.admCq
        (CouDone.entry { wrid := tag, status := St.memberLost, kind := 5, conn := c, peer := (s.conn c).peer }) t)) ∧
  (∀ (s : State) (b : Bytes) (rest : List Bytes), AdmAt s 4 b rest → Ca.conn b < s.connCap →
    let c := Ca.conn b
    let x := s.conn c
    (x.state = .free ∨ x.state = .closing → GivesRuns .close s fun t => t.conn c = x ∧ CouCqe s s.admCq
      (CouDone.entry { wrid := Ca.tag b, status := St.noEffect, kind := 5, conn := c, peer := x.peer }) t) ∧
    (x.state = .error ∨ x.state = .connecting → GivesRuns .close s fun t => t.conn c = {}) ∧
    (x.state = .opened → x.out = [] → x.waiting = [] → GivesRuns .close s fun t => t.conn c = {} ∧ ∃ q ∈ t.cou.bare, q.conn = c ∧
      q.req.pkt.opcode = Co.close ∧ q.req.pkt.dst = x.peer ∧ q.req.pkt.flow = x.peerConn ∧ q.req.pkt.seq = x.nextSeq) ∧
    (x.state = .opened → x.out ≠ [] ∨ x.waiting ≠ [] → GivesRuns .close s fun t =>
      t.conn c = { x with state := .closing, cmd := some (Ca.tag b), sqTail := x.sqHead }))

/-- R172, R199–R206, R209: an unlisted opcode completes its sequence with RIGHTS whatever its TEAM; a keyed request of another TEAM is
refused with VIOLATION, cause RIGHTS. A keyed request is checked in the order of Table COU-6: KEY_INVALID for a FREE record, another GEN or DOMAIN;
REVOKED, counted in REFUSED, while REVOKING; RIGHTS for a missing right or an atomic on host memory; BOUNDS beyond LEN. A refusal
completes the sequence, changes no byte of the extent and is answered VIOLATION with its cause. One that passes is admitted with
TALLY one higher; when it completes it is done, TALLY falls and it is answered OK. A duplicate touches nothing. A C_SEND goes into
the receive its MSN names. C_CONNECT sets CSN to ISS and clears both windows; C_CLOSE puts the connection in ERROR. -/
def Obligations.CourierTarget : Prop :=
  (∀ (port : Fin 16) (pkt : Bytes) (s : State) (p : Pkt) (c : Instr) (need : Nat) (e : Bytes),
    (p.opcode = Co.write ∧ c = .cWrite port pkt ∧ need = 1) ∨ (p.opcode = Co.read ∧ c = .cRead port pkt ∧ need = 0) ∨
      (p.opcode = Co.atomic ∧ c = .cAtomic port pkt ∧ need = 2) ∨
      (p.opcode = Co.writeImm ∧ c = .cWriteImm port pkt ∧ need = 1 ∧ (rxPosted (s.conn p.flow) p).isSome = true ∧
        rxRoom (s.conn p.flow) p = true ∧ (s.couCq (s.conn p.flow).cq).full = false) →
    CouAt s port p.opcode pkt p → CouFresh s p → ExtAt s (p.key / 16384) e →
    s.flag Reg.COU_CTRL F.COU_CTRL_VIOL_CQE = false →
    let i := p.key / 16384
    let bad := Ex.state e = 0 ∨ Ex.gen e ≠ p.key % 16384 ∨ Ex.domain e ≠ (s.conn p.flow).domain
    let short := bit (Ex.rights e) need = false ∨ (p.opcode = Co.atomic ∧ Ex.host e = true)
    let n := if p.opcode = Co.read then Sh.rlen p else if p.opcode = Co.atomic then Sh.size p else Sh.dlen p
    let refused := fun (cause : Nat) (t : State) => CouSays s p (couReplyOp p.opcode) St.violation cause t ∧
      (p.opcode ≠ Co.writeImm → ConnDone s p t) ∧ t.cou.access = s.cou.access ∧
      t.reg Reg.COU_VIOL_RX = (s.reg Reg.COU_VIOL_RX + 1) % 2 ^ 32
    (bad → p.opcode ≠ Co.writeImm → Gives c s fun t => refused St.keyInvalid t ∧ SameOutside s 0 0 t) ∧
    (¬ bad → Ex.state e = 2 → p.opcode ≠ Co.writeImm → Gives c s fun t => refused St.revoked t ∧
      Ex.refused (homeRead t (s.extOff i) 32) = (Ex.refused e + 1) % 2 ^ 32 ∧ SameOutside s (s.extOff i + 28) 4 t) ∧
    (¬ bad → Ex.state e ≠ 2 → short → p.opcode ≠ Co.writeImm → Gives c s fun t => refused St.rights t ∧ SameOutside s 0 0 t) ∧
    (¬ bad → Ex.state e ≠ 2 → ¬ short → Ex.len e < p.offset + n → p.opcode ≠ Co.writeImm → Gives c s fun t =>
      refused St.bounds t ∧ SameOutside s 0 0 t) ∧
    ((keyCheck s (s.conn p.flow) p false).2.1 = St.ok → Gives c s fun t => t.cou.access = s.cou.access ++ [⟨p.flow, p, i, false⟩] ∧
      Ex.tally (homeRead t (s.extOff i) 32) = (Ex.tally e + 1) % 2 ^ 32 ∧ SameOutside s (s.extOff i + 24) 4 t ∧
      t.out = s.out ∧ t.conn p.flow = s.conn p.flow)) ∧
  (∀ (s : State) (r : HostRead) (a : CouAccess) (rest : List CouAccess) (e : Bytes), s.cou.access = a :: rest → a.dup = false →
    a.pkt.flow = a.conn → ExtAt s a.ext e → Ex.host e = false → Uncombined s { a.pkt with nocomb := true } →
    let p := a.pkt
    let o := Ex.base e + p.offset
    let x := s.extOff a.ext
    (p.opcode = Co.write → o % 64 = 0 → Sh.dlen p % 64 = 0 → Sh.dlen p = (Sh.data p).length → o + Sh.dlen p ≤ hbmBytes →
      LinesGood s o (Sh.dlen p) → x + 32 ≤ o ∨ o + Sh.dlen p ≤ x → GivesRuns (.courierAccessComplete r) s fun t =>
        t.cou.access = rest ∧ homeRead t o (Sh.dlen p) = Sh.data p ∧ Ex.tally (homeRead t x 32) = Ex.tally e - 1 ∧
        ConnDone s p t ∧ CouSays s p Co.ack St.ok 0 t) ∧
    (p.opcode = Co.read → o + Sh.rlen p ≤ hbmBytes → LinesGood s o (Sh.rlen p) → GivesRuns (.courierAccessComplete r) s fun t =>
        t.cou.access = rest ∧ SameOutside s (x + 24) 4 t ∧ ConnDone s p t ∧
        (CanAnswer s p → Sent (fun q => q.dst = p.src ∧ q.opcode = Co.readResp ∧ q.seq = p.seq ∧ couStatus q = (St.ok, 0) ∧
          q.payload.drop 64 = homeRead s o (Sh.rlen p)) t)) ∧
    (p.opcode = Co.atomic → (Sh.size p = 4 ∨ Sh.size p = 8) → o % Sh.size p = 0 → o + Sh.size p ≤ hbmBytes →
      LinesGood s o (Sh.size p) → x + 32 ≤ o ∨ o + Sh.size p ≤ x →
      let m := 2 ^ (8 * Sh.size p)
      let old := leNat (homeRead s o (Sh.size p))
      GivesRuns (.courierAccessComplete r) s fun t => t.cou.access = rest ∧ ConnDone s p t ∧
        leNat (homeRead t o (Sh.size p)) = (if Sh.atop p = 0 then (old + Sh.opa p) % m else if Sh.atop p = 1 then Sh.opa p % m
          else if old = Sh.opb p % m then Sh.opa p % m else old) ∧
        (CanAnswer s p → Sent (fun q => q.dst = p.src ∧ q.opcode = Co.atomicResp ∧ q.seq = p.seq ∧ Sh.opa q = old) t))) ∧
  (∀ (port : Fin 16) (pkt : Bytes) (s : State) (p : Pkt), CouFresh s p →
    (CouOpen s port Co.write pkt p → p.team ≠ (s.conn p.flow).team → s.flag Reg.COU_CTRL F.COU_CTRL_VIOL_CQE = false →
      Gives (.cWrite port pkt) s fun t => t.mem = s.mem ∧ t.stalls = s.stalls ∧ ConnDone s p t ∧
        t.reg Reg.COU_VIOL_RX = (s.reg Reg.COU_VIOL_RX + 1) % 2 ^ 32 ∧ CouSays s p Co.ack St.violation St.rights t) ∧
    (CouOpen s port p.opcode pkt p → listedOp p.opcode = false → 0x30 ≤ p.opcode → p.opcode ≤ 0x3F →
      Gives (.unlistedOpcode port pkt) s fun t => t.mem = s.mem ∧ t.stalls = s.stalls ∧ t.far = s.far ∧ ConnDone s p t ∧
        t.reg Reg.COU_VIOL_RX = s.reg Reg.COU_VIOL_RX ∧ CouSays s p Co.ack St.rights 0 t)) ∧
  (∀ (port : Fin 16) (pkt : Bytes) (s : State) (p : Pkt), CouAt s port Co.write pkt p →
    let x := s.conn p.flow
    let b := (x.csn + 2 ^ 32 - p.seq) % 2 ^ 32
    b < 65536 → Gives (.cWrite port pkt) s fun t => t.mem = s.mem ∧ t.stalls = s.stalls ∧ t.cou = s.cou ∧
      t.reg Reg.COU_DUP = (s.reg Reg.COU_DUP + 1) % 2 ^ 32 ∧ (p.seq ∉ x.refused → CouSays s p Co.ack St.ok 0 t) ∧
      (p.seq ∈ x.refused → CouSays s p Co.ack St.violation St.internal t)) ∧
  (∀ (port : Fin 16) (pkt : Bytes) (s : State) (p : Pkt) (r : Posted) (ps : List Posted), CouAt s port Co.send pkt p →
    CouFresh s p →
    let x := s.conn p.flow
    (rxPosted x p = none → Gives (.cSend port pkt) s fun t => t.mem = s.mem ∧ t.stalls = s.stalls ∧ t.cou = s.cou ∧ t.out = s.out ∧
      t.reg Reg.COU_RNR = (s.reg Reg.COU_RNR + 1) % 2 ^ 32) ∧
    (x.posted = r :: ps → Sh.msn p = x.rxNext → x.msgs = [] → (s.couCq x.cq).valid = false → r.status = St.ok → Sh.moff p = 0 →
      Sh.dlen p = Sh.msglen p → 1 ≤ Sh.dlen p → p.length = p.payload.length → p.length % 64 = 0 → 128 ≤ p.length → p.length ≤ 4096 →
      Sh.dlen p + 64 ≤ p.length → bit r.addr 63 = false → r.addr + Sh.dlen p ≤ hbmBytes → LinesGood s r.addr (Sh.dlen p) →
      (r.len < Sh.msglen p → Gives (.cSend port pkt) s fun t => SameOutside s 0 0 t ∧ CouSays s p Co.ack St.bounds 0 t ∧
        (t.conn p.flow).posted = ps) ∧
      (Sh.msglen p ≤ r.len → Gives (.cSend port pkt) s fun t => homeRead t r.addr (Sh.dlen p) = Sh.data p ∧
        SameOutside s r.addr (Sh.dlen p) t ∧ CouSays s p Co.ack St.ok 0 t ∧ (t.conn p.flow).posted = ps ∧
        (t.conn p.flow).rxNext = x.rxNext + 1 ∧ t.reg Reg.COU_RX_MSG = (s.reg Reg.COU_RX_MSG + 1) % 2 ^ 32))) ∧
  (∀ (port : Fin 16) (pkt : Bytes) (s : State) (p : Pkt), GoodPkt s port Co.connect pkt p → p.dst = s.node → Reaches s →
    p.flow < s.connCap → s.couOn = true →
    let x := s.conn p.flow
    (x.state = .connecting → x.peer = p.src → x.peerConn = p.offset % 65536 → x.peerIss = none → Gives (.cConnect port pkt) s fun t =>
      let y := t.conn p.flow
      y.csn = p.seq ∧ y.window = [] ∧ y.refused = [] ∧ y.peerIss = some p.seq ∧
      y.state = (if x.gotResp then .opened else .connecting) ∧ CouSays s p Co.connectResp St.ok 0 t) ∧
    (x.state = .free ∨ x.peer ≠ p.src → Gives (.cConnect port pkt) s fun t => t.cou = s.cou ∧
      CouSays s p Co.connectResp St.revoked 0 t) ∧
    (x.state = .opened → x.peer = p.src → x.peerConn = p.offset % 65536 → x.peerIss ≠ some p.seq →
      Gives (.cConnect port pkt) s fun t => let y := t.conn p.flow
        y.state = .opened ∧ y.csn = p.seq ∧ y.window = [] ∧ y.posted = [] ∧ y.msgs = [] ∧ y.rxNext = 0 ∧ y.nextMsn = 0 ∧
        y.out = [] ∧ y.iss = x.nextSeq ∧ y.nextSeq = (x.nextSeq + 1) % 2 ^ 32)) ∧
  (∀ (port : Fin 16) (pkt : Bytes) (s : State) (p : Pkt), CouAt s port Co.close pkt p → CouFresh s p →
    Gives (.cClose port pkt) s fun t => (t.conn p.flow).state = .error ∧ (t.conn p.flow).errStatus = St.revoked ∧
      (t.conn p.flow).posted = [] ∧ (t.conn p.flow).out = [] ∧ CouSays s p Co.ack St.ok 0 t)

/-- R199, R203, R206, R207: a work request that may be taken advances SQ head; one that fails its check ends with RIGHTS or BOUNDS and
sends nothing; any other is split into packets of at most 4,032 data bytes with the next sequences, each waiting or sent. An answer
counts its packet off, returned data goes to LADDR, a request keeps the status of its lowest-sequence packet not OK, and a request whose packets have all ended is counted complete in ring order. A
C_CONNECT_RESP OK with the peer's C_CONNECT opens the record. A packet's timer sends it again, and gives the connection up to ERROR
after RETRY_MAX. -/
def Obligations.CourierSender : Prop :=
  (∀ (c : Fin 8192) (e d : HostRead) (s : State) (w : Bytes), WrAt s c w →
    let x := s.conn c
    let op := Wq.op w
    let n := Wq.len w
    let k := if op = 5 then 1 else ceilDiv n 4032
    (wrCheck x w ≠ St.ok → x.wrs = [] → 1 ≤ op → op ≤ 5 → GivesRuns (wrCommand c e d op) s fun t =>
      (t.conn c).sqHead = (x.sqHead + 1) % 2 ^ x.sendLog2 ∧ (t.conn c).nextSeq = x.nextSeq ∧ (t.conn c).waiting = x.waiting ∧
      (t.conn c).out = x.out ∧ (t.conn c).wrs = [] ∧ t.reg Reg.COU_WR_DONE = (s.reg Reg.COU_WR_DONE + 1) % 2 ^ 32) ∧
    (wrCheck x w = St.ok → (op ≤ 3 → bit (Wq.laddr w) 63 = false ∧ Wq.laddr w + n ≤ hbmBytes ∧ LinesGood s (Wq.laddr w) n) →
      GivesRuns (wrCommand c e d op) s fun t => let y := t.conn c
        y.sqHead = (x.sqHead + 1) % 2 ^ x.sendLog2 ∧ y.nextSeq = (x.nextSeq + k) % 2 ^ 32 ∧
        (∃ r, y.wrs = x.wrs ++ [r] ∧ r.wrid = Wq.wrid w ∧ r.left = k ∧ r.status = St.ok) ∧
        (op = 1 ∨ op = 3 → y.nextMsn = x.nextMsn + 1) ∧
        ∀ i, i < k → ∃ r ∈ y.out ++ y.waiting, let p := r.req.pkt
          p.dst = x.peer ∧ p.flow = x.peerConn ∧ p.team = x.team ∧ p.seq = (x.nextSeq + i) % 2 ^ 32 ∧
          (op ≠ 1 → p.key = Wq.key w ∧ p.offset = Wq.roff w + 4032 * i) ∧
          (op = 1 → p.opcode = Co.send) ∧ (op = 2 → p.opcode = Co.write) ∧ (op = 3 → p.opcode = Co.writeImm) ∧
          (op = 4 → p.opcode = Co.read ∧ Sh.rlen p = min 4032 (n - 4032 * i)) ∧ (op = 5 → p.opcode = Co.atomic) ∧
          (op ≤ 3 → Sh.data p = homeRead s (Wq.laddr w + 4032 * i) (min 4032 (n - 4032 * i))))) ∧
  (∀ (port : Fin 16) (pkt : Bytes) (s : State) (p : Pkt) (c : Nat) (cmd : Instr) (r : CouReq) (w : WorkReq),
    (p.opcode = Co.ack ∧ cmd = .cAck port pkt) ∨ (p.opcode = Co.readResp ∧ cmd = .cReadResp port pkt) ∨
      (p.opcode = Co.atomicResp ∧ cmd = .cAtomicResp port pkt) →
    GoodPkt s port p.opcode pkt p → p.dst = s.node → Reaches s →
    (connOf s p = none → s.cou.bare = [] → Gives cmd s fun t => t.cou = s.cou ∧ t.htp = s.htp) ∧
    (connOf s p = some c →
    let x := s.conn c
    (∀ st cause, x.out.find? (·.req.pkt.seq == p.seq) = some r → x.wrs = [w] → w.idx = r.wr → 2 ≤ w.left → x.waiting = [] →
      NoneWait s x.peer → x.state = .opened → couStatus p = (st, cause) → st ≠ St.ok → st ≠ St.revoked →
      let k := (p.seq + 2 ^ 32 - w.first) % 2 ^ 32
      Gives cmd s fun t => t.mem = s.mem ∧ ∃ v, t.conn c = { x with out := x.out.erase r, wrs := [v] } ∧
        v = (if w.status = St.ok ∨ k < w.badAt then { w with left := w.left - 1, status := st, cause := cause, badAt := k }
          else { w with left := w.left - 1 })) ∧
    (x.out = [r] → r.req.pkt.seq = p.seq → x.wrs = [w] → w.idx = r.wr → w.left = 1 → w.status = St.ok → w.signal = false →
      x.waiting = [] → NoneWait s x.peer → x.state = .opened → couStatus p = (St.ok, 0) → bit w.laddr 63 = false →
      Gives cmd s fun t => t.conn c = { x with out := [], wrs := [] } ∧
        t.reg Reg.COU_WR_DONE = (s.reg Reg.COU_WR_DONE + 1) % 2 ^ 32 ∧ (t.dest x.peer).courier = (s.dest x.peer).courier - 1 ∧
        (p.opcode = Co.ack → t.mem = s.mem) ∧
        (p.opcode = Co.readResp → let o := w.laddr + (r.req.pkt.offset - w.roff)
          o + (Sh.data p).length ≤ hbmBytes → LinesGood s o (Sh.data p).length → homeRead t o (Sh.data p).length = Sh.data p) ∧
        (p.opcode = Co.atomicResp → w.laddr + 8 ≤ hbmBytes → LinesGood s w.laddr 8 →
          leNat (homeRead t w.laddr 8) = Sh.opa p)))) ∧
  (∀ (port : Fin 16) (pkt : Bytes) (s : State) (p : Pkt) (c : Nat), GoodPkt s port Co.connectResp pkt p → p.dst = s.node → Reaches s →
    s.cou.conns.find? (fun x => x.2.state == .connecting && x.2.peer == p.src && x.2.peerConn == p.flow && x.2.iss == p.seq) =
      some (c, s.conn c) → NoneWait s p.src →
    (couStatus p = (St.ok, 0) → Gives (.cConnectResp port pkt) s fun t => (t.conn c).gotResp = true ∧
      (t.conn c).state = (if (s.conn c).peerIss.isSome then .opened else .connecting)) ∧
    ((couStatus p).1 ≠ St.ok → Gives (.cConnectResp port pkt) s fun t => t.cou.conns = s.cou.conns) ∧
    (∀ b, s.cou.bare = [b] → b.req.pkt.dst = p.src → b.req.pkt.flow = p.flow → b.req.pkt.seq = p.seq →
      b.req.pkt.opcode = Co.connect → Gives (.cConnectResp port pkt) s fun t => t.cou.bare = [] ∧
        (t.dest p.src).courier = (s.dest p.src).courier - 1 ∧
        (t.dest p.src).t0 = (s.dest p.src).t0 - (if b.req.phase then 0 else 1) ∧
        (t.dest p.src).t1 = (s.dest p.src).t1 - (if b.req.phase then 1 else 0))) ∧
  (∀ (d : Fin 65536) (c : Fin 8192) (seq : Word) (s : State) (r : CouReq), let x := s.conn c
    x.out.find? (·.req.pkt.seq == seq.toNat) = some r →
    let due := r.req.lastSend + s.fld Reg.HTP_RETX F.HTP_RETX_RTO * 2 ^ (r.req.sends - 1) ≤ s.nowH
    (¬ due → exec (.retransmitTimeout d (some c) seq) s = .next s) ∧
    (due → r.req.sends ≤ s.fld Reg.HTP_RETX F.HTP_RETX_RETRY_MAX → Gives (.retransmitTimeout d (some c) seq) s fun t =>
      ∃ q ∈ (t.conn c).out, q.wr = r.wr ∧ q.req.sends = r.req.sends + 1 ∧ q.req.pkt.retx = true ∧
        q.req.pkt.seq = r.req.pkt.seq ∧ q.req.pkt.payload = r.req.pkt.payload) ∧
    (due → s.fld Reg.HTP_RETX F.HTP_RETX_RETRY_MAX < r.req.sends → x.state = .opened → r.req.origin = .silent →
      Gives (.retransmitTimeout d (some c) seq) s fun t => (t.conn c).state = .error ∧ (t.conn c).errStatus = St.memberLost ∧
        (t.conn c).posted = [] ∧ (t.conn c).out = [] ∧ (t.conn c).waiting = []))

/-- R216, the coordinating member. GO reads the staged map of its slot: a map that cannot be taken completes the change with the
status, else PREPARE goes to every member; GO while BUSY starts nothing. A READY that is not OK, or TEM_CHG_TMO, sends ABORT to
every member and completes the change with that status or MEMBER_LOST. The last READY sends COMMIT to every member; the last DONE
completes the change with the first status that is not OK. Members that have not answered within RTO are sent the message again. -/
def Obligations.TeamChanges : Prop :=
  (∀ (data : Word) (s : State), bit data.toNat 31 = true →
    let slot := bits data.toNat 3 0
    let s0 := s.setFld Reg.TEM_CHG F.TEM_CHG_SLOT slot
    let s1 := if bit data.toNat 29 then s0.setFld Reg.TEM_CHG F.TEM_CHG_DONE 0 else s0
    (s.flag Reg.TEM_CHG F.TEM_CHG_BUSY = true → Gives (.temChgGo data) s fun t => t = { s with regs := t.regs }) ∧
    (∀ s2 st m ok, s.flag Reg.TEM_CHG F.TEM_CHG_BUSY = false → readMap s1 slot = (s2, st, m, ok) →
      (st ≠ St.ok ∨ ok = false → Gives (.temChgGo data) s (ChgDone (if st = St.ok then St.bounds else st))) ∧
      (st = St.ok → ok = true → Gives (.temChgGo data) s fun t => t.flag Reg.TEM_CHG F.TEM_CHG_BUSY = true ∧
        (∃ c, t.tem.change = some c ∧ c.slot = slot ∧ c.map = m ∧ c.committing = false ∧ c.start = s.now ∧
          c.members.map (·.node) = m.members ∧ ∀ x ∈ c.members, x.ready = none ∧ x.done = none) ∧
        ∀ n ∈ m.members, TeamTold s n (fun d => TeamMsg Tm.prepare m.team m.epoch 0 d ∧ Tm.slot d = slot) t))) ∧
  (∀ (data : Word) (s : State), bit data.toNat 31 = false → Gives (.temChgGo data) s fun t =>
    t = { s with regs := t.regs } ∧ t.fld Reg.TEM_CHG F.TEM_CHG_SLOT = bits data.toNat 3 0) ∧
  (∀ (s : State) (m : Msg) (c : Change), TemNext s Tm.ready m → ChgFor s c m.data → c.committing = false →
    let others := ∀ x ∈ c.members, x.node = Tm.src m.data ∨ x.ready ≠ none
    (Tm.status m.data ≠ St.ok → GivesRuns .chgReady s fun t => ChgDone (Tm.status m.data) t ∧
      ∀ n ∈ c.map.members, TeamTold s n (TeamMsg Tm.abort c.map.team c.map.epoch 0) t) ∧
    (Tm.status m.data = St.ok → ¬ others → GivesRuns .chgReady s fun t =>
      t = { s with inbox := s.inbox.erase m, tem := t.tem } ∧ ∃ y, t.tem.change = some y ∧ y.committing = false ∧
        ∀ x ∈ y.members, x.node = Tm.src m.data → x.ready = some St.ok) ∧
    (Tm.status m.data = St.ok → others → GivesRuns .chgReady s fun t =>
      (∃ y, t.tem.change = some y ∧ y.committing = true ∧ y.map = c.map ∧ y.bad = c.bad) ∧
      ∀ n ∈ c.map.members, TeamTold s n (TeamMsg Tm.commit c.map.team c.map.epoch 0) t)) ∧
  (∀ (s : State) (m : Msg) (c : Change), TemNext s Tm.done m → ChgFor s c m.data → c.committing = true →
    let others := ∀ x ∈ c.members, x.node = Tm.src m.data ∨ x.done ≠ none
    let fresh := ∃ x ∈ c.members, x.node = Tm.src m.data ∧ x.done = none
    let bad := if Tm.status m.data = St.ok then c.bad else some (c.bad.getD (Tm.status m.data))
    (others → fresh → GivesRuns .chgDone s (ChgDone (bad.getD St.ok))) ∧
    (¬ others → GivesRuns .chgDone s fun t => t = { s with inbox := s.inbox.erase m, tem := t.tem } ∧
      ∃ y, t.tem.change = some y ∧ y.committing = true ∧ (fresh → y.bad = bad) ∧ (¬ fresh → y.bad = c.bad))) ∧
  (∀ (s : State) (c : Change), s.tem.change = some c →
    let rto := s.fld Reg.HTP_RETX F.HTP_RETX_RTO
    (c.committing = false → Gives .prepareRetry s fun t => (∃ y, t.tem.change = some y ∧ y.map = c.map ∧ y.committing = false ∧
        y.members.map (fun x => (x.node, x.ready, x.done)) = c.members.map fun x => (x.node, x.ready, x.done)) ∧
      ∀ x ∈ c.members, x.ready = none → x.sentAt + rto ≤ s.now →
        TeamTold s x.node (fun d => TeamMsg Tm.prepare c.map.team c.map.epoch 0 d ∧ Tm.slot d = c.slot % 16) t) ∧
    (c.committing = true → Gives .commitRetry s fun t => (∃ y, t.tem.change = some y ∧ y.map = c.map ∧ y.committing = true ∧
        y.members.map (fun x => (x.node, x.ready, x.done)) = c.members.map fun x => (x.node, x.ready, x.done)) ∧
      ∀ x ∈ c.members, x.done = none → x.sentAt + rto ≤ s.now →
        TeamTold s x.node (TeamMsg Tm.commit c.map.team c.map.epoch 0) t) ∧
    (c.committing = true ∨ s.now < c.start + s.reg Reg.TEM_CHG_TMO → exec .changeTimeout s = .next s) ∧
    (c.committing = false → c.start + s.reg Reg.TEM_CHG_TMO ≤ s.now → Gives .changeTimeout s fun t =>
      ChgDone St.memberLost t ∧ ∀ n ∈ c.map.members, TeamTold s n (TeamMsg Tm.abort c.map.team c.map.epoch 0) t))

/-- R212, R217, R219–R221, R224–R226, the member. PREPARE: a map that fails a check is answered READY with the check's status and nothing
is prepared; one that passes is prepared and answered OK, or waits while the old map is held; a repeat is answered from the outcome
reached. COMMIT installs the prepared map, keeps the old one and answers DONE with RETIRE; a repeat is answered again, an unknown
epoch with EPOCH_STALE. ABORT discards. Grace ends at TEM_GRACE; an old map with no tally is freed, and with LEAVE the entry goes. A
prepared map held for 2 × TEM_CHG_TMO is discarded, and its team ends. Every PROBE is answered. END that is not stale makes the team
ENDED with the lost node, tells the other members and clears LDG_TEAM.EN; a stale one changes nothing. A map that passes the checks shares no group with
another team's span, nor with a map prepared for another team (the model's choice, log 1112). A request meets Table TEM-4: one of
the epoch a map is prepared for commits it, one that is too old or too new is refused EPOCH_STALE and counted, one of the epoch
before within grace is forwarded where a RANGE stub covers it and refused BOUNDS where one covers a part. -/
def Obligations.TeamMembers : Prop :=
  (∀ (s : State) (m : Msg), TemNext s Tm.prepare m →
    let team := Tm.team m.data
    let ep := Tm.epoch m.data
    let coord := Tm.src m.data
    let a := s.teamAux team
    let s0 := { s with inbox := s.inbox.erase m }
    (∀ st, a.outcome = some (ep, st) → GivesRuns .prepare s fun t => t.tem = s.tem ∧ t.mem = s.mem ∧
      TeamTold s coord (TeamMsg Tm.ready team ep st) t) ∧
    (∀ s1 st map ok, (∀ e st, a.outcome = some (e, st) → e ≠ ep) → (∀ w, a.waiting = some w → w.1.epoch ≠ ep) →
      readMap s0 (Tm.slot m.data) = (s1, st, map, ok) →
      (st ≠ St.ok → GivesRuns .prepare s fun t => (t.teamAux team).prepared = a.prepared ∧
        TeamTold s coord (TeamMsg Tm.ready team ep st) t) ∧
      (st = St.ok → mapCheck s1 team ep coord map ok ≠ St.ok → GivesRuns .prepare s fun t =>
        (t.teamAux team).prepared = a.prepared ∧
        TeamTold s coord (TeamMsg Tm.ready team ep (mapCheck s1 team ep coord map ok)) t) ∧
      (st = St.ok → mapCheck s1 team ep coord map ok = St.ok → a.old ≠ none → GivesRuns .prepare s fun t =>
        t.teamAux team = { a with waiting := some (map, coord) } ∧ t.regs = s1.regs ∧ t.htp = s1.htp) ∧
      (st = St.ok → mapCheck s1 team ep coord map ok = St.ok → a.old = none → GivesRuns .prepare s fun t =>
        t.teamAux team = { a with prepared := some (map, s.now), waiting := none, outcome := some (ep, St.ok) } ∧
        (∀ k, s.teamSlot team = some k → temStatus t k F.TEM_TEAM_STATUS_PREPARED = 1 ∧
          temStatus t k F.TEM_TEAM_STATUS_EPOCH = temStatus s k F.TEM_TEAM_STATUS_EPOCH) ∧
        TeamTold s coord (TeamMsg Tm.ready team ep St.ok) t))) ∧
  (∀ (s : State) (m : Msg), TemNext s Tm.commit m →
    let team := Tm.team m.data
    let ep := Tm.epoch m.data
    let a := s.teamAux team
    let told := fun st mask t => TeamTold s (Tm.src m.data) (fun d => TeamMsg Tm.done team ep st d ∧ fld d 10 2 = mask) t
    (∀ map x k, a.prepared = some (map, x) → map.epoch = ep → entrySlot s team = some k →
      (s.teamSlot team = none → map.leave = false) → map.groups < 2 ^ 16 → map.retire < 2 ^ 16 →
      let lag := s.teamSlot team = some k ∧ temStatus s k F.TEM_TEAM_STATUS_LAG_MOVE = 1 ∧
        temStatus s k F.TEM_TEAM_STATUS_LAGGED = 1
      GivesRuns .temCommit s fun t => ∃ retire, (lag → retire = map.retire ||| map.groups) ∧ (¬ lag → retire = map.retire) ∧
        told St.ok retire t ∧ (t.teamAux team).cur = some map ∧ (t.teamAux team).prepared = none ∧
        (t.teamAux team).commitAt = s.now ∧ (t.teamAux team).graceOver = false ∧
        (s.teamSlot team = some k → (t.teamAux team).old = a.cur) ∧
        temStatus t k F.TEM_TEAM_STATUS_VALID = 1 ∧ temStatus t k F.TEM_TEAM_STATUS_STATE = 1 ∧
        temStatus t k F.TEM_TEAM_STATUS_PREPARED = 0 ∧ temStatus t k F.TEM_TEAM_STATUS_EPOCH = ep ∧
        temStatus t k F.TEM_TEAM_STATUS_TEAM = team ∧ temStatus t k F.TEM_TEAM_STATUS_KIND = b2n map.train ∧
        (lag → temStatus t k F.TEM_TEAM_STATUS_LAGGED = 0) ∧
        t.fld (Reg.TEM_TEAM_SPAN k) F.TEM_TEAM_SPAN_GROUPS = map.groups ∧
        t.fld (Reg.TEM_TEAM_SPAN k) F.TEM_TEAM_SPAN_RETIRE = retire ∧
        t.fld (Reg.TEM_TEAM_NODES k) F.TEM_TEAM_NODES_COORD = map.coord % 65536 ∧
        t.reg Reg.TEM_COMMITS = (s.reg Reg.TEM_COMMITS + 1) % 2 ^ 32) ∧
    (∀ map x, a.prepared = some (map, x) → map.epoch = ep → entrySlot s team = none → map.leave = false →
      (∀ c, a.cur = some c → c.epoch ≠ ep) → GivesRuns .temCommit s fun t => t.tem = s.tem ∧ t.regs = s.regs ∧ told St.bounds 0 t) ∧
    ((∀ p, a.prepared = some p → p.1.epoch ≠ ep) → (∃ c, a.cur = some c ∧ c.epoch = ep) → GivesRuns .temCommit s fun t =>
      t.tem = s.tem ∧ t.mem = s.mem ∧ told St.ok (a.mask % 65536) t) ∧
    ((∀ p, a.prepared = some p → p.1.epoch ≠ ep) → (∀ c, a.cur = some c → c.epoch ≠ ep) → GivesRuns .temCommit s fun t =>
      t.tem = s.tem ∧ t.mem = s.mem ∧ told St.epochStale 0 t)) ∧
  (∀ (s : State) (m : Msg), TemNext s Tm.abort m →
    let team := Tm.team m.data
    let a := s.teamAux team
    (∀ p, a.prepared = some p → p.1.epoch = Tm.epoch m.data → GivesRuns .abort s fun t =>
      t.teamAux team = { a with prepared := none, waiting := none, outcome := none } ∧
      t.reg Reg.TEM_ABORTS = (s.reg Reg.TEM_ABORTS + 1) % 2 ^ 32 ∧
      (∀ k, s.teamSlot team = some k → temStatus t k F.TEM_TEAM_STATUS_PREPARED = 0)) ∧
    (a.prepared = none → a.waiting = none → a.outcome = none → s.parked = false → exec .abort s = .next { s with inbox := s.inbox.erase m })) ∧
  (∀ (s : State) (k : Fin 16), let team := temStatus s k F.TEM_TEAM_STATUS_TEAM
    let a := s.teamAux team
    let due := a.graceOver = true ∨ a.commitAt + s.reg Reg.TEM_GRACE ≤ s.now
    temStatus s k F.TEM_TEAM_STATUS_VALID = 1 → s.teamSlot team = some k.val →
    Gives .temGraceExpiry s (fun t => t = { s with tem := t.tem } ∧
      t.teamAux team = if due then { a with graceOver := true } else a) ∧
    Gives .oldMapFree s (fun t => (¬ due ∨ a.oldTally ≠ 0 → t.teamAux team = a) ∧
      (a.old ≠ none → due → a.oldTally = 0 → (t.teamAux team).old = none ∧
        ((∀ c, a.cur = some c → c.leave = false) → temStatus t k F.TEM_TEAM_STATUS_OLDMAP = 0 ∧
          temStatus t k F.TEM_TEAM_STATUS_VALID = 1) ∧
        (∀ c, a.cur = some c → c.leave = true → temStatus t k F.TEM_TEAM_STATUS_VALID = 0) ∧
        (∀ w, a.waiting = some w → (t.teamAux team).prepared = some (w.1, s.now) ∧ (t.teamAux team).waiting = none ∧
          TeamTold s w.2 (TeamMsg Tm.ready team w.1.epoch St.ok) t)))) ∧
  (∀ (s : State) (team t0 : Nat) (a : TeamAux) (map : TeamMap), (team, a) ∈ s.tem.aux → s.tem.aux.get? team = some a →
    (∀ b, (team, b) ∈ s.tem.aux → b = a) → a.prepared = some (map, t0) →
    (s.now < t0 + 2 * s.reg Reg.TEM_CHG_TMO → Gives .preparedMapTimeout s fun t => (t.teamAux team).prepared = a.prepared) ∧
    (t0 + 2 * s.reg Reg.TEM_CHG_TMO ≤ s.now → Gives .preparedMapTimeout s fun t => (t.teamAux team).prepared = none ∧
      ∀ k, s.teamSlot team = some k → temStatus s k F.TEM_TEAM_STATUS_STATE ≠ 2 →
        temStatus t k F.TEM_TEAM_STATUS_STATE = 2 ∧
        t.fld (Reg.TEM_TEAM_NODES k) F.TEM_TEAM_NODES_LOST = map.coord % 65536)) ∧
  (∀ (s : State) (m : Msg),
    (TemNext s Tm.probe m → GivesRuns .probe s fun t => t.tem = s.tem ∧ t.mem = s.mem ∧
      TeamTold s (Tm.src m.data) (fun d => Tm.kind d = Tm.probeAck ∧ Tm.node d = Tm.node m.data ∧ Tm.tag d = Tm.tag m.data) t) ∧
    (TemNext s Tm.probeAck m → s.parked = false → exec .probeAck s = .next { s with
      inbox := s.inbox.erase m, tem := { s.tem with probes := s.tem.probes.filter (·.1 != Tm.src m.data) } })) ∧
  (∀ s : State, let due := fun (p : Nat × Nat) => p.2 + s.reg Reg.TEM_PROBE_TMO ≤ s.now
    Gives .probeTimeout s fun t => (∀ p, p ∈ t.tem.probes ↔ p ∈ s.tem.probes ∧ ¬ due p) ∧
      ∀ p ∈ s.tem.probes, due p → ∀ k : Fin 16, temStatus s k F.TEM_TEAM_STATUS_VALID = 1 →
        let team := temStatus s k F.TEM_TEAM_STATUS_TEAM
        s.teamSlot team = some k.val → p.1 ∈ s.members team → temStatus t k F.TEM_TEAM_STATUS_STATE = 2) ∧
  (∀ (s : State) (m : Msg) (k : Nat), TemNext s Tm.teamEnd m →
    let team := Tm.team m.data
    let lost := Tm.node m.data
    let cur := temStatus s k F.TEM_TEAM_STATUS_EPOCH
    s.teamSlot team = some k →
    (isOlder 8 (Tm.epoch m.data) cur = true ∨ temStatus s k F.TEM_TEAM_STATUS_STATE = 2 →
      s.parked = false → exec .teamEnd s = .next { s with inbox := s.inbox.erase m }) ∧
    (isOlder 8 (Tm.epoch m.data) cur = false → temStatus s k F.TEM_TEAM_STATUS_STATE ≠ 2 → GivesRuns .teamEnd s fun t =>
      temStatus t k F.TEM_TEAM_STATUS_STATE = 2 ∧ t.fld (Reg.TEM_TEAM_NODES k) F.TEM_TEAM_NODES_LOST = lost ∧
      temStatus t k F.TEM_TEAM_STATUS_EPOCH = cur ∧ t.reg Reg.TEM_ENDS = (s.reg Reg.TEM_ENDS + 1) % 2 ^ 32 ∧
      (t.teamAux team).prepared = none ∧ (∀ i, i < 16 → s.fld (Reg.LDG_TEAM i) F.LDG_TEAM_TEAM = team →
        t.flag (Reg.LDG_TEAM i) F.LDG_TEAM_EN = false) ∧
      (cur ∉ (s.teamAux team).endSent → ∀ n ∈ s.members team, n ≠ s.node → n ≠ lost →
        TeamTold s n (fun d => TeamMsg Tm.teamEnd team cur 0 d ∧ Tm.node d = lost) t))) ∧
  (∀ (s : State) (team ep coord : Nat) (m : TeamMap) (ok : Bool), mapCheck s team ep coord m ok = St.ok →
    ok = true ∧ m.team = team ∧ m.epoch = ep ∧ m.coord = coord ∧ coord ∈ m.members ∧ s.node ∈ m.members ∧
    (m.train = true → s.role = roleC) ∧ (∀ n, n < 128 → bit m.groups (n / 8) = true → (s.stall n).service = .inService) ∧
    (∀ k, s.teamSlot team = some k → ep = (temStatus s k F.TEM_TEAM_STATUS_EPOCH + 1) % 256 ∧
      (temStatus s k F.TEM_TEAM_STATUS_STATE = 2 → s.fld (Reg.TEM_TEAM_NODES k) F.TEM_TEAM_NODES_LOST ∉ m.members)) ∧
    (∀ k, k < 16 → temStatus s k F.TEM_TEAM_STATUS_VALID = 1 → temStatus s k F.TEM_TEAM_STATUS_TEAM ≠ team →
      s.fld (Reg.TEM_TEAM_SPAN k) F.TEM_TEAM_SPAN_GROUPS &&& m.groups = 0) ∧
    ∀ x ∈ s.tem.aux, x.1 ≠ team → ∀ p, x.2.prepared = some p → p.1.groups &&& m.groups = 0) ∧
  (∀ (port : Fin 16) (pkt : Bytes) (s : State) (p : Pkt), GoodPkt s port Op.store pkt p → NewReq s p →
    let kept := fun (t : State) => t.mem = s.mem ∧ t.stalls = s.stalls
    let aux := s.teamAux p.team
    (s.teamSlot p.team = none → Gives (.store port pkt) s fun t => kept t ∧ SeqDone s p t ∧ Answered s p Op.ack St.bounds [] t) ∧
    ∀ k, s.teamSlot p.team = some k →
      let cur := temStatus s k F.TEM_TEAM_STATUS_EPOCH
      let next := p.epoch ≠ cur ∧ p.epoch = (cur + 1) % 256 ∧ ∃ q, aux.prepared = some q ∧ q.1.epoch = p.epoch
      let grace := aux.graceOver = false ∧ s.now < aux.commitAt + s.reg Reg.TEM_GRACE
      let last := p.epoch ≠ cur ∧ ¬ next ∧ (p.epoch + 1) % 256 = cur ∧ grace
      (next → Gives (.store port pkt) s fun t => ∃ q, aux.prepared = some q ∧ (t.teamAux p.team).cur = some q.1 ∧
        temStatus t k F.TEM_TEAM_STATUS_EPOCH = p.epoch ∧ temStatus t k F.TEM_TEAM_STATUS_STATE = 1) ∧
      (p.epoch ≠ cur → ¬ next → ¬ last → Gives (.store port pkt) s fun t => kept t ∧ SeqDone s p t ∧
        t.reg Reg.HTP_STALE = (s.reg Reg.HTP_STALE + 1) % 2 ^ 32 ∧ Answered s p Op.ack St.epochStale [] t) ∧
      (last → rangeStub s p.team p.addr p.span = .part → Gives (.store port pkt) s fun t => kept t ∧ SeqDone s p t ∧
        Answered s p Op.ack St.bounds [] t) ∧
      ∀ n off, last → rangeStub s p.team p.addr p.span = .whole n off →
        (p.fwd = true → Gives (.store port pkt) s fun t => kept t ∧ SeqDone s p t ∧ Answered s p Op.ack St.bounds [] t) ∧
        (p.fwd = false → n ≠ s.node → Gives (.store port pkt) s fun t => kept t ∧ t.htp.rx = s.htp.rx ∧
          t.htp.forwards = s.htp.forwards ++ [p] ∧ (t.teamAux p.team).oldTally = aux.oldTally + 1 ∧
          t.reg Reg.TEM_FWD = (s.reg Reg.TEM_FWD + 1) % 2 ^ 32 ∧
          ∃ r ∈ (t.dest n).waiting ++ (t.dest n).out, r.origin = .forward p ∧ r.pkt.opcode = Op.store ∧ r.pkt.offset = off ∧
            r.pkt.epoch = cur ∧ r.pkt.fwd = true ∧ r.pkt.payload = p.payload))

/-- R227–R230. Writing VALID 1 creates a region of pair (0, 0) and ACTIVE 0, or sets ERR where the team has no entry, SIZE is out of
range or a half leaves the span; VALID 0 destroys it. A PUBLISH that fails its checks changes nothing of the region, one whose pair
is not greater is SUPERSEDED, a greater one is accepted and, once the inactive half's tally is zero, copied in and made ACTIVE with
its pair. RREAD adds one to the active half's tally and sends the half by PUT; once its packets are answered the tally goes down and RREAD_DONE carries the pair, with MEMBER_LOST where a packet was given up.
TEM_RCMD_GO sends the staged command to its home, or sets OVERFLOW when 16 are queued. -/
def Obligations.SharedRegions : Prop :=
  (∀ (data : Word) (s : State) (c : Instr), let d := data.toNat
    let r := s.fld Reg.TEM_RGN_IDX F.TEM_RGN_IDX_IDX
    let x := s.region r
    let size := bits d 24 12
    let team := bits d 11 0
    let inRange := 1 ≤ size ∧ size ≤ 4096
    let ok := s.teamSlot team ≠ none ∧ inRange ∧ rangeInSpan (s.spanGroups team) x.base (128 * size) = true
    let err := if bit d 30 then false else x.err
    (c = .regionCreate data → x.valid = false → bit d 31 = true → Gives c s fun t => t = { s with tem := t.tem } ∧
      (∀ q, q ≠ r → t.region q = s.region q) ∧
      (ok → t.region r = { x with valid := true, err := err, team := team, size := size, active := 0, version := 0, pubnode := 0 }) ∧
      (¬ ok → t.region r = { x with err := true })) ∧
    (c = .regionCreate data → x.valid = false → bit d 31 = false → Gives c s fun t => t = { s with tem := t.tem } ∧
      t.region r = { x with err := err, team := team, size := if inRange then size else x.size }) ∧
    (c = .regionDestroy data → x.valid = true → bit d 31 = false → Gives c s fun t => (t.region r).valid = false ∧
      (t.region r).queue = [] ∧ (t.region r).version = x.version ∧ (∀ q, q ≠ r → t.region q = s.region q) ∧
      (x.queue = [] → t = { s with tem := t.tem }))) ∧
  (∀ (s : State) (m : Msg), TemNext s Tm.publish m →
    let r := Tm.region m.data
    let x := s.region r
    let v := Tm.version m.data
    let good := x.valid = true ∧ Tm.team m.data = x.team ∧ m.data.length = 64 + 64 * x.size ∧ v ≠ 0
    let more := x.version < v ∨ (v = x.version ∧ x.pubnode < m.src)
    (x.queue ≠ [] → (∀ p l, x.queue = p :: l → p.accepted = true) →
      GivesRuns .publish s fun t => t.region r = { x with queue := x.queue ++ [{ src := m.src, msg := m.data }] }) ∧
    (x.queue = [] → GivesRuns .publish s fun t =>
      (¬ good → t.region r = x) ∧
      (good → ¬ more → t.region r = x ∧ t.reg Reg.TEM_PUB_SUPERSEDED = (s.reg Reg.TEM_PUB_SUPERSEDED + 1) % 2 ^ 32) ∧
      (good → more → t = { s with inbox := s.inbox.erase m, tem := t.tem } ∧
        t.region r = { x with queue := [{ src := m.src, msg := m.data, accepted := true }] }))) ∧
  (∀ (s : State) (r : Nat) (x : Region) (p : Publish), s.tem.regions.get? r = some x → x.queue = [p] → p.accepted = true →
    let h := 1 - x.active
    let n := 64 * x.size
    (x.tally h ≠ 0 → GivesRuns .publishAccept s fun t => t.region r = x) ∧
    (x.tally h = 0 → (x.base + h * n) % 64 = 0 → x.base + h * n + n ≤ hbmBytes → p.msg.length = 64 + n →
      LinesGood s (x.base + h * n) n → (∀ q y, (q, y) ∈ s.tem.regions → q ≠ r → y.queue = []) → GivesRuns .publishAccept s fun t =>
      t.region r = { x with queue := [], version := Tm.version p.msg, pubnode := p.src, active := h } ∧
      t.reg Reg.TEM_PUB_OK = (s.reg Reg.TEM_PUB_OK + 1) % 2 ^ 32 ∧
      (bits (Tm.reply p.msg) 63 48 ≠ s.node → homeRead t (x.base + h * n) n = p.msg.drop 64 ∧
        SameOutside s (x.base + h * n) n t))) ∧
  (∀ (s : State) (m : Msg), TemNext s Tm.rread m →
    let r := Tm.region m.data
    let x := s.region r
    let h := x.active
    let n := 64 * x.size
    let node := bits (Tm.addr m.data) 63 48
    (x.valid = false ∨ Tm.team m.data ≠ x.team → GivesRuns .rread s fun t => t.region r = x) ∧
    (x.valid = true → Tm.team m.data = x.team → x.base + h * n + n ≤ hbmBytes → (x.base + h * n) % 64 = 0 →
      LinesGood s (x.base + h * n) n → GivesRuns .rread s fun t => (t.region r).tally h = x.tally h + 1 ∧
        (t.region r).tally (1 - h) = x.tally (1 - h) ∧ (t.region r).version = x.version ∧ (t.region r).active = h ∧
        (node ≠ s.node → SameOutside s 0 0 t ∧
          PutSent node (bits (Tm.addr m.data) 47 0) (homeRead s (x.base + h * n) n) t))) ∧
  (∀ (s : State) (r : Nat) (x : Region) (y : RegionRead), s.tem.regions.get? r = some x → x.reads = [y] →
    (∀ q z, (q, z) ∈ s.tem.regions → q ≠ r → z.reads = []) →
    let mine := s.htp.answered.filter fun a => a.1 == Origin.rread y.id
    (mine.length < y.left → GivesRuns .rreadComplete s fun t => (t.region r).tally0 = x.tally0 ∧ (t.region r).tally1 = x.tally1 ∧
      (∃ z, (t.region r).reads = [z] ∧ z.left = y.left - mine.length) ∧ t.mem = s.mem) ∧
    (mine.length = y.left → GivesRuns .rreadComplete s fun t => (t.region r).tally y.half = x.tally y.half - 1 ∧
      (t.region r).reads = [] ∧ (t.region r).version = x.version ∧
      t.reg Reg.TEM_RREADS = (s.reg Reg.TEM_RREADS + 1) % 2 ^ 32 ∧
      (bits (Tm.reply y.msg) 63 48 ≠ s.node → ∃ q ∈ (t.dest (bits (Tm.reply y.msg) 63 48)).waiting ++
        (t.dest (bits (Tm.reply y.msg) 63 48)).out, q.pkt.opcode = Op.put ∧ q.pkt.offset = bits (Tm.reply y.msg) 47 0 ∧
        Tm.kind q.pkt.payload = Tm.rreadDone ∧ Tm.version q.pkt.payload = y.version % 2 ^ 32 ∧
        (bits (Tm.addr y.msg) 63 48 ≠ s.node → (∃ a ∈ mine, a.2.1 = St.memberLost) → Tm.status q.pkt.payload = St.memberLost) ∧
        ((∀ a ∈ mine, a.2.1 ≠ St.memberLost) → Tm.status q.pkt.payload = y.status % 256)))) ∧
  (∀ (data : Word) (s : State), let c := s.staged (Reg.TEM_RCMD 0) 16
    let home := Tm.node c
    (bit data.toNat 0 = false → exec (.rcmdGo data) s = .next s) ∧
    (bit data.toNat 0 = true → 16 ≤ s.tem.rcmds.length → Gives (.rcmdGo data) s fun t =>
      t = { s with regs := t.regs } ∧ t.flag Reg.TEM_STATUS F.TEM_STATUS_OVERFLOW = true) ∧
    (bit data.toNat 0 = true → s.tem.rcmds.length < 16 → Tm.kind c = Tm.rread → Gives (.rcmdGo data) s fun t =>
      t.mem = s.mem ∧ t.tem.rcmds.length = s.tem.rcmds.length + (if home = s.node then 0 else 1) ∧
      TeamTold s home (fun d => Tm.kind d = Tm.rread ∧ Tm.team d = Tm.team c ∧ Tm.region d = Tm.region c ∧ Tm.src d = s.node ∧
        Tm.addr d = Tm.addr c ∧ Tm.reply d = Tm.reply c ∧ Tm.tag d = Tm.tag c) t) ∧
    (∀ n, n = 64 * (s.region (Tm.region c)).size →
      bit data.toNat 0 = true → s.tem.rcmds.length < 16 → Tm.kind c = Tm.publish → Tm.addr c % 64 = 0 →
      Tm.addr c + n ≤ hbmBytes → LinesGood s (Tm.addr c) n → Gives (.rcmdGo data) s fun t =>
      SameOutside s 0 0 t ∧ t.tem.rcmds.length = s.tem.rcmds.length + (if home = s.node then 0 else 1) ∧
      (home = s.node → ∃ m ∈ t.inbox, m.op = Op.team ∧ Tm.kind m.data = Tm.publish ∧ Tm.version m.data = Tm.version c ∧
        Tm.addr m.data = 0 ∧ m.data.drop 64 = homeRead s (Tm.addr c) n)))

/-- R235–R238. A write of a host shaper parameter sets F = BURST, one of a meter register fills both buckets, one of RNS_TEN_DATA7
stores the entry with FILL = BURST × 256 and LAST = now; a read of DATA0 loads the entry. Waiting BAR2 requests proceed in order
while F ≥ 0, and F never falls below −(4,132 + OVH). A packet at a meter is red when Tp is short of it, yellow when Tc is, each
counted; a red one goes no further. Check 4 of an ADMIT passes if and only if EN, TEAM and F′ ≥ C hold. -/
def Obligations.ShapersAndTenants : Prop :=
  (∀ (reg : Fin 3) (data : Word) (s : State), Gives (.hostShaperWrite reg data) s fun t =>
    t.rns = { s.rns with fill := t.reg Reg.RNS_HOST_BURST, fillRem := 0, fillTick := s.nowH } ∧
    t = { s with regs := t.regs, rns := t.rns } ∧
    (reg.val = 0 → 1 ≤ data.toNat → t.reg Reg.RNS_HOST_RATE = data.toNat) ∧
    (reg.val = 1 → 1024 ≤ data.toNat → data.toNat ≤ 16777216 → t.reg Reg.RNS_HOST_BURST = data.toNat) ∧
    (reg.val = 1 → data.toNat < 1024 ∨ 16777216 < data.toNat → t.reg Reg.RNS_HOST_BURST = s.reg Reg.RNS_HOST_BURST) ∧
    (reg.val = 2 → t.fld Reg.RNS_HOST_OVH F.RNS_HOST_OVH_OVH = data.toNat % 256)) ∧
  (∀ (p : Fin 16) (reg : Fin 4) (data : Word) (s : State), Gives (.meterWrite p reg data) s fun t =>
    let c := 64 * t.fld (Reg.RNS_MTR_SIZES p) F.RNS_MTR_SIZES_CBS
    let q := max c (64 * t.fld (Reg.RNS_MTR_SIZES p) F.RNS_MTR_SIZES_PBS)
    t.rns = { s.rns with meters := s.rns.meters.put p (1000 * c, 1000 * q, s.nowH) } ∧
    t = { s with regs := t.regs, rns := t.rns } ∧ (reg.val < 2 → t.reg (Reg.RNS_MTR_CIR p + 4 * reg) = data.toNat)) ∧
  (∀ (data : Word) (s : State), let i := s.fld Reg.RNS_TEN_IDX F.RNS_TEN_IDX_IDX
    TenGood s i → Gives (.tenData7Write data) s fun t =>
      SameOutside s (s.tenOff i) 32 t ∧ fld (tenAt t i) 0 4 = s.reg (Reg.RNS_TEN_DATA 2) * 256 % 2 ^ 32 ∧
      fld (tenAt t i) 16 8 = s.nowH % 2 ^ 64 ∧ fld (tenAt t i) 4 4 = s.reg (Reg.RNS_TEN_DATA 1) % 2 ^ 32 ∧
      fld (tenAt t i) 8 4 = s.reg (Reg.RNS_TEN_DATA 2) % 2 ^ 32 ∧ fld (tenAt t i) 12 4 = s.reg (Reg.RNS_TEN_DATA 3) % 2 ^ 32 ∧
      fld (tenAt t i) 28 4 = data.toNat) ∧
  (∀ s : State, let i := s.fld Reg.RNS_TEN_IDX F.RNS_TEN_IDX_IDX
    TenGood s i → s.shut 4 1 0 = false → Gives .tenData0Read s fun t => SameOutside s 0 0 t ∧
      ∀ k, k < 8 → t.reg (Reg.RNS_TEN_DATA k) = fld (tenAt s i) (4 * k) 4) ∧
  (∀ (s : State) (tenant team len : Nat), TenGood s tenant →
    let e := tenAt s tenant
    let f := min ((fld e 8 4 * 256 : Nat) : Int)
      ((signed32 (fld e 0 4) * 1000000 + (fld e 4 4 * 256 * (s.nowH - fld e 16 8) : Nat)).tdiv 1000000)
    let c : Int := ((len + fld e 12 2) * 256 : Nat)
    let r := tenantCheck s tenant team len
    (r.2.1 = true ↔ bit (fld e 14 2) 15 = true ∧ fld e 14 2 % 4096 = team ∧ c ≤ f) ∧ (r.2.1 = true → (r.2.2 : Int) = f - c)) ∧
  (∀ (s : State) (it : ShaperItem) (rest : List ShaperItem), s.host.doorbells = [] → s.walk = false →
    s.rns.waiting = it :: rest →
    let ovh : Int := (s.fld Reg.RNS_HOST_OVH F.RNS_HOST_OVH_OVH : Nat)
    (shaperNow s < 0 → Gives .hostShaperRelease s fun t => t.rns.waiting = s.rns.waiting ∧ t.rns.fill = shaperNow s ∧
      t.mem = s.mem) ∧
    (0 ≤ shaperNow s → Gives .hostShaperRelease s fun t => (∃ k, 1 ≤ k ∧ t.rns.waiting = s.rns.waiting.drop k) ∧
      (it.pkt.dst ≠ s.node → ∃ r ∈ (t.dest it.pkt.dst).waiting ++ (t.dest it.pkt.dst).out,
        r.pkt.opcode = it.pkt.opcode ∧ r.pkt.offset = it.pkt.offset ∧ r.pkt.payload = it.pkt.payload ∧ r.origin = it.origin) ∧
      ((∀ x ∈ s.rns.waiting, x.pkt.payload.length ≤ 4096) → -(4132 + ovh) ≤ t.rns.fill) ∧
      (t.rns.waiting ≠ [] → t.rns.fill < 0))) ∧
  (∀ (port : Fin 16) (pkt : Bytes) (s : State) (p : Pkt), Pkt.parse pkt = some (p, p.crc) → p.opcode = Op.store → p.dst = s.node →
    s.flag (Reg.HLK_NEIGHBOUR port) F.HLK_NEIGHBOUR_VALID = true → s.fld (Reg.HLK_NEIGHBOUR port) F.HLK_NEIGHBOUR_ROLE = 3 →
    s.flag Reg.RNS_CTRL F.RNS_CTRL_METER_EN = true → s.flag (Reg.RNS_MTR_CFG port) F.RNS_MTR_CFG_EN = true →
    let m := meterNow s port p.payload.length
    (m.2.1 < m.2.2 → Gives (.store port pkt) s fun t => t.mem = s.mem ∧ t.stalls = s.stalls ∧ t.htp = s.htp ∧ UnitsKept s t ∧
      t.reg Reg.RNS_RED = (s.reg Reg.RNS_RED + 1) % 2 ^ 32 ∧ t.rns.meters.get? port = some (m.1, m.2.1, s.nowH)) ∧
    (m.2.2 ≤ m.2.1 → m.1 < m.2.2 → Gives (.store port pkt) s fun t =>
      t.reg Reg.RNS_YELLOW = (s.reg Reg.RNS_YELLOW + 1) % 2 ^ 32 ∧ t.reg Reg.RNS_RED = s.reg Reg.RNS_RED ∧
      t.rns.meters.get? port = some (m.1, m.2.1 - m.2.2, s.nowH)) ∧
    (m.2.2 ≤ m.2.1 → m.2.2 ≤ m.1 → Gives (.store port pkt) s fun t => t.reg Reg.RNS_YELLOW = s.reg Reg.RNS_YELLOW ∧
      t.reg Reg.RNS_RED = s.reg Reg.RNS_RED ∧ t.rns.meters.get? port = some (m.1 - m.2.2, m.2.1 - m.2.2, s.nowH)))

/-- R239–R243. A message enters the wheel due its team's budget after its completion tick, in the slot of that tick or the farthest
slot. The wheel releases a stall's entry of earliest due tick, or the first with WHEEL_EN = 0, to the end of the stall's
attention queue while that holds fewer than 64, and counts a late one. A write of RNS_HIST_SEL clears the bins and MAXD; MAXD takes
the larger depth. A window before its end changes nothing; at its end the contributions are cleared and, with LAG_EN, a member
stores its line and loads line 0. The lower median is an element with at most half the list on either side. A median of 0 leaves the
run count; P × 16 > M × RATIO raises it, or raises LAGGARD at RUN and clears it; otherwise it is cleared. -/
def Obligations.WheelAndPace : Prop :=
  (∀ (k : Fin 128) (s : State) (it : WheelItem), wheelPick s k = some it → it ∈ s.rns.wheel ∧ it.stall = k.val ∧
    let mine := s.rns.wheel.filter (·.stall == k.val)
    (s.flag Reg.RNS_CTRL F.RNS_CTRL_WHEEL_EN = true → ∀ y ∈ mine, it.due ≤ y.due) ∧
    (s.flag Reg.RNS_CTRL F.RNS_CTRL_WHEEL_EN = false → mine.head? = some it) ∧
    (64 ≤ (s.work k).att.length → exec (.wheelRelease k) s = .next s) ∧
    ((s.work k).att.length < 64 → s.stallFailed k = false → (∀ c ∈ s.htp.msgs, c.whole = false) →
      Gives (.wheelRelease k) s fun t => t.rns.wheel = s.rns.wheel.erase it ∧
        (∃ x, (t.work k).att = (s.work k).att ++ [x] ∧ x.msg = it.msg ∧ x.stamp = s.nowH) ∧
        t.reg Reg.RNS_LATE = (if it.due < s.nowH then (s.reg Reg.RNS_LATE + 1) % 2 ^ 32 else s.reg Reg.RNS_LATE) ∧
        t.mem = s.mem ∧ ∀ j, j ≠ k.val → t.work j = s.work j)) ∧
  (∀ (s : State) (m : Msg) (whole : Nat), ∃ it, (wheelEnter s m whole).rns.wheel = s.rns.wheel ++ [it] ∧ it.stall = m.unit ∧
    it.msg = m.data ∧ it.src = m.src ∧ it.due = whole + s.wheelBudget (Machine.fld m.data 8 8 % 4096) ∧ it.slot < 1024 ∧
    (∀ w, s.fld Reg.RNS_WHEEL_SLOT F.RNS_WHEEL_SLOT_SLOT_W = w → 0 < w → it.due / w ≤ s.nowH / w + 1023 → it.slot = it.due / w % 1024) ∧
    ∀ w, s.fld Reg.RNS_WHEEL_SLOT F.RNS_WHEEL_SLOT_SLOT_W = w → 0 < w → s.nowH / w + 1023 < it.due / w →
      it.slot = (s.nowH / w + 1023) % 1024) ∧
  (∀ (k : Fin 128) (s : State), wheelPick s k = none → exec (.wheelRelease k) s = .next s) ∧
  (∀ (data : Word) (s : State), Gives (.histSelWrite data) s fun t => t = { s with regs := t.regs } ∧
    t.reg Reg.RNS_HIST_MAXD = 0 ∧ (∀ k, k < 16 → t.reg (Reg.RNS_HIST k) = 0) ∧
    t.fld Reg.RNS_HIST_SEL F.RNS_HIST_SEL_UNIT = bits data.toNat 14 8 ∧ t.fld Reg.RNS_HIST_SEL F.RNS_HIST_SEL_KEY = bits data.toNat 5 0 ∧
    (bits data.toNat 18 16 ≤ 4 → t.fld Reg.RNS_HIST_SEL F.RNS_HIST_SEL_KIND = bits data.toNat 18 16)) ∧
  (∀ (s : State) (kind : Nat), s.fld Reg.RNS_HIST_SEL F.RNS_HIST_SEL_KIND = kind →
    let w := s.work (s.fld Reg.RNS_HIST_SEL F.RNS_HIST_SEL_UNIT)
    Gives .histDepthSample s fun t => t = { s with regs := t.regs } ∧ (∀ d, (kind = 1 ∧ d = w.att.length) ∨
        (kind = 2 ∧ d = (w.appends.filter fun x => x.run.isNone).length) ∨ (kind = 3 ∧ d = s.rns.wheel.length) ∨ (kind = 4 ∧ d = s.rns.waiting.length) →
      t.reg Reg.RNS_HIST_MAXD = max (s.reg Reg.RNS_HIST_MAXD) d % 2 ^ 32)) ∧
  (∀ (k : Fin 16) (s : State), s.flag (Reg.TEM_TEAM_STATUS k) F.TEM_TEAM_STATUS_VALID = true →
    let a := s.paceAcc k
    let team := temStatus s k F.TEM_TEAM_STATUS_TEAM
    let coord := s.fld (Reg.TEM_TEAM_NODES k) F.TEM_TEAM_NODES_COORD
    let base := s.fld (Reg.RNS_TEAM_PACE_OFF k) F.RNS_TEAM_PACE_OFF_OFF * pageBytes
    let due := a.windowStart + s.fld (Reg.RNS_TEAM_PERIOD k) F.RNS_TEAM_PERIOD_PERIOD ≤ s.nowH
    let lag := s.flag Reg.RNS_CTRL F.RNS_CTRL_LAG_EN
    (¬ due → exec (.paceWindowEnd k) s = .next s) ∧
    (due → (∀ x ∈ s.htp.answered, x.1 ≠ .pace k.val) → lag = false ∨ coord ≠ s.node → Gives (.paceWindowEnd k) s fun t =>
      (t.paceAcc k).stalls = [] ∧ (t.paceAcc k).windowStart = s.nowH ∧ (t.paceAcc k).runs = a.runs ∧ t.mem = s.mem ∧
      ((∀ x ∈ a.stalls, x.2.2 = 0) → t.htp = s.htp) ∧
      (∀ p i, spanPace a = some p → lag = true → (s.members team).findIdx? (· == s.node) = some i →
        ∃ x ∈ (t.dest coord).waiting ++ (t.dest coord).out, x.pkt.opcode = Op.store ∧ x.pkt.offset = base + 64 * (i + 1) ∧
          fld x.pkt.payload 0 4 = p % 2 ^ 32 ∧ fld x.pkt.payload 4 2 = s.node % 65536 ∧
          ∃ y ∈ (t.dest coord).waiting ++ (t.dest coord).out, y.pkt.opcode = Op.load ∧ y.pkt.offset = base ∧
            y.origin = .pace k.val))) ∧
  (∀ (a : PaceAcc) (p : Nat), spanPace a = some p ↔ (∃ x ∈ a.stalls, x.2.2 ≠ 0 ∧ p = x.2.1 * 1024 / x.2.2) ∧
    ∀ x ∈ a.stalls, x.2.2 ≠ 0 → x.2.1 * 1024 / x.2.2 ≤ p) ∧
  (∀ l : List Nat, l ≠ [] → let m := lowerMedian l
    m ∈ l ∧ 2 * (l.filter (· < m)).length < l.length ∧ 2 * (l.filter (m < ·)).length ≤ l.length) ∧
  (∀ (k : Fin 16) (s : State) (m : Nat), let a := s.paceAcc k
    let ratio := s.fld (Reg.RNS_TEAM_CFG k) F.RNS_TEAM_CFG_RATIO
    let run := s.fld (Reg.RNS_TEAM_CFG k) F.RNS_TEAM_CFG_RUN
    let t := paceMedian s k m
    (m = 0 → t.paceAcc k = a) ∧ (m ≠ 0 → a.pace * 16 ≤ m * ratio → t.paceAcc k = { a with runs := 0 }) ∧
    (m ≠ 0 → m * ratio < a.pace * 16 → a.runs + 1 < run → t.paceAcc k = { a with runs := a.runs + 1 }) ∧
    (m ≠ 0 → m * ratio < a.pace * 16 → run ≤ a.runs + 1 → t.paceAcc k = { a with runs := 0 } ∧
      temStatus t k F.TEM_TEAM_STATUS_LAGGED = 1 ∧ t.reg Reg.RNS_LAGGARDS = (s.reg Reg.RNS_LAGGARDS + 1) % 2 ^ 32))

/-- R254, R246, R255. PKH_CMD_GO queues the staged command, or sets OVERFLOW when 16 are queued. FREE returns the WEIGHT pages of
its range to FREE. A COPY into a range with a KV or RETIRED page ends with BOUNDS and writes nothing; a COPY within HBM makes the
destination read as the source did. DEMOTE and PROMOTE end with RIGHTS off a C-role module. A map entry is stored unless a page of
its window is KV or WEIGHT, which sets MAP_BUSY; a model entry is stored; a read of DATA0 loads the four registers. -/
def Obligations.PackhorseCommands : Prop :=
  (∀ (data : Word) (s : State), (bit data.toNat 0 = false → exec (.pkhCmdGo data) s = .next s) ∧
    (bit data.toNat 0 = true → 16 ≤ s.pkh.cmds.length → Gives (.pkhCmdGo data) s fun t => t = { s with regs := t.regs } ∧
      t.flag Reg.PKH_STATUS F.PKH_STATUS_OVERFLOW = true) ∧
    (bit data.toNat 0 = true → s.pkh.cmds.length < 16 → Gives (.pkhCmdGo data) s fun t => t = { s with pkh := t.pkh } ∧
      ∃ c, t.pkh.cmds = s.pkh.cmds ++ [c] ∧ c.desc = s.staged (Reg.PKH_CMD 0) 16 ∧ c.running = false)) ∧
  (∀ (data : Word) (s : State), s.pkh.held = [] → Gives (.pkhCqHeadWrite data) s fun t => t = { s with regs := t.regs } ∧
    t.fld Reg.PKH_CQ_HEAD F.PKH_CQ_HEAD_HEAD = data.toNat % 4096) ∧
  (∀ (s : State) (c : PkhCmd) (i : Instr) (op : Nat), cmdTurn s op = some c →
    (op = 1 ∧ i = .demote ∧ s.walk = false ∧ s.flag Reg.PKH_CTRL F.PKH_CTRL_DEMOTE_EN = true) ∨
      (op = 2 ∧ i = .promote ∧ s.flag Reg.PKH_CTRL F.PKH_CTRL_PROMOTE_EN = true) →
    s.role ≠ roleC ∨ Pc.op c.desc = 0 ∨ 4 < Pc.op c.desc ∨ 3 < Pc.tier c.desc →
    GivesRuns i s fun t => PkhSays s c St.rights c.pages (c.pages * pageBytes) t ∧ t.pkh.moves = s.pkh.moves ∧ t.kvp = s.kvp) ∧
  (∀ (s : State) (c : PkhCmd) (t k : Nat), cmdTurn s 4 = some c → Pc.op c.desc = 4 → copyTier (Pc.dst c.desc) = some (t, k) →
    let n := Pc.len c.desc / pageBytes
    (Pc.len c.desc % pageBytes ≠ 0 ∨ copyRange s (Pc.dst c.desc) n = false → GivesRuns .free s fun u =>
      PkhSays s c St.bounds c.pages 0 u) ∧
    (Pc.len c.desc % pageBytes = 0 → copyRange s (Pc.dst c.desc) n = true → NoCqe c → GivesRuns .free s fun u =>
      u.pkh.cmds = s.pkh.cmds.filter (·.id != c.id) ∧
      ∀ j, k ≤ j → j < k + n → s.trecStateAt t j = 2 → u.trecStateAt t j = 0)) ∧
  (∀ s : State, cmdTurn s 4 = none → exec .free s = .next s) ∧
  (∀ (s : State) (c : PkhCmd), cmdTurn s 3 = some c → Pc.op c.desc = 3 → s.walk = false → Pc.len c.desc % pageBytes = 0 → NoCqe c →
    let n := Pc.len c.desc / pageBytes
    let src := Pc.src c.desc
    let dst := Pc.dst c.desc
    copyRange s src n = true → copyRange s dst n = true →
    (∀ t k j, copyTier dst = some (t, k) → k ≤ j → j < k + n → s.trecStateAt t j = 1 ∨ s.trecStateAt t j = 3 →
      GivesRuns (.copy []) s fun u => u.mem = s.mem ∧ u.pkh.cmds = s.pkh.cmds.filter (·.id != c.id)) ∧
    (src + pageBytes * n ≤ hbmBytes → dst + pageBytes * n ≤ hbmBytes → src + pageBytes * n ≤ dst ∨ dst + pageBytes * n ≤ src →
      LinesGood s src (pageBytes * n) → LinesGood s dst (pageBytes * n) → c.io = none → c.pages = 0 → GivesRuns (.copy []) s fun u =>
      homeRead u dst (pageBytes * n) = homeRead s src (pageBytes * n) ∧ SameOutside s dst (pageBytes * n) u ∧
        u.pkh.cmds = s.pkh.cmds.filter (·.id != c.id))) ∧
  (∀ (data : Word) (s : State), let i := s.fld Reg.PKH_MAP_IDX F.PKH_MAP_IDX_IDX
    let t := if i < 64 then 1 else 2
    let used := ∃ k, k < s.tierPages t ∧ mapOf t k = i ∧ (s.trecStateAt t k = 1 ∨ s.trecStateAt t k = 2)
    (used → Gives (.pkhMapWrite data) s fun u => u = { s with regs := u.regs } ∧
      u.flag Reg.PKH_STATUS F.PKH_STATUS_MAP_BUSY = true) ∧
    (¬ used → Gives (.pkhMapWrite data) s fun u => u = { s with regs := u.regs, pkh := u.pkh } ∧
      fld (u.mapEntry i) 0 4 = s.reg (Reg.PKH_MAP_DATA 0) % 2 ^ 32 ∧ fld (u.mapEntry i) 4 4 = s.reg (Reg.PKH_MAP_DATA 1) % 2 ^ 32 ∧
      fld (u.mapEntry i) 8 4 = s.reg (Reg.PKH_MAP_DATA 2) % 2 ^ 32 ∧ fld (u.mapEntry i) 12 4 = data.toNat ∧
      ∀ j, j ≠ i → u.mapEntry j = s.mapEntry j)) ∧
  (∀ (data : Word) (s : State), let i := s.fld Reg.PKH_MODEL_IDX F.PKH_MODEL_IDX_IDX
    Gives (.pkhModelWrite data) s fun u => u = { s with regs := u.regs, pkh := u.pkh } ∧
      fld (u.modelEntry i) 0 4 = s.reg (Reg.PKH_MODEL_DATA 0) % 2 ^ 32 ∧ fld (u.modelEntry i) 12 4 = data.toNat ∧
      ∀ j, j ≠ i → u.modelEntry j = s.modelEntry j) ∧
  (∀ s : State, s.shut 4 1 0 = false → Gives .pkhMapData0Read s (fun u => u.mem = s.mem ∧ u.pkh = s.pkh ∧
      ∀ e k, e = s.mapEntry (s.fld Reg.PKH_MAP_IDX F.PKH_MAP_IDX_IDX) → e.length = 16 → k < 4 →
        u.reg (Reg.PKH_MAP_DATA k) = fld e (4 * k) 4) ∧
    Gives .pkhModelData0Read s (fun u => u.mem = s.mem ∧ u.pkh = s.pkh ∧
      ∀ e k, e = s.modelEntry (s.fld Reg.PKH_MODEL_IDX F.PKH_MODEL_IDX_IDX) → e.length = 16 → k < 4 →
        u.reg (Reg.PKH_MODEL_DATA k) = fld e (4 * k) 4))

/-- R247–R252. A tier page is allocated FREE and backed, at or after the cursor. A demotion makes its tier page's record KV with the
table's place and starts the copy; once the copy has ended, a REPLACE with the epoch read is submitted, or the page is given back
when the entry no longer names it; a failed write retires the page. A promotion takes an HBM page, reads the tier page into it and
submits the REPLACE; a second request joins, one beyond 256 is dropped and counted; a failed read poisons the entry. -/
def Obligations.PageMoves : Prop :=
  (∀ (s u : State) (t k : Nat), allocTier s t = (u, some k) → s.trecStateAt t k = 0 ∧ s.backed t k = true ∧ k < s.pagesOf t ∧
    u.pkh.cursors.getD t 0 = (k + 1) % s.pagesOf t ∧
    ∀ j, s.pkh.cursors.getD t 0 % s.pagesOf t ≤ j → j < k → s.pkh.cursors.getD t 0 % s.pagesOf t ≤ k →
      s.trecStateAt t j ≠ 0 ∨ s.backed t j = false) ∧
  (∀ (s s1 s2 s3 : State) (c : PkhCmd) (k first pte dst i t n : Nat) (r : Bytes) (sh : Bool), cmdTurn s 1 = some c → Pc.op c.desc = 1 →
    s.role = roleC → Pc.tier c.desc ≤ 3 → s.walk = false → s.flag Reg.PKH_CTRL F.PKH_CTRL_DEMOTE_EN = true →
    cmdEntries s c.desc = (s1, St.ok, k, [(pte, first)]) →
    let go := fun (x : PkhCmd) => { x with running := true, left := 1 }
    entryAt (s1.updPkh fun p => { p with cmds := replaceIf (·.id == c.id) go p.cmds }) (Pc.root c.desc) k first =
      (s2, some (r, i, pte, sh)) →
    ptePoison pte = false → isHbm (ptePage pte) = true → (∀ m ∈ s2.pkh.moves, m.src ≠ ptePage pte ∧ m.dst ≠ ptePage pte) →
    allocOrder s2 (Pc.tier c.desc) 0 = (s3, some dst) → tierOf dst = some (t, n) → s3.trecOff t n % 16 = 0 →
    s3.trecOff t n + 16 ≤ hbmBytes → LinesGood s3 (ptePage pte * pageBytes) pageBytes →
    GivesRuns .demote s fun u => Moving (ptePage pte) dst .writing u ∧ u.kvp.edits = s3.kvp.edits ∧
      (t = 2 ∨ (t = 3 ∧ (s3.trecOff t n + 16 ≤ s3.base Reg.PKH_VQ_BASE_LO ∨ s3.base Reg.PKH_VQ_BASE_LO + 0x100000 ≤ s3.trecOff t n)) →
        u.trec t n = ((2 ^ 62 + b2n sh * 2 ^ 61 + homeStall (Pc.root c.desc) * 2 ^ 54 + k * 2 ^ 43 +
        Pc.root c.desc / pageBytes) % 2 ^ 64, first % 2 ^ 64))) ∧
  (∀ (s s1 : State) (m : Move) (r : Bytes) (i pte : Nat) (sh : Bool), s.pkh.moves.find? (fun x => x.dst == m.dst &&
      !isHbm m.dst && x.stage != .reading) = some m → m.stage = .writing → m.io = .host → isHbm m.src = true →
    (∀ x ∈ s.pkh.moves, x.id = m.id → x = m) →
    (entryAt s m.root m.pair m.first = (s1, some (r, i, pte, sh)) → ptePage pte = m.src → s.role = roleC →
      GivesRuns (.demotionCopyComplete m.dst) s fun t => Moving m.src m.dst .editing t ∧
        Replaces (m.root % 2 ^ 64) (Root.epoch r) i (pteSetPage pte m.dst) t) ∧
    (entryAt s m.root m.pair m.first = (s1, none) → m.cmds = [] → GivesRuns (.demotionCopyComplete m.dst) s fun t =>
      t.pkh.moves = s.pkh.moves.filter (·.id != m.id) ∧ t.kvp.edits = s.kvp.edits ∧
      ∀ a b, tierOf m.dst = some (a, b) → (s1.trecOff a b) % 16 = 0 → s1.trecOff a b + 16 ≤ hbmBytes →
        LinesGood s1 (s1.trecOff a b) 16 → t.trecStateAt a b = 0)) ∧
  (∀ (s : State) (m : Move) (d : EditDone), s.pkh.moves.find? (fun x => x.dst == m.dst && !isHbm m.dst && x.stage != .reading) =
      some m → m.stage = .editing → isHbm m.src = true → m.cmds = [] →
    s.kvp.done.find? (fun d => d.origin == .packhorse m.id) = some d → d.status = St.ok →
    GivesRuns (.demotionCopyComplete m.dst) s fun t => t.pkh.moves = s.pkh.moves.filter (·.id != m.id) ∧ t.mem = s.mem ∧
      t.kvp.done = s.kvp.done.erase d ∧ t.reg Reg.PKH_DEMOTES = (s.reg Reg.PKH_DEMOTES + 1) % 2 ^ 32) ∧
  (∀ (s : State) (q : PromReq) (rest : List PromReq), s.kvp.promote = q :: rest →
    (s.flag Reg.PKH_CTRL F.PKH_CTRL_PROMOTE_EN = false → exec .promotionRequest s = .next s) ∧
    (s.flag Reg.PKH_CTRL F.PKH_CTRL_PROMOTE_EN = true → (∀ m ∈ s.pkh.moves, m.src ≠ q.page) → 256 ≤ s.promoting →
      GivesRuns .promotionRequest s fun t => t.kvp.promote = rest ∧ t.pkh = s.pkh ∧
        t.reg Reg.PKH_PROMOTE_DROP = (s.reg Reg.PKH_PROMOTE_DROP + 1) % 2 ^ 32) ∧
    (s.flag Reg.PKH_CTRL F.PKH_CTRL_PROMOTE_EN = true → (∃ m ∈ s.pkh.moves, m.src = q.page) →
      (∀ m ∈ s.pkh.moves, m.src = q.page → isHbm m.dst = true) →
      (s.pkh.moves.map (·.id)).Nodup →
      GivesRuns .promotionRequest s fun t => t.kvp.promote = rest ∧ t.pkh.moves.map (·.src) = s.pkh.moves.map (·.src) ∧ t.mem = s.mem) ∧
    (∀ s1 s2 r i pte sh dst, s.flag Reg.PKH_CTRL F.PKH_CTRL_PROMOTE_EN = true → (∀ m ∈ s.pkh.moves, m.src ≠ q.page) →
      s.promoting < 256 →
      entryAt { s with kvp := { s.kvp with promote := rest } } q.root q.pair q.first = (s1, some (r, i, pte, sh)) → ptePage pte = q.page →
      isHbm q.page = false → ptePoison pte = false → s1.allocPage (homeStall q.root) (Root.handle r) = (s2, some dst) →
      GivesRuns .promotionRequest s fun t => Moving q.page dst .reading t ∧ t.kvp.promote = rest)) ∧
  (∀ (s s1 s2 : State) (c : PkhCmd) (k first pte i dst : Nat) (r : Bytes) (sh : Bool), cmdTurn s 2 = some c → Pc.op c.desc = 2 →
    s.role = roleC → Pc.tier c.desc ≤ 3 → s.flag Reg.PKH_CTRL F.PKH_CTRL_PROMOTE_EN = true →
    cmdEntries s c.desc = (s1, St.ok, k, [(pte, first)]) → (∀ m ∈ s1.pkh.moves, m.src ≠ ptePage pte) → s1.promoting < 256 →
    let go := fun (x : PkhCmd) => { x with running := true, left := 1 }
    entryAt (s1.updPkh fun p => { p with cmds := replaceIf (·.id == c.id) go p.cmds }) (Pc.root c.desc) k first =
      (s2, some (r, i, pte, sh)) → isHbm (ptePage pte) = false → ptePoison pte = false →
    (s2.allocPage (homeStall (Pc.root c.desc)) (Root.handle r)).2 = some dst →
    GivesRuns .promote s fun t => Moving (ptePage pte) dst .reading t) ∧
  (∀ (s s1 : State) (m : Move) (d r : Bytes) (i pte : Nat) (sh : Bool), s.pkh.moves.find? (fun x => x.src == m.src && !isHbm m.src) =
      some m → m.stage = .reading → m.io = .host → isHbm m.dst = true → s.role = roleC → d.length = pageBytes →
    (∀ x ∈ s.pkh.moves, x.id = m.id → x = m) → LinesGood s (m.dst * pageBytes) pageBytes →
    entryAt (s.writeMem (m.dst * pageBytes) d).1 m.root m.pair m.first = (s1, some (r, i, pte, sh)) → ptePage pte = m.src →
    GivesRuns (.promotionComplete m.src (.data d)) s fun t => homeRead t (m.dst * pageBytes) pageBytes = d ∧
      Moving m.src m.dst .editing t ∧ Replaces (m.root % 2 ^ 64) (Root.epoch r) i (pteSetPage pte m.dst) t) ∧
  (∀ (s : State) (m : Move) (page : Nat),
    s.pkh.moves.find? (fun x => (x.src == page || x.dst == page) && x.stage != .editing) = some m → m.io = .host → m.cmds = [] →
    (m.stage = .writing → (∀ k, tierOf m.dst ≠ some (3, k)) → isHbm m.src = true → isHbm m.dst = false →
      GivesRuns (.tierIoFail page) s fun t =>
      t.pkh.moves = s.pkh.moves.filter (·.id != m.id) ∧ t.reg Reg.PKH_TIER_FAIL = (s.reg Reg.PKH_TIER_FAIL + 1) % 2 ^ 32 ∧
      (∀ a b, tierOf m.dst = some (a, b) → s.trecOff a b % 16 = 0 → s.trecOff a b + 16 ≤ hbmBytes → LinesGood s (s.trecOff a b) 16 →
        t.trecStateAt a b = 3 ∧ SameOutside s (s.trecOff a b) 16 t)) ∧
    (m.stage = .reading → isHbm m.dst = true → isHbm m.src = false → GivesRuns (.tierIoFail page) s fun t =>
      t.pkh.moves = s.pkh.moves.filter (·.id != m.id) ∧ t.reg Reg.PKH_TIER_FAIL = (s.reg Reg.PKH_TIER_FAIL + 1) % 2 ^ 32))

/-- R255–R258. A ring's next slot is taken when its OP is not zero, and becomes zero. A resident layer completes OK at once with its
own address and no buffer; a staged layer in a full buffer completes OK and pins it once, a PREFETCH of it without a pin; otherwise a
fill is wanted. RELEASE lowers a pin count or has no effect. A fill starts in an unpinned, unfilled buffer when its tier is idle;
when its last page has come every waiting ticket completes, and when a page fails each ends with TIER_FAIL. After the deadline waiting
TICKETs end with TIER_LATE and the fill goes on. -/
def Obligations.LayerTickets : Prop :=
  (∀ (r : Fin 16) (s : State), let page := s.reg (Reg.PKH_TKT_RING r)
    let i := s.pkh.rings.getD r 0
    let o := page * pageBytes + 64 * i
    (s.flag Reg.PKH_CTRL F.PKH_CTRL_TICKET_EN = false ∨ page = 0xFFFFFFFF → exec (.ticketTake r) s = .next s) ∧
    (s.flag Reg.PKH_CTRL F.PKH_CTRL_TICKET_EN = true → page ≠ 0xFFFFFFFF → o + 64 ≤ hbmBytes → LinesGood s o 64 →
      (fld (homeRead s o 64) 0 1 = 0 → GivesRuns (.ticketTake r) s fun t => SameOutside s 0 0 t ∧ t.pkh = s.pkh) ∧
      (fld (homeRead s o 64) 0 1 ≠ 0 → GivesRuns (.ticketTake r) s fun t => SameOutside s o 64 t ∧ homeRead t o 64 = zeros 64 ∧
        t.pkh.rings.getD r 0 = (i + 1) % 64 ∧ ∃ x, t.pkh.taken = s.pkh.taken ++ [(x, s.now)] ∧ x.take 64 = homeRead s o 64))) ∧
  (∀ (s : State) (tk : Bytes) (x src pages : Nat) (i : Instr) (op : Nat), (i = .ticket ∧ op = 1) ∨ (i = .prefetch ∧ op = 2) →
    TakenNext s (if op = 1 then fun o => o == 1 || decide (3 < o) else fun o => o == 2) tk x → Tk.op tk = op →
    (op = 1 → Me.ahead (s.modelEntry (Tk.model tk)) = 0) →
    let m := Tk.model tk
    let l := Tk.layer tk
    (64 ≤ m ∨ Me.v (s.modelEntry m) = false ∨ Me.nlayers (s.modelEntry m) ≤ l → GivesRuns i s fun t =>
      TicketSays s tk St.bounds 0 0 0xFFFF t ∧ t.pkh = { s.pkh with taken := s.pkh.taken.erase (tk, x) }) ∧
    (LayerIs s m l src pages →
      (src < hbmBytes → GivesRuns i s fun t => TicketSays s tk St.ok (s.node * 2 ^ 48 + src) (pages * pageBytes) 0xFFFF t ∧
        t.pkh = { s.pkh with taken := s.pkh.taken.erase (tk, x) }) ∧
      (hbmBytes ≤ src → s.fld Reg.PKH_WBUF_CFG F.PKH_WBUF_CFG_BUFSZ < pages → GivesRuns i s fun t =>
        TicketSays s tk St.bounds 0 0 0xFFFF t) ∧
      (hbmBytes ≤ src → pages ≤ s.fld Reg.PKH_WBUF_CFG F.PKH_WBUF_CFG_BUFSZ →
        (∀ b, s.bufWith m l = some b → GivesRuns i s fun t =>
          TicketSays s tk St.ok (s.node * 2 ^ 48 + s.bufOff b) (pages * pageBytes) (if op = 1 then b else 0xFFFF) t ∧
          (t.wbuf b).pin = (s.wbuf b).pin + (if op = 1 then 1 else 0) ∧ (t.wbuf b).layer = (s.wbuf b).layer) ∧
        (s.bufWith m l = none → (∀ f ∈ s.pkh.fills, f.model ≠ m ∨ f.layer ≠ l) → GivesRuns i s fun t =>
          t.reg Reg.PKH_TICKETS = s.reg Reg.PKH_TICKETS ∧ t.pkh.bufs = s.pkh.bufs ∧
          ∃ f, t.pkh.fills = s.pkh.fills ++ [f] ∧ f.model = m ∧ f.layer = l ∧ f.src = src ∧ f.pages = pages ∧ f.buf = none ∧
            f.waiting = [(tk, x)])))) ∧
  (∀ (s : State) (tk : Bytes) (x : Nat), TakenNext s (fun o => o == 1 || decide (3 < o)) tk x → 3 < Tk.op tk →
    GivesRuns .ticket s fun t => TicketSays s tk St.rights 0 0 0xFFFF t) ∧
  (∀ (s : State) (tk : Bytes) (x : Nat), TakenNext s (fun o => o == 3) tk x → let b := Tk.buf tk
    GivesRuns .ticketRelease s fun t => (t.wbuf b).pin = (s.wbuf b).pin - 1 ∧ (t.wbuf b).layer = (s.wbuf b).layer ∧
      (∀ c, c ≠ b → t.wbuf c = s.wbuf c) ∧
      TicketSays s tk (if (s.wbuf b).pin = 0 then St.noEffect else St.ok) 0 0 0xFFFF t) ∧
  (∀ (s : State) (b : Nat), freeBuf s = some b →
    (s.wbuf b).pin = 0 ∧ (s.wbuf b).filling = false ∧ b < s.fld Reg.PKH_WBUF_CFG F.PKH_WBUF_CFG_NBUF ∧
    (∀ c, c < s.fld Reg.PKH_WBUF_CFG F.PKH_WBUF_CFG_NBUF → (s.wbuf c).pin = 0 → (s.wbuf c).filling = false →
      (s.wbuf b).last ≤ (s.wbuf c).last)) ∧
  (∀ (s : State) (f : Fill) (b : Nat), f ∈ s.pkh.fills → f.buf = none → (∀ g ∈ s.pkh.fills, g.buf = none) → freeBuf s = some b →
    GivesRuns .fillStart s fun t => (t.wbuf b).filling = true ∧ (∃ g ∈ t.pkh.fills, g.buf = some b) ∧ ∀ c, c ≠ b → t.wbuf c = s.wbuf c) ∧
  (∀ (m : Fin 64) (l : Fin 1024) (s : State) (f : Fill) (b : Nat) (tk : Bytes) (x : Nat),
    s.pkh.fills.find? (fun f => f.model == m.val && f.layer == l.val) = some f → f.buf = some b → f.waiting = [(tk, x)] →
    (f.ios = [] → f.done = f.pages → f.next = f.pages → ticketOver s (tk, x) = false → GivesRuns (.fillComplete m l []) s fun t =>
      t.pkh.fills = s.pkh.fills.filter (·.id != f.id) ∧ (t.wbuf b).filling = false ∧ (t.wbuf b).layer = (s.wbuf b).layer ∧
      (t.wbuf b).pin = (s.wbuf b).pin + (if Tk.op tk = 1 then 1 else 0) ∧
      TicketSays s tk St.ok (s.node * 2 ^ 48 + s.bufOff b) (f.pages * pageBytes) (if Tk.op tk = 1 then b else 0xFFFF) t) ∧
    (∀ i, f.ios = [(i, .got St.tierFail [])] → ticketOver s (tk, x) = false → GivesRuns (.fillComplete m l []) s fun t =>
      t.pkh.fills = s.pkh.fills.filter (·.id != f.id) ∧ (t.wbuf b).layer = none ∧ TicketSays s tk St.tierFail 0 0 0xFFFF t)) ∧
  (∀ (s : State) (f : Fill) (tk : Bytes) (x : Nat), s.pkh.fills = [f] → f.waiting = [(tk, x)] → Tk.op tk = 1 →
    (x + s.reg Reg.PKH_TIER_DL < s.now → Gives .ticketDeadline s fun t => TicketSays s tk St.tierLate 0 0 0xFFFF t ∧
      t.pkh.fills = [{ f with waiting := [] }] ∧ t.reg Reg.PKH_TIER_LATE = (s.reg Reg.PKH_TIER_LATE + 1) % 2 ^ 32) ∧
    (s.now ≤ x + s.reg Reg.PKH_TIER_DL → exec .ticketDeadline s = .next s))

/-- Table PKH-10, R260–R264. Presence takes an ABSENT vault to ATTACHING; a lost cartridge, a removal or a link down takes any other
state to ABSENT. An ATTACHING vault that fails a check of R261 is FAILED with event PKH 0x0007 naming the first failing check;
one that passes all is READY with every record FREE. At USED ≥ 1,000 or a critical warning a READY vault becomes READ_ONLY.
DETACH takes READY or READ_ONLY to DETACHING, and DETACHED follows when no KV record is left and Flush is done. FORMAT is
ignored unless READY or READ_ONLY with no record in use. A command timeout resets the controller (CC.EN = 0) and attaches again.
A completion beyond a closed crossing (R283) is discarded. Deallocation goes out at 256 ranges or after 10 ms, not at WALK. -/
def Obligations.VaultStates : Prop :=
  (∀ s : State, vaultIs s Vs.absent → Gives (.vaultPresence true) s fun t => vaultIs t Vs.attaching ∧
      t.flag Reg.PKH_VAULT_STATUS F.PKH_VAULT_STATUS_PRESENT = true ∧ VaultCmd s 0x06 t ∧ QueuesOnly s t) ∧
  (∀ (s : State) (i : Instr), i = .vaultPresence false ∨ i = .vaultRemoval ∨ i = .vaultLinkDown →
    Gives i s fun t => vaultIs t Vs.absent ∧
      t.flag Reg.PKH_VAULT_STATUS F.PKH_VAULT_STATUS_PRESENT =
        (decide (i = .vaultLinkDown) && s.flag Reg.PKH_VAULT_STATUS F.PKH_VAULT_STATUS_PRESENT) ∧
      (¬ vaultIs s Vs.absent → t.pkh.vault.ops = [] ∧ t.pkh.vault.cap = 0 ∧
        ∀ k, k < s.tierPages 3 → (∀ n, s.stallFailed n = false) → trecState (t.trec 3 k).1 = 0)) ∧
  (∀ (id : Bytes) (link lbaOk mdtsOk : Bool) (lim : VaultLimits) (s : State),
    (¬ vaultIs s Vs.attaching → exec (.vaultAttachComplete id link lbaOk mdtsOk lim) s = .next s) ∧
    (∀ k, vaultIs s Vs.attaching → (link = false ∧ k = 1) ∨ (link = true ∧ lbaOk = false ∧ k = 2) ∨
        (link = true ∧ lbaOk = true ∧ mdtsOk = false ∧ k = 3) ∨
        (link = true ∧ lbaOk = true ∧ mdtsOk = true ∧ lim.nsze < fld id 32 8 ∧ k = 4) ∨
        (link = true ∧ lbaOk = true ∧ mdtsOk = true ∧ fld id 32 8 ≤ lim.nsze ∧ (fld id 0 4 ≠ 0x564C5441 ∨ fld id 4 2 ≠ 1) ∧ k = 5) →
      Gives (.vaultAttachComplete id link lbaOk mdtsOk lim) s fun t => vaultIs t Vs.failed ∧ t.mem = s.mem ∧
        (s.far.events.length < 256 →
          t.far.events = s.far.events ++ [s.record Tag.pkh 0x0007 Sev.degraded 0 [k, 0, 0, 0]])) ∧
    (∀ s1, vaultIs s Vs.attaching → attachCheck id link lbaOk mdtsOk lim.nsze = none →
      (vaultKeys (s.fld Reg.ASY_VKEY_N F.ASY_VKEY_N_N) s id = (s1, false) →
        Gives (.vaultAttachComplete id link lbaOk mdtsOk lim) s fun t => vaultIs t Vs.failed) ∧
      (vaultKeys (s.fld Reg.ASY_VKEY_N F.ASY_VKEY_N_N) s id = (s1, true) →
        Gives (.vaultAttachComplete id link lbaOk mdtsOk lim) s fun t => vaultIs t Vs.ready ∧ t.pkh.vault.cap = fld id 32 8 ∧
          t.pkh.vault.mqes = lim.mqes ∧ t.dealloc = {} ∧ VaultCmd s 0x09 t))) ∧
  (∀ (log : Bytes) (s : State), vaultIs s Vs.ready → s.pkh.vault.rated ≠ 0 →
    let used := min 65535 (fld log 48 16 * 512000 * 1000 / s.pkh.vault.rated)
    let smart := bit (fld log 0 1) 2 = true ∨ bit (fld log 0 1) 3 = true
    Gives (.smartRead log) s fun t => t.fld Reg.PKH_VAULT_LIFE F.PKH_VAULT_LIFE_USED = used ∧ QueuesOnly s t ∧
      (1000 ≤ used ∨ smart → vaultIs t Vs.readOnly) ∧ (used < 1000 → ¬ smart → vaultIs t Vs.ready) ∧
      (s.fld Reg.PKH_VAULT_LIFE F.PKH_VAULT_LIFE_WARN ≤ used → t.pkh.vault.warned = true)) ∧
  (∀ (log : Bytes) (s : State), vaultIs s Vs.absent ∨ vaultIs s Vs.attaching ∨ vaultIs s Vs.detached ∨ vaultIs s Vs.failed →
    exec (.smartRead log) s = .next s) ∧
  (∀ (cid : Fin 65536) (ok : Bool) (data : Bytes) (s : State) (use : VaultUse) (x : Nat),
    s.pkh.vault.ops.find? (·.1 == cid.val) = some (cid.val, use, x) → (∃ c ∈ s.pkh.vault.sent, c.cid = cid.val) →
    (s.shut 5 1 0 = true → exec (.vaultCompletion cid ok data) s = .next s) ∧
    (s.shut 5 1 0 = false → GivesRuns (.vaultCompletion cid ok data) s fun t =>
      (use ≠ .page → t.pkh.vault.ops = s.pkh.vault.ops.filter (·.1 != cid.val) ∧ QueuesOnly s t) ∧
      (use = .flush → t.pkh.vault.flushed = some ok) ∧ (use = .format → t.flag Reg.PKH_VAULT_CTRL F.PKH_VAULT_CTRL_FORMAT = false) ∧
      (use = .page → (∀ m ∈ s.pkh.moves, m.io ≠ .vault cid.val) → t.pkh.vault.answers = s.pkh.vault.answers ++ [(cid.val, ok, data)]))) ∧
  (∀ s : State, let late := fun (o : Nat × VaultUse × Nat) => o.2.2 + s.reg Reg.PKH_VAULT_TMO ≤ s.now
    ((∀ o ∈ s.pkh.vault.ops, ¬ late o) → exec .vaultCommandTimeout s = .next s) ∧
    ((∃ o ∈ s.pkh.vault.ops, late o) → Gives .vaultCommandTimeout s fun t => vaultIs t Vs.attaching ∧
      ∃ l l', t.out = s.out ++ l ++ .vaultReg 0x14 0 :: l')) ∧
  (∀ s : State, s.dealloc.pages ≠ [] → s.walk = false → vaultIs s Vs.ready → s.pkh.vault.wipe = false →
    (256 ≤ s.dealloc.pages.length ∨ (∃ x, s.dealloc.since = some x ∧ x + 10000000 ≤ s.now) → GivesRuns .deallocateIssue s fun t =>
      t.dealloc.pages = s.dealloc.pages.drop 256 ∧ VaultCmd s 0x09 t ∧ QueuesOnly s t) ∧
    (s.dealloc.pages.length < 256 → (∀ x, s.dealloc.since = some x → s.now < x + 10000000) →
      exec .deallocateIssue s = .next s)) ∧
  (∀ s : State, s.pkh.vault.wipe = true → s.walk = false → GivesRuns .deallocateIssue s fun t => t.pkh.vault.wipe = false ∧
    VaultCmd s 0x09 t ∧ QueuesOnly s t) ∧
  (∀ (data : Word) (s : State), s.locked = true → bit data.toNat 0 = true → bit data.toNat 1 = false →
    (vaultIs s Vs.ready ∨ vaultIs s Vs.readOnly → Settled s → s.trecOff 3 0 + 16 * s.tierPages 3 ≤ hbmBytes →
      (∀ k, k < s.tierPages 3 → s.trecStateAt 3 k ≠ 1) →
      Gives (.vaultDetach data) s fun t => vaultIs t Vs.detaching ∧ t.flag Reg.PKH_VAULT_CTRL F.PKH_VAULT_CTRL_DETACH = false ∧
        t.pkh.moves = s.pkh.moves ∧ ∀ k, k < s.tierPages 3 → t.trecStateAt 3 k ≠ 2) ∧
    (¬ vaultIs s Vs.ready → ¬ vaultIs s Vs.readOnly → Gives (.vaultDetach data) s fun t => t = { s with regs := t.regs } ∧
      t.fld Reg.PKH_VAULT_STATUS F.PKH_VAULT_STATUS_STATE = s.vaultState ∧
      t.flag Reg.PKH_VAULT_CTRL F.PKH_VAULT_CTRL_DETACH = false)) ∧
  (∀ s : State, (¬ vaultIs s Vs.detaching → exec .vaultDetached s = .next s) ∧
    (vaultIs s Vs.detaching → vaultKv s = [] → s.pkh.vault.flushed = some true → Gives .vaultDetached s fun t =>
      vaultIs t Vs.detached ∧ t.mem = s.mem) ∧
    (vaultIs s Vs.detaching → vaultKv s = [] → s.pkh.vault.flushed = none → Gives .vaultDetached s fun t =>
      vaultIs t Vs.detaching ∧ VaultCmd s 0x00 t ∧ QueuesOnly s t)) ∧
  (∀ (data : Word) (s : State), s.locked = true → bit data.toNat 1 = true → bit data.toNat 0 = false →
    let used := ∃ k, k < s.tierPages 3 ∧ (s.trecStateAt 3 k = 1 ∨ s.trecStateAt 3 k = 2)
    (vaultIs s Vs.ready ∨ vaultIs s Vs.readOnly → ¬ used → Gives (.vaultFormat data) s fun t => VaultCmd s 0x80 t ∧
      t.flag Reg.PKH_VAULT_CTRL F.PKH_VAULT_CTRL_FORMAT = true) ∧
    (¬ (vaultIs s Vs.ready ∨ vaultIs s Vs.readOnly) ∨ used → Gives (.vaultFormat data) s fun t => t = { s with regs := t.regs } ∧
      t.flag Reg.PKH_VAULT_CTRL F.PKH_VAULT_CTRL_FORMAT = false))

/-- R266, R267, R269–R271. Configuration space holds Table HST-1's values after reset. A poisoned write TLP is discarded and logged; a
request beyond its BAR is an Unsupported Request. An access misses under five conditions, which HST_MISS counts: a write is
dropped, a read completes as Unsupported Request. A partial write is counted and dropped with event HST 0x0002. Whole lines open a
merge or join it when they continue it; a full 4 KiB block, or MERGE ns after the first TLP, sends one STORE to NODE at BASE + w. A
read through an entry of this node returns the bytes asked for. An aperture write stores the entry it names and no other. -/
def Obligations.HostWindow : Prop :=
  (∀ (s : State) (addr : Nat) (w : Bool), let e := s.aperture (addr / 0x10000000)
    apMiss s addr w = true ↔ s.flag Reg.HST_CTRL F.HST_CTRL_BAR2_EN = false ∨ Aper.v e = false ∨
      (Aper.limit e + 1) * 4096 ≤ addr % 0x10000000 ∨ (w = true ∧ Aper.w e = false) ∨ (w = false ∧ Aper.r e = false)) ∧
  (∀ c, c = State.reset.host.pcie → c.vendor = 0x1FA7 ∧ c.device = 0x0480 ∧ c.classCode = 0x120000 ∧ c.payloadSizes = [128, 256, 512] ∧ c.maxRead = 4096 ∧
      c.tags = 512 ∧ c.functions = 1 ∧ c.vectors = 2048 ∧ c.aer = []) ∧
  (∀ (addr off tag len : Nat) (be : Fin 16) (d : Word) (data : Bytes) (full : Bool) (s : State),
    let logged := fun (bar o : Nat) (t : State) => t = { s with host := t.host } ∧
      t.host = { s.host with pcie := t.host.pcie } ∧ t.host.pcie = { s.host.pcie with aer := s.host.pcie.aer ++ [(bar, o)] }
    (addr < 0x1000000000 → s.shut 4 3 0 = false → Gives (.bar2Write addr data full true) s (logged 2 addr)) ∧
    (off < 0x1000000 → Gives (.bar4UnmappedWrite off .poisoned) s (logged 4 off)) ∧
    Gives (.registerWrite off ⟨be, true⟩ d) s (logged 0 off) ∧
    (0x1000000000 ≤ addr → exec (.bar2Write addr data full false) s = .next s ∧
      (s.shut 4 3 0 = false → exec (.bar2Read tag addr len) s = .next (s.emit (.readCompletion tag 1 [])))) ∧
    (s.shut 4 3 0 = true → exec (.bar2Write addr data full false) s = .next s ∧ exec (.bar2Read tag addr len) s = .next s) ∧
    (off < 0x1000000 → exec (.bar4UnmappedWrite off (.read tag len)) s = .next (s.emit (.readCompletion tag 0 (zeros len)))) ∧
    (0x1000000 ≤ off → exec (.bar4UnmappedWrite off (.read tag len)) s = .next (s.emit (.readCompletion tag 1 [])))) ∧
  (∀ (addr : Nat) (data : Bytes) (full : Bool) (s : State), addr < 0x1000000000 → s.shut 4 3 0 = false → s.host.merge = none → s.host.doorbells = [] →
    let e := s.aperture (addr / 0x10000000)
    (apMiss s addr true = true → Gives (.bar2Write addr data full false) s fun t => t = { s with regs := t.regs } ∧
      t.reg Reg.HST_MISS = (s.reg Reg.HST_MISS + 1) % 2 ^ 32) ∧
    (apMiss s addr true = false → full = false ∨ ¬ WholeLines addr data → Gives (.bar2Write addr data full false) s fun t =>
      t = { s with regs := t.regs, far := t.far, groomLog := t.groomLog } ∧
      t.reg Reg.HST_PARTIAL = (s.reg Reg.HST_PARTIAL + 1) % 2 ^ 32 ∧ (s.far.events.length < 256 →
        t.far.events = s.far.events ++ [s.record Tag.hst 0x0002 Sev.info addr [addr / 0x10000000, 0, 0, 0]])) ∧
    (apMiss s addr true = false → full = true → WholeLines addr data → (addr + data.length) % 4096 ≠ 0 →
      Gives (.bar2Write addr data full false) s fun t => t = { s with host := t.host } ∧
        t.host = { s.host with merge := some ⟨addr / 0x10000000, addr, data, s.nowHost, e⟩ }) ∧
    (apMiss s addr true = false → full = true → WholeLines addr data → (addr + data.length) % 4096 = 0 → ShaperFree s →
      Gives (.bar2Write addr data full false) s fun t => t.host.merge = none ∧ Bar2Stored s e addr data t)) ∧
  (∀ (addr : Nat) (data : Bytes) (s : State) (m : Merge), addr < 0x1000000000 → s.shut 4 3 0 = false → s.host.merge = some m → s.host.doorbells = [] →
    apMiss s addr true = false → WholeLines addr data → continues m addr = true → (addr + data.length) % 4096 ≠ 0 →
    Gives (.bar2Write addr data true false) s fun t => t = { s with host := t.host, regs := t.regs } ∧
      t.host = { s.host with merge := some { m with data := m.data ++ data } } ∧
      t.reg Reg.HST_MERGED = (s.reg Reg.HST_MERGED + 1) % 2 ^ 32) ∧
  (∀ (s : State) (m : Merge), s.host.doorbells = [] →
    (s.host.merge = none → exec .bar2MergeTimeout s = .next s) ∧
    (s.host.merge = some m → s.nowHost < m.opened + s.fld Reg.HST_CTRL F.HST_CTRL_MERGE → exec .bar2MergeTimeout s = .next s) ∧
    (s.host.merge = some m → m.opened + s.fld Reg.HST_CTRL F.HST_CTRL_MERGE ≤ s.nowHost → ShaperFree s →
      Gives .bar2MergeTimeout s fun t => t.host.merge = none ∧ Bar2Stored s m.ap m.addr m.data t)) ∧
  (∀ (tag addr len : Nat) (s : State), addr < 0x1000000000 → s.shut 4 3 0 = false → s.host.merge = none → s.host.doorbells = [] →
    let e := s.aperture (addr / 0x10000000)
    let o := Aper.base e + addr % 0x10000000
    (apMiss s addr false = true → Gives (.bar2Read tag addr len) s fun t => t.out = s.out ++ [.readCompletion tag 1 []] ∧
      t = { s with regs := t.regs, out := t.out } ∧ t.reg Reg.HST_MISS = (s.reg Reg.HST_MISS + 1) % 2 ^ 32) ∧
    (apMiss s addr false = false → Aper.node e = s.node → 1 ≤ len → addr % 4096 + len ≤ 4096 → Aper.base e % 4096 = 0 →
      o / 4096 * 4096 + 4096 ≤ hbmBytes → LinesGood s (o / 4096 * 4096) 4096 → ShaperFree s → s.htp.answered = [] →
      (∀ x ∈ s.host.reads, x.base ≠ s.host.readId + 1) → Gives (.bar2Read tag addr len) s fun t => SameOutside s 0 0 t ∧
        ∃ l, t.out = s.out ++ l ++ [.readCompletion tag 0 (homeRead s o len)])) ∧
  (∀ (data : Word) (s : State), s.host.merge = none → let i := s.fld Reg.HST_AP_IDX F.HST_AP_IDX_IDX
    Gives (.apertureWrite data) s fun t => t = { s with regs := t.regs, host := t.host } ∧
      (∀ k, k < 3 → fld (t.aperture i) (4 * k) 4 = s.reg (Reg.HST_AP_DATA k) % 2 ^ 32) ∧ fld (t.aperture i) 12 4 = data.toNat ∧
      ∀ j, j ≠ i → t.aperture j = s.aperture j) ∧
  (∀ s : State, let e := s.aperture (s.fld Reg.HST_AP_IDX F.HST_AP_IDX_IDX)
    e.length = 16 → Gives .apData0Read s fun t => t.host = s.host ∧ t.mem = s.mem ∧
      ∀ k, k < 4 → t.reg (Reg.HST_AP_DATA k) = fld e (4 * k) 4)

/-- R272–R274. A doorbell of a range that is not enabled is discarded and counted. One that finds an earlier BAR2 write to this node
not yet accepted waits behind it. Otherwise it takes effect: the index, modulo the size of its ring, becomes SQ_TAIL, CQ_HEAD or
RQ_TAIL of its queue, and a ticket doorbell takes the slots of its ring, when HBM is not parked. Beyond a closed crossing (R283)
a doorbell is discarded. A BAR0 write that finds doorbells waiting waits behind them. A BAR4 write off every defined doorbell,
or not a whole dword, is discarded and counted. A doorbell base that would overlap or pass page 4,095 is ignored with
DB_OVERLAP. -/
def Obligations.Doorbells : Prop :=
  (∀ (i : Instr) (s : State) (k : Nat) (b : Bell) (q : Fin 64) (c : Fin 8192) (u : Fin 256) (r : Fin 16) (data : Word), let v := data.toNat
    (i = .ldgSqDoorbell q data ∧ k = 0 ∧ b = .ldgSq q v) ∨ (i = .ldgCqDoorbell q data ∧ k = 0 ∧ b = .ldgCq q v) ∨
      (i = .couSqDoorbell c data ∧ k = 1 ∧ b = .couSq c v) ∨
      (∃ x, i = .couRqDoorbell c data x ∧ k = 1 ∧ b = .couRq c v x) ∨
      (i = .couCqDoorbell u data ∧ k = 1 ∧ b = .couCq u v) ∨ (i = .pkhTicketDoorbell r data ∧ k = 2 ∧ b = .pkh r v) →
    (s.shut 4 1 0 = true → exec i s = .next s) ∧
    (s.shut 4 1 0 = false → dbRange s k = none → Gives i s fun t => t = { s with regs := t.regs } ∧
      t.reg Reg.HST_DB_MISS = (s.reg Reg.HST_DB_MISS + 1) % 2 ^ 32) ∧
    (s.shut 4 1 0 = false → dbRange s k ≠ none → ownWrites s = true →
      exec i s = .next { s with host := { s.host with doorbells := s.host.doorbells ++ [b] } })) ∧
  (∀ (off : Nat) (data : Word) (s : State), off % 4 = 0 → s.barShut off = false → s.host.doorbells ≠ [] → ownWrites s = true →
    exec (.registerWrite off ⟨15, false⟩ data) s =
      .next { s with host := { s.host with doorbells := s.host.doorbells ++ [.reg off data.toNat] } }) ∧
  (∀ (q : Fin 64) (data : Word) (s : State), s.shut 4 1 0 = false → dbRange s 0 ≠ none → ownWrites s = false → s.host.doorbells = [] →
    Gives (.ldgSqDoorbell q data) s (fun t => t = { s with ldg := t.ldg } ∧
      t.aq q = { s.aq q with tail := data.toNat % 2 ^ s.fld (Reg.LDG_AQ_CTRL q) F.LDG_AQ_CTRL_SQ_LOG2 }) ∧
    ((s.aq q).held = [] → (s.aq q).notices = [] → Gives (.ldgCqDoorbell q data) s fun t => t = { s with ldg := t.ldg } ∧
      t.aq q = { s.aq q with cqHead := data.toNat % 2 ^ s.fld (Reg.LDG_AQ_CTRL q) F.LDG_AQ_CTRL_CQ_LOG2 })) ∧
  (∀ (c : Fin 8192) (data : Word) (s : State), s.shut 4 1 0 = false → dbRange s 1 ≠ none → ownWrites s = false → s.host.doorbells = [] →
    (s.conn c).state = .opened →
    Gives (.couSqDoorbell c data) s (fun t => t = { s with cou := t.cou } ∧
      t.conn c = { s.conn c with sqTail := data.toNat % 2 ^ (s.conn c).sendLog2 } ∧ ∀ d, d ≠ c.val → t.conn d = s.conn d) ∧
    (bit (s.conn c).recvBase 63 = false → (s.conn c).rqTail < 2 ^ (s.conn c).recvLog2 →
      let n := 2 ^ (s.conn c).recvLog2
      data.toNat % n = ((s.conn c).rqTail + 1) % n → 1 < n →
      let o := (s.conn c).recvBase + 16 * ((s.conn c).rqTail % n)
      o % 16 = 0 → o + 16 ≤ hbmBytes → LinesGood s o 16 → Gives (.couRqDoorbell c data .timeout) s fun t =>
        SameOutside s 0 0 t ∧ (t.conn c).rqTail = data.toNat % n ∧ ∃ p, (t.conn c).posted = (s.conn c).posted ++ [p])) ∧
  (∀ (u : Fin 256) (data : Word) (s : State), s.shut 4 1 0 = false → dbRange s 1 ≠ none → ownWrites s = false → s.host.doorbells = [] →
    (s.couCq u).held = [] → Gives (.couCqDoorbell u data) s fun t => t = { s with cou := t.cou } ∧
      t.couCq u = { s.couCq u with head := data.toNat % 2 ^ (s.couCq u).log2 }) ∧
  (∀ (r : Fin 16) (data : Word) (s : State), s.shut 4 1 0 = false → dbRange s 2 ≠ none → ownWrites s = false → s.host.doorbells = [] →
    (s.parked = true → exec (.pkhTicketDoorbell r data) s = .next s) ∧
    (s.parked = false → Gives (.pkhTicketDoorbell r data) s fun t => t = ticketTakeAll 64 s r ∧
      ∀ u, exec (.ticketTake r) s = .next u → u.pkh.taken = s.pkh.taken → t = u)) ∧
  (∀ (off : Nat) (a : Bar4Access) (s : State), off < 0x1000000 →
    (bar4Defined s off = true → exec (.bar4UnmappedWrite off .whole) s = .next s) ∧
    (a = .part ∨ (a = .whole ∧ (off % 4 ≠ 0 ∨ ∀ k, k < 3 → dbRange s k = none)) → Gives (.bar4UnmappedWrite off a) s fun t =>
      t = { s with regs := t.regs } ∧ t.reg Reg.HST_DB_MISS = (s.reg Reg.HST_DB_MISS + 1) % 2 ^ 32)) ∧
  (∀ (k : Fin 3) (data : Word) (s : State), let lo := bits data.toNat 11 0
    let hi := lo + dbPages k
    let clash := ∃ j a b, j < 3 ∧ j ≠ k.val ∧ dbRange s j = some (a, b) ∧ lo < b ∧ a < hi
    (bit data.toNat 31 = true → clash ∨ 4096 < hi → Gives (.doorbellBaseWrite k data) s fun t => t = { s with regs := t.regs } ∧
      t.flag Reg.HST_STATUS F.HST_STATUS_DB_OVERLAP = true ∧ ∀ j, j < 3 → dbRange t j = dbRange s j) ∧
    (bit data.toNat 31 = true → ¬ clash → hi ≤ 4096 → Gives (.doorbellBaseWrite k data) s fun t => t = { s with regs := t.regs } ∧
      dbRange t k = some (lo, hi) ∧ ∀ j, j < 3 → j ≠ k.val → dbRange t j = dbRange s j) ∧
    (bit data.toNat 31 = false → Gives (.doorbellBaseWrite k data) s fun t => dbRange t k = none))

/-- R268, R275–R277. FLR, hot reset, a link down and PERST_L return the HST registers, the MSI-X table and the doorbells to reset,
clear Bus Master Enable, set HOSTRESET and touch nothing else. Bus Master Enable and the function mask are as the host writes
them; clearing the mask sends what waits. A masked vector sets its PBA bit and is sent when unmasked; a raise within COAL of the
last message is gathered and sent at its end. Enabling an event queue sets its index and HEAD to 0. A record goes to the next
slot of its ring with the tail line after it, or is LOST when the ring is full. -/
def Obligations.HostPortAndQueues : Prop :=
  (∀ (i : Instr) (kind : Nat) (s : State), (i = .flr ∧ kind = 0) ∨ (i = .hotReset ∧ kind = 1) ∨ (i = .hostLinkDown ∧ kind = 2) ∨
      (i = .perstLAssert ∧ kind = 2) → s.host.merge = none → Gives i s fun t =>
    t.host.bme = false ∧ t.host.linkUp = (s.host.linkUp && kind != 2) ∧ t.host.msix = [] ∧ t.host.funcMask = false ∧
      t.host.apertures = [] ∧ t.host.doorbells = [] ∧ t.host.pcie = s.host.pcie ∧ (∀ v ∈ t.host.pba, v = 0) ∧
      (∀ x ∈ t.host.reads, x.hostLive = false) ∧ (∀ o, 0x2400000 ≤ o → o < 0x2440000 → t.reg o = regReset o) ∧
      (∀ o, o < 0x2400000 ∨ 0x2440000 ≤ o → o ≠ Reg.GLB_SUMMARY → o ≠ Reg.FAR_EV_DROP → o ≠ Reg.CLK_NOTICES →
        t.reg o = s.reg o) ∧
      t.flag Reg.GLB_SUMMARY F.GLB_SUMMARY_HOSTRESET = true ∧ (s.far.events.length < 256 →
        ∃ l, t.far.events = s.far.events ++ s.record Tag.hst 0x0003 Sev.info 0 [kind, 0, 0, 0] :: l ∧
          ∀ e ∈ l, e.tag = Tag.clk ∧ e.code = 0x0003) ∧
      (t.host.linkUp = true → t.hostOpen = false ∧ ∀ d, t.shut 4 d 0 = false) ∧
      (t.host.linkUp = false → t.shut 4 1 0 = true ∧ t.shut 4 3 0 = true) ∧
      ((∀ c ∈ s.clk.closed, c.src ≠ 4) → t.reg Reg.CLK_NOTICES = (s.reg Reg.CLK_NOTICES + 2) % 2 ^ 32) ∧
      t = { s with regs := t.regs, host := t.host, far := t.far, groomLog := t.groomLog, clk := t.clk }) ∧
  (∀ (w : CfgWrite) (speed : Fin 7) (width : Fin 9) (s : State), Gives (.busMasterEnable w speed width) s fun t =>
    (w.funcMask = true ∨ s.host.funcMask = false → t = { s with regs := t.regs, host := t.host, clk := t.clk }) ∧
      (∀ d, t.shut 4 d 0 = false) ∧
      (w.funcMask = false → s.host.funcMask = true → w.bme = true → ∀ v ∈ s.host.pba, (s.msixEntry v).2.2 = false →
        v ∉ t.host.pba ∧ MsixOut s v t) ∧
      t.host.bme = w.bme ∧ t.host.linkUp = true ∧ t.host.funcMask = w.funcMask ∧
      t.flag Reg.HST_STATUS F.HST_STATUS_BME = w.bme ∧ t.fld Reg.HST_STATUS F.HST_STATUS_SPEED = speed ∧
      t.fld Reg.HST_STATUS F.HST_STATUS_WIDTH = width) ∧
  (∀ (v : Fin 2048) (s : State), let e := s.msixEntry v
    Gives (.msixUnmask (some v)) s fun t => t.msixEntry v = (e.1, e.2.1, false) ∧ (∀ w, w ≠ v.val → t.msixEntry w = s.msixEntry w) ∧
      (s.host.funcMask = false → v.val ∈ s.host.pba → v.val ∉ t.host.pba ∧ (s.hostOpen = true → t.out = s.out ++ [.msix v e.1 e.2.1]) ∧
        (s.hostOpen = false → t.out = s.out ∧ t.reg Reg.HST_BLOCKED = (s.reg Reg.HST_BLOCKED + 1) % 2 ^ 32)) ∧
      (s.host.funcMask = true ∨ v.val ∉ s.host.pba → t.host.pba = s.host.pba ∧ t.out = s.out)) ∧
  (∀ s : State, s.hostOpen = true → Gives (.msixUnmask none) s fun t => t.host.funcMask = false ∧
    (∀ v ∈ s.host.pba, (s.msixEntry v).2.2 = false → v ∉ t.host.pba ∧ MsixOut s v t) ∧
    (∀ v ∈ s.host.pba, (s.msixEntry v).2.2 = true → v ∈ t.host.pba) ∧ ∀ v, t.msixEntry v = s.msixEntry v) ∧
  (∀ s : State, s.hostOpen = true → s.host.funcMask = false → Gives .msixCoalesceExpiry s fun t =>
    (∀ v ∈ s.host.gathered, let due := s.host.lastMsg.getD v 0 + s.fld Reg.HST_CTRL F.HST_CTRL_COAL ≤ s.nowHost
      (due → v ∉ t.host.gathered ∧ ((s.msixEntry v).2.2 = false → MsixOut s v t) ∧
        ((s.msixEntry v).2.2 = true → v ∈ t.host.pba)) ∧ (¬ due → v ∈ t.host.gathered)) ∧ t.mem = s.mem) ∧
  (∀ (s : State) (v : Nat), let t := s.msixRaise v
    ((s.msixEntry v).2.2 = true ∨ s.host.funcMask = true → v ∈ t.host.pba ∧ t.out = s.out) ∧
    (∀ x, (s.msixEntry v).2.2 = false → s.host.funcMask = false → s.host.lastMsg.get? v = some x →
      s.nowHost < x + s.fld Reg.HST_CTRL F.HST_CTRL_COAL → v ∈ t.host.gathered ∧ t.out = s.out) ∧
    ((s.msixEntry v).2.2 = false → s.host.funcMask = false → s.host.lastMsg.get? v = none → s.hostOpen = true →
      t.out = s.out ++ [.msix v (s.msixEntry v).1 (s.msixEntry v).2.1] ∧ t.host.lastMsg.get? v = some s.nowHost)) ∧
  (∀ (k : Fin 16) (data : Word) (s : State), let en := s.flag (Reg.HST_EVQ_CTRL k) F.HST_EVQ_CTRL_EN
    Gives (.evqEnable k data) s fun t => t = { s with regs := t.regs, host := t.host } ∧
      t.flag (Reg.HST_EVQ_CTRL k) F.HST_EVQ_CTRL_EN = bit data.toNat 31 ∧
      (en = true → t.fld (Reg.HST_EVQ_CTRL k) F.HST_EVQ_CTRL_LOG2 = s.fld (Reg.HST_EVQ_CTRL k) F.HST_EVQ_CTRL_LOG2 ∧ t.host = s.host) ∧
      (en = false → 6 ≤ bits data.toNat 4 0 → bits data.toNat 4 0 ≤ 16 →
        t.fld (Reg.HST_EVQ_CTRL k) F.HST_EVQ_CTRL_LOG2 = bits data.toNat 4 0) ∧
      (en = false → bit data.toNat 31 = true → t.host.evqIdx.getD k 0 = 0 ∧ t.fld (Reg.HST_EVQ_HEAD k) F.HST_EVQ_HEAD_HEAD = 0)) ∧
  (∀ (k : Fin 16) (e : Event) (s : State), s.flag (Reg.HST_EVQ_CTRL k) F.HST_EVQ_CTRL_EN = true →
    let n := 2 ^ s.fld (Reg.HST_EVQ_CTRL k) F.HST_EVQ_CTRL_LOG2
    let i := s.host.evqIdx.getD k 0
    let b := s.base (Reg.HST_EVQ_BASE_LO k)
    let full := (i + 1) % n = s.fld (Reg.HST_EVQ_HEAD k) F.HST_EVQ_HEAD_HEAD % n
    let t := (evqPut s k e).1
    (full → t.reg (Reg.HST_EVQ_LOST k) = (s.reg (Reg.HST_EVQ_LOST k) + 1) % 2 ^ 32 ∧ t.mem = s.mem ∧
      t.flag (Reg.HST_EVQ_CTRL k) F.HST_EVQ_CTRL_OVF = true ∧ t.flag Reg.GLB_SUMMARY F.GLB_SUMMARY_EVQ_OVF = true) ∧
    (¬ full → t.host.evqIdx.getD k 0 = (i + 1) % n ∧
      (bit b 63 = true → s.hostOpen = true → ∃ l, t.out = s.out ++ [.hostWrite (b % 2 ^ 63 + 32 * i) e.bytes,
        .hostWrite (b % 2 ^ 63 + 32 * n) (padTo 64 (toLE 4 ((i + 1) % n)))] ++ l) ∧
      (bit b 63 = false → b % 64 = 0 → i < n → b + 32 * n + 64 ≤ hbmBytes → LinesGood s b (32 * n + 64) → e.detail.length ≤ 12 →
        6 ≤ s.fld (Reg.HST_EVQ_CTRL k) F.HST_EVQ_CTRL_LOG2 →
        homeRead t (b + 32 * i) 32 = e.bytes ∧ fld (homeRead t (b + 32 * n) 64) 0 4 = (i + 1) % n)))

/-- R279, R283, R285–R288. A finished relock puts ARITH on PLL A at the gait's frequency, or leaves it on PLL B at WALK. CHIP is
released with every CHIP PLL locked and ARITH on PLL B at 1.2 GHz. A crossing that times out closes and is recorded once,
attention and near-memory items of the handle across it get CROSSING_TIMEOUT, and vault commands and host reads across it end;
on a parked crossing there is no time-out (R284). A reset notice closes a crossing once and is counted (R287), and it reopens
only by the handshake. Lost lock of the GROOM PLL resets the groom, which reloads its rules. A lost lock clears the PLL's bit,
counts, raises CLK 0x0002 and has the effect of Table CLK-4. A domain's view of the tick never decreases, reads zero below its
resolution, and is behind by at most Table CLK-7's bound. -/
def Obligations.ClocksAndCrossings : Prop :=
  (∀ (s : State) (f : Nat), s.clk.shift = .relock f → s.held = false → s.clk.stable = .none →
    (s.gait < 3 → gaitFreq s.gait = f → gaitMv s.gait ≤ s.grm.varith → s.tck.finishing = false → Gives .pllRelockComplete s fun t =>
      t = { s with regs := t.regs, clk := t.clk, grm := t.grm } ∧ t.clk.pllA = f ∧ t.clk.shift = .none ∧
        t.fld Reg.CLK_ARITH F.CLK_ARITH_SRC = 0 ∧ t.fld Reg.CLK_ARITH F.CLK_ARITH_FREQ = f ∧ t.grm.varith = gaitMv s.gait) ∧
    (s.gait = 3 → Gives .pllRelockComplete s fun t => t.clk.pllA = f ∧ t.clk.shift = .none ∧
      t.fld Reg.CLK_ARITH F.CLK_ARITH_SRC = 1 ∧ t.fld Reg.CLK_ARITH F.CLK_ARITH_FREQ = 12)) ∧
  (∀ s : State, (s.running = false ∨ s.held = false → exec .chipRelease s = .next s) ∧
    (s.running = true → s.held = true → s.gait = 3 → Gives .chipRelease s fun t =>
      t.held = false ∧ t.running = true ∧ t.tick = s.tick ∧ t.clk.releasedAt = s.now ∧ t.mem = [] ∧ t.marks = [] ∧ t.stalls = [] ∧
        t.ports = [] ∧ t.host = {} ∧ t.htp = {} ∧ t.tck = {} ∧ t.clk.closed = [] ∧ t.role = s.role ∧ t.groomLog = s.groomLog ∧
        t.asy = { svnMin := s.asy.svnMin, keyRevoke := s.asy.keyRevoke } ∧ t.reg Reg.GLB_STRAP = s.reg Reg.GLB_STRAP ∧
        (∀ o, groomReg o = true → t.reg o = s.reg o) ∧
        (∀ o, groomReg o = false → o ∉ [Reg.GLB_STRAP, Reg.GLB_NODE, Reg.CLK_STATUS, Reg.CLK_ARITH, Reg.TCK_STATUS] →
          (∀ p, p < 16 → o ≠ Reg.HLK_CTRL p) → t.reg o = regReset o) ∧
        t.reg Reg.CLK_STATUS % 2 ^ 16 = 0xFFFF ∧ t.fld Reg.CLK_ARITH F.CLK_ARITH_SRC = 1 ∧
        t.fld Reg.CLK_ARITH F.CLK_ARITH_FREQ = 12 ∧ t.fld Reg.TCK_STATUS F.TCK_STATUS_PHASE = 2)) ∧
  (∀ (src dst : Fin 10) (inst : Fin 128) (h : Nat) (s : State), let a := src.val
    let b := dst.val
    let parked := (s.parked = true ∧ (a = 0 ∨ a = 2 ∨ b = 0 ∨ b = 2)) ∨ ((a = 0 ∨ b = 0) ∧ s.stallFailed inst = true)
    let off := s.held = true ∨ a = b ∨ parked ∨ s.clk.closed.any (isCrossing a b inst) = true
    let pair := fun (x y : Nat) => (a = x ∧ b = y) ∨ (a = y ∧ b = x)
    let inStall := fun (n : Nat) => if b = 0 then n = inst.val else 16 * (inst.val % 8) ≤ n ∧ n < 16 * (inst.val % 8) + 16
    (off → exec (.crossingTimeout src dst inst h) s = .next s) ∧
    (¬ off → Gives (.crossingTimeout src dst inst h) s fun t => ⟨src, dst, inst, false⟩ ∈ t.clk.closed ∧ t.shut a b inst = true ∧
      t.flag Reg.CLK_STATUS F.CLK_STATUS_XTMO = true ∧ t.reg Reg.CLK_XTMO_CNT = (s.reg Reg.CLK_XTMO_CNT + 1) % 2 ^ 32 ∧
      t.reg Reg.CLK_XTMO_INFO = (if s.flag Reg.CLK_STATUS F.CLK_STATUS_XTMO then s.reg Reg.CLK_XTMO_INFO
        else src * 2 ^ 28 + dst * 2 ^ 24 + inst * 2 ^ 16) ∧
      (s.far.events.length < 256 → ∃ l, t.far.events = s.far.events ++
        [s.record Tag.clk 0x0001 Sev.contained h [src, dst, inst, 0]] ++ l) ∧
      (a = 0 → t.stallFailed inst = true) ∧
      (a ≠ 0 → a = 2 ∨ b = 2 ∨ b = 0 → s.kvp.edits = [] → (∀ n, (s.work n).appends = []) → ∀ n, inStall n →
        (∀ x ∈ (t.work n).run, At.handle x.item.msg = h → x.status = St.crossingTimeout) ∧
        (h = 0 → ∀ x ∈ (t.stall n).nmuRun, x.ran = true → x.status = St.crossingTimeout)) ∧
      (pair 1 5 → s.pkh.moves = [] → s.pkh.cmds = [] → s.pkh.fills = [] → t.pkh.vault.ops = [] ∧ t.pkh.vault.waiting = []) ∧
      (pair 3 4 → t.host.reads = [] ∧ ∀ x ∈ s.host.reads, x.hostLive = true → .readCompletion x.tag 4 [] ∈ t.out) ∧
      (a ≠ 0 → a ≠ 2 → b ≠ 0 → b ≠ 2 → ¬ pair 1 5 → ¬ pair 1 4 → ¬ pair 3 4 → ¬ pair 1 3 →
        t = { s with regs := t.regs, clk := t.clk, far := t.far, groomLog := t.groomLog }))) ∧
  (∀ (src dst : Fin 10) (inst : Fin 128) (s : State),
    let up := s.clk.closed.any fun c => isCrossing src dst inst c && c.noticed
    (up = true → exec (.resetNotice src dst inst) s = .next s) ∧
    (up = false → Gives (.resetNotice src dst inst) s (fun t =>
      ⟨src, dst, inst, true⟩ ∈ t.clk.closed ∧ t.reg Reg.CLK_NOTICES = (s.reg Reg.CLK_NOTICES + 1) % 2 ^ 32 ∧
      t = { s with regs := t.regs, clk := t.clk, far := t.far, groomLog := t.groomLog } ∧ (s.far.events.length < 256 →
        t.far.events = s.far.events ++ [s.record Tag.clk 0x0003 Sev.info 0 [src, inst, dst, 0]]))) ∧
    Gives (.crossingReopen src dst inst) s (fun t => t = { s with clk := t.clk } ∧
      ∀ c : Closed, c ∈ t.clk.closed ↔ c ∈ s.clk.closed ∧ ¬ (isCrossing src dst inst c = true ∧ c.noticed = true))) ∧
  (∀ (p : Pll) (s : State), s.held = true → p ≠ .groom → exec (.pllLockLoss p) s = .next s) ∧
  (∀ (p : Pll) (s : State), s.held = false → pllFatal p = true → s.grm.rails = .on → Gives (.pllLockLoss p) s fun t =>
    t.held = true ∧ t.grm.rails = .falling 9 ∧ t.flag Reg.PWR_STATUS F.PWR_STATUS_SHUTDOWN = true ∧
      t.fld Reg.PWR_STATUS F.PWR_STATUS_CAUSE = 6 ∧
      ∃ e ∈ t.groomLog, e.tag = Tag.clk ∧ e.code = 0x0002 ∧ e.sev = Sev.fatal ∧
        e.detail = padTo 12 ([(pllPlace p).1, (pllPlace p).2.1].map (BitVec.ofNat 8))) ∧
  (∀ (p : Pll) (s : State) (i : Nat), s.held = false → pllFatal p = false → p ≠ .groom → Gives (.pllLockLoss p) s fun t =>
    t.flag Reg.CLK_STATUS F.CLK_STATUS_LOCK_LOST = true ∧ t.reg Reg.CLK_LOCK_LOSS = (s.reg Reg.CLK_LOCK_LOSS + 1) % 2 ^ 32 ∧
      ((pllPlace p).2.2 = some i → bit (t.reg Reg.CLK_STATUS) i = false) ∧
      (s.far.events.length < 256 → ∃ l, t.far.events = s.far.events ++
        [s.record Tag.clk 0x0002 Sev.degraded 0 [(pllPlace p).1, (pllPlace p).2.1, 0, 0]] ++ l) ∧
      (∀ k, p = .stable k → ⟨2, 1, k, false⟩ ∈ t.clk.closed ∧ ⟨1, 2, k, false⟩ ∈ t.clk.closed ∧
        ∀ n, 16 * k.val ≤ n → n < 16 * k + 16 → t.stallFailed n = true) ∧
      (p = .host → t.host.linkUp = false ∧ t.host.bme = false ∧ t.flag Reg.GLB_SUMMARY F.GLB_SUMMARY_HOSTRESET = true) ∧
      (p = .vault → vaultIs t Vs.absent) ∧
      (∀ q, p = .harnessTx q → (s.port q).state ≠ .disabled → (t.port q).state = .detect)) ∧
  (∀ s : State, (s.grm.shadow.map (·.1)).Nodup →
    (∀ x ∈ s.grm.shadow, Reg.GRM_RULE_CFG 0 ≤ x.1 ∧ x.1 < Reg.GRM_RULE_CFG 32) → Gives (.pllLockLoss .groom) s fun t =>
      t.held = s.held ∧ t.gait = s.gait ∧ t.browned = s.browned ∧ t.flag Reg.CLK_STATUS F.CLK_STATUS_GROOM = true ∧
        ((∀ c ∈ s.clk.closed, c.src ≠ 7) → t.reg Reg.CLK_NOTICES = (s.reg Reg.CLK_NOTICES + 1) % 2 ^ 32) ∧
        (∀ c ∈ t.clk.closed, c.src ≠ 7 ∧ c.dst ≠ 7) ∧ t.grm.samples = [] ∧ t.grm.filters = [] ∧ t.reg Reg.GRM_ASSERTED = 0 ∧ t.grm.shadow = s.grm.shadow ∧
        ∀ x ∈ s.grm.shadow, t.reg x.1 = x.2.toNat) ∧
  (∀ s : State, s.shut 4 1 0 = false → Gives .tickSnapshotRead s fun t => t = { s with regs := t.regs, out := t.out } ∧
    t.out = s.out ++ [.readCompletion 0 0 (toLE 4 (s.tick.toNat % 2 ^ 32))] ∧ t.reg Reg.GLB_TICK_HI = s.tick.toNat / 2 ^ 32) ∧
  (∀ dom a b : Nat, a ≤ b → tickView dom a ≤ tickView dom b ∧ tickView dom a ≤ a ∧ a ≤ tickView dom a + viewStep dom + viewLate dom ∧
    tickView dom a % viewStep dom = 0)

/-- R290–R292, R296, R297, R301–R306. NC_RESET_L samples the straps and starts phase 1, or finds a strap fault; its fall resets CHIP
and keeps the groom and the fuses. HBM initialisation leaves memory zero. The preamble is checked in the order of Table TCK-5
and the first failure gives ERR; steps 3 to 5 do not stop an unsecured module. The sections are staged and digested, then every
record is checked, and records take effect as whole-dword writes. A WAIT is asked again until its TIMEOUT. After the last
section the node, the lock, the stalls, the gait and, with VARITH and PLL A there, READY follow. START is taken only where phase
3 waits for the host or after a failure in phases 3 to 5. -/
def Obligations.StartUp : Prop :=
  (∀ (x : Straps) (ns : Nat) (s : State), (s.grm.resetHigh = true → exec (.ncResetLRise x ns) s = .next s) ∧
    (s.grm.resetHigh = false → s.grm.strapFault = false → s.grm.rails ≠ .on ∨ ns < 1000000 →
      exec (.ncResetLRise x ns) s = .next (s.updGrm fun g => { g with resetHigh := true })) ∧
    (let role := (x.role.getD 3).val
    let tack := (x.tack.getD 0).val
    let node := (x.node.getD 0).val
    let secure := b2n (x.secure.getD true)
    let gait := (x.gait.getD 3).val
    let links := x.links.getD true
    let word := fun (t : State) => ∀ f v, (f, v) ∈ [(F.GLB_STRAP_ROLE, role), (F.GLB_STRAP_NODE, node), (F.GLB_STRAP_TACK, tack),
      (F.GLB_STRAP_SECURE, secure), (F.GLB_STRAP_GAIT, gait), (F.GLB_STRAP_MGMT, (x.mgmt.getD 0).val),
      (F.GLB_STRAP_LINKS, b2n links), (F.GLB_STRAP_EFF_LINKS, b2n links), (F.GLB_STRAP_EFF_GAIT, gait)] → t.fld Reg.GLB_STRAP f = v
    s.grm.resetHigh = false → s.grm.strapFault = true ∨ (s.grm.rails = .on ∧ 1000000 ≤ ns) →
      (role = 3 ∨ tack = 3 → s.held = true → Gives (.ncResetLRise x ns) s fun t => t.held = true ∧ t.running = s.running ∧
        t.grm.strapFault = true ∧ t.alert = true ∧ word t ∧ t.mem = s.mem ∧
        (s.grm.rails = .on → t.grm.rails = .falling 9 ∧ .pin "MOD_PWRGD" false ∈ t.out) ∧
        (s.grm.rails ≠ .on → t.grm.rails = s.grm.rails) ∧
        t.groomLog = (s.record Tag.grm 0x0003 Sev.fatal 0 [role, tack, 0, 0] :: s.groomLog).take 64) ∧
      (role ≠ 3 → tack ≠ 3 → Gives (.ncResetLRise x ns) s fun t => t.role = role ∧ word t ∧ t.held = s.held ∧ t.mem = s.mem ∧
        t.grm.rails = s.grm.rails ∧ t.grm.strapFault = false ∧
        (s.grm.strapFault = true → t.running = s.running ∧ t.tick = s.tick) ∧
        (s.grm.strapFault = false → t.running = true ∧ t.tick = 0 ∧ t.phase = 1 ∧ t.fld Reg.GLB_NODE F.GLB_NODE_STRAP = node ∧
          ∀ p, p < 16 → t.flag (Reg.HLK_CTRL p) F.HLK_CTRL_EN = (decide (p < 4) || !links))))) ∧
  (∀ s : State, (s.grm.resetHigh = false → exec .ncResetLAssert s = .next s) ∧
    (s.grm.resetHigh = true → Gives .ncResetLAssert s fun t => t.held = true ∧ t.running = false ∧ t.mem = [] ∧ t.marks = [] ∧
      t.stalls = [] ∧ t.ports = [] ∧ t.htp = {} ∧ t.ldg = {} ∧ t.tem = {} ∧ t.host = {} ∧
      t.asy = { svnMin := s.asy.svnMin, keyRevoke := s.asy.keyRevoke } ∧ t.grm.resetHigh = false ∧
      t.grm.strapFault = s.grm.strapFault ∧ t.role = State.reset.role ∧
      t.fld Reg.PWR_GAIT F.PWR_GAIT_REQ = 3 ∧ t.grm.rails = s.grm.rails ∧ t.grm.filters = s.grm.filters ∧
      (∀ o, groomReg o = false → t.reg o = regReset o) ∧
      (∀ o, groomReg o = true → o ≠ Reg.PWR_GAIT → o ≠ Reg.PWR_STATUS → o ≠ Reg.PWR_GAIT_CHANGES → t.reg o = s.reg o))) ∧
  (∀ s : State, (s.held = true ∨ s.tck.hbmReady = true → exec .hbmInitComplete s = .next s) ∧
    (s.held = false → s.tck.hbmReady = false → Gives .hbmInitComplete s fun t => t.tck.hbmReady = true ∧
      t = { s with mem := [], marks := [], tck := t.tck } ∧ ∀ a, t.mem.byte a = 0)) ∧
  (∀ (x : HostRead) (s : State), (s.phase ≠ 3 ∨ s.tck.reading = false → exec (.preambleReadComplete x) s = .next s) ∧
    (s.phase = 3 → s.tck.reading = true → SourceOpen s → let run := fun (P : State → Prop) => Gives (.preambleReadComplete x) s P
      ((∀ bs, x ≠ .data bs) → run fun t => Failed s 10 true t ∧ t = { s with regs := t.regs, tck := t.tck }) ∧
      (∀ bs, x = .data bs → let h := padTo 5632 bs
        (headerOk h = false → run (Failed s 1 true)) ∧
        (∀ c, headerOk h = true → lengthCheck s h false = c → c ≠ 0 → run (Failed s c true)) ∧
        (headerOk h = true → lengthCheck s h false = 0 → s.secure = true →
          (keyOk s h = false → run (Failed s 3 true)) ∧ (keyOk s h = true → svnOk s h = false → run (Failed s 4 true)) ∧
          (keyOk s h = true → svnOk s h = true → sigGood h = false → run (Failed s 5 true))) ∧
        (∀ k, headerOk h = true → lengthCheck s h false = 0 → ChecksPass s h → directoryBad h = some k →
          run fun t => Failed s 6 true t ∧ t.fld Reg.TCK_FAIL_INFO F.TCK_FAIL_INFO_ENTRY = k) ∧
        (headerOk h = true → lengthCheck s h false = 0 → ChecksPass s h → directoryBad h = none → run fun t =>
          t.phase = 4 ∧ t.tck.preamble = h ∧ t = { s with regs := t.regs, tck := t.tck } ∧
          t.flag Reg.TCK_STATUS F.TCK_STATUS_KEY_OK = keyOk s h ∧ t.flag Reg.TCK_STATUS F.TCK_STATUS_SVN_OK = svnOk s h ∧
          t.flag Reg.TCK_STATUS F.TCK_STATUS_SIG_OK = sigGood h ∧ t.reg Reg.TCK_SVN = Tk.svn h ∧
          t.flag Reg.TCK_STATUS F.TCK_STATUS_UNSIGNED = !(keyOk s h && svnOk s h && sigGood h) ∧
          t.fld Reg.GLB_STRAP F.GLB_STRAP_EFF_GAIT =
            (if Tk.ovrGait h then Tk.gait h else s.fld Reg.GLB_STRAP F.GLB_STRAP_EFF_GAIT) ∧
          (Tk.ovrLinks h = true → t.fld Reg.GLB_STRAP F.GLB_STRAP_EFF_LINKS = Tk.links h ∧
            ∀ p, 4 ≤ p → p < 16 → t.flag (Reg.HLK_CTRL p) F.HLK_CTRL_EN = (Tk.links h == 0)) ∧
          (Tk.ovrLinks h = false → ∀ p, p < 16 → t.reg (Reg.HLK_CTRL p) = s.reg (Reg.HLK_CTRL p)))))) ∧
  (∀ (x : HostRead) (s : State), let h := s.tck.preamble
    (s.phase ≠ 4 ∨ s.tck.hbmReady = false ∨ s.tck.reading = false → exec (.fetchComplete x) s = .next s) ∧
    (s.phase = 4 → s.tck.hbmReady = true → s.tck.reading = true → SourceOpen s →
      ((∀ bs, x ≠ .data bs) → Gives (.fetchComplete x) s fun t => Failed s 10 true t ∧ t.mem = s.mem) ∧
      (∀ bs, x = .data bs → h.length = 5632 → 5632 ≤ Tk.imageLen h → Tk.imageLen h ≤ 2 ^ 28 → bs.length = Tk.imageLen h - 5632 →
        LinesGood s stageBase (Tk.imageLen h) → (∀ e ∈ usedEntries h, Tk.offset e.2 + Tk.length e.2 ≤ Tk.imageLen h) →
        let bad := fun (e : Nat × Bytes) => sha512 (slice (h ++ bs) (Tk.offset e.2) (Tk.length e.2)) != Tk.digest e.2
        ((∀ e ∈ usedEntries h, bad e = false) → Gives (.fetchComplete x) s fun t => t.phase = 5 ∧ t.tck.reading = false ∧
          homeRead t stageBase (Tk.imageLen h) = h ++ bs ∧ SameOutside s stageBase (Tk.imageLen h) t) ∧
        (∀ k e, (usedEntries h).find? bad = some (k, e) → Gives (.fetchComplete x) s fun t => Failed s 7 true t ∧
          t.fld Reg.TCK_FAIL_INFO F.TCK_FAIL_INFO_ENTRY = k)))) ∧
  (∀ s : State, let es := usedEntries s.tck.preamble
    (s.phase ≠ 5 → exec .checkComplete s = .next s) ∧
    (∀ k e o, s.phase = 5 → es.find? (fun e => (sectionBad s e.2 (stageBase + Tk.offset e.2)).isSome) = some (k, e) →
      sectionBad s e (stageBase + Tk.offset e) = some o → Gives .checkComplete s fun t => Failed s 8 true t ∧
        t.fld Reg.TCK_FAIL_INFO F.TCK_FAIL_INFO_ENTRY = k ∧ t.mem = s.mem ∧ t = { s with regs := t.regs, tck := t.tck }) ∧
    (∀ (e : Bytes) (a d : Nat), s.parked = false → s.phase = 5 → es = [(0, e)] → Tk.type e = Tag.far → Tk.length e = 40 → a % 4 = 0 → 0x400000 ≤ a →
      a < 0x500000 → d < 2 ^ 32 → (∀ p, (s.port p).state = .disabled) →
      Memory.read s.mem (stageBase + Tk.offset e) 40 = toLE 4 1 ++ toLE 4 1 ++ toLE 8 a ++ toLE 8 d ++ zeros 16 →
      Gives .checkComplete s fun t => t.phase = 6 ∧ t.reg a = (s.rawWrite a d).reg a ∧ t.mem = s.mem ∧ t.tck.todo = [] ∧
        t.reg Reg.TCK_SECT_APPLIED = (s.reg Reg.TCK_SECT_APPLIED + 1) % 2 ^ 32 ∧ t.tck.portsHeld = false ∧
        ∀ p, p < 16 → (t.port p).state = (if s.flag (Reg.HLK_CTRL p) F.HLK_CTRL_EN then .detect else .disabled))) ∧
  (∀ (s : State) (x : TackSect) (t0 : Nat), let o := x.at' + s.tck.recAt
    let r := Memory.read s.mem o 16
    let p := Memory.read s.mem (o + 16) 16
    (s.tck.waitAt = none → exec .tackWaitMet s = .next s ∧ exec .tackWaitTimeout s = .next s) ∧
    (s.tck.waitAt = some t0 → s.tck.todo = [x] → Tk.kind r = 6 →
      (waitMet s r p = false → exec .tackWaitMet s = .next s) ∧
      (waitMet s r p = true → s.parked = false → Memory.read s.mem (o + 32) 16 = zeros 16 → 24 ≤ Tk.length x.desc → s.tck.reload = false →
        Gives .tackWaitMet s fun t => t.tck.todo = [] ∧ t.tck.waitAt = none ∧ t.mem = s.mem ∧ t.tck.portsHeld = false ∧
          t.reg Reg.TCK_SECT_APPLIED = (s.reg Reg.TCK_SECT_APPLIED + 1) % 2 ^ 32) ∧
      (s.now < t0 + 1000 * fld p 8 4 ∨ waitMet s r p = true → exec .tackWaitTimeout s = .next s) ∧
      (t0 + 1000 * fld p 8 4 ≤ s.now → waitMet s r p = false →
        (s.tck.reload = false → Gives .tackWaitTimeout s fun t => Failed s 9 false t ∧ t.mem = s.mem ∧
          (x.entry < 32 → t.fld Reg.TCK_FAIL_INFO F.TCK_FAIL_INFO_ENTRY = x.entry) ∧ t.ports = s.ports) ∧
        (s.tck.reload = true → Gives .tackWaitTimeout s (ReloadFails s 9 x.entry (Tk.type x.desc) (Tk.inst x.desc)))))) ∧
  (∀ s : State, let laid := withdrawReserved (s.setFld Reg.GLB_NODE F.GLB_NODE_IMAGE (Tk.nodeLo s.tck.preamble))
    (s.phase ≠ 6 ∨ s.tck.todo ≠ [] → exec .applyComplete s = .next s) ∧
    (s.phase = 6 → s.tck.todo = [] → s.tck.finishing = false → layoutOk laid = false → Gives .applyComplete s fun t => Failed s 16 false t ∧
      t.mem = s.mem ∧ ∀ p, p < 16 → (t.port p).state = .disabled) ∧
    (s.phase = 6 → s.tck.todo = [] → s.tck.finishing = false → s.held = false → layoutOk laid = true → Gives .applyComplete s fun t =>
      t.fld Reg.GLB_NODE F.GLB_NODE_IMAGE = Tk.nodeLo s.tck.preamble ∧ t.locked = true ∧
        (∀ n, n < 128 → (t.stall n).service ≠ .outOfService) ∧
        t.fld Reg.PWR_GAIT F.PWR_GAIT_REQ = s.fld Reg.GLB_STRAP F.GLB_STRAP_EFF_GAIT ∧ (t.clk.shift = .none → Serves t) ∧
        (t.clk.shift ≠ .none → t.tck.finishing = true ∧ t.ready = s.ready ∧ t.phase = 6))) ∧
  (∀ (c : Instr) (s : State), s.tck.finishing = true →
    c = .varithRampComplete ∨ c = .pllRelockComplete ∨ (c = .applyComplete ∧ s.phase = 6 ∧ s.tck.todo = []) →
    Gives c s fun t => (t.clk.shift = .none → Serves t) ∧ (t.clk.shift ≠ .none → t.tck = s.tck ∧ t.far = s.far ∧
      t.ready = s.ready ∧ t.phase = s.phase)) ∧
  (∀ (data : Word) (s : State), let taken := bit data.toNat 31 = true ∧ bits data.toNat 1 0 = 1 ∧
      ((s.phase = 3 ∧ s.fld Reg.GLB_STRAP F.GLB_STRAP_TACK = 2 ∧ s.tck.reading = false) ∨ (s.phase = 15 ∧ s.tck.retry = true))
    (taken → Gives (.tckStart data) s fun t => t.phase = 3 ∧ t.tck.reading = true ∧ t.tck.source = 1 ∧
      t.flag Reg.TCK_STATUS F.TCK_STATUS_BUSY = true ∧ t.flag Reg.GLB_SUMMARY F.GLB_SUMMARY_TACK_FAIL = false ∧
      t = { s with regs := t.regs, tck := t.tck }) ∧
    (¬ taken → Gives (.tckStart data) s fun t => t = { s with regs := t.regs } ∧ ∀ o, o ≠ Reg.TCK_CTRL → t.reg o = s.reg o))

/-- R307, R309. RELOAD while BUSY, before READY or with SRC 3 is ignored. It verifies the image by steps 1 to 6 without taking its
overrides, checks the selected entries for LIVE, size and VERSION, stages and checks them, and only then applies them. An error
sets RERR and DONE, is counted, raises TCK 0x0002 and has applied nothing. While HBM is parked a good selection waits, BUSY
(R284). A section applied fills its TCK_SECT slot and raises TCK 0x0001. -/
def Obligations.LiveReload : Prop :=
  (∀ (data : Word) (x : HostRead) (s : State), bit data.toNat 30 = false ∨ bits data.toNat 1 0 = 3 ∨ s.ready = false ∨
      s.flag Reg.TCK_STATUS F.TCK_STATUS_BUSY = true → Gives (.tckReload data x) s fun t => t = { s with regs := t.regs } ∧
    ∀ o, o ≠ Reg.TCK_CTRL → t.reg o = s.reg o) ∧
  (∀ (data : Word) (x : HostRead) (s : State), bit data.toNat 30 = true → s.ready = true →
    s.flag Reg.TCK_STATUS F.TCK_STATUS_BUSY = false → bits data.toNat 1 0 < 2 → (bits data.toNat 1 0 = 1 → s.hostOpen = true) →
    ((∀ bs, x ≠ .data bs) → Gives (.tckReload data x) s (ReloadFails s 10 0 0 0)) ∧
    (∀ img, x = .data img → let h := slice img 0 5632
      let sel := ((List.range 32).filter fun k => bit (s.reg Reg.TCK_SEL) k).map fun k => (k, Tk.entry h k)
      let good := headerOk h = true ∧ lengthCheck s h true = 0 ∧ ChecksPass s h ∧ directoryBad h = none
      (headerOk h = false → Gives (.tckReload data x) s (ReloadFails s 1 0 0 0)) ∧
      (∀ c, headerOk h = true → lengthCheck s h true = c → c ≠ 0 → Gives (.tckReload data x) s (ReloadFails s c 0 0 0)) ∧
      (∀ c k, good → selectionBad s (Tk.nsect h) sel = some (c, k) → Gives (.tckReload data x) s fun t =>
        ReloadFails s c k (Tk.type (Tk.entry h k)) (Tk.inst (Tk.entry h k)) t ∧
          t.reg Reg.GLB_STRAP = s.reg Reg.GLB_STRAP ∧ t.fld Reg.TCK_FAIL_INFO F.TCK_FAIL_INFO_ENTRY = k) ∧
      (good → selectionBad s (Tk.nsect h) sel = none → s.parked = true → Gives (.tckReload data x) s fun t =>
        t.tck.reloadWait = some (bits data.toNat 1 0, x) ∧ t.flag Reg.TCK_STATUS F.TCK_STATUS_BUSY = true ∧ t.mem = s.mem ∧
          t.tck.todo = s.tck.todo ∧ t.reg Reg.TCK_SECT_APPLIED = s.reg Reg.TCK_SECT_APPLIED) ∧
      (∀ k e, good → sel = [(k, e)] → k < 32 → selectionBad s (Tk.nsect h) sel = none → s.parked = false → Tk.length e = 16 →
        slice img (Tk.offset e) 16 = zeros 16 → LinesGood s reloadBase 64 →
        (sha512 (zeros 16) ≠ Tk.digest e → Gives (.tckReload data x) s fun t => t.flag Reg.TCK_STATUS F.TCK_STATUS_DONE = true ∧
          t.fld Reg.TCK_STATUS F.TCK_STATUS_RERR = 7 ∧ t.reg Reg.TCK_SECT_APPLIED = s.reg Reg.TCK_SECT_APPLIED) ∧
        (sha512 (zeros 16) = Tk.digest e → Gives (.tckReload data x) s fun t => t.flag Reg.TCK_STATUS F.TCK_STATUS_DONE = true ∧
          t.fld Reg.TCK_STATUS F.TCK_STATUS_RERR = 0 ∧ t.flag Reg.TCK_STATUS F.TCK_STATUS_BUSY = false ∧
          t.reg Reg.TCK_RELOADS = (s.reg Reg.TCK_RELOADS + 1) % 2 ^ 32 ∧
          t.reg Reg.TCK_SECT_APPLIED = (s.reg Reg.TCK_SECT_APPLIED + 1) % 2 ^ 32 ∧ SameOutside s reloadBase 64 t ∧
          (∃ j, j < 32 ∧ t.flag (Reg.TCK_SECT_INFO j) F.TCK_SECT_INFO_VALID = true ∧
            t.fld (Reg.TCK_SECT_INFO j) F.TCK_SECT_INFO_TYPE = Tk.type e ∧ t.fld (Reg.TCK_SECT_INFO j) F.TCK_SECT_INFO_INST = Tk.inst e ∧
            t.reg (Reg.TCK_SECT_VERSION j) = Tk.version e) ∧ t.reg Reg.GLB_STRAP = s.reg Reg.GLB_STRAP ∧
          (s.far.events.length < 256 → t.far.events = s.far.events ++ [s.record Tag.tck 0x0001 Sev.info 0
            ([Tk.type e, Tk.inst e, 0, 0] ++ (toLE 4 (Tk.version e)).map (·.toNat))])))))

/-- R310–R313, R320, R321. 30 V brings the groom up with rails 0 and 1, and their loss takes it down with all it held. The start
level begins the rails, each enabled after the one before is good, and the last releases MOD_PWRGD. A rail fault, an input outside
its limits, a fixed thermal limit, or a mesh fault is a controlled shutdown: CHIP reset, PWR 0x0003 in the log, MGMT_ALERT_L,
rails 9 to 2 off in turn, and a hold that R313 ends. -/
def Obligations.PowerAndRails : Prop :=
  (∀ s : State, (s.grm.up = true → exec .groomPowerUp s = .next s) ∧ (s.grm.up = false → exec .groomPowerLoss s = .next s) ∧
    (s.grm.up = false → Gives .groomPowerUp s fun t => t = { s with regs := t.regs, grm := t.grm } ∧
      t.grm = { s.grm with up := true } ∧ t.fld Reg.PWR_STATUS F.PWR_STATUS_RAIL_PG = 3) ∧
    (s.grm.up = true → Gives .groomPowerLoss s fun t => t.grm = { up := false, resetHigh := s.grm.resetHigh } ∧ t.held = true ∧
      t.mem = [] ∧ t.groomLog = [] ∧ t.fld Reg.PWR_STATUS F.PWR_STATUS_RAIL_PG = 0 ∧
      t.asy = { svnMin := s.asy.svnMin, keyRevoke := s.asy.keyRevoke } ∧ ∀ o, o ≠ Reg.PWR_STATUS → t.reg o = regReset o)) ∧
  (∀ (input : Nat) (s : State),
    let may := s.grm.up = true ∧ s.grm.rails = .off ∧ s.grm.hold = false ∧ s.grm.strapFault = false ∧
      max 4000 (10 * s.fld Reg.PWR_BROWN F.PWR_BROWN_RESET + 200) ≤ input
    (may → exec (.inputStartLevel input) s = .next (s.updGrm fun g => { g with rails := .rising 2 })) ∧
    (¬ may → exec (.inputStartLevel input) s = .next s)) ∧
  (∀ (r : Fin 10) (s : State), let pg := s.fld Reg.PWR_STATUS F.PWR_STATUS_RAIL_PG
    (s.grm.rails ≠ .rising r → exec (.railPowerGood r) s = .next s) ∧
    (s.grm.rails = .rising r → Gives (.railPowerGood r) s fun t => t.fld Reg.PWR_STATUS F.PWR_STATUS_RAIL_PG = setBits pg r r 1 ∧
      ((∀ i, 2 ≤ i → i < 10 → i = r.val ∨ bit pg i = true) → t.grm.rails = .on ∧ t.out = s.out ++ [.pin "MOD_PWRGD" true]) ∧
      (∀ k, 2 ≤ k → k < 10 → k ≠ r.val → bit pg k = false → (∀ i, 2 ≤ i → i < k → i = r.val ∨ bit pg i = true) →
        t.grm.rails = .rising k ∧ t.out = s.out))) ∧
  (∀ (r : Fin 10) (input : Nat) (s : State), (s.grm.rails ≠ .on ∨ r.val < 2 → exec (.railFault r input) s = .next s) ∧
    (s.grm.rails = .on → 2 ≤ r.val → Gives (.railFault r input) s fun t => ShutDown s 3 r input t ∧
      bit (t.fld Reg.PWR_STATUS F.PWR_STATUS_RAIL_PG) r = false)) ∧
  (∀ (k : Nat) (s : State), ((∀ j, s.grm.rails ≠ .falling j) → exec .railDisableStep s = .next s) ∧
    (s.grm.rails = .falling k → k < 10 → Gives .railDisableStep s fun t => t = { s with regs := t.regs, grm := t.grm } ∧
      t.grm.rails = (if k ≤ 2 then .off else .falling (k - 1)) ∧
      t.fld Reg.PWR_STATUS F.PWR_STATUS_RAIL_PG = setBits (s.fld Reg.PWR_STATUS F.PWR_STATUS_RAIL_PG) k k 0)) ∧
  (∀ (low inp : Nat) (s : State),
    let may := s.grm.up = true ∧ s.grm.hold = true ∧ s.grm.rails = .off ∧ 10000 ≤ low ∧ 10000000 ≤ inp ∧
      (∀ i, i < 32 → s.sample i < 1680) ∧ (∀ i, 32 ≤ i → i < 40 → s.sample i < 1520) ∧ s.sample 57 < 1760
    (may → exec (.shutdownHoldRelease low inp) s = .next (s.updGrm fun g => { g with hold := false, rails := .rising 2 })) ∧
    (¬ may → exec (.shutdownHoldRelease low inp) s = .next s)) ∧
  (∀ (input : Nat) (s : State), let under := input < 10 * s.fld Reg.PWR_BROWN F.PWR_BROWN_RESET
    (¬ under ∨ ¬ RailsUp s → exec (.undervoltage input) s = .next s) ∧
    (under → RailsUp s → Gives (.undervoltage input) s (ShutDown s 1 0 input)) ∧
    (input ≤ 6100 ∨ ¬ RailsUp s → exec (.overvoltage input) s = .next s) ∧
    (6100 < input → RailsUp s → Gives (.overvoltage input) s (ShutDown s 2 0 input))) ∧
  (∀ s : State, let trip := s.grm.overs.find? fun x => decide (10 ≤ x.2)
    (trip = none → exec .thermalTrip s = .next s) ∧
    (∀ i c, trip = some (i, c) → RailsUp s → Gives .thermalTrip s (ShutDown s 4 i (s.sample 40).toNat))) ∧
  (∀ (k : Fin 128) (port : Fin 5) (s : State), RailsUp s → Gives (.meshRouterFault k port) s fun t =>
    (∃ c, ShutDown s c 0 (s.sample 40).toNat t) ∧
      ∃ e ∈ t.groomLog, e.tag = Tag.stl ∧ e.code = 0x0004 ∧ e.sev = Sev.fatal ∧ e.subject = k)

/-- R279, R314–R319, R322–R325. A request, a rule cap or a hold re-evaluates the gait: the slowest of the three, its change counted
and logged, WALK taken on PLL B at once, a faster gait after VARITH and PLL A. STABLED is entered when nothing runs and left
with ARITH at the gait in force. A brown-out holds WALK with VARITH unchanged, and its end, 50 us above RECOVER = WARN + HYST,
restores the gait. A sample period takes all 64 samples, filters them, and asserts and clears the enabled rules, which then act:
SHUTDOWN, caps and throttles, WAKE. -/
def Obligations.GaitsAndRules : Prop :=
  (∀ (data : Word) (s : State), let g := bits data.toNat 2 0
    let new := max g (max (ruleCap s) (if s.browned then 3 else 0))
    (4 < g ∨ s.held = true → Gives (.gaitRequest data) s fun t => t = { s with regs := t.regs } ∧
      t.fld Reg.PWR_GAIT F.PWR_GAIT_REQ = s.fld Reg.PWR_GAIT F.PWR_GAIT_REQ ∧
      t.flag Reg.PWR_GAIT F.PWR_GAIT_MGMT_EN = bit data.toNat 11 ∧
      (bits data.toNat 10 8 ≤ 3 → t.fld Reg.PWR_GAIT F.PWR_GAIT_WAKE_GAIT = bits data.toNat 10 8)) ∧
    (g ≤ 4 → ClockQuiet s → NothingHeld s → Gives (.gaitRequest data) s fun t => t.fld Reg.PWR_GAIT F.PWR_GAIT_REQ = g ∧
      GaitIs s new 0 t ∧ t.mem = s.mem ∧ t.fld Reg.PWR_STATUS F.PWR_STATUS_THR = throttleK s % 32 ∧
      (new = 4 → t.clk.stable = .entering) ∧
      (3 ≤ new → t.fld Reg.CLK_ARITH F.CLK_ARITH_SRC = 1 ∧ t.fld Reg.CLK_ARITH F.CLK_ARITH_FREQ = 12) ∧
      (new < 3 → s.grm.varith < gaitMv new → t.clk.shift = .ramp) ∧
      (new < 3 → gaitMv new ≤ s.grm.varith → s.clk.pllA = gaitFreq new → t.fld Reg.CLK_ARITH F.CLK_ARITH_SRC = 0 ∧
        t.fld Reg.CLK_ARITH F.CLK_ARITH_FREQ = gaitFreq new ∧ t.grm.varith = gaitMv new) ∧
      (new < 3 → gaitMv new ≤ s.grm.varith → s.clk.pllA ≠ gaitFreq new → t.clk.shift = .relock (gaitFreq new) ∧
        t.fld Reg.CLK_ARITH F.CLK_ARITH_SRC = 1 ∧ t.fld Reg.CLK_ARITH F.CLK_ARITH_FREQ = 12))) ∧
  (∀ s : State, s.tck.finishing = false → (s.clk.shift ≠ .ramp → exec .varithRampComplete s = .next s) ∧
    (s.clk.shift = .ramp → s.held = false → s.clk.stable = .none → s.gait < 3 → Gives .varithRampComplete s fun t =>
      t.grm.varith = gaitMv s.gait ∧ t = { s with regs := t.regs, clk := t.clk, grm := t.grm } ∧
      (s.clk.pllA = gaitFreq s.gait → t.clk.shift = .none ∧ t.fld Reg.CLK_ARITH F.CLK_ARITH_FREQ = gaitFreq s.gait) ∧
      (s.clk.pllA ≠ gaitFreq s.gait → t.clk.shift = .relock (gaitFreq s.gait)))) ∧
  (∀ s : State, (s.clk.stable ≠ .entering ∨ nothingRuns s = false → exec .stabledEntryComplete s = .next s) ∧
    (s.clk.stable = .entering → nothingRuns s = true → (∀ p, (s.port p).state ≠ .up) → Gives .stabledEntryComplete s fun t =>
      t.clk.stable = .stabled ∧ t.flag Reg.CLK_ARITH F.CLK_ARITH_PARKED = true ∧ t.fld Reg.CLK_ARITH F.CLK_ARITH_FREQ = 0 ∧
        t.grm.varith = 550 ∧ t.mem = s.mem) ∧
    (s.clk.stable ≠ .exiting → exec .stabledExitComplete s = .next s) ∧
    (s.clk.stable = .exiting → s.held = false → s.clk.shift = .none → s.htp.parked = [] → NothingHeld s → s.gait ≤ 3 →
      s.tck.reloadWait = none → s.tck.todo = [] →
      Gives .stabledExitComplete s fun t => t.clk.stable = .none ∧ t.flag Reg.CLK_ARITH F.CLK_ARITH_PARKED = false ∧
        t.fld Reg.CLK_ARITH F.CLK_ARITH_FREQ = gaitFreq s.gait ∧ t.grm.varith = gaitMv s.gait ∧ t.mem = s.mem ∧
        t.fld Reg.CLK_ARITH F.CLK_ARITH_SRC = (if s.gait = 3 then 1 else 0))) ∧
  (∀ (input : Nat) (s : State), let low := input < 10 * s.fld Reg.PWR_BROWN F.PWR_BROWN_WARN
    let new := max (s.fld Reg.PWR_GAIT F.PWR_GAIT_REQ) (max (ruleCap s) 3)
    (s.grm.up = false ∨ s.browned = true ∨ ¬ low → exec (.brownoutWarn input) s = .next s) ∧
    (s.grm.up = true → s.browned = false → low → ClockQuiet s → NothingHeld s → Gives (.brownoutWarn input) s fun t =>
      t.browned = true ∧ t.flag Reg.PWR_STATUS F.PWR_STATUS_BROWN = true ∧
        t.reg Reg.PWR_HOLDS = (s.reg Reg.PWR_HOLDS + 1) % 2 ^ 32 ∧ GaitIs s new 2 t ∧ t.mem = s.mem ∧
        t.fld Reg.CLK_ARITH F.CLK_ARITH_SRC = 1 ∧ t.grm.varith = s.grm.varith ∧ t.clk.pllA = s.clk.pllA ∧
        ∃ e ∈ t.groomLog, e.tag = Tag.pwr ∧ e.code = 0x0001 ∧
          e.detail = padTo 12 (([s.gait, 0] ++ two input).map (BitVec.ofNat 8)))) ∧
  (∀ (x : Recovery) (y : RecoveryTime) (s : State), let new := max (s.fld Reg.PWR_GAIT F.PWR_GAIT_REQ) (ruleCap s)
    let recover := 10 * (s.fld Reg.PWR_BROWN F.PWR_BROWN_WARN + s.fld Reg.PWR_BROWN F.PWR_BROWN_HYST)
    (s.browned = false ∨ x.lowest ≤ recover ∨ y.timer < 50000 → exec (.brownoutRecover x y) s = .next s) ∧
    (s.browned = true → recover < x.lowest → 50000 ≤ y.timer → ClockQuiet s → NothingHeld s →
      Gives (.brownoutRecover x y) s fun t => t.browned = false ∧
      t.flag Reg.PWR_STATUS F.PWR_STATUS_BROWN = s.flag Reg.PWR_STATUS F.PWR_STATUS_BROWN ∧ GaitIs s new 2 t ∧ t.mem = s.mem ∧
      (new < 3 → gaitMv new ≤ s.grm.varith → s.clk.pllA = gaitFreq new → t.fld Reg.CLK_ARITH F.CLK_ARITH_FREQ = gaitFreq new) ∧
      ∃ e ∈ t.groomLog, e.tag = Tag.pwr ∧ e.code = 0x0002 ∧
        e.detail = padTo 12 ((two x.least ++ two (min 65535 y.held)).map (BitVec.ofNat 8)))) ∧
  (∀ (raw : Bytes) (s : State), let x := fun (i : Nat) => signed16 (fld raw (2 * i) 2)
    let v := fun (i : Nat) => if i = 63 then 0
      else if 32 ≤ i ∧ i < 40 ∧ (s.held = true ∨ bit (s.reg Reg.CLK_STATUS) (8 + (i - 32)) = false) then -32768 else x i
    (s.grm.up = false → exec (.groomSamplePeriod raw) s = .next s) ∧
    (s.grm.up = true → Gives (.groomSamplePeriod raw) s fun t =>
      (∀ i, i < 64 → i ≠ 42 → t.sample i = v i) ∧
      (∀ q, q = x 40 * x 41 / 1000 → -32768 ≤ t.sample 42 ∧ t.sample 42 ≤ 32767 ∧
        (-32768 ≤ q → q + 1 ≤ 32767 → t.sample 42 = q ∨ (x 40 * x 41 % 1000 ≠ 0 ∧ t.sample 42 = q + 1))) ∧
      (s.flag Reg.GRM_CTRL F.GRM_CTRL_EN = false → t.reg Reg.GRM_ASSERTED = s.reg Reg.GRM_ASSERTED) ∧
      (s.flag Reg.GRM_CTRL F.GRM_CTRL_EN = true → ∀ r, r < 32 → let i := ruleFld s r F.GRM_RULE_CFG_SENSOR
        let was := bit (s.reg Reg.GRM_ASSERTED) r
        let is := bit (t.reg Reg.GRM_ASSERTED) r
        let low := ruleFld s r F.GRM_RULE_CFG_DIR = 1
        let on := ruleFld s r F.GRM_RULE_CFG_EN = 1 ∧ ruleValid s r = true
        (ruleFld s r F.GRM_RULE_CFG_EN = 0 → is = false) ∧
        (ruleFld s r F.GRM_RULE_CFG_EN = 1 → ruleValid s r = false → is = false ∧ t.flag Reg.GRM_CTRL F.GRM_CTRL_RULE_ERR = true) ∧
        (on → t.sample i = -32768 → is = was) ∧
        (on → t.sample i ≠ -32768 → ∃ f, t.grm.filters.get? r = some f ∧
          (ruleFld s r F.GRM_RULE_CFG_FILT = 0 ∨ s.grm.filters.get? r = none → f.y = t.sample i) ∧
          (∀ g, ruleFld s r F.GRM_RULE_CFG_FILT = 1 → s.grm.filters.get? r = some g →
            f.y = g.y + (t.sample i - g.y) * ((ruleFld s r F.GRM_RULE_CFG_A : Int) + 1) / 256) ∧
          (∀ g, ruleFld s r F.GRM_RULE_CFG_FILT = 2 → s.grm.filters.get? r = some g →
            let l := (t.sample i :: g.last).take 3
            f.last = l ∧ (l.length < 3 → f.y = t.sample i) ∧ (l.length = 3 → f.y ∈ l ∧
              2 ≤ l.countP (fun x => decide (x ≤ f.y)) ∧ 2 ≤ l.countP (fun x => decide (f.y ≤ x)))) ∧
          is = (if was then !(if low then decide (ruleClr s r < f.y) else decide (f.y < ruleClr s r))
            else if low then decide (f.y < ruleSet s r) else decide (ruleSet s r < f.y)) ∧
          (was = false → is = true → ruleFld s r F.GRM_RULE_CFG_ACT = 5 → RailsUp s → t.held = true ∧ t.grm.rails = .falling 9) ∧
          (was = false → is = true → ruleFld s r F.GRM_RULE_CFG_ACT = 2 → t.held = false →
            t.fld Reg.PWR_GAIT F.PWR_GAIT_REQ = s.fld Reg.PWR_GAIT F.PWR_GAIT_WAKE_GAIT)))))

/-- R331, R333, R335–R337, R340–R344. A buffered record goes to the queue of its TAG when routed and severe enough, a FATAL one also to
FATAL_Q and the groom log; a disabled queue counts it. The page at the front is resolved once: a KV page whose owning table still
names it has POISON set in that entry, with FAR 0x0003. A reclaimed page reads zero and returns to its stack, or is retired. Scrub
corrects or poisons the next line and moves on. A poisoned line answers POISONED and an uncorrectable one UNCORRECTABLE and
becomes poisoned; a FAILED stall is neither read nor written. A damaged buffer word ends the item and its table slot. -/
def Obligations.ErrorsAndContainment : Prop :=
  (∀ s : State, (s.far.events = [] → exec .eventDeliver s = .next s) ∧
    (∀ e rest, s.far.events = e :: rest → let r := Reg.FAR_ROUTE (e.tag - 1)
      let q := s.fld r F.FAR_ROUTE_QUEUE
      let f := s.fld Reg.FAR_CTRL F.FAR_CTRL_FATAL_Q
      let routed := s.flag r F.FAR_ROUTE_EN = true ∧ s.fld r F.FAR_ROUTE_MINSEV ≤ e.sev
      (¬ routed → e.sev ≠ Sev.fatal → Gives .eventDeliver s fun t => t = { s with far := t.far } ∧ t.far.events = rest) ∧
      (routed → e.sev ≠ Sev.fatal → s.flag (Reg.HST_EVQ_CTRL q) F.HST_EVQ_CTRL_EN = false → Gives .eventDeliver s fun t =>
        t = { s with far := t.far, regs := t.regs } ∧ t.far.events = rest ∧
          t.reg Reg.FAR_EV_DROP = (s.reg Reg.FAR_EV_DROP + 1) % 2 ^ 32) ∧
      (routed → EvqOpen s q → Gives .eventDeliver s fun t => (∃ l, t.far.events = rest ++ l) ∧ EvqTakes s q t) ∧
      (e.sev = Sev.fatal → Gives .eventDeliver s fun t => (∃ l, t.far.events = rest ++ l) ∧ t.groomLog = (e :: s.groomLog).take 64 ∧
        (EvqOpen s f → EvqTakes s f t)))) ∧
  (∀ s : State, NoneDue s → (s.far.toResolve = [] → exec .farPageResolve s = .next s) ∧
    (∀ page rest, s.far.toResolve = page :: rest → let u := taken s page rest
      (s.role ≠ roleC → s.parked = false → exec .farPageResolve s = .next u) ∧
      (∀ w, s.role = roleC → ownerWord u page = (u, St.ok, w) → fld w 6 1 ≠ 1 → s.parked = false → exec .farPageResolve s = .next u) ∧
      (∀ w r i pte x h, s.role = roleC → ownerWord u page = (u, St.ok, w) → fld w 6 1 = 1 →
        let root := fld w 0 4 * pageBytes
        entryAt u root (fld w 4 2) (fld w 8 4) = (u, some (r, i, pte, x)) → u.readPair root r (fld w 4 2) = (u, St.ok, h) →
        (ptePage pte ≠ page → s.parked = false → exec .farPageResolve s = .next u) ∧
        let off := if i = Pair.patchIdx h then pairOff root r (fld w 4 2) else entryOff h i
        let n := if i = Pair.patchIdx h then 64 else 16
        (ptePage pte = page → (∀ y ∈ s.ped.holders, y.2.handle ≠ Root.handle r) → off + n ≤ hbmBytes → LinesGood u off n →
          (i = Pair.patchIdx h → h.length = 64 ∧ off % 64 = 0) → GivesRuns .farPageResolve s fun t =>
            t.reg Reg.FAR_POISONED = (s.reg Reg.FAR_POISONED + 1) % 2 ^ 32 ∧ SameOutside u off n t ∧
            slice (homeRead t off n) (if i = Pair.patchIdx h then 32 else 0) 16 = entryBytes (setBits pte 62 62 1) (fld w 8 4) ∧
            (s.far.events.length < 256 → t.far.events = s.far.events ++
              [s.record Tag.far 0x0003 Sev.contained (Root.handle r) ((toLE 4 page).map BitVec.toNat)]))))) ∧
  (∀ (bad : List (Fin 256)) (s : State), NoneDue s → (s.far.toReclaim = [] → exec (.poisonedPageReclaim bad) s = .next s) ∧
    (∀ page rest, s.far.toReclaim = page :: rest → (page + 1) * pageBytes ≤ hbmBytes → let n := page / stallPages
      (s.stallFailed n = true → s.parked = false → exec (.poisonedPageReclaim bad) s = .next (s.updFar fun f => { f with toReclaim := rest })) ∧
      (s.stallFailed n = false → bad = [] → GivesRuns (.poisonedPageReclaim bad) s fun t => t.far.toReclaim = rest ∧
        homeRead t (page * pageBytes) pageBytes = zeros pageBytes ∧ SameOutside s (page * pageBytes) pageBytes t ∧
        (∀ l, page * 256 ≤ l → l < page * 256 + 256 → t.marks.get? l = none) ∧
        (t.stall n).freed = page % stallPages :: (s.stall n).freed ∧ t.reg Reg.FAR_RETIRED = s.reg Reg.FAR_RETIRED) ∧
      (s.stallFailed n = false → bad ≠ [] →
        (s.far.chUe.getD n []).length + bad.length < s.fld Reg.FAR_STALL_LIMIT F.FAR_STALL_LIMIT_CH_UE →
        GivesRuns (.poisonedPageReclaim bad) s fun t => t.far.toReclaim = rest ∧
        t.reg Reg.FAR_RETIRED = (s.reg Reg.FAR_RETIRED + 1) % 2 ^ 32 ∧ page ∈ t.far.retired ∧
        (t.stall n).freed = (s.stall n).freed))) ∧
  (∀ (k : Fin 128) (errors : Fin 7) (s : State), NoneDue s →
    s.flag Reg.FAR_CTRL F.FAR_CTRL_SCRUB_EN = false ∨ s.walk = true ∨ s.stallFailed k = true ∨ k.val ∈ s.far.scrubDone →
    exec (.scrubLine k errors) s = .next s) ∧
  (∀ (k : Fin 128) (errors : Fin 7) (s : State), ScrubOn s k → s.far.scrubAt.getD k 0 + 1 < stallLines →
    let l := scrubNext s k
    let fixed := (s.marks.get? l = none ∧ 0 < errors.val ∧ errors.val ≤ lineCorrects s l) ∨ ∃ c, s.marks.get? l = some (.correctable c)
    let ruined := (s.marks.get? l = none ∧ lineCorrects s l < errors.val) ∨ s.marks.get? l = some .damaged
    Gives (.scrubLine k errors) s fun t => t.far.scrubAt.getD k 0 = s.far.scrubAt.getD k 0 + 1 ∧
      (s.marks.get? l = none → errors.val = 0 → t.mem = s.mem ∧ t.marks = s.marks ∧ t.reg Reg.FAR_CE = s.reg Reg.FAR_CE) ∧
      (s.marks.get? l = some .poison → t.mem = s.mem ∧ t.marks = s.marks) ∧
      (fixed → t.mem = s.mem ∧ t.marks.get? l = none ∧ t.reg Reg.FAR_CE = (s.reg Reg.FAR_CE + 1) % 2 ^ 32) ∧
      (ruined → BelowLimit s k → t.marks.get? l = some .poison ∧ t.reg Reg.FAR_UE = (s.reg Reg.FAR_UE + 1) % 2 ^ 32 ∧
        (∀ a, a < 64 * l ∨ 64 * l + 64 ≤ a → t.mem.byte a = s.mem.byte a) ∧
        (64 * l / pageBytes ∈ t.far.toResolve ∨ 64 * l / pageBytes ∈ t.far.resolved) ∧ (s.far.events.length < 256 →
          t.far.events = s.far.events ++ [s.record Tag.far 0x0002 Sev.contained (64 * l) [stackOf k, pseudoChannel (64 * l), 1, 0]]))) ∧
  (∀ (k : Fin 128) (s : State), ScrubOn s k → s.far.scrubAt.getD k 0 + 1 = stallLines → s.marks.get? (scrubNext s k) = none →
    Gives (.scrubLine k 0) s fun t => t.far.scrubAt.getD k 0 = 0 ∧
      ((∀ n, n < 128 → n = k.val ∨ s.stallFailed n = true ∨ n ∈ s.far.scrubDone) → t.far.scrubDone = [] ∧
        t.reg Reg.FAR_SCRUB_PASSES = (s.reg Reg.FAR_SCRUB_PASSES + 1) % 2 ^ 32) ∧
      ((∃ n, n < 128 ∧ n ≠ k.val ∧ s.stallFailed n = false ∧ n ∉ s.far.scrubDone) → k.val ∈ t.far.scrubDone ∧
        t.reg Reg.FAR_SCRUB_PASSES = s.reg Reg.FAR_SCRUB_PASSES)) ∧
  (∀ (port : Fin 16) (pkt : Bytes) (s : State) (p : Pkt) (l : Nat), GoodPkt s port p.opcode pkt p → NewReq s p → TeamNow s p →
    memCheck s p = St.ok → Uncombined s p → p.length = 64 → p.addr = 64 * l → (s.stall (homeStall p.addr)).storeQ = [] →
    (s.stallFailed (homeStall p.addr) = true →
      (p.opcode = Op.load → Gives (.load port pkt) s fun t => t.mem = s.mem ∧ Answered s p Op.loadResp St.uncorrectable (zeros 64) t) ∧
      (p.opcode = Op.store → Gives (.store port pkt) s fun t => t.mem = s.mem ∧ Answered s p Op.ack St.uncorrectable [] t)) ∧
    (s.stallFailed (homeStall p.addr) = false → p.opcode = Op.load →
      (s.marks.get? l = some .poison → Gives (.load port pkt) s fun t => t.mem = s.mem ∧
        Answered s p Op.loadResp St.poisoned (zeros 64) t) ∧
      (s.marks.get? l = some .damaged → Gives (.load port pkt) s fun t => t.marks.get? l = some .poison ∧
        Answered s p Op.loadResp St.uncorrectable (zeros 64) t))) ∧
  (∀ (k : Fin 128) (slot : Option Bool) (s : State) (it : AttItem) (rest : List AttItem) (op : Nat), op = 1 ∨ op = 2 ∨ op = 3 →
    At.op it.msg = op → AttReady s k it rest → attCheck s k it = St.ok →
    Gives (if op = 1 then .attDecode k (some slot) else if op = 2 then .attPrefill k (some slot) else .attBackward k (some slot)) s
      fun t => (t.work k).att = rest ∧ (∃ x, (t.work k).run = (s.work k).run ++ [x] ∧ x.item = it ∧ x.status = St.uncorrectable) ∧
        (∀ b, slot = some b → ((t.fmtUnit k).slot b).valid = false) ∧ t.mem = s.mem ∧
        (s.fld Reg.FAR_STALL_LIMIT F.FAR_STALL_LIMIT_BUF_UE ≤ 1 → t.stallFailed k = true) ∧ (s.far.events.length < 256 →
          ∃ l, t.far.events = s.far.events ++ [s.record Tag.far 0x0007 Sev.contained k [Tag.stb, St.uncorrectable, 0, 0]] ++ l))

/-- R350–R352, R357, R360. A fuse command is refused with RIGHTS unless READY and signed, ends with NO_EFFECT where it has nothing
to burn, and burns one bit per 2 ms outside a hold; a bit that does not read back ends it with INTERNAL. A random source that
qualifies in phase 2 gives HTP_INCARN and waiting keys, one that is late ends start-up with ENTROPY, a failed test clears RNG_OK.
EN from 0 to 1 enables a region under R357 alone; keys, then zeros, then READY. -/
def Obligations.AssayRegions : Prop :=
  (∀ s : State, let goal := min (s.reg Reg.TCK_SVN) 64
    (s.flag Reg.ASY_STATUS F.ASY_STATUS_FUSE_BUSY = true → Gives .svnAdvance s fun t => t.asy = s.asy ∧ t.far = s.far) ∧
    (s.flag Reg.ASY_STATUS F.ASY_STATUS_FUSE_BUSY = false →
      (¬ FuseOpen s → Gives .svnAdvance s fun t => FuseEnds s 1 0 St.rights s.asy.svnMin t ∧ SameFuses s t) ∧
      (FuseOpen s → goal ≤ s.asy.svnMin → Gives .svnAdvance s fun t => FuseEnds s 1 0 St.noEffect s.asy.svnMin t ∧ SameFuses s t) ∧
      (FuseOpen s → s.asy.svnMin < goal → Gives .svnAdvance s fun t => t.asy.fuse = some ⟨1, 0, goal, s.nowAssay⟩ ∧ SameFuses s t ∧
        t.flag Reg.ASY_STATUS F.ASY_STATUS_FUSE_BUSY = true ∧ t.flag Reg.ASY_FUSE_CMD F.ASY_FUSE_CMD_GO = false ∧ t.far = s.far))) ∧
  (∀ (k : Fin 4) (s : State), let burnt := bit s.asy.keyRevoke k
    (s.flag Reg.ASY_STATUS F.ASY_STATUS_FUSE_BUSY = true → Gives (.revokeSlot k) s fun t => t.asy = s.asy ∧ t.far = s.far) ∧
    (s.flag Reg.ASY_STATUS F.ASY_STATUS_FUSE_BUSY = false →
      (¬ FuseOpen s ∨ k.val = s.tck.keySlot →
        Gives (.revokeSlot k) s fun t => FuseEnds s 2 k St.rights s.asy.svnMin t ∧ SameFuses s t) ∧
      (FuseOpen s → k.val ≠ s.tck.keySlot → burnt = true →
        Gives (.revokeSlot k) s fun t => FuseEnds s 2 k St.noEffect s.asy.svnMin t ∧ SameFuses s t) ∧
      (FuseOpen s → k.val ≠ s.tck.keySlot → burnt = false → Gives (.revokeSlot k) s fun t => SameFuses s t ∧
        t.asy.fuse = some ⟨2, k, 0, s.nowAssay⟩ ∧ t.flag Reg.ASY_STATUS F.ASY_STATUS_FUSE_BUSY = true ∧ t.far = s.far))) ∧
  (∀ (ok : Bool) (s : State), (s.asy.fuse = none → exec (.fuseBitProgram ok) s = .next s) ∧
    (∀ f, s.asy.fuse = some f →
      (s.browned = true ∨ s.nowAssay < f.last + 2000000 → exec (.fuseBitProgram ok) s = .next s) ∧
      (s.browned = false → f.last + 2000000 ≤ s.nowAssay →
        (ok = false → Gives (.fuseBitProgram ok) s fun t => FuseEnds s f.op f.arg St.internal s.asy.svnMin t ∧ SameFuses s t ∧
          t.flag Reg.ASY_STATUS F.ASY_STATUS_FUSE_ERR = true) ∧
        (ok = true → f.op = 1 → Gives (.fuseBitProgram ok) s fun t => t.asy.keyRevoke = s.asy.keyRevoke ∧
          (f.upTo ≤ s.asy.svnMin + 1 → FuseEnds s 1 f.arg St.ok (s.asy.svnMin + 1) t) ∧
          (s.asy.svnMin + 1 < f.upTo → t.asy.svnMin = s.asy.svnMin + 1 ∧ t.asy.fuse = some { f with last := s.nowAssay } ∧
            t.far = s.far ∧ t.regs = s.regs)) ∧
        (ok = true → f.op = 2 → Gives (.fuseBitProgram ok) s fun t => FuseEnds s 2 f.arg St.ok s.asy.svnMin t ∧
          ∀ k, bit t.asy.keyRevoke k = (k == f.arg || bit s.asy.keyRevoke k))))) ∧
  (∀ s : State, (s.held = true → exec .rngQualified s = .next s) ∧
    (s.held = false → Gives .rngQualified s fun t => t.flag Reg.ASY_STATUS F.ASY_STATUS_RNG_OK = true ∧ t.mem = s.mem ∧
      t.asy.waiting = [] ∧ (∀ r ∈ s.asy.waiting, t.asy.keys.has r = true) ∧
      (s.phase = 2 → t.phase = 3 ∧ t.reg Reg.HTP_INCARN = Config.freeNat s.freeCtr % 2 ^ 32 ∧
        (s.fld Reg.GLB_STRAP F.GLB_STRAP_TACK < 2 → t.tck.reading = true ∧ t.tck.source = 0) ∧
        (2 ≤ s.fld Reg.GLB_STRAP F.GLB_STRAP_TACK → t.tck = s.tck)) ∧
      (s.phase ≠ 2 → t.phase = s.phase ∧ t.reg Reg.HTP_INCARN = s.reg Reg.HTP_INCARN ∧ t.tck = s.tck))) ∧
  (∀ s : State, let late := s.held = false ∧ s.phase = 2 ∧ s.clk.releasedAt + 10000000 ≤ s.nowAssay
    (¬ late → exec .entropyTimeout s = .next s) ∧
    (late → Gives .entropyTimeout s fun t => t.phase = 15 ∧ t.fld Reg.TCK_STATUS F.TCK_STATUS_ERR = 15 ∧
      t = { s with regs := t.regs } ∧ t.ready = s.ready ∧ t.locked = s.locked)) ∧
  (∀ (proportion : Bool) (s : State), (s.held = true → exec (.rngTestFail proportion) s = .next s) ∧
    (s.held = false → Gives (.rngTestFail proportion) s fun t => t.flag Reg.ASY_STATUS F.ASY_STATUS_RNG_FAIL = true ∧
      t.flag Reg.ASY_STATUS F.ASY_STATUS_RNG_OK = false ∧ t.asy = s.asy ∧ t.mem = s.mem ∧
      t.reg Reg.ASY_RNG_FAILS = (s.reg Reg.ASY_RNG_FAILS + 1) % 2 ^ 32 ∧ (s.far.events.length < 256 → t.far.events = s.far.events ++
        [s.record Tag.asy 0x0002 Sev.degraded 0 [if proportion then 1 else 0, 0, 0, 0]]))) ∧
  (∀ (r : Fin 16) (data : Word) (s : State), let on := prOn s r
    let set := bit data.toNat 31
    let ok := s.flag Reg.ASY_STATUS F.ASY_STATUS_RNG_OK
    (s.locked = true ∨ set = on → exec (.prEnable r data) s = .next s) ∧
    (s.locked = false → set = true → on = false → PrMayEnable s r → Gives (.prEnable r data) s fun t => prOn t r = true ∧
      t.flag (Reg.ASY_PR_CTRL r) F.ASY_PR_CTRL_READY = false ∧ t.mem = s.mem ∧
      (∀ p, prShadow s r ≤ p → p < prShadow s r + (prPages s r + 15) / 16 →
        p % stallPages ∉ (t.stall (p / stallPages)).freed ∧
          ∀ v ∈ (t.stall (p / stallPages)).virgin, ¬ (v.1 ≤ p % stallPages ∧ p % stallPages < v.2)) ∧
      (ok = true → t.asy.keys.has r = true) ∧ (ok = false → t.asy.keys = s.asy.keys ∧ r.val ∈ t.asy.waiting)) ∧
    (s.locked = false → set = true → on = false → ¬ PrMayEnable s r → Gives (.prEnable r data) s fun t => prOn t r = false ∧
      t.flag Reg.ASY_STATUS F.ASY_STATUS_PR_ERR = true ∧ t = { s with regs := t.regs }) ∧
    (s.locked = false → set = false → on = true → Gives (.prEnable r data) s fun t => prOn t r = false ∧
      t.flag (Reg.ASY_PR_CTRL r) F.ASY_PR_CTRL_READY = false ∧ t.asy.keys.has r = false ∧ t.mem = s.mem)) ∧
  (∀ (r : Fin 16) (s : State),
    let due := prOn s r = true ∧ s.asy.keys.has r = true ∧ s.flag (Reg.ASY_PR_CTRL r) F.ASY_PR_CTRL_READY = false
    let lo := prBase s r * pageBytes
    let n := prPages s r * pageBytes
    (¬ due → exec (.prInitComplete r) s = .next s) ∧
    (due → GivesRuns (.prInitComplete r) s fun t => t.flag (Reg.ASY_PR_CTRL r) F.ASY_PR_CTRL_READY = true ∧
      (∀ a, lo ≤ a → a < lo + n → t.mem.byte a = 0 ∧ t.marks.get? (a / 64) = none) ∧
      ((∀ k, (s.stall k).storeQ = []) → SameOutside s lo n t ∧
        ∀ l, 64 * l < lo ∨ lo + n ≤ 64 * l → t.marks.get? l = s.marks.get? l)))

/-- R327, R328, R353–R355, R360. The groom answers each supported MCTP control, vendor and SPDM request with its message, an
unsupported one with an error and no effect. SET_GAIT and WAKE write REQ where MGMT_EN allows. SPDM: version, capabilities and
algorithms in that order, then digests, certificate portions, challenges and measurements; one signature at a time, else Busy;
Unspecified while RNG_OK is 0. The message layouts are logs 1710, 1711 and 1907. -/
def Obligations.ManagementPort : Prop :=
  (∀ (i : Fin 32) (x y : Byte) (req : Bytes) (s : State), s.grm.up = false → ∀ c ∈ [Instr.setEndpointId i x y, .getEndpointId i,
      .getEndpointUuid i, .getMctpVersionSupport i x, .getMessageTypeSupport i, .getSensors x y, .getStatus, .getLog x, .getTallies,
      .setGait x, .wake, .unsupportedMctpRequest x i y, .getVersion req, .getCapabilities req, .negotiateAlgorithms req,
      .getDigests req, .getCertificate req, .challenge req, .getMeasurements req, .unsupportedSpdmRequest req],
    exec c s = .next s) ∧
  (∀ (i : Fin 32) (op e : Byte) (s : State), s.grm.up = true →
    (2 ≤ op.toNat % 4 ∨ e.toNat = 0 ∨ e.toNat = 255 → Gives (.setEndpointId i op e) s (Replies s (ctlMsg i 1 2 []))) ∧
    (op.toNat % 4 < 2 → e.toNat ≠ 0 → e.toNat ≠ 255 → Gives (.setEndpointId i op e) s fun t =>
      t.fld Reg.GRM_EID F.GRM_EID_EID = e.toNat ∧
        t = { s with regs := t.regs, out := s.out ++ [.smbus (ctlMsg i 1 0 (asBytes [0, e.toNat, 0]))] })) ∧
  (∀ (i : Fin 32) (type : Byte) (s : State), s.grm.up = true →
    Gives (.getEndpointId i) s (Replies s (ctlMsg i 2 0 (asBytes [s.fld Reg.GRM_EID F.GRM_EID_EID, 0, 0]))) ∧
    Gives (.getEndpointUuid i) s (Replies s (ctlMsg i 3 0 (toLE 16 Config.uuid))) ∧
    Gives (.getMessageTypeSupport i) s (Replies s (ctlMsg i 5 0 (asBytes [2, 0x05, 0x7E]))) ∧
    Gives (.getMctpVersionSupport i type) s (Replies s (if type.toNat ∈ [0, 0x05, 0x7E, 0xFF]
      then ctlMsg i 4 0 (asBytes [1] ++ toLE 4 (Config.mctpVersion type.toNat)) else ctlMsg i 4 0x80 []))) ∧
  (∀ (x n : Byte) (s : State), s.grm.up = true →
    (1 ≤ n.toNat → n.toNat ≤ 24 → x.toNat + n.toNat ≤ 64 → Gives (.getSensors x n) s (Replies s (vendorMsg 0
      ((List.range n.toNat).flatMap fun k => toLE 2 (BitVec.ofInt 16 (s.sample (x.toNat + k))).toNat)))) ∧
    (¬ (1 ≤ n.toNat ∧ n.toNat ≤ 24 ∧ x.toNat + n.toNat ≤ 64) → Gives (.getSensors x n) s (Replies s (vendorMsg 1 []))) ∧
    Gives .getStatus s (Replies s (vendorMsg 0 (toLE 4 (readReg s Reg.PWR_STATUS) ++ toLE 4 (readReg s Reg.PWR_GAIT) ++
      toLE 4 (readReg s Reg.GRM_ASSERTED)))) ∧
    Gives .getTallies s (Replies s (vendorMsg 0 (toLE 4 (readReg s Reg.PWR_HOLDS) ++ toLE 4 (readReg s Reg.PWR_SHUTDOWNS) ++
      toLE 4 (readReg s Reg.PWR_GAIT_CHANGES) ++ toLE 4 (readReg s Reg.GRM_ASSERTS)))) ∧
    (64 ≤ x.toNat → Gives (.getLog x) s (Replies s (vendorMsg 1 []))) ∧
    (x.toNat < 64 → Gives (.getLog x) s (Replies s (vendorMsg 0 (match s.groomLog[x.toNat]? with
      | some e => e.bytes
      | none => zeros 32))))) ∧
  (∀ (b : Byte) (s : State), s.grm.up = true → ∀ c g, (c = Instr.setGait b ∧ g = b.toNat) ∨
      (c = .wake ∧ g = s.fld Reg.PWR_GAIT F.PWR_GAIT_WAKE_GAIT) →
    let on := s.flag Reg.PWR_GAIT F.PWR_GAIT_MGMT_EN = true ∧ s.held = false
    (¬ on → Gives c s (Replies s (vendorMsg 2 []))) ∧ (on → 4 < g → Gives c s (Replies s (vendorMsg 1 []))) ∧
    (on → g ≤ 4 → ClockQuiet s → NothingHeld s → Gives c s fun t => t.fld Reg.PWR_GAIT F.PWR_GAIT_REQ = g ∧
      GaitIs s (max g (max (ruleCap s) (if s.browned then 3 else 0))) 0 t ∧ t.mem = s.mem ∧
      t.out = s.out ++ [.smbus (vendorMsg 0 [])])) ∧
  (∀ (type : Byte) (i : Fin 32) (cmd : Byte) (s : State), s.grm.up = true → let c := Instr.unsupportedMctpRequest type i cmd
    (type.toNat = 0 → Gives c s (Replies s (ctlMsg i cmd.toNat 5 []))) ∧
    (type.toNat = 0x7E → Gives c s (Replies s (vendorMsg 1 []))) ∧
    (type.toNat ≠ 0 → type.toNat ≠ 0x7E → Gives c s fun t => ∃ e : Byte, e ≠ 0 ∧
      t = { s with out := s.out ++ [.smbus [type, e]], freeCtr := t.freeCtr })) ∧
  (∀ (req : Bytes) (s : State), s.grm.up = true → ∀ c ∈ [Instr.getVersion req, .getCapabilities req, .negotiateAlgorithms req,
      .getDigests req, .getCertificate req, .challenge req, .getMeasurements req, .unsupportedSpdmRequest req],
    (¬ SpdmAnswers s → Gives c s fun t => ∃ e : Byte, e ≠ 0 ∧
      t = { s with out := s.out ++ [.smbus [5, e]], freeCtr := t.freeCtr }) ∧
    (SpdmAnswers s → 4 ≤ req.length →
      (c ≠ .getVersion req → c ≠ .unsupportedSpdmRequest req → fld req 0 1 ≠ 0x12 → Gives c s (SpokeError s 0x41 0)) ∧
      (c = .getVersion req → fld req 0 1 ≠ 0x10 → Gives c s (SpokeError s 0x41 0)) ∧
      (c = .unsupportedSpdmRequest req → Gives c s (SpokeError s 0x07 (fld req 1 1))) ∧
      (c ≠ .getVersion req → c ≠ .unsupportedSpdmRequest req → fld req 0 1 = 0x12 → s.asy.spdm.stage = 0 →
        Gives c s (SpokeError s 0x04 0)))) ∧
  (∀ (req : Bytes) (s : State), SpdmAnswers s → 4 ≤ req.length → fld req 0 1 = 0x10 →
    Gives (.getVersion req) s fun t => Spoke s (asBytes [0x10, 0x04, 0, 0, 0, 1, 0, 0x12]) t ∧ t.asy.spdm.stage = 1) ∧
  (∀ (req : Bytes) (s : State), InPlace s req 1 →
    (s.asy.spdm.stage = 1 → Gives (.getCapabilities req) s fun t => t.asy.spdm.stage = 2 ∧
      Spoke s (asBytes [0x12, 0x61, 0, 0, 0, Config.spdmCtExponent, 0, 0, 0x36, 0, 0, 0] ++ toLE 4 Config.spdmTransfer ++
        toLE 4 Config.spdmMessage) t) ∧
    (s.asy.spdm.stage = 2 → let good := bit (fld req 8 4) 6 = true ∧ bit (fld req 12 4) 2 = true
      (good → Gives (.negotiateAlgorithms req) s fun t => t.asy.spdm.stage = 3 ∧ Spoke s (asBytes [0x12, 0x63, 0, 0, 36, 0, 1, 0,
        8, 0, 0, 0, 0x40, 0, 0, 0, 4, 0, 0, 0] ++ zeros 16) t) ∧
      (¬ good → Gives (.negotiateAlgorithms req) s (SpokeError s 0x01 0)))) ∧
  (∀ (req : Bytes) (s : State), InPlace s req 3 →
    (s.asy.spdm.stage = 3 → Gives (.getDigests req) s (Spoke s (asBytes [0x12, 0x01, 0, 1] ++ sha512 idCert))) ∧
    (s.asy.spdm.stage = 3 → let off := fld req 4 2
      let n := min (min (fld req 6 2) 1024) (idCert.length - off)
      (fld req 2 1 % 16 = 0 → off < idCert.length → Gives (.getCertificate req) s (Spoke s (asBytes [0x12, 0x02, 0, 0] ++ toLE 2 n ++
        toLE 2 (idCert.length - off - n) ++ (idCert.drop off).take n))) ∧
      (fld req 2 1 % 16 ≠ 0 ∨ idCert.length ≤ off → Gives (.getCertificate req) s (SpokeError s 0x01 0)))) ∧
  (∀ (req : Bytes) (s : State), InPlace s req 3 → let sum := fld req 3 1
    let good := fld req 2 1 = 0 ∧ (sum = 0 ∨ sum = 1 ∨ sum = 0xFF)
    let busy := s.asy.spdm.signing.isSome = true
    let ok := s.flag Reg.ASY_STATUS F.ASY_STATUS_RNG_OK
    (¬ good → Gives (.challenge req) s (SpokeError s 0x01 0)) ∧
    (good → busy → Gives (.challenge req) s fun t => t.out = s.out ++ [.smbus (asBytes [5, 0x12, 0x7F, 0x03, 0])] ∧
      t.asy.spdm.signing = s.asy.spdm.signing ∧ t.reg Reg.ASY_SPDM_BUSY = (s.reg Reg.ASY_SPDM_BUSY + 1) % 2 ^ 32) ∧
    (good → ¬ busy → ok = false → Gives (.challenge req) s (SpokeError s 0x05 0)) ∧
    (good → ¬ busy → ok = true → Gives (.challenge req) s fun t => ∃ x, t.asy.spdm.signing = some x ∧ x.code = 0x83 ∧ t.out = s.out ∧
      t.mem = s.mem ∧ t.regs = s.regs ∧ x.response.take 68 = asBytes [0x12, 0x03, 0, 1] ++ sha512 idCert ∧
      x.message = signContext "responder-challenge_auth signing" ++
        sha512 (s.asy.spdm.vca ++ s.asy.spdm.certs ++ patch req 1 (asBytes [0x83]) ++ x.response))) ∧
  (∀ s : State, (measBlocks s).map (·.1) = [1, 2, 3] ++
    ((List.range 32).filter fun k => bit (s.reg (Reg.TCK_SECT_INFO k)) 31).map (4 + ·) ++ (if s.vaultState = Vs.ready then [36] else [])) ∧
  (∀ (req : Bytes) (s : State), InPlace s req 3 → let op := fld req 3 1
    let all := measBlocks s
    let sel := if op = 0 then [] else if op = 0xFF then all else all.filter (·.1 == op)
    let signed := bit (fld req 2 1) 0
    let good := (op = 0 ∨ sel ≠ []) ∧ (signed = true → fld req 36 1 = 0)
    let busy := s.asy.spdm.signing.isSome = true ∧ signed = true
    let ok := s.flag Reg.ASY_STATUS F.ASY_STATUS_RNG_OK
    let body := sel.flatMap (·.2)
    let head := asBytes [0x12, 0x60, if op = 0 then all.length else 0, 0, sel.length] ++ toLE 3 body.length ++ body
    (¬ good → Gives (.getMeasurements req) s (SpokeError s 0x01 0)) ∧
    (good → busy → Gives (.getMeasurements req) s fun t => t.out = s.out ++ [.smbus (asBytes [5, 0x12, 0x7F, 0x03, 0])] ∧
      t.asy.spdm.signing = s.asy.spdm.signing ∧ t.reg Reg.ASY_SPDM_BUSY = (s.reg Reg.ASY_SPDM_BUSY + 1) % 2 ^ 32) ∧
    (good → ¬ busy → ok = false → Gives (.getMeasurements req) s (SpokeError s 0x05 0)) ∧
    (good → ¬ busy → ok = true → signed = false → Gives (.getMeasurements req) s fun t => ∃ nonce : Bytes, nonce.length = 32 ∧
      Spoke s (head ++ nonce ++ zeros 2) t) ∧
    (good → ok = true → signed = true → ¬ busy → Gives (.getMeasurements req) s fun t => ∃ x nonce, t.asy.spdm.signing = some x ∧
      x.code = 0xE0 ∧ t.out = s.out ∧ t.mem = s.mem ∧ t.regs = s.regs ∧ nonce.length = 32 ∧ x.response = head ++ nonce ++ zeros 2 ∧
      x.message = signContext "responder-measurements signing" ++
        sha512 (s.asy.spdm.vca ++ s.asy.spdm.meas ++ patch req 1 (asBytes [0xE0]) ++ x.response))) ∧
  (∀ s : State, (s.asy.spdm.signing = none → exec .spdmSignatureComplete s = .next s) ∧
    (∀ x, s.asy.spdm.signing = some x → s.grm.up = true → Gives .spdmSignatureComplete s fun t => t.asy.spdm.signing = none ∧
      t.out = s.out ++ [.smbus (asBytes [5] ++ x.response ++ (toLE 512 (Config.sign (x.message.map (·.toNat)) x.salt)).reverse)] ∧
      t.mem = s.mem ∧ t.reg Reg.ASY_SIGNS = (s.reg Reg.ASY_SIGNS + 1) % 2 ^ 32 ∧ (s.far.events.length < 256 →
        t.far.events = s.far.events ++ [s.record Tag.asy 0x0003 Sev.info 0 [x.code, 0, 0, 0]])))

/-- A step runs the command at the front of the queue on the state with the rest of the queue; with none waiting the block idles: one
tick of local time passes while the tick runs (log 2, the model's choice), and nothing else when no answer of R341 is due. -/
def Obligations.StepRunsFront : Prop :=
  (∀ (c : Instr) (rest : List Instr) (s : State), s.pending = c :: rest → step s = exec c { s with pending := rest }) ∧
  (∀ s : State, s.pending = [] → ∃ t, step s = .next t ∧ (NoneDue s →
    t = { s with tick := if s.running = true then s.tick + 1 else s.tick }))

/-- Every step that answers a next state keeps HBM in its canonical form, offsets strictly rising and no zero byte listed, so that
two memories that read alike are equal data; and it answers neither a fault nor a refusal. -/
def Obligations.MemoryKept : Prop := ∀ s : State, MemOk s → ∃ t, step s = .next t ∧ MemOk t

/-- R2, R8, Table GLB-1 and the register tables: right after reset HBM lists nothing, no command waits, the lock is off and the tick
is 0; every stall is as it starts, every port DISABLED, and the registers of each block hold their tabled reset values. -/
def Obligations.ResetState : Prop :=
  let s := State.reset
  MemOk s ∧ (∀ a, s.mem.byte a = 0) ∧ s.pending = [] ∧ s.locked = false ∧ s.ready = false ∧ s.tick = 0 ∧ s.phase = 0 ∧
    (∀ p, (s.port p).state = .disabled) ∧ (∀ n, n < 128 → s.reg (Reg.FMT_MINT_SEED n) = n + 1 ∧
      s.fld (Reg.STL_NMU_CQ_CTRL n) F.STL_NMU_CQ_CTRL_LOG2_SIZE = 4 ∧ s.reg (Reg.ATT_MERGE_TMO n) = 100000) ∧
    s.reg Reg.LDG_ESCROW_TMO = 2000000 ∧ s.reg Reg.LDG_ESCROW_RETRY = 200000 ∧ s.fld Reg.HTP_RETX F.HTP_RETX_RTO = 50000 ∧
    s.fld Reg.HTP_RETX F.HTP_RETX_RETRY_MAX = 8 ∧ s.reg Reg.HTP_MSG_TMO = 50000000 ∧ s.reg Reg.COU_CONNECT_TMO = 1000000000 ∧
    s.reg Reg.ASY_STATUS = 0
end

