-- ==== Sys2Proof/Laws/State.lean ====
section
/-!
SUPPORT. Laws/State.lean: what each named update of the state leaves as it was, one conjunct a field, so that no later proof
unfolds a record update. Made field by field from the declaration of State.
-/
namespace Sys2Proof.Machine

@[simp] theorem State.emit_frame (s : State) (o : Out) :
    (s.emit o).tick = s.tick ∧ (s.emit o).running = s.running ∧ (s.emit o).role = s.role ∧ (s.emit o).regs = s.regs ∧
    (s.emit o).mem = s.mem ∧ (s.emit o).marks = s.marks ∧ (s.emit o).stalls = s.stalls ∧ (s.emit o).host = s.host ∧
    (s.emit o).ports = s.ports ∧ (s.emit o).htp = s.htp ∧ (s.emit o).rns = s.rns ∧ (s.emit o).inbox = s.inbox ∧
    (s.emit o).far = s.far ∧ (s.emit o).fmts = s.fmts ∧ (s.emit o).kvp = s.kvp ∧ (s.emit o).works = s.works ∧
    (s.emit o).dealloc = s.dealloc ∧ (s.emit o).tem = s.tem ∧ (s.emit o).ped = s.ped ∧ (s.emit o).ldg = s.ldg ∧
    (s.emit o).pkh = s.pkh ∧ (s.emit o).cou = s.cou ∧ (s.emit o).grm = s.grm ∧ (s.emit o).clk = s.clk ∧
    (s.emit o).tck = s.tck ∧ (s.emit o).asy = s.asy ∧ (s.emit o).holds = s.holds ∧ (s.emit o).lowStalls = s.lowStalls ∧
    (s.emit o).groomLog = s.groomLog ∧ (s.emit o).freeCtr = s.freeCtr ∧ (s.emit o).pending = s.pending := by
  refine ⟨rfl, rfl, rfl, rfl, rfl, rfl, rfl, rfl, rfl, rfl, rfl, rfl, rfl, rfl, rfl, rfl, rfl, rfl, rfl, rfl, rfl, rfl, rfl, rfl, rfl, rfl, rfl, rfl, rfl, rfl, rfl⟩

@[simp] theorem State.draw_frame (s : State) :
    (s.draw.2).tick = s.tick ∧ (s.draw.2).running = s.running ∧ (s.draw.2).role = s.role ∧ (s.draw.2).regs = s.regs ∧
    (s.draw.2).mem = s.mem ∧ (s.draw.2).marks = s.marks ∧ (s.draw.2).stalls = s.stalls ∧ (s.draw.2).host = s.host ∧
    (s.draw.2).ports = s.ports ∧ (s.draw.2).htp = s.htp ∧ (s.draw.2).rns = s.rns ∧ (s.draw.2).inbox = s.inbox ∧
    (s.draw.2).far = s.far ∧ (s.draw.2).fmts = s.fmts ∧ (s.draw.2).kvp = s.kvp ∧ (s.draw.2).works = s.works ∧
    (s.draw.2).dealloc = s.dealloc ∧ (s.draw.2).tem = s.tem ∧ (s.draw.2).ped = s.ped ∧ (s.draw.2).ldg = s.ldg ∧
    (s.draw.2).pkh = s.pkh ∧ (s.draw.2).cou = s.cou ∧ (s.draw.2).grm = s.grm ∧ (s.draw.2).clk = s.clk ∧
    (s.draw.2).tck = s.tck ∧ (s.draw.2).asy = s.asy ∧ (s.draw.2).holds = s.holds ∧ (s.draw.2).lowStalls = s.lowStalls ∧
    (s.draw.2).groomLog = s.groomLog ∧ (s.draw.2).out = s.out ∧ (s.draw.2).pending = s.pending := by
  refine ⟨rfl, rfl, rfl, rfl, rfl, rfl, rfl, rfl, rfl, rfl, rfl, rfl, rfl, rfl, rfl, rfl, rfl, rfl, rfl, rfl, rfl, rfl, rfl, rfl, rfl, rfl, rfl, rfl, rfl, rfl, rfl⟩

@[simp] theorem State.withPending_frame (s : State) (q : List Instr) :
    (s.withPending q).tick = s.tick ∧ (s.withPending q).running = s.running ∧ (s.withPending q).role = s.role ∧
    (s.withPending q).regs = s.regs ∧ (s.withPending q).mem = s.mem ∧ (s.withPending q).marks = s.marks ∧
    (s.withPending q).stalls = s.stalls ∧ (s.withPending q).host = s.host ∧ (s.withPending q).ports = s.ports ∧
    (s.withPending q).htp = s.htp ∧ (s.withPending q).rns = s.rns ∧ (s.withPending q).inbox = s.inbox ∧
    (s.withPending q).far = s.far ∧ (s.withPending q).fmts = s.fmts ∧ (s.withPending q).kvp = s.kvp ∧
    (s.withPending q).works = s.works ∧ (s.withPending q).dealloc = s.dealloc ∧ (s.withPending q).tem = s.tem ∧
    (s.withPending q).ped = s.ped ∧ (s.withPending q).ldg = s.ldg ∧ (s.withPending q).pkh = s.pkh ∧
    (s.withPending q).cou = s.cou ∧ (s.withPending q).grm = s.grm ∧ (s.withPending q).clk = s.clk ∧
    (s.withPending q).tck = s.tck ∧ (s.withPending q).asy = s.asy ∧ (s.withPending q).holds = s.holds ∧
    (s.withPending q).lowStalls = s.lowStalls ∧ (s.withPending q).groomLog = s.groomLog ∧ (s.withPending q).out = s.out ∧
    (s.withPending q).freeCtr = s.freeCtr := by
  refine ⟨rfl, rfl, rfl, rfl, rfl, rfl, rfl, rfl, rfl, rfl, rfl, rfl, rfl, rfl, rfl, rfl, rfl, rfl, rfl, rfl, rfl, rfl, rfl, rfl, rfl, rfl, rfl, rfl, rfl, rfl, rfl⟩

@[simp] theorem State.groomLogPush_frame (s : State) (e : Event) :
    (s.groomLogPush e).tick = s.tick ∧ (s.groomLogPush e).running = s.running ∧ (s.groomLogPush e).role = s.role ∧
    (s.groomLogPush e).regs = s.regs ∧ (s.groomLogPush e).mem = s.mem ∧ (s.groomLogPush e).marks = s.marks ∧
    (s.groomLogPush e).stalls = s.stalls ∧ (s.groomLogPush e).host = s.host ∧ (s.groomLogPush e).ports = s.ports ∧
    (s.groomLogPush e).htp = s.htp ∧ (s.groomLogPush e).rns = s.rns ∧ (s.groomLogPush e).inbox = s.inbox ∧
    (s.groomLogPush e).far = s.far ∧ (s.groomLogPush e).fmts = s.fmts ∧ (s.groomLogPush e).kvp = s.kvp ∧
    (s.groomLogPush e).works = s.works ∧ (s.groomLogPush e).dealloc = s.dealloc ∧ (s.groomLogPush e).tem = s.tem ∧
    (s.groomLogPush e).ped = s.ped ∧ (s.groomLogPush e).ldg = s.ldg ∧ (s.groomLogPush e).pkh = s.pkh ∧
    (s.groomLogPush e).cou = s.cou ∧ (s.groomLogPush e).grm = s.grm ∧ (s.groomLogPush e).clk = s.clk ∧
    (s.groomLogPush e).tck = s.tck ∧ (s.groomLogPush e).asy = s.asy ∧ (s.groomLogPush e).holds = s.holds ∧
    (s.groomLogPush e).lowStalls = s.lowStalls ∧ (s.groomLogPush e).out = s.out ∧ (s.groomLogPush e).freeCtr = s.freeCtr ∧
    (s.groomLogPush e).pending = s.pending := by
  refine ⟨rfl, rfl, rfl, rfl, rfl, rfl, rfl, rfl, rfl, rfl, rfl, rfl, rfl, rfl, rfl, rfl, rfl, rfl, rfl, rfl, rfl, rfl, rfl, rfl, rfl, rfl, rfl, rfl, rfl, rfl, rfl⟩

@[simp] theorem State.releaseHold_frame (s : State) (p : Nat) :
    (s.releaseHold p).tick = s.tick ∧ (s.releaseHold p).running = s.running ∧ (s.releaseHold p).role = s.role ∧
    (s.releaseHold p).regs = s.regs ∧ (s.releaseHold p).mem = s.mem ∧ (s.releaseHold p).marks = s.marks ∧
    (s.releaseHold p).stalls = s.stalls ∧ (s.releaseHold p).host = s.host ∧ (s.releaseHold p).ports = s.ports ∧
    (s.releaseHold p).htp = s.htp ∧ (s.releaseHold p).rns = s.rns ∧ (s.releaseHold p).inbox = s.inbox ∧
    (s.releaseHold p).far = s.far ∧ (s.releaseHold p).fmts = s.fmts ∧ (s.releaseHold p).kvp = s.kvp ∧
    (s.releaseHold p).works = s.works ∧ (s.releaseHold p).dealloc = s.dealloc ∧ (s.releaseHold p).tem = s.tem ∧
    (s.releaseHold p).ped = s.ped ∧ (s.releaseHold p).ldg = s.ldg ∧ (s.releaseHold p).pkh = s.pkh ∧
    (s.releaseHold p).cou = s.cou ∧ (s.releaseHold p).grm = s.grm ∧ (s.releaseHold p).clk = s.clk ∧
    (s.releaseHold p).tck = s.tck ∧ (s.releaseHold p).asy = s.asy ∧ (s.releaseHold p).lowStalls = s.lowStalls ∧
    (s.releaseHold p).groomLog = s.groomLog ∧ (s.releaseHold p).out = s.out ∧ (s.releaseHold p).freeCtr = s.freeCtr ∧
    (s.releaseHold p).pending = s.pending := by
  refine ⟨rfl, rfl, rfl, rfl, rfl, rfl, rfl, rfl, rfl, rfl, rfl, rfl, rfl, rfl, rfl, rfl, rfl, rfl, rfl, rfl, rfl, rfl, rfl, rfl, rfl, rfl, rfl, rfl, rfl, rfl, rfl⟩

@[simp] theorem State.setStall_frame (s : State) (n : Nat) (x : Stall) :
    (s.setStall n x).tick = s.tick ∧ (s.setStall n x).running = s.running ∧ (s.setStall n x).role = s.role ∧
    (s.setStall n x).regs = s.regs ∧ (s.setStall n x).mem = s.mem ∧ (s.setStall n x).marks = s.marks ∧
    (s.setStall n x).host = s.host ∧ (s.setStall n x).ports = s.ports ∧ (s.setStall n x).htp = s.htp ∧
    (s.setStall n x).rns = s.rns ∧ (s.setStall n x).inbox = s.inbox ∧ (s.setStall n x).far = s.far ∧
    (s.setStall n x).fmts = s.fmts ∧ (s.setStall n x).kvp = s.kvp ∧ (s.setStall n x).works = s.works ∧
    (s.setStall n x).dealloc = s.dealloc ∧ (s.setStall n x).tem = s.tem ∧ (s.setStall n x).ped = s.ped ∧
    (s.setStall n x).ldg = s.ldg ∧ (s.setStall n x).pkh = s.pkh ∧ (s.setStall n x).cou = s.cou ∧
    (s.setStall n x).grm = s.grm ∧ (s.setStall n x).clk = s.clk ∧ (s.setStall n x).tck = s.tck ∧
    (s.setStall n x).asy = s.asy ∧ (s.setStall n x).holds = s.holds ∧ (s.setStall n x).lowStalls = s.lowStalls ∧
    (s.setStall n x).groomLog = s.groomLog ∧ (s.setStall n x).out = s.out ∧ (s.setStall n x).freeCtr = s.freeCtr ∧
    (s.setStall n x).pending = s.pending := by
  refine ⟨rfl, rfl, rfl, rfl, rfl, rfl, rfl, rfl, rfl, rfl, rfl, rfl, rfl, rfl, rfl, rfl, rfl, rfl, rfl, rfl, rfl, rfl, rfl, rfl, rfl, rfl, rfl, rfl, rfl, rfl, rfl⟩

@[simp] theorem State.updStall_frame (s : State) (n : Nat) (f : Stall → Stall) :
    (s.updStall n f).tick = s.tick ∧ (s.updStall n f).running = s.running ∧ (s.updStall n f).role = s.role ∧
    (s.updStall n f).regs = s.regs ∧ (s.updStall n f).mem = s.mem ∧ (s.updStall n f).marks = s.marks ∧
    (s.updStall n f).host = s.host ∧ (s.updStall n f).ports = s.ports ∧ (s.updStall n f).htp = s.htp ∧
    (s.updStall n f).rns = s.rns ∧ (s.updStall n f).inbox = s.inbox ∧ (s.updStall n f).far = s.far ∧
    (s.updStall n f).fmts = s.fmts ∧ (s.updStall n f).kvp = s.kvp ∧ (s.updStall n f).works = s.works ∧
    (s.updStall n f).dealloc = s.dealloc ∧ (s.updStall n f).tem = s.tem ∧ (s.updStall n f).ped = s.ped ∧
    (s.updStall n f).ldg = s.ldg ∧ (s.updStall n f).pkh = s.pkh ∧ (s.updStall n f).cou = s.cou ∧
    (s.updStall n f).grm = s.grm ∧ (s.updStall n f).clk = s.clk ∧ (s.updStall n f).tck = s.tck ∧
    (s.updStall n f).asy = s.asy ∧ (s.updStall n f).holds = s.holds ∧ (s.updStall n f).lowStalls = s.lowStalls ∧
    (s.updStall n f).groomLog = s.groomLog ∧ (s.updStall n f).out = s.out ∧ (s.updStall n f).freeCtr = s.freeCtr ∧
    (s.updStall n f).pending = s.pending := by
  refine ⟨rfl, rfl, rfl, rfl, rfl, rfl, rfl, rfl, rfl, rfl, rfl, rfl, rfl, rfl, rfl, rfl, rfl, rfl, rfl, rfl, rfl, rfl, rfl, rfl, rfl, rfl, rfl, rfl, rfl, rfl, rfl⟩

@[simp] theorem State.updCou_frame (s : State) (f : Courier → Courier) :
    (s.updCou f).tick = s.tick ∧ (s.updCou f).running = s.running ∧ (s.updCou f).role = s.role ∧
    (s.updCou f).regs = s.regs ∧ (s.updCou f).mem = s.mem ∧ (s.updCou f).marks = s.marks ∧ (s.updCou f).stalls = s.stalls ∧
    (s.updCou f).host = s.host ∧ (s.updCou f).ports = s.ports ∧ (s.updCou f).htp = s.htp ∧ (s.updCou f).rns = s.rns ∧
    (s.updCou f).inbox = s.inbox ∧ (s.updCou f).far = s.far ∧ (s.updCou f).fmts = s.fmts ∧ (s.updCou f).kvp = s.kvp ∧
    (s.updCou f).works = s.works ∧ (s.updCou f).dealloc = s.dealloc ∧ (s.updCou f).tem = s.tem ∧ (s.updCou f).ped = s.ped ∧
    (s.updCou f).ldg = s.ldg ∧ (s.updCou f).pkh = s.pkh ∧ (s.updCou f).grm = s.grm ∧ (s.updCou f).clk = s.clk ∧
    (s.updCou f).tck = s.tck ∧ (s.updCou f).asy = s.asy ∧ (s.updCou f).holds = s.holds ∧
    (s.updCou f).lowStalls = s.lowStalls ∧ (s.updCou f).groomLog = s.groomLog ∧ (s.updCou f).out = s.out ∧
    (s.updCou f).freeCtr = s.freeCtr ∧ (s.updCou f).pending = s.pending := by
  refine ⟨rfl, rfl, rfl, rfl, rfl, rfl, rfl, rfl, rfl, rfl, rfl, rfl, rfl, rfl, rfl, rfl, rfl, rfl, rfl, rfl, rfl, rfl, rfl, rfl, rfl, rfl, rfl, rfl, rfl, rfl, rfl⟩

@[simp] theorem State.updFar_frame (s : State) (f : Farrier → Farrier) :
    (s.updFar f).tick = s.tick ∧ (s.updFar f).running = s.running ∧ (s.updFar f).role = s.role ∧
    (s.updFar f).regs = s.regs ∧ (s.updFar f).mem = s.mem ∧ (s.updFar f).marks = s.marks ∧ (s.updFar f).stalls = s.stalls ∧
    (s.updFar f).host = s.host ∧ (s.updFar f).ports = s.ports ∧ (s.updFar f).htp = s.htp ∧ (s.updFar f).rns = s.rns ∧
    (s.updFar f).inbox = s.inbox ∧ (s.updFar f).fmts = s.fmts ∧ (s.updFar f).kvp = s.kvp ∧ (s.updFar f).works = s.works ∧
    (s.updFar f).dealloc = s.dealloc ∧ (s.updFar f).tem = s.tem ∧ (s.updFar f).ped = s.ped ∧ (s.updFar f).ldg = s.ldg ∧
    (s.updFar f).pkh = s.pkh ∧ (s.updFar f).cou = s.cou ∧ (s.updFar f).grm = s.grm ∧ (s.updFar f).clk = s.clk ∧
    (s.updFar f).tck = s.tck ∧ (s.updFar f).asy = s.asy ∧ (s.updFar f).holds = s.holds ∧
    (s.updFar f).lowStalls = s.lowStalls ∧ (s.updFar f).groomLog = s.groomLog ∧ (s.updFar f).out = s.out ∧
    (s.updFar f).freeCtr = s.freeCtr ∧ (s.updFar f).pending = s.pending := by
  refine ⟨rfl, rfl, rfl, rfl, rfl, rfl, rfl, rfl, rfl, rfl, rfl, rfl, rfl, rfl, rfl, rfl, rfl, rfl, rfl, rfl, rfl, rfl, rfl, rfl, rfl, rfl, rfl, rfl, rfl, rfl, rfl⟩

@[simp] theorem State.updGrm_frame (s : State) (f : Groom → Groom) :
    (s.updGrm f).tick = s.tick ∧ (s.updGrm f).running = s.running ∧ (s.updGrm f).role = s.role ∧
    (s.updGrm f).regs = s.regs ∧ (s.updGrm f).mem = s.mem ∧ (s.updGrm f).marks = s.marks ∧ (s.updGrm f).stalls = s.stalls ∧
    (s.updGrm f).host = s.host ∧ (s.updGrm f).ports = s.ports ∧ (s.updGrm f).htp = s.htp ∧ (s.updGrm f).rns = s.rns ∧
    (s.updGrm f).inbox = s.inbox ∧ (s.updGrm f).far = s.far ∧ (s.updGrm f).fmts = s.fmts ∧ (s.updGrm f).kvp = s.kvp ∧
    (s.updGrm f).works = s.works ∧ (s.updGrm f).dealloc = s.dealloc ∧ (s.updGrm f).tem = s.tem ∧ (s.updGrm f).ped = s.ped ∧
    (s.updGrm f).ldg = s.ldg ∧ (s.updGrm f).pkh = s.pkh ∧ (s.updGrm f).cou = s.cou ∧ (s.updGrm f).clk = s.clk ∧
    (s.updGrm f).tck = s.tck ∧ (s.updGrm f).asy = s.asy ∧ (s.updGrm f).holds = s.holds ∧
    (s.updGrm f).lowStalls = s.lowStalls ∧ (s.updGrm f).groomLog = s.groomLog ∧ (s.updGrm f).out = s.out ∧
    (s.updGrm f).freeCtr = s.freeCtr ∧ (s.updGrm f).pending = s.pending := by
  refine ⟨rfl, rfl, rfl, rfl, rfl, rfl, rfl, rfl, rfl, rfl, rfl, rfl, rfl, rfl, rfl, rfl, rfl, rfl, rfl, rfl, rfl, rfl, rfl, rfl, rfl, rfl, rfl, rfl, rfl, rfl, rfl⟩

@[simp] theorem State.updClk_frame (s : State) (f : Clocks → Clocks) :
    (s.updClk f).tick = s.tick ∧ (s.updClk f).running = s.running ∧ (s.updClk f).role = s.role ∧
    (s.updClk f).regs = s.regs ∧ (s.updClk f).mem = s.mem ∧ (s.updClk f).marks = s.marks ∧ (s.updClk f).stalls = s.stalls ∧
    (s.updClk f).host = s.host ∧ (s.updClk f).ports = s.ports ∧ (s.updClk f).htp = s.htp ∧ (s.updClk f).rns = s.rns ∧
    (s.updClk f).inbox = s.inbox ∧ (s.updClk f).far = s.far ∧ (s.updClk f).fmts = s.fmts ∧ (s.updClk f).kvp = s.kvp ∧
    (s.updClk f).works = s.works ∧ (s.updClk f).dealloc = s.dealloc ∧ (s.updClk f).tem = s.tem ∧ (s.updClk f).ped = s.ped ∧
    (s.updClk f).ldg = s.ldg ∧ (s.updClk f).pkh = s.pkh ∧ (s.updClk f).cou = s.cou ∧ (s.updClk f).grm = s.grm ∧
    (s.updClk f).tck = s.tck ∧ (s.updClk f).asy = s.asy ∧ (s.updClk f).holds = s.holds ∧
    (s.updClk f).lowStalls = s.lowStalls ∧ (s.updClk f).groomLog = s.groomLog ∧ (s.updClk f).out = s.out ∧
    (s.updClk f).freeCtr = s.freeCtr ∧ (s.updClk f).pending = s.pending := by
  refine ⟨rfl, rfl, rfl, rfl, rfl, rfl, rfl, rfl, rfl, rfl, rfl, rfl, rfl, rfl, rfl, rfl, rfl, rfl, rfl, rfl, rfl, rfl, rfl, rfl, rfl, rfl, rfl, rfl, rfl, rfl, rfl⟩

@[simp] theorem State.updTck_frame (s : State) (f : Tack → Tack) :
    (s.updTck f).tick = s.tick ∧ (s.updTck f).running = s.running ∧ (s.updTck f).role = s.role ∧
    (s.updTck f).regs = s.regs ∧ (s.updTck f).mem = s.mem ∧ (s.updTck f).marks = s.marks ∧ (s.updTck f).stalls = s.stalls ∧
    (s.updTck f).host = s.host ∧ (s.updTck f).ports = s.ports ∧ (s.updTck f).htp = s.htp ∧ (s.updTck f).rns = s.rns ∧
    (s.updTck f).inbox = s.inbox ∧ (s.updTck f).far = s.far ∧ (s.updTck f).fmts = s.fmts ∧ (s.updTck f).kvp = s.kvp ∧
    (s.updTck f).works = s.works ∧ (s.updTck f).dealloc = s.dealloc ∧ (s.updTck f).tem = s.tem ∧ (s.updTck f).ped = s.ped ∧
    (s.updTck f).ldg = s.ldg ∧ (s.updTck f).pkh = s.pkh ∧ (s.updTck f).cou = s.cou ∧ (s.updTck f).grm = s.grm ∧
    (s.updTck f).clk = s.clk ∧ (s.updTck f).asy = s.asy ∧ (s.updTck f).holds = s.holds ∧
    (s.updTck f).lowStalls = s.lowStalls ∧ (s.updTck f).groomLog = s.groomLog ∧ (s.updTck f).out = s.out ∧
    (s.updTck f).freeCtr = s.freeCtr ∧ (s.updTck f).pending = s.pending := by
  refine ⟨rfl, rfl, rfl, rfl, rfl, rfl, rfl, rfl, rfl, rfl, rfl, rfl, rfl, rfl, rfl, rfl, rfl, rfl, rfl, rfl, rfl, rfl, rfl, rfl, rfl, rfl, rfl, rfl, rfl, rfl, rfl⟩

@[simp] theorem State.updAsy_frame (s : State) (f : Assay → Assay) :
    (s.updAsy f).tick = s.tick ∧ (s.updAsy f).running = s.running ∧ (s.updAsy f).role = s.role ∧
    (s.updAsy f).regs = s.regs ∧ (s.updAsy f).mem = s.mem ∧ (s.updAsy f).marks = s.marks ∧ (s.updAsy f).stalls = s.stalls ∧
    (s.updAsy f).host = s.host ∧ (s.updAsy f).ports = s.ports ∧ (s.updAsy f).htp = s.htp ∧ (s.updAsy f).rns = s.rns ∧
    (s.updAsy f).inbox = s.inbox ∧ (s.updAsy f).far = s.far ∧ (s.updAsy f).fmts = s.fmts ∧ (s.updAsy f).kvp = s.kvp ∧
    (s.updAsy f).works = s.works ∧ (s.updAsy f).dealloc = s.dealloc ∧ (s.updAsy f).tem = s.tem ∧ (s.updAsy f).ped = s.ped ∧
    (s.updAsy f).ldg = s.ldg ∧ (s.updAsy f).pkh = s.pkh ∧ (s.updAsy f).cou = s.cou ∧ (s.updAsy f).grm = s.grm ∧
    (s.updAsy f).clk = s.clk ∧ (s.updAsy f).tck = s.tck ∧ (s.updAsy f).holds = s.holds ∧
    (s.updAsy f).lowStalls = s.lowStalls ∧ (s.updAsy f).groomLog = s.groomLog ∧ (s.updAsy f).out = s.out ∧
    (s.updAsy f).freeCtr = s.freeCtr ∧ (s.updAsy f).pending = s.pending := by
  refine ⟨rfl, rfl, rfl, rfl, rfl, rfl, rfl, rfl, rfl, rfl, rfl, rfl, rfl, rfl, rfl, rfl, rfl, rfl, rfl, rfl, rfl, rfl, rfl, rfl, rfl, rfl, rfl, rfl, rfl, rfl, rfl⟩

@[simp] theorem State.updHost_frame (s : State) (f : HostPort → HostPort) :
    (s.updHost f).tick = s.tick ∧ (s.updHost f).running = s.running ∧ (s.updHost f).role = s.role ∧
    (s.updHost f).regs = s.regs ∧ (s.updHost f).mem = s.mem ∧ (s.updHost f).marks = s.marks ∧
    (s.updHost f).stalls = s.stalls ∧ (s.updHost f).ports = s.ports ∧ (s.updHost f).htp = s.htp ∧
    (s.updHost f).rns = s.rns ∧ (s.updHost f).inbox = s.inbox ∧ (s.updHost f).far = s.far ∧ (s.updHost f).fmts = s.fmts ∧
    (s.updHost f).kvp = s.kvp ∧ (s.updHost f).works = s.works ∧ (s.updHost f).dealloc = s.dealloc ∧
    (s.updHost f).tem = s.tem ∧ (s.updHost f).ped = s.ped ∧ (s.updHost f).ldg = s.ldg ∧ (s.updHost f).pkh = s.pkh ∧
    (s.updHost f).cou = s.cou ∧ (s.updHost f).grm = s.grm ∧ (s.updHost f).clk = s.clk ∧ (s.updHost f).tck = s.tck ∧
    (s.updHost f).asy = s.asy ∧ (s.updHost f).holds = s.holds ∧ (s.updHost f).lowStalls = s.lowStalls ∧
    (s.updHost f).groomLog = s.groomLog ∧ (s.updHost f).out = s.out ∧ (s.updHost f).freeCtr = s.freeCtr ∧
    (s.updHost f).pending = s.pending := by
  refine ⟨rfl, rfl, rfl, rfl, rfl, rfl, rfl, rfl, rfl, rfl, rfl, rfl, rfl, rfl, rfl, rfl, rfl, rfl, rfl, rfl, rfl, rfl, rfl, rfl, rfl, rfl, rfl, rfl, rfl, rfl, rfl⟩

@[simp] theorem State.updHtp_frame (s : State) (f : Transport → Transport) :
    (s.updHtp f).tick = s.tick ∧ (s.updHtp f).running = s.running ∧ (s.updHtp f).role = s.role ∧
    (s.updHtp f).regs = s.regs ∧ (s.updHtp f).mem = s.mem ∧ (s.updHtp f).marks = s.marks ∧ (s.updHtp f).stalls = s.stalls ∧
    (s.updHtp f).host = s.host ∧ (s.updHtp f).ports = s.ports ∧ (s.updHtp f).rns = s.rns ∧ (s.updHtp f).inbox = s.inbox ∧
    (s.updHtp f).far = s.far ∧ (s.updHtp f).fmts = s.fmts ∧ (s.updHtp f).kvp = s.kvp ∧ (s.updHtp f).works = s.works ∧
    (s.updHtp f).dealloc = s.dealloc ∧ (s.updHtp f).tem = s.tem ∧ (s.updHtp f).ped = s.ped ∧ (s.updHtp f).ldg = s.ldg ∧
    (s.updHtp f).pkh = s.pkh ∧ (s.updHtp f).cou = s.cou ∧ (s.updHtp f).grm = s.grm ∧ (s.updHtp f).clk = s.clk ∧
    (s.updHtp f).tck = s.tck ∧ (s.updHtp f).asy = s.asy ∧ (s.updHtp f).holds = s.holds ∧
    (s.updHtp f).lowStalls = s.lowStalls ∧ (s.updHtp f).groomLog = s.groomLog ∧ (s.updHtp f).out = s.out ∧
    (s.updHtp f).freeCtr = s.freeCtr ∧ (s.updHtp f).pending = s.pending := by
  refine ⟨rfl, rfl, rfl, rfl, rfl, rfl, rfl, rfl, rfl, rfl, rfl, rfl, rfl, rfl, rfl, rfl, rfl, rfl, rfl, rfl, rfl, rfl, rfl, rfl, rfl, rfl, rfl, rfl, rfl, rfl, rfl⟩

@[simp] theorem State.updLdg_frame (s : State) (f : Ledger → Ledger) :
    (s.updLdg f).tick = s.tick ∧ (s.updLdg f).running = s.running ∧ (s.updLdg f).role = s.role ∧
    (s.updLdg f).regs = s.regs ∧ (s.updLdg f).mem = s.mem ∧ (s.updLdg f).marks = s.marks ∧ (s.updLdg f).stalls = s.stalls ∧
    (s.updLdg f).host = s.host ∧ (s.updLdg f).ports = s.ports ∧ (s.updLdg f).htp = s.htp ∧ (s.updLdg f).rns = s.rns ∧
    (s.updLdg f).inbox = s.inbox ∧ (s.updLdg f).far = s.far ∧ (s.updLdg f).fmts = s.fmts ∧ (s.updLdg f).kvp = s.kvp ∧
    (s.updLdg f).works = s.works ∧ (s.updLdg f).dealloc = s.dealloc ∧ (s.updLdg f).tem = s.tem ∧ (s.updLdg f).ped = s.ped ∧
    (s.updLdg f).pkh = s.pkh ∧ (s.updLdg f).cou = s.cou ∧ (s.updLdg f).grm = s.grm ∧ (s.updLdg f).clk = s.clk ∧
    (s.updLdg f).tck = s.tck ∧ (s.updLdg f).asy = s.asy ∧ (s.updLdg f).holds = s.holds ∧
    (s.updLdg f).lowStalls = s.lowStalls ∧ (s.updLdg f).groomLog = s.groomLog ∧ (s.updLdg f).out = s.out ∧
    (s.updLdg f).freeCtr = s.freeCtr ∧ (s.updLdg f).pending = s.pending := by
  refine ⟨rfl, rfl, rfl, rfl, rfl, rfl, rfl, rfl, rfl, rfl, rfl, rfl, rfl, rfl, rfl, rfl, rfl, rfl, rfl, rfl, rfl, rfl, rfl, rfl, rfl, rfl, rfl, rfl, rfl, rfl, rfl⟩

@[simp] theorem State.updPed_frame (s : State) (f : Pedigree → Pedigree) :
    (s.updPed f).tick = s.tick ∧ (s.updPed f).running = s.running ∧ (s.updPed f).role = s.role ∧
    (s.updPed f).regs = s.regs ∧ (s.updPed f).mem = s.mem ∧ (s.updPed f).marks = s.marks ∧ (s.updPed f).stalls = s.stalls ∧
    (s.updPed f).host = s.host ∧ (s.updPed f).ports = s.ports ∧ (s.updPed f).htp = s.htp ∧ (s.updPed f).rns = s.rns ∧
    (s.updPed f).inbox = s.inbox ∧ (s.updPed f).far = s.far ∧ (s.updPed f).fmts = s.fmts ∧ (s.updPed f).kvp = s.kvp ∧
    (s.updPed f).works = s.works ∧ (s.updPed f).dealloc = s.dealloc ∧ (s.updPed f).tem = s.tem ∧ (s.updPed f).ldg = s.ldg ∧
    (s.updPed f).pkh = s.pkh ∧ (s.updPed f).cou = s.cou ∧ (s.updPed f).grm = s.grm ∧ (s.updPed f).clk = s.clk ∧
    (s.updPed f).tck = s.tck ∧ (s.updPed f).asy = s.asy ∧ (s.updPed f).holds = s.holds ∧
    (s.updPed f).lowStalls = s.lowStalls ∧ (s.updPed f).groomLog = s.groomLog ∧ (s.updPed f).out = s.out ∧
    (s.updPed f).freeCtr = s.freeCtr ∧ (s.updPed f).pending = s.pending := by
  refine ⟨rfl, rfl, rfl, rfl, rfl, rfl, rfl, rfl, rfl, rfl, rfl, rfl, rfl, rfl, rfl, rfl, rfl, rfl, rfl, rfl, rfl, rfl, rfl, rfl, rfl, rfl, rfl, rfl, rfl, rfl, rfl⟩

@[simp] theorem State.updPkh_frame (s : State) (f : Packhorse → Packhorse) :
    (s.updPkh f).tick = s.tick ∧ (s.updPkh f).running = s.running ∧ (s.updPkh f).role = s.role ∧
    (s.updPkh f).regs = s.regs ∧ (s.updPkh f).mem = s.mem ∧ (s.updPkh f).marks = s.marks ∧ (s.updPkh f).stalls = s.stalls ∧
    (s.updPkh f).host = s.host ∧ (s.updPkh f).ports = s.ports ∧ (s.updPkh f).htp = s.htp ∧ (s.updPkh f).rns = s.rns ∧
    (s.updPkh f).inbox = s.inbox ∧ (s.updPkh f).far = s.far ∧ (s.updPkh f).fmts = s.fmts ∧ (s.updPkh f).kvp = s.kvp ∧
    (s.updPkh f).works = s.works ∧ (s.updPkh f).dealloc = s.dealloc ∧ (s.updPkh f).tem = s.tem ∧ (s.updPkh f).ped = s.ped ∧
    (s.updPkh f).ldg = s.ldg ∧ (s.updPkh f).cou = s.cou ∧ (s.updPkh f).grm = s.grm ∧ (s.updPkh f).clk = s.clk ∧
    (s.updPkh f).tck = s.tck ∧ (s.updPkh f).asy = s.asy ∧ (s.updPkh f).holds = s.holds ∧
    (s.updPkh f).lowStalls = s.lowStalls ∧ (s.updPkh f).groomLog = s.groomLog ∧ (s.updPkh f).out = s.out ∧
    (s.updPkh f).freeCtr = s.freeCtr ∧ (s.updPkh f).pending = s.pending := by
  refine ⟨rfl, rfl, rfl, rfl, rfl, rfl, rfl, rfl, rfl, rfl, rfl, rfl, rfl, rfl, rfl, rfl, rfl, rfl, rfl, rfl, rfl, rfl, rfl, rfl, rfl, rfl, rfl, rfl, rfl, rfl, rfl⟩

@[simp] theorem State.updTem_frame (s : State) (f : Teams → Teams) :
    (s.updTem f).tick = s.tick ∧ (s.updTem f).running = s.running ∧ (s.updTem f).role = s.role ∧
    (s.updTem f).regs = s.regs ∧ (s.updTem f).mem = s.mem ∧ (s.updTem f).marks = s.marks ∧ (s.updTem f).stalls = s.stalls ∧
    (s.updTem f).host = s.host ∧ (s.updTem f).ports = s.ports ∧ (s.updTem f).htp = s.htp ∧ (s.updTem f).rns = s.rns ∧
    (s.updTem f).inbox = s.inbox ∧ (s.updTem f).far = s.far ∧ (s.updTem f).fmts = s.fmts ∧ (s.updTem f).kvp = s.kvp ∧
    (s.updTem f).works = s.works ∧ (s.updTem f).dealloc = s.dealloc ∧ (s.updTem f).ped = s.ped ∧ (s.updTem f).ldg = s.ldg ∧
    (s.updTem f).pkh = s.pkh ∧ (s.updTem f).cou = s.cou ∧ (s.updTem f).grm = s.grm ∧ (s.updTem f).clk = s.clk ∧
    (s.updTem f).tck = s.tck ∧ (s.updTem f).asy = s.asy ∧ (s.updTem f).holds = s.holds ∧
    (s.updTem f).lowStalls = s.lowStalls ∧ (s.updTem f).groomLog = s.groomLog ∧ (s.updTem f).out = s.out ∧
    (s.updTem f).freeCtr = s.freeCtr ∧ (s.updTem f).pending = s.pending := by
  refine ⟨rfl, rfl, rfl, rfl, rfl, rfl, rfl, rfl, rfl, rfl, rfl, rfl, rfl, rfl, rfl, rfl, rfl, rfl, rfl, rfl, rfl, rfl, rfl, rfl, rfl, rfl, rfl, rfl, rfl, rfl, rfl⟩

@[simp] theorem State.updSpdm_frame (s : State) (f : Spdm → Spdm) :
    (s.updSpdm f).tick = s.tick ∧ (s.updSpdm f).running = s.running ∧ (s.updSpdm f).role = s.role ∧
    (s.updSpdm f).regs = s.regs ∧ (s.updSpdm f).mem = s.mem ∧ (s.updSpdm f).marks = s.marks ∧
    (s.updSpdm f).stalls = s.stalls ∧ (s.updSpdm f).host = s.host ∧ (s.updSpdm f).ports = s.ports ∧
    (s.updSpdm f).htp = s.htp ∧ (s.updSpdm f).rns = s.rns ∧ (s.updSpdm f).inbox = s.inbox ∧ (s.updSpdm f).far = s.far ∧
    (s.updSpdm f).fmts = s.fmts ∧ (s.updSpdm f).kvp = s.kvp ∧ (s.updSpdm f).works = s.works ∧
    (s.updSpdm f).dealloc = s.dealloc ∧ (s.updSpdm f).tem = s.tem ∧ (s.updSpdm f).ped = s.ped ∧ (s.updSpdm f).ldg = s.ldg ∧
    (s.updSpdm f).pkh = s.pkh ∧ (s.updSpdm f).cou = s.cou ∧ (s.updSpdm f).grm = s.grm ∧ (s.updSpdm f).clk = s.clk ∧
    (s.updSpdm f).tck = s.tck ∧ (s.updSpdm f).holds = s.holds ∧ (s.updSpdm f).lowStalls = s.lowStalls ∧
    (s.updSpdm f).groomLog = s.groomLog ∧ (s.updSpdm f).out = s.out ∧ (s.updSpdm f).freeCtr = s.freeCtr ∧
    (s.updSpdm f).pending = s.pending := by
  refine ⟨rfl, rfl, rfl, rfl, rfl, rfl, rfl, rfl, rfl, rfl, rfl, rfl, rfl, rfl, rfl, rfl, rfl, rfl, rfl, rfl, rfl, rfl, rfl, rfl, rfl, rfl, rfl, rfl, rfl, rfl, rfl⟩

@[simp] theorem State.updVault_frame (s : State) (f : Vault → Vault) :
    (s.updVault f).tick = s.tick ∧ (s.updVault f).running = s.running ∧ (s.updVault f).role = s.role ∧
    (s.updVault f).regs = s.regs ∧ (s.updVault f).mem = s.mem ∧ (s.updVault f).marks = s.marks ∧
    (s.updVault f).stalls = s.stalls ∧ (s.updVault f).host = s.host ∧ (s.updVault f).ports = s.ports ∧
    (s.updVault f).htp = s.htp ∧ (s.updVault f).rns = s.rns ∧ (s.updVault f).inbox = s.inbox ∧ (s.updVault f).far = s.far ∧
    (s.updVault f).fmts = s.fmts ∧ (s.updVault f).kvp = s.kvp ∧ (s.updVault f).works = s.works ∧
    (s.updVault f).dealloc = s.dealloc ∧ (s.updVault f).tem = s.tem ∧ (s.updVault f).ped = s.ped ∧
    (s.updVault f).ldg = s.ldg ∧ (s.updVault f).cou = s.cou ∧ (s.updVault f).grm = s.grm ∧ (s.updVault f).clk = s.clk ∧
    (s.updVault f).tck = s.tck ∧ (s.updVault f).asy = s.asy ∧ (s.updVault f).holds = s.holds ∧
    (s.updVault f).lowStalls = s.lowStalls ∧ (s.updVault f).groomLog = s.groomLog ∧ (s.updVault f).out = s.out ∧
    (s.updVault f).freeCtr = s.freeCtr ∧ (s.updVault f).pending = s.pending := by
  refine ⟨rfl, rfl, rfl, rfl, rfl, rfl, rfl, rfl, rfl, rfl, rfl, rfl, rfl, rfl, rfl, rfl, rfl, rfl, rfl, rfl, rfl, rfl, rfl, rfl, rfl, rfl, rfl, rfl, rfl, rfl, rfl⟩

@[simp] theorem State.updWork_frame (s : State) (n : Nat) (f : Work → Work) :
    (s.updWork n f).tick = s.tick ∧ (s.updWork n f).running = s.running ∧ (s.updWork n f).role = s.role ∧
    (s.updWork n f).regs = s.regs ∧ (s.updWork n f).mem = s.mem ∧ (s.updWork n f).marks = s.marks ∧
    (s.updWork n f).stalls = s.stalls ∧ (s.updWork n f).host = s.host ∧ (s.updWork n f).ports = s.ports ∧
    (s.updWork n f).htp = s.htp ∧ (s.updWork n f).rns = s.rns ∧ (s.updWork n f).inbox = s.inbox ∧
    (s.updWork n f).far = s.far ∧ (s.updWork n f).fmts = s.fmts ∧ (s.updWork n f).kvp = s.kvp ∧
    (s.updWork n f).dealloc = s.dealloc ∧ (s.updWork n f).tem = s.tem ∧ (s.updWork n f).ped = s.ped ∧
    (s.updWork n f).ldg = s.ldg ∧ (s.updWork n f).pkh = s.pkh ∧ (s.updWork n f).cou = s.cou ∧ (s.updWork n f).grm = s.grm ∧
    (s.updWork n f).clk = s.clk ∧ (s.updWork n f).tck = s.tck ∧ (s.updWork n f).asy = s.asy ∧
    (s.updWork n f).holds = s.holds ∧ (s.updWork n f).lowStalls = s.lowStalls ∧ (s.updWork n f).groomLog = s.groomLog ∧
    (s.updWork n f).out = s.out ∧ (s.updWork n f).freeCtr = s.freeCtr ∧ (s.updWork n f).pending = s.pending := by
  refine ⟨rfl, rfl, rfl, rfl, rfl, rfl, rfl, rfl, rfl, rfl, rfl, rfl, rfl, rfl, rfl, rfl, rfl, rfl, rfl, rfl, rfl, rfl, rfl, rfl, rfl, rfl, rfl, rfl, rfl, rfl, rfl⟩

@[simp] theorem State.updPort_frame (s : State) (n : Nat) (f : Port → Port) :
    (s.updPort n f).tick = s.tick ∧ (s.updPort n f).running = s.running ∧ (s.updPort n f).role = s.role ∧
    (s.updPort n f).regs = s.regs ∧ (s.updPort n f).mem = s.mem ∧ (s.updPort n f).marks = s.marks ∧
    (s.updPort n f).stalls = s.stalls ∧ (s.updPort n f).host = s.host ∧ (s.updPort n f).htp = s.htp ∧
    (s.updPort n f).rns = s.rns ∧ (s.updPort n f).inbox = s.inbox ∧ (s.updPort n f).far = s.far ∧
    (s.updPort n f).fmts = s.fmts ∧ (s.updPort n f).kvp = s.kvp ∧ (s.updPort n f).works = s.works ∧
    (s.updPort n f).dealloc = s.dealloc ∧ (s.updPort n f).tem = s.tem ∧ (s.updPort n f).ped = s.ped ∧
    (s.updPort n f).ldg = s.ldg ∧ (s.updPort n f).pkh = s.pkh ∧ (s.updPort n f).cou = s.cou ∧ (s.updPort n f).grm = s.grm ∧
    (s.updPort n f).clk = s.clk ∧ (s.updPort n f).tck = s.tck ∧ (s.updPort n f).asy = s.asy ∧
    (s.updPort n f).holds = s.holds ∧ (s.updPort n f).lowStalls = s.lowStalls ∧ (s.updPort n f).groomLog = s.groomLog ∧
    (s.updPort n f).out = s.out ∧ (s.updPort n f).freeCtr = s.freeCtr ∧ (s.updPort n f).pending = s.pending := by
  refine ⟨rfl, rfl, rfl, rfl, rfl, rfl, rfl, rfl, rfl, rfl, rfl, rfl, rfl, rfl, rfl, rfl, rfl, rfl, rfl, rfl, rfl, rfl, rfl, rfl, rfl, rfl, rfl, rfl, rfl, rfl, rfl⟩

@[simp] theorem State.updDest_frame (s : State) (n : Nat) (f : Dest → Dest) :
    (s.updDest n f).tick = s.tick ∧ (s.updDest n f).running = s.running ∧ (s.updDest n f).role = s.role ∧
    (s.updDest n f).regs = s.regs ∧ (s.updDest n f).mem = s.mem ∧ (s.updDest n f).marks = s.marks ∧
    (s.updDest n f).stalls = s.stalls ∧ (s.updDest n f).host = s.host ∧ (s.updDest n f).ports = s.ports ∧
    (s.updDest n f).rns = s.rns ∧ (s.updDest n f).inbox = s.inbox ∧ (s.updDest n f).far = s.far ∧
    (s.updDest n f).fmts = s.fmts ∧ (s.updDest n f).kvp = s.kvp ∧ (s.updDest n f).works = s.works ∧
    (s.updDest n f).dealloc = s.dealloc ∧ (s.updDest n f).tem = s.tem ∧ (s.updDest n f).ped = s.ped ∧
    (s.updDest n f).ldg = s.ldg ∧ (s.updDest n f).pkh = s.pkh ∧ (s.updDest n f).cou = s.cou ∧ (s.updDest n f).grm = s.grm ∧
    (s.updDest n f).clk = s.clk ∧ (s.updDest n f).tck = s.tck ∧ (s.updDest n f).asy = s.asy ∧
    (s.updDest n f).holds = s.holds ∧ (s.updDest n f).lowStalls = s.lowStalls ∧ (s.updDest n f).groomLog = s.groomLog ∧
    (s.updDest n f).out = s.out ∧ (s.updDest n f).freeCtr = s.freeCtr ∧ (s.updDest n f).pending = s.pending := by
  refine ⟨rfl, rfl, rfl, rfl, rfl, rfl, rfl, rfl, rfl, rfl, rfl, rfl, rfl, rfl, rfl, rfl, rfl, rfl, rfl, rfl, rfl, rfl, rfl, rfl, rfl, rfl, rfl, rfl, rfl, rfl, rfl⟩

@[simp] theorem State.updRx_frame (s : State) (n : Nat) (f : RxPair → RxPair) :
    (s.updRx n f).tick = s.tick ∧ (s.updRx n f).running = s.running ∧ (s.updRx n f).role = s.role ∧
    (s.updRx n f).regs = s.regs ∧ (s.updRx n f).mem = s.mem ∧ (s.updRx n f).marks = s.marks ∧
    (s.updRx n f).stalls = s.stalls ∧ (s.updRx n f).host = s.host ∧ (s.updRx n f).ports = s.ports ∧
    (s.updRx n f).rns = s.rns ∧ (s.updRx n f).inbox = s.inbox ∧ (s.updRx n f).far = s.far ∧ (s.updRx n f).fmts = s.fmts ∧
    (s.updRx n f).kvp = s.kvp ∧ (s.updRx n f).works = s.works ∧ (s.updRx n f).dealloc = s.dealloc ∧
    (s.updRx n f).tem = s.tem ∧ (s.updRx n f).ped = s.ped ∧ (s.updRx n f).ldg = s.ldg ∧ (s.updRx n f).pkh = s.pkh ∧
    (s.updRx n f).cou = s.cou ∧ (s.updRx n f).grm = s.grm ∧ (s.updRx n f).clk = s.clk ∧ (s.updRx n f).tck = s.tck ∧
    (s.updRx n f).asy = s.asy ∧ (s.updRx n f).holds = s.holds ∧ (s.updRx n f).lowStalls = s.lowStalls ∧
    (s.updRx n f).groomLog = s.groomLog ∧ (s.updRx n f).out = s.out ∧ (s.updRx n f).freeCtr = s.freeCtr ∧
    (s.updRx n f).pending = s.pending := by
  unfold State.updRx; split <;> simp

@[simp] theorem State.updAux_frame (s : State) (n : Nat) (f : TeamAux → TeamAux) :
    (s.updAux n f).tick = s.tick ∧ (s.updAux n f).running = s.running ∧ (s.updAux n f).role = s.role ∧
    (s.updAux n f).regs = s.regs ∧ (s.updAux n f).mem = s.mem ∧ (s.updAux n f).marks = s.marks ∧
    (s.updAux n f).stalls = s.stalls ∧ (s.updAux n f).host = s.host ∧ (s.updAux n f).ports = s.ports ∧
    (s.updAux n f).htp = s.htp ∧ (s.updAux n f).rns = s.rns ∧ (s.updAux n f).inbox = s.inbox ∧ (s.updAux n f).far = s.far ∧
    (s.updAux n f).fmts = s.fmts ∧ (s.updAux n f).kvp = s.kvp ∧ (s.updAux n f).works = s.works ∧
    (s.updAux n f).dealloc = s.dealloc ∧ (s.updAux n f).ped = s.ped ∧ (s.updAux n f).ldg = s.ldg ∧
    (s.updAux n f).pkh = s.pkh ∧ (s.updAux n f).cou = s.cou ∧ (s.updAux n f).grm = s.grm ∧ (s.updAux n f).clk = s.clk ∧
    (s.updAux n f).tck = s.tck ∧ (s.updAux n f).asy = s.asy ∧ (s.updAux n f).holds = s.holds ∧
    (s.updAux n f).lowStalls = s.lowStalls ∧ (s.updAux n f).groomLog = s.groomLog ∧ (s.updAux n f).out = s.out ∧
    (s.updAux n f).freeCtr = s.freeCtr ∧ (s.updAux n f).pending = s.pending := by
  refine ⟨rfl, rfl, rfl, rfl, rfl, rfl, rfl, rfl, rfl, rfl, rfl, rfl, rfl, rfl, rfl, rfl, rfl, rfl, rfl, rfl, rfl, rfl, rfl, rfl, rfl, rfl, rfl, rfl, rfl, rfl, rfl⟩

@[simp] theorem State.updPace_frame (s : State) (n : Nat) (f : PaceAcc → PaceAcc) :
    (s.updPace n f).tick = s.tick ∧ (s.updPace n f).running = s.running ∧ (s.updPace n f).role = s.role ∧
    (s.updPace n f).regs = s.regs ∧ (s.updPace n f).mem = s.mem ∧ (s.updPace n f).marks = s.marks ∧
    (s.updPace n f).stalls = s.stalls ∧ (s.updPace n f).host = s.host ∧ (s.updPace n f).ports = s.ports ∧
    (s.updPace n f).htp = s.htp ∧ (s.updPace n f).inbox = s.inbox ∧ (s.updPace n f).far = s.far ∧
    (s.updPace n f).fmts = s.fmts ∧ (s.updPace n f).kvp = s.kvp ∧ (s.updPace n f).works = s.works ∧
    (s.updPace n f).dealloc = s.dealloc ∧ (s.updPace n f).tem = s.tem ∧ (s.updPace n f).ped = s.ped ∧
    (s.updPace n f).ldg = s.ldg ∧ (s.updPace n f).pkh = s.pkh ∧ (s.updPace n f).cou = s.cou ∧ (s.updPace n f).grm = s.grm ∧
    (s.updPace n f).clk = s.clk ∧ (s.updPace n f).tck = s.tck ∧ (s.updPace n f).asy = s.asy ∧
    (s.updPace n f).holds = s.holds ∧ (s.updPace n f).lowStalls = s.lowStalls ∧ (s.updPace n f).groomLog = s.groomLog ∧
    (s.updPace n f).out = s.out ∧ (s.updPace n f).freeCtr = s.freeCtr ∧ (s.updPace n f).pending = s.pending := by
  refine ⟨rfl, rfl, rfl, rfl, rfl, rfl, rfl, rfl, rfl, rfl, rfl, rfl, rfl, rfl, rfl, rfl, rfl, rfl, rfl, rfl, rfl, rfl, rfl, rfl, rfl, rfl, rfl, rfl, rfl, rfl, rfl⟩

@[simp] theorem State.updHolder_frame (s : State) (n : Nat) (f : Holder → Holder) :
    (s.updHolder n f).tick = s.tick ∧ (s.updHolder n f).running = s.running ∧ (s.updHolder n f).role = s.role ∧
    (s.updHolder n f).regs = s.regs ∧ (s.updHolder n f).mem = s.mem ∧ (s.updHolder n f).marks = s.marks ∧
    (s.updHolder n f).stalls = s.stalls ∧ (s.updHolder n f).host = s.host ∧ (s.updHolder n f).ports = s.ports ∧
    (s.updHolder n f).htp = s.htp ∧ (s.updHolder n f).rns = s.rns ∧ (s.updHolder n f).inbox = s.inbox ∧
    (s.updHolder n f).far = s.far ∧ (s.updHolder n f).fmts = s.fmts ∧ (s.updHolder n f).kvp = s.kvp ∧
    (s.updHolder n f).works = s.works ∧ (s.updHolder n f).dealloc = s.dealloc ∧ (s.updHolder n f).tem = s.tem ∧
    (s.updHolder n f).ldg = s.ldg ∧ (s.updHolder n f).pkh = s.pkh ∧ (s.updHolder n f).cou = s.cou ∧
    (s.updHolder n f).grm = s.grm ∧ (s.updHolder n f).clk = s.clk ∧ (s.updHolder n f).tck = s.tck ∧
    (s.updHolder n f).asy = s.asy ∧ (s.updHolder n f).holds = s.holds ∧ (s.updHolder n f).lowStalls = s.lowStalls ∧
    (s.updHolder n f).groomLog = s.groomLog ∧ (s.updHolder n f).out = s.out ∧ (s.updHolder n f).freeCtr = s.freeCtr ∧
    (s.updHolder n f).pending = s.pending := by
  unfold State.updHolder; split <;> simp

@[simp] theorem State.updRegion_frame (s : State) (n : Nat) (f : Region → Region) :
    (s.updRegion n f).tick = s.tick ∧ (s.updRegion n f).running = s.running ∧ (s.updRegion n f).role = s.role ∧
    (s.updRegion n f).regs = s.regs ∧ (s.updRegion n f).mem = s.mem ∧ (s.updRegion n f).marks = s.marks ∧
    (s.updRegion n f).stalls = s.stalls ∧ (s.updRegion n f).host = s.host ∧ (s.updRegion n f).ports = s.ports ∧
    (s.updRegion n f).htp = s.htp ∧ (s.updRegion n f).rns = s.rns ∧ (s.updRegion n f).inbox = s.inbox ∧
    (s.updRegion n f).far = s.far ∧ (s.updRegion n f).fmts = s.fmts ∧ (s.updRegion n f).kvp = s.kvp ∧
    (s.updRegion n f).works = s.works ∧ (s.updRegion n f).dealloc = s.dealloc ∧ (s.updRegion n f).ped = s.ped ∧
    (s.updRegion n f).ldg = s.ldg ∧ (s.updRegion n f).pkh = s.pkh ∧ (s.updRegion n f).cou = s.cou ∧
    (s.updRegion n f).grm = s.grm ∧ (s.updRegion n f).clk = s.clk ∧ (s.updRegion n f).tck = s.tck ∧
    (s.updRegion n f).asy = s.asy ∧ (s.updRegion n f).holds = s.holds ∧ (s.updRegion n f).lowStalls = s.lowStalls ∧
    (s.updRegion n f).groomLog = s.groomLog ∧ (s.updRegion n f).out = s.out ∧ (s.updRegion n f).freeCtr = s.freeCtr ∧
    (s.updRegion n f).pending = s.pending := by
  refine ⟨rfl, rfl, rfl, rfl, rfl, rfl, rfl, rfl, rfl, rfl, rfl, rfl, rfl, rfl, rfl, rfl, rfl, rfl, rfl, rfl, rfl, rfl, rfl, rfl, rfl, rfl, rfl, rfl, rfl, rfl, rfl⟩

@[simp] theorem State.updHome_frame (s : State) (n : Nat) (f : HomeAux → HomeAux) :
    (s.updHome n f).tick = s.tick ∧ (s.updHome n f).running = s.running ∧ (s.updHome n f).role = s.role ∧
    (s.updHome n f).regs = s.regs ∧ (s.updHome n f).mem = s.mem ∧ (s.updHome n f).marks = s.marks ∧
    (s.updHome n f).stalls = s.stalls ∧ (s.updHome n f).host = s.host ∧ (s.updHome n f).ports = s.ports ∧
    (s.updHome n f).htp = s.htp ∧ (s.updHome n f).rns = s.rns ∧ (s.updHome n f).inbox = s.inbox ∧
    (s.updHome n f).far = s.far ∧ (s.updHome n f).fmts = s.fmts ∧ (s.updHome n f).kvp = s.kvp ∧
    (s.updHome n f).works = s.works ∧ (s.updHome n f).dealloc = s.dealloc ∧ (s.updHome n f).tem = s.tem ∧
    (s.updHome n f).ped = s.ped ∧ (s.updHome n f).pkh = s.pkh ∧ (s.updHome n f).cou = s.cou ∧ (s.updHome n f).grm = s.grm ∧
    (s.updHome n f).clk = s.clk ∧ (s.updHome n f).tck = s.tck ∧ (s.updHome n f).asy = s.asy ∧
    (s.updHome n f).holds = s.holds ∧ (s.updHome n f).lowStalls = s.lowStalls ∧ (s.updHome n f).groomLog = s.groomLog ∧
    (s.updHome n f).out = s.out ∧ (s.updHome n f).freeCtr = s.freeCtr ∧ (s.updHome n f).pending = s.pending := by
  unfold State.updHome; split <;> simp

@[simp] theorem State.updAq_frame (s : State) (n : Nat) (f : AdmitQueue → AdmitQueue) :
    (s.updAq n f).tick = s.tick ∧ (s.updAq n f).running = s.running ∧ (s.updAq n f).role = s.role ∧
    (s.updAq n f).regs = s.regs ∧ (s.updAq n f).mem = s.mem ∧ (s.updAq n f).marks = s.marks ∧
    (s.updAq n f).stalls = s.stalls ∧ (s.updAq n f).host = s.host ∧ (s.updAq n f).ports = s.ports ∧
    (s.updAq n f).htp = s.htp ∧ (s.updAq n f).rns = s.rns ∧ (s.updAq n f).inbox = s.inbox ∧ (s.updAq n f).far = s.far ∧
    (s.updAq n f).fmts = s.fmts ∧ (s.updAq n f).kvp = s.kvp ∧ (s.updAq n f).works = s.works ∧
    (s.updAq n f).dealloc = s.dealloc ∧ (s.updAq n f).tem = s.tem ∧ (s.updAq n f).ped = s.ped ∧ (s.updAq n f).pkh = s.pkh ∧
    (s.updAq n f).cou = s.cou ∧ (s.updAq n f).grm = s.grm ∧ (s.updAq n f).clk = s.clk ∧ (s.updAq n f).tck = s.tck ∧
    (s.updAq n f).asy = s.asy ∧ (s.updAq n f).holds = s.holds ∧ (s.updAq n f).lowStalls = s.lowStalls ∧
    (s.updAq n f).groomLog = s.groomLog ∧ (s.updAq n f).out = s.out ∧ (s.updAq n f).freeCtr = s.freeCtr ∧
    (s.updAq n f).pending = s.pending := by
  refine ⟨rfl, rfl, rfl, rfl, rfl, rfl, rfl, rfl, rfl, rfl, rfl, rfl, rfl, rfl, rfl, rfl, rfl, rfl, rfl, rfl, rfl, rfl, rfl, rfl, rfl, rfl, rfl, rfl, rfl, rfl, rfl⟩

@[simp] theorem State.updBuf_frame (s : State) (n : Nat) (f : WBuf → WBuf) :
    (s.updBuf n f).tick = s.tick ∧ (s.updBuf n f).running = s.running ∧ (s.updBuf n f).role = s.role ∧
    (s.updBuf n f).regs = s.regs ∧ (s.updBuf n f).mem = s.mem ∧ (s.updBuf n f).marks = s.marks ∧
    (s.updBuf n f).stalls = s.stalls ∧ (s.updBuf n f).host = s.host ∧ (s.updBuf n f).ports = s.ports ∧
    (s.updBuf n f).htp = s.htp ∧ (s.updBuf n f).rns = s.rns ∧ (s.updBuf n f).inbox = s.inbox ∧ (s.updBuf n f).far = s.far ∧
    (s.updBuf n f).fmts = s.fmts ∧ (s.updBuf n f).kvp = s.kvp ∧ (s.updBuf n f).works = s.works ∧
    (s.updBuf n f).dealloc = s.dealloc ∧ (s.updBuf n f).tem = s.tem ∧ (s.updBuf n f).ped = s.ped ∧
    (s.updBuf n f).ldg = s.ldg ∧ (s.updBuf n f).cou = s.cou ∧ (s.updBuf n f).grm = s.grm ∧ (s.updBuf n f).clk = s.clk ∧
    (s.updBuf n f).tck = s.tck ∧ (s.updBuf n f).asy = s.asy ∧ (s.updBuf n f).holds = s.holds ∧
    (s.updBuf n f).lowStalls = s.lowStalls ∧ (s.updBuf n f).groomLog = s.groomLog ∧ (s.updBuf n f).out = s.out ∧
    (s.updBuf n f).freeCtr = s.freeCtr ∧ (s.updBuf n f).pending = s.pending := by
  refine ⟨rfl, rfl, rfl, rfl, rfl, rfl, rfl, rfl, rfl, rfl, rfl, rfl, rfl, rfl, rfl, rfl, rfl, rfl, rfl, rfl, rfl, rfl, rfl, rfl, rfl, rfl, rfl, rfl, rfl, rfl, rfl⟩

@[simp] theorem State.updConn_frame (s : State) (n : Nat) (f : Conn → Conn) :
    (s.updConn n f).tick = s.tick ∧ (s.updConn n f).running = s.running ∧ (s.updConn n f).role = s.role ∧
    (s.updConn n f).regs = s.regs ∧ (s.updConn n f).mem = s.mem ∧ (s.updConn n f).marks = s.marks ∧
    (s.updConn n f).stalls = s.stalls ∧ (s.updConn n f).host = s.host ∧ (s.updConn n f).ports = s.ports ∧
    (s.updConn n f).htp = s.htp ∧ (s.updConn n f).rns = s.rns ∧ (s.updConn n f).inbox = s.inbox ∧
    (s.updConn n f).far = s.far ∧ (s.updConn n f).fmts = s.fmts ∧ (s.updConn n f).kvp = s.kvp ∧
    (s.updConn n f).works = s.works ∧ (s.updConn n f).dealloc = s.dealloc ∧ (s.updConn n f).tem = s.tem ∧
    (s.updConn n f).ped = s.ped ∧ (s.updConn n f).ldg = s.ldg ∧ (s.updConn n f).pkh = s.pkh ∧ (s.updConn n f).grm = s.grm ∧
    (s.updConn n f).clk = s.clk ∧ (s.updConn n f).tck = s.tck ∧ (s.updConn n f).asy = s.asy ∧
    (s.updConn n f).holds = s.holds ∧ (s.updConn n f).lowStalls = s.lowStalls ∧ (s.updConn n f).groomLog = s.groomLog ∧
    (s.updConn n f).out = s.out ∧ (s.updConn n f).freeCtr = s.freeCtr ∧ (s.updConn n f).pending = s.pending := by
  refine ⟨rfl, rfl, rfl, rfl, rfl, rfl, rfl, rfl, rfl, rfl, rfl, rfl, rfl, rfl, rfl, rfl, rfl, rfl, rfl, rfl, rfl, rfl, rfl, rfl, rfl, rfl, rfl, rfl, rfl, rfl, rfl⟩

@[simp] theorem State.updFmt_frame (s : State) (n : Nat) (f : FmtUnit → FmtUnit) :
    (s.updFmt n f).tick = s.tick ∧ (s.updFmt n f).running = s.running ∧ (s.updFmt n f).role = s.role ∧
    (s.updFmt n f).regs = s.regs ∧ (s.updFmt n f).mem = s.mem ∧ (s.updFmt n f).marks = s.marks ∧
    (s.updFmt n f).stalls = s.stalls ∧ (s.updFmt n f).host = s.host ∧ (s.updFmt n f).ports = s.ports ∧
    (s.updFmt n f).htp = s.htp ∧ (s.updFmt n f).rns = s.rns ∧ (s.updFmt n f).inbox = s.inbox ∧ (s.updFmt n f).far = s.far ∧
    (s.updFmt n f).kvp = s.kvp ∧ (s.updFmt n f).works = s.works ∧ (s.updFmt n f).dealloc = s.dealloc ∧
    (s.updFmt n f).tem = s.tem ∧ (s.updFmt n f).ped = s.ped ∧ (s.updFmt n f).ldg = s.ldg ∧ (s.updFmt n f).pkh = s.pkh ∧
    (s.updFmt n f).cou = s.cou ∧ (s.updFmt n f).grm = s.grm ∧ (s.updFmt n f).clk = s.clk ∧ (s.updFmt n f).tck = s.tck ∧
    (s.updFmt n f).asy = s.asy ∧ (s.updFmt n f).holds = s.holds ∧ (s.updFmt n f).lowStalls = s.lowStalls ∧
    (s.updFmt n f).groomLog = s.groomLog ∧ (s.updFmt n f).out = s.out ∧ (s.updFmt n f).freeCtr = s.freeCtr ∧
    (s.updFmt n f).pending = s.pending := by
  refine ⟨rfl, rfl, rfl, rfl, rfl, rfl, rfl, rfl, rfl, rfl, rfl, rfl, rfl, rfl, rfl, rfl, rfl, rfl, rfl, rfl, rfl, rfl, rfl, rfl, rfl, rfl, rfl, rfl, rfl, rfl, rfl⟩

@[simp] theorem State.setConn_frame (s : State) (n : Nat) (x : Conn) :
    (s.setConn n x).tick = s.tick ∧ (s.setConn n x).running = s.running ∧ (s.setConn n x).role = s.role ∧
    (s.setConn n x).regs = s.regs ∧ (s.setConn n x).mem = s.mem ∧ (s.setConn n x).marks = s.marks ∧
    (s.setConn n x).stalls = s.stalls ∧ (s.setConn n x).host = s.host ∧ (s.setConn n x).ports = s.ports ∧
    (s.setConn n x).htp = s.htp ∧ (s.setConn n x).rns = s.rns ∧ (s.setConn n x).inbox = s.inbox ∧
    (s.setConn n x).far = s.far ∧ (s.setConn n x).fmts = s.fmts ∧ (s.setConn n x).kvp = s.kvp ∧
    (s.setConn n x).works = s.works ∧ (s.setConn n x).dealloc = s.dealloc ∧ (s.setConn n x).tem = s.tem ∧
    (s.setConn n x).ped = s.ped ∧ (s.setConn n x).ldg = s.ldg ∧ (s.setConn n x).pkh = s.pkh ∧ (s.setConn n x).grm = s.grm ∧
    (s.setConn n x).clk = s.clk ∧ (s.setConn n x).tck = s.tck ∧ (s.setConn n x).asy = s.asy ∧
    (s.setConn n x).holds = s.holds ∧ (s.setConn n x).lowStalls = s.lowStalls ∧ (s.setConn n x).groomLog = s.groomLog ∧
    (s.setConn n x).out = s.out ∧ (s.setConn n x).freeCtr = s.freeCtr ∧ (s.setConn n x).pending = s.pending := by
  refine ⟨rfl, rfl, rfl, rfl, rfl, rfl, rfl, rfl, rfl, rfl, rfl, rfl, rfl, rfl, rfl, rfl, rfl, rfl, rfl, rfl, rfl, rfl, rfl, rfl, rfl, rfl, rfl, rfl, rfl, rfl, rfl⟩

@[simp] theorem State.setSplit_frame (s : State) (n : Nat) (x : Split) :
    (s.setSplit n x).tick = s.tick ∧ (s.setSplit n x).running = s.running ∧ (s.setSplit n x).role = s.role ∧
    (s.setSplit n x).regs = s.regs ∧ (s.setSplit n x).mem = s.mem ∧ (s.setSplit n x).marks = s.marks ∧
    (s.setSplit n x).stalls = s.stalls ∧ (s.setSplit n x).host = s.host ∧ (s.setSplit n x).ports = s.ports ∧
    (s.setSplit n x).htp = s.htp ∧ (s.setSplit n x).rns = s.rns ∧ (s.setSplit n x).inbox = s.inbox ∧
    (s.setSplit n x).far = s.far ∧ (s.setSplit n x).fmts = s.fmts ∧ (s.setSplit n x).kvp = s.kvp ∧
    (s.setSplit n x).works = s.works ∧ (s.setSplit n x).dealloc = s.dealloc ∧ (s.setSplit n x).tem = s.tem ∧
    (s.setSplit n x).ped = s.ped ∧ (s.setSplit n x).pkh = s.pkh ∧ (s.setSplit n x).cou = s.cou ∧
    (s.setSplit n x).grm = s.grm ∧ (s.setSplit n x).clk = s.clk ∧ (s.setSplit n x).tck = s.tck ∧
    (s.setSplit n x).asy = s.asy ∧ (s.setSplit n x).holds = s.holds ∧ (s.setSplit n x).lowStalls = s.lowStalls ∧
    (s.setSplit n x).groomLog = s.groomLog ∧ (s.setSplit n x).out = s.out ∧ (s.setSplit n x).freeCtr = s.freeCtr ∧
    (s.setSplit n x).pending = s.pending := by
  refine ⟨rfl, rfl, rfl, rfl, rfl, rfl, rfl, rfl, rfl, rfl, rfl, rfl, rfl, rfl, rfl, rfl, rfl, rfl, rfl, rfl, rfl, rfl, rfl, rfl, rfl, rfl, rfl, rfl, rfl, rfl, rfl⟩

@[simp] theorem State.setCtx_frame (s : State) (x : OwnerCtx) :
    (s.setCtx x).tick = s.tick ∧ (s.setCtx x).running = s.running ∧ (s.setCtx x).role = s.role ∧
    (s.setCtx x).regs = s.regs ∧ (s.setCtx x).mem = s.mem ∧ (s.setCtx x).marks = s.marks ∧ (s.setCtx x).stalls = s.stalls ∧
    (s.setCtx x).host = s.host ∧ (s.setCtx x).ports = s.ports ∧ (s.setCtx x).htp = s.htp ∧ (s.setCtx x).rns = s.rns ∧
    (s.setCtx x).inbox = s.inbox ∧ (s.setCtx x).far = s.far ∧ (s.setCtx x).fmts = s.fmts ∧ (s.setCtx x).kvp = s.kvp ∧
    (s.setCtx x).works = s.works ∧ (s.setCtx x).dealloc = s.dealloc ∧ (s.setCtx x).tem = s.tem ∧ (s.setCtx x).ped = s.ped ∧
    (s.setCtx x).pkh = s.pkh ∧ (s.setCtx x).cou = s.cou ∧ (s.setCtx x).grm = s.grm ∧ (s.setCtx x).clk = s.clk ∧
    (s.setCtx x).tck = s.tck ∧ (s.setCtx x).asy = s.asy ∧ (s.setCtx x).holds = s.holds ∧
    (s.setCtx x).lowStalls = s.lowStalls ∧ (s.setCtx x).groomLog = s.groomLog ∧ (s.setCtx x).out = s.out ∧
    (s.setCtx x).freeCtr = s.freeCtr ∧ (s.setCtx x).pending = s.pending := by
  refine ⟨rfl, rfl, rfl, rfl, rfl, rfl, rfl, rfl, rfl, rfl, rfl, rfl, rfl, rfl, rfl, rfl, rfl, rfl, rfl, rfl, rfl, rfl, rfl, rfl, rfl, rfl, rfl, rfl, rfl, rfl, rfl⟩

@[simp] theorem State.setMove_frame (s : State) (x : Move) :
    (s.setMove x).tick = s.tick ∧ (s.setMove x).running = s.running ∧ (s.setMove x).role = s.role ∧
    (s.setMove x).regs = s.regs ∧ (s.setMove x).mem = s.mem ∧ (s.setMove x).marks = s.marks ∧
    (s.setMove x).stalls = s.stalls ∧ (s.setMove x).host = s.host ∧ (s.setMove x).ports = s.ports ∧
    (s.setMove x).htp = s.htp ∧ (s.setMove x).rns = s.rns ∧ (s.setMove x).inbox = s.inbox ∧ (s.setMove x).far = s.far ∧
    (s.setMove x).fmts = s.fmts ∧ (s.setMove x).kvp = s.kvp ∧ (s.setMove x).works = s.works ∧
    (s.setMove x).dealloc = s.dealloc ∧ (s.setMove x).tem = s.tem ∧ (s.setMove x).ped = s.ped ∧ (s.setMove x).ldg = s.ldg ∧
    (s.setMove x).cou = s.cou ∧ (s.setMove x).grm = s.grm ∧ (s.setMove x).clk = s.clk ∧ (s.setMove x).tck = s.tck ∧
    (s.setMove x).asy = s.asy ∧ (s.setMove x).holds = s.holds ∧ (s.setMove x).lowStalls = s.lowStalls ∧
    (s.setMove x).groomLog = s.groomLog ∧ (s.setMove x).out = s.out ∧ (s.setMove x).freeCtr = s.freeCtr ∧
    (s.setMove x).pending = s.pending := by
  refine ⟨rfl, rfl, rfl, rfl, rfl, rfl, rfl, rfl, rfl, rfl, rfl, rfl, rfl, rfl, rfl, rfl, rfl, rfl, rfl, rfl, rfl, rfl, rfl, rfl, rfl, rfl, rfl, rfl, rfl, rfl, rfl⟩

@[simp] theorem State.setCmd_frame (s : State) (x : PkhCmd) :
    (s.setCmd x).tick = s.tick ∧ (s.setCmd x).running = s.running ∧ (s.setCmd x).role = s.role ∧
    (s.setCmd x).regs = s.regs ∧ (s.setCmd x).mem = s.mem ∧ (s.setCmd x).marks = s.marks ∧ (s.setCmd x).stalls = s.stalls ∧
    (s.setCmd x).host = s.host ∧ (s.setCmd x).ports = s.ports ∧ (s.setCmd x).htp = s.htp ∧ (s.setCmd x).rns = s.rns ∧
    (s.setCmd x).inbox = s.inbox ∧ (s.setCmd x).far = s.far ∧ (s.setCmd x).fmts = s.fmts ∧ (s.setCmd x).kvp = s.kvp ∧
    (s.setCmd x).works = s.works ∧ (s.setCmd x).dealloc = s.dealloc ∧ (s.setCmd x).tem = s.tem ∧ (s.setCmd x).ped = s.ped ∧
    (s.setCmd x).ldg = s.ldg ∧ (s.setCmd x).cou = s.cou ∧ (s.setCmd x).grm = s.grm ∧ (s.setCmd x).clk = s.clk ∧
    (s.setCmd x).tck = s.tck ∧ (s.setCmd x).asy = s.asy ∧ (s.setCmd x).holds = s.holds ∧
    (s.setCmd x).lowStalls = s.lowStalls ∧ (s.setCmd x).groomLog = s.groomLog ∧ (s.setCmd x).out = s.out ∧
    (s.setCmd x).freeCtr = s.freeCtr ∧ (s.setCmd x).pending = s.pending := by
  refine ⟨rfl, rfl, rfl, rfl, rfl, rfl, rfl, rfl, rfl, rfl, rfl, rfl, rfl, rfl, rfl, rfl, rfl, rfl, rfl, rfl, rfl, rfl, rfl, rfl, rfl, rfl, rfl, rfl, rfl, rfl, rfl⟩

@[simp] theorem State.setFill_frame (s : State) (x : Fill) :
    (s.setFill x).tick = s.tick ∧ (s.setFill x).running = s.running ∧ (s.setFill x).role = s.role ∧
    (s.setFill x).regs = s.regs ∧ (s.setFill x).mem = s.mem ∧ (s.setFill x).marks = s.marks ∧
    (s.setFill x).stalls = s.stalls ∧ (s.setFill x).host = s.host ∧ (s.setFill x).ports = s.ports ∧
    (s.setFill x).htp = s.htp ∧ (s.setFill x).rns = s.rns ∧ (s.setFill x).inbox = s.inbox ∧ (s.setFill x).far = s.far ∧
    (s.setFill x).fmts = s.fmts ∧ (s.setFill x).kvp = s.kvp ∧ (s.setFill x).works = s.works ∧
    (s.setFill x).dealloc = s.dealloc ∧ (s.setFill x).tem = s.tem ∧ (s.setFill x).ped = s.ped ∧ (s.setFill x).ldg = s.ldg ∧
    (s.setFill x).cou = s.cou ∧ (s.setFill x).grm = s.grm ∧ (s.setFill x).clk = s.clk ∧ (s.setFill x).tck = s.tck ∧
    (s.setFill x).asy = s.asy ∧ (s.setFill x).holds = s.holds ∧ (s.setFill x).lowStalls = s.lowStalls ∧
    (s.setFill x).groomLog = s.groomLog ∧ (s.setFill x).out = s.out ∧ (s.setFill x).freeCtr = s.freeCtr ∧
    (s.setFill x).pending = s.pending := by
  refine ⟨rfl, rfl, rfl, rfl, rfl, rfl, rfl, rfl, rfl, rfl, rfl, rfl, rfl, rfl, rfl, rfl, rfl, rfl, rfl, rfl, rfl, rfl, rfl, rfl, rfl, rfl, rfl, rfl, rfl, rfl, rfl⟩

/-! ### Register writes, tallies, messages and event records -/

@[simp] theorem State.setReg_frame (s : State) (o v : Nat) :
    (s.setReg o v).tick = s.tick ∧ (s.setReg o v).running = s.running ∧ (s.setReg o v).role = s.role ∧
    (s.setReg o v).mem = s.mem ∧ (s.setReg o v).marks = s.marks ∧ (s.setReg o v).stalls = s.stalls ∧
    (s.setReg o v).host = s.host ∧ (s.setReg o v).ports = s.ports ∧ (s.setReg o v).htp = s.htp ∧
    (s.setReg o v).rns = s.rns ∧ (s.setReg o v).inbox = s.inbox ∧ (s.setReg o v).far = s.far ∧
    (s.setReg o v).fmts = s.fmts ∧ (s.setReg o v).kvp = s.kvp ∧ (s.setReg o v).works = s.works ∧
    (s.setReg o v).dealloc = s.dealloc ∧ (s.setReg o v).tem = s.tem ∧ (s.setReg o v).ped = s.ped ∧
    (s.setReg o v).ldg = s.ldg ∧ (s.setReg o v).pkh = s.pkh ∧ (s.setReg o v).cou = s.cou ∧ (s.setReg o v).grm = s.grm ∧
    (s.setReg o v).clk = s.clk ∧ (s.setReg o v).tck = s.tck ∧ (s.setReg o v).asy = s.asy ∧ (s.setReg o v).holds = s.holds ∧
    (s.setReg o v).lowStalls = s.lowStalls ∧ (s.setReg o v).groomLog = s.groomLog ∧ (s.setReg o v).out = s.out ∧
    (s.setReg o v).freeCtr = s.freeCtr ∧ (s.setReg o v).pending = s.pending := by
  unfold State.setReg; split <;> simp

@[simp] theorem State.setFld_frame (s : State) (o : Nat) (f : Field) (v : Nat) :
    (s.setFld o f v).tick = s.tick ∧ (s.setFld o f v).running = s.running ∧ (s.setFld o f v).role = s.role ∧
    (s.setFld o f v).mem = s.mem ∧ (s.setFld o f v).marks = s.marks ∧ (s.setFld o f v).stalls = s.stalls ∧
    (s.setFld o f v).host = s.host ∧ (s.setFld o f v).ports = s.ports ∧ (s.setFld o f v).htp = s.htp ∧
    (s.setFld o f v).rns = s.rns ∧ (s.setFld o f v).inbox = s.inbox ∧ (s.setFld o f v).far = s.far ∧
    (s.setFld o f v).fmts = s.fmts ∧ (s.setFld o f v).kvp = s.kvp ∧ (s.setFld o f v).works = s.works ∧
    (s.setFld o f v).dealloc = s.dealloc ∧ (s.setFld o f v).tem = s.tem ∧ (s.setFld o f v).ped = s.ped ∧
    (s.setFld o f v).ldg = s.ldg ∧ (s.setFld o f v).pkh = s.pkh ∧ (s.setFld o f v).cou = s.cou ∧
    (s.setFld o f v).grm = s.grm ∧ (s.setFld o f v).clk = s.clk ∧ (s.setFld o f v).tck = s.tck ∧
    (s.setFld o f v).asy = s.asy ∧ (s.setFld o f v).holds = s.holds ∧ (s.setFld o f v).lowStalls = s.lowStalls ∧
    (s.setFld o f v).groomLog = s.groomLog ∧ (s.setFld o f v).out = s.out ∧ (s.setFld o f v).freeCtr = s.freeCtr ∧
    (s.setFld o f v).pending = s.pending := by
  simp [State.setFld]

@[simp] theorem State.bumpBy_frame (s : State) (o k : Nat) :
    (s.bumpBy o k).tick = s.tick ∧ (s.bumpBy o k).running = s.running ∧ (s.bumpBy o k).role = s.role ∧
    (s.bumpBy o k).mem = s.mem ∧ (s.bumpBy o k).marks = s.marks ∧ (s.bumpBy o k).stalls = s.stalls ∧
    (s.bumpBy o k).host = s.host ∧ (s.bumpBy o k).ports = s.ports ∧ (s.bumpBy o k).htp = s.htp ∧
    (s.bumpBy o k).rns = s.rns ∧ (s.bumpBy o k).inbox = s.inbox ∧ (s.bumpBy o k).far = s.far ∧
    (s.bumpBy o k).fmts = s.fmts ∧ (s.bumpBy o k).kvp = s.kvp ∧ (s.bumpBy o k).works = s.works ∧
    (s.bumpBy o k).dealloc = s.dealloc ∧ (s.bumpBy o k).tem = s.tem ∧ (s.bumpBy o k).ped = s.ped ∧
    (s.bumpBy o k).ldg = s.ldg ∧ (s.bumpBy o k).pkh = s.pkh ∧ (s.bumpBy o k).cou = s.cou ∧ (s.bumpBy o k).grm = s.grm ∧
    (s.bumpBy o k).clk = s.clk ∧ (s.bumpBy o k).tck = s.tck ∧ (s.bumpBy o k).asy = s.asy ∧ (s.bumpBy o k).holds = s.holds ∧
    (s.bumpBy o k).lowStalls = s.lowStalls ∧ (s.bumpBy o k).groomLog = s.groomLog ∧ (s.bumpBy o k).out = s.out ∧
    (s.bumpBy o k).freeCtr = s.freeCtr ∧ (s.bumpBy o k).pending = s.pending := by
  simp [State.bumpBy]

@[simp] theorem State.bump_frame (s : State) (o : Nat) :
    (s.bump o).tick = s.tick ∧ (s.bump o).running = s.running ∧ (s.bump o).role = s.role ∧ (s.bump o).mem = s.mem ∧
    (s.bump o).marks = s.marks ∧ (s.bump o).stalls = s.stalls ∧ (s.bump o).host = s.host ∧ (s.bump o).ports = s.ports ∧
    (s.bump o).htp = s.htp ∧ (s.bump o).rns = s.rns ∧ (s.bump o).inbox = s.inbox ∧ (s.bump o).far = s.far ∧
    (s.bump o).fmts = s.fmts ∧ (s.bump o).kvp = s.kvp ∧ (s.bump o).works = s.works ∧ (s.bump o).dealloc = s.dealloc ∧
    (s.bump o).tem = s.tem ∧ (s.bump o).ped = s.ped ∧ (s.bump o).ldg = s.ldg ∧ (s.bump o).pkh = s.pkh ∧
    (s.bump o).cou = s.cou ∧ (s.bump o).grm = s.grm ∧ (s.bump o).clk = s.clk ∧ (s.bump o).tck = s.tck ∧
    (s.bump o).asy = s.asy ∧ (s.bump o).holds = s.holds ∧ (s.bump o).lowStalls = s.lowStalls ∧
    (s.bump o).groomLog = s.groomLog ∧ (s.bump o).out = s.out ∧ (s.bump o).freeCtr = s.freeCtr ∧
    (s.bump o).pending = s.pending := by
  simp [State.bump]

@[simp] theorem State.blocked_frame (s : State) :
    (s.blocked).tick = s.tick ∧ (s.blocked).running = s.running ∧ (s.blocked).role = s.role ∧ (s.blocked).mem = s.mem ∧
    (s.blocked).marks = s.marks ∧ (s.blocked).stalls = s.stalls ∧ (s.blocked).host = s.host ∧ (s.blocked).ports = s.ports ∧
    (s.blocked).htp = s.htp ∧ (s.blocked).rns = s.rns ∧ (s.blocked).inbox = s.inbox ∧ (s.blocked).far = s.far ∧
    (s.blocked).fmts = s.fmts ∧ (s.blocked).kvp = s.kvp ∧ (s.blocked).works = s.works ∧ (s.blocked).dealloc = s.dealloc ∧
    (s.blocked).tem = s.tem ∧ (s.blocked).ped = s.ped ∧ (s.blocked).ldg = s.ldg ∧ (s.blocked).pkh = s.pkh ∧
    (s.blocked).cou = s.cou ∧ (s.blocked).grm = s.grm ∧ (s.blocked).clk = s.clk ∧ (s.blocked).tck = s.tck ∧
    (s.blocked).asy = s.asy ∧ (s.blocked).holds = s.holds ∧ (s.blocked).lowStalls = s.lowStalls ∧
    (s.blocked).groomLog = s.groomLog ∧ (s.blocked).out = s.out ∧ (s.blocked).freeCtr = s.freeCtr ∧
    (s.blocked).pending = s.pending := by
  simp [State.blocked]

@[simp] theorem State.hostWrite_frame (s : State) (a : Nat) (d : Bytes) :
    (s.hostWrite a d).tick = s.tick ∧ (s.hostWrite a d).running = s.running ∧ (s.hostWrite a d).role = s.role ∧
    (s.hostWrite a d).mem = s.mem ∧ (s.hostWrite a d).marks = s.marks ∧ (s.hostWrite a d).stalls = s.stalls ∧
    (s.hostWrite a d).host = s.host ∧ (s.hostWrite a d).ports = s.ports ∧ (s.hostWrite a d).htp = s.htp ∧
    (s.hostWrite a d).rns = s.rns ∧ (s.hostWrite a d).inbox = s.inbox ∧ (s.hostWrite a d).far = s.far ∧
    (s.hostWrite a d).fmts = s.fmts ∧ (s.hostWrite a d).kvp = s.kvp ∧ (s.hostWrite a d).works = s.works ∧
    (s.hostWrite a d).dealloc = s.dealloc ∧ (s.hostWrite a d).tem = s.tem ∧ (s.hostWrite a d).ped = s.ped ∧
    (s.hostWrite a d).ldg = s.ldg ∧ (s.hostWrite a d).pkh = s.pkh ∧ (s.hostWrite a d).cou = s.cou ∧
    (s.hostWrite a d).grm = s.grm ∧ (s.hostWrite a d).clk = s.clk ∧ (s.hostWrite a d).tck = s.tck ∧
    (s.hostWrite a d).asy = s.asy ∧ (s.hostWrite a d).holds = s.holds ∧ (s.hostWrite a d).lowStalls = s.lowStalls ∧
    (s.hostWrite a d).groomLog = s.groomLog ∧ (s.hostWrite a d).freeCtr = s.freeCtr ∧ (s.hostWrite a d).pending = s.pending := by
  unfold State.hostWrite; split <;> simp

@[simp] theorem State.msixSend_frame (s : State) (v : Nat) :
    (s.msixSend v).tick = s.tick ∧ (s.msixSend v).running = s.running ∧ (s.msixSend v).role = s.role ∧
    (s.msixSend v).mem = s.mem ∧ (s.msixSend v).marks = s.marks ∧ (s.msixSend v).stalls = s.stalls ∧
    (s.msixSend v).ports = s.ports ∧ (s.msixSend v).htp = s.htp ∧ (s.msixSend v).rns = s.rns ∧
    (s.msixSend v).inbox = s.inbox ∧ (s.msixSend v).far = s.far ∧ (s.msixSend v).fmts = s.fmts ∧
    (s.msixSend v).kvp = s.kvp ∧ (s.msixSend v).works = s.works ∧ (s.msixSend v).dealloc = s.dealloc ∧
    (s.msixSend v).tem = s.tem ∧ (s.msixSend v).ped = s.ped ∧ (s.msixSend v).ldg = s.ldg ∧ (s.msixSend v).pkh = s.pkh ∧
    (s.msixSend v).cou = s.cou ∧ (s.msixSend v).grm = s.grm ∧ (s.msixSend v).clk = s.clk ∧ (s.msixSend v).tck = s.tck ∧
    (s.msixSend v).asy = s.asy ∧ (s.msixSend v).holds = s.holds ∧ (s.msixSend v).lowStalls = s.lowStalls ∧
    (s.msixSend v).groomLog = s.groomLog ∧ (s.msixSend v).freeCtr = s.freeCtr ∧ (s.msixSend v).pending = s.pending := by
  unfold State.msixSend; dsimp only; split <;> simp

@[simp] theorem State.msixRaise_frame (s : State) (v : Nat) :
    (s.msixRaise v).tick = s.tick ∧ (s.msixRaise v).running = s.running ∧ (s.msixRaise v).role = s.role ∧
    (s.msixRaise v).mem = s.mem ∧ (s.msixRaise v).marks = s.marks ∧ (s.msixRaise v).stalls = s.stalls ∧
    (s.msixRaise v).ports = s.ports ∧ (s.msixRaise v).htp = s.htp ∧ (s.msixRaise v).rns = s.rns ∧
    (s.msixRaise v).inbox = s.inbox ∧ (s.msixRaise v).far = s.far ∧ (s.msixRaise v).fmts = s.fmts ∧
    (s.msixRaise v).kvp = s.kvp ∧ (s.msixRaise v).works = s.works ∧ (s.msixRaise v).dealloc = s.dealloc ∧
    (s.msixRaise v).tem = s.tem ∧ (s.msixRaise v).ped = s.ped ∧ (s.msixRaise v).ldg = s.ldg ∧ (s.msixRaise v).pkh = s.pkh ∧
    (s.msixRaise v).cou = s.cou ∧ (s.msixRaise v).grm = s.grm ∧ (s.msixRaise v).clk = s.clk ∧ (s.msixRaise v).tck = s.tck ∧
    (s.msixRaise v).asy = s.asy ∧ (s.msixRaise v).holds = s.holds ∧ (s.msixRaise v).lowStalls = s.lowStalls ∧
    (s.msixRaise v).groomLog = s.groomLog ∧ (s.msixRaise v).freeCtr = s.freeCtr ∧ (s.msixRaise v).pending = s.pending := by
  unfold State.msixRaise; dsimp only; repeat' split
  all_goals simp

@[simp] theorem State.setSummary_frame (s : State) (f : Field) :
    (s.setSummary f).tick = s.tick ∧ (s.setSummary f).running = s.running ∧ (s.setSummary f).role = s.role ∧
    (s.setSummary f).mem = s.mem ∧ (s.setSummary f).marks = s.marks ∧ (s.setSummary f).stalls = s.stalls ∧
    (s.setSummary f).ports = s.ports ∧ (s.setSummary f).htp = s.htp ∧ (s.setSummary f).rns = s.rns ∧
    (s.setSummary f).inbox = s.inbox ∧ (s.setSummary f).far = s.far ∧ (s.setSummary f).fmts = s.fmts ∧
    (s.setSummary f).kvp = s.kvp ∧ (s.setSummary f).works = s.works ∧ (s.setSummary f).dealloc = s.dealloc ∧
    (s.setSummary f).tem = s.tem ∧ (s.setSummary f).ped = s.ped ∧ (s.setSummary f).ldg = s.ldg ∧
    (s.setSummary f).pkh = s.pkh ∧ (s.setSummary f).cou = s.cou ∧ (s.setSummary f).grm = s.grm ∧
    (s.setSummary f).clk = s.clk ∧ (s.setSummary f).tck = s.tck ∧ (s.setSummary f).asy = s.asy ∧
    (s.setSummary f).holds = s.holds ∧ (s.setSummary f).lowStalls = s.lowStalls ∧ (s.setSummary f).groomLog = s.groomLog ∧
    (s.setSummary f).freeCtr = s.freeCtr ∧ (s.setSummary f).pending = s.pending := by
  unfold State.setSummary; split <;> simp

@[simp] theorem State.noteSev_frame (s : State) (sev : Nat) :
    (s.noteSev sev).tick = s.tick ∧ (s.noteSev sev).running = s.running ∧ (s.noteSev sev).role = s.role ∧
    (s.noteSev sev).mem = s.mem ∧ (s.noteSev sev).marks = s.marks ∧ (s.noteSev sev).stalls = s.stalls ∧
    (s.noteSev sev).ports = s.ports ∧ (s.noteSev sev).htp = s.htp ∧ (s.noteSev sev).rns = s.rns ∧
    (s.noteSev sev).inbox = s.inbox ∧ (s.noteSev sev).far = s.far ∧ (s.noteSev sev).fmts = s.fmts ∧
    (s.noteSev sev).kvp = s.kvp ∧ (s.noteSev sev).works = s.works ∧ (s.noteSev sev).dealloc = s.dealloc ∧
    (s.noteSev sev).tem = s.tem ∧ (s.noteSev sev).ped = s.ped ∧ (s.noteSev sev).ldg = s.ldg ∧ (s.noteSev sev).pkh = s.pkh ∧
    (s.noteSev sev).cou = s.cou ∧ (s.noteSev sev).grm = s.grm ∧ (s.noteSev sev).clk = s.clk ∧ (s.noteSev sev).tck = s.tck ∧
    (s.noteSev sev).asy = s.asy ∧ (s.noteSev sev).holds = s.holds ∧ (s.noteSev sev).lowStalls = s.lowStalls ∧
    (s.noteSev sev).groomLog = s.groomLog ∧ (s.noteSev sev).freeCtr = s.freeCtr ∧ (s.noteSev sev).pending = s.pending := by
  unfold State.noteSev; repeat' split
  all_goals simp

@[simp] theorem State.bufferEvent_frame (s : State) (e : Event) :
    (s.bufferEvent e).tick = s.tick ∧ (s.bufferEvent e).running = s.running ∧ (s.bufferEvent e).role = s.role ∧
    (s.bufferEvent e).mem = s.mem ∧ (s.bufferEvent e).marks = s.marks ∧ (s.bufferEvent e).stalls = s.stalls ∧
    (s.bufferEvent e).host = s.host ∧ (s.bufferEvent e).ports = s.ports ∧ (s.bufferEvent e).htp = s.htp ∧
    (s.bufferEvent e).rns = s.rns ∧ (s.bufferEvent e).inbox = s.inbox ∧ (s.bufferEvent e).fmts = s.fmts ∧
    (s.bufferEvent e).kvp = s.kvp ∧ (s.bufferEvent e).works = s.works ∧ (s.bufferEvent e).dealloc = s.dealloc ∧
    (s.bufferEvent e).tem = s.tem ∧ (s.bufferEvent e).ped = s.ped ∧ (s.bufferEvent e).ldg = s.ldg ∧
    (s.bufferEvent e).pkh = s.pkh ∧ (s.bufferEvent e).cou = s.cou ∧ (s.bufferEvent e).grm = s.grm ∧
    (s.bufferEvent e).clk = s.clk ∧ (s.bufferEvent e).tck = s.tck ∧ (s.bufferEvent e).asy = s.asy ∧
    (s.bufferEvent e).holds = s.holds ∧ (s.bufferEvent e).lowStalls = s.lowStalls ∧ (s.bufferEvent e).out = s.out ∧
    (s.bufferEvent e).freeCtr = s.freeCtr ∧ (s.bufferEvent e).pending = s.pending := by
  unfold State.bufferEvent; repeat' split
  all_goals simp

@[simp] theorem State.raise_frame (s : State) (tag code sev subject : Nat) (d : List Nat) :
    (s.raise tag code sev subject d).tick = s.tick ∧ (s.raise tag code sev subject d).running = s.running ∧
    (s.raise tag code sev subject d).role = s.role ∧ (s.raise tag code sev subject d).mem = s.mem ∧
    (s.raise tag code sev subject d).marks = s.marks ∧ (s.raise tag code sev subject d).stalls = s.stalls ∧
    (s.raise tag code sev subject d).ports = s.ports ∧ (s.raise tag code sev subject d).htp = s.htp ∧
    (s.raise tag code sev subject d).rns = s.rns ∧ (s.raise tag code sev subject d).inbox = s.inbox ∧
    (s.raise tag code sev subject d).fmts = s.fmts ∧ (s.raise tag code sev subject d).kvp = s.kvp ∧
    (s.raise tag code sev subject d).works = s.works ∧ (s.raise tag code sev subject d).dealloc = s.dealloc ∧
    (s.raise tag code sev subject d).tem = s.tem ∧ (s.raise tag code sev subject d).ped = s.ped ∧
    (s.raise tag code sev subject d).ldg = s.ldg ∧ (s.raise tag code sev subject d).pkh = s.pkh ∧
    (s.raise tag code sev subject d).cou = s.cou ∧ (s.raise tag code sev subject d).grm = s.grm ∧
    (s.raise tag code sev subject d).clk = s.clk ∧ (s.raise tag code sev subject d).tck = s.tck ∧
    (s.raise tag code sev subject d).asy = s.asy ∧ (s.raise tag code sev subject d).holds = s.holds ∧
    (s.raise tag code sev subject d).lowStalls = s.lowStalls ∧ (s.raise tag code sev subject d).freeCtr = s.freeCtr ∧
    (s.raise tag code sev subject d).pending = s.pending := by
  simp [State.raise]

@[simp] theorem State.structLost_frame (s : State) (t st i : Nat) :
    (s.structLost t st i).tick = s.tick ∧ (s.structLost t st i).running = s.running ∧ (s.structLost t st i).role = s.role ∧
    (s.structLost t st i).mem = s.mem ∧ (s.structLost t st i).marks = s.marks ∧ (s.structLost t st i).stalls = s.stalls ∧
    (s.structLost t st i).ports = s.ports ∧ (s.structLost t st i).htp = s.htp ∧ (s.structLost t st i).rns = s.rns ∧
    (s.structLost t st i).inbox = s.inbox ∧ (s.structLost t st i).fmts = s.fmts ∧ (s.structLost t st i).kvp = s.kvp ∧
    (s.structLost t st i).works = s.works ∧ (s.structLost t st i).dealloc = s.dealloc ∧ (s.structLost t st i).tem = s.tem ∧
    (s.structLost t st i).ped = s.ped ∧ (s.structLost t st i).ldg = s.ldg ∧ (s.structLost t st i).pkh = s.pkh ∧
    (s.structLost t st i).cou = s.cou ∧ (s.structLost t st i).grm = s.grm ∧ (s.structLost t st i).clk = s.clk ∧
    (s.structLost t st i).tck = s.tck ∧ (s.structLost t st i).asy = s.asy ∧ (s.structLost t st i).holds = s.holds ∧
    (s.structLost t st i).lowStalls = s.lowStalls ∧ (s.structLost t st i).freeCtr = s.freeCtr ∧
    (s.structLost t st i).pending = s.pending := by
  simp [State.structLost]

@[simp] theorem State.setService_frame (s : State) (n : Nat) (x : Service) :
    (s.setService n x).tick = s.tick ∧ (s.setService n x).running = s.running ∧ (s.setService n x).role = s.role ∧
    (s.setService n x).mem = s.mem ∧ (s.setService n x).marks = s.marks ∧ (s.setService n x).ports = s.ports ∧
    (s.setService n x).htp = s.htp ∧ (s.setService n x).rns = s.rns ∧ (s.setService n x).inbox = s.inbox ∧
    (s.setService n x).fmts = s.fmts ∧ (s.setService n x).kvp = s.kvp ∧ (s.setService n x).works = s.works ∧
    (s.setService n x).dealloc = s.dealloc ∧ (s.setService n x).tem = s.tem ∧ (s.setService n x).ped = s.ped ∧
    (s.setService n x).ldg = s.ldg ∧ (s.setService n x).pkh = s.pkh ∧ (s.setService n x).cou = s.cou ∧
    (s.setService n x).grm = s.grm ∧ (s.setService n x).clk = s.clk ∧ (s.setService n x).tck = s.tck ∧
    (s.setService n x).asy = s.asy ∧ (s.setService n x).holds = s.holds ∧ (s.setService n x).lowStalls = s.lowStalls ∧
    (s.setService n x).freeCtr = s.freeCtr ∧ (s.setService n x).pending = s.pending := by
  unfold State.setService; dsimp only; split <;> simp

@[simp] theorem State.setVault_frame (s : State) (x : Nat) :
    (s.setVault x).tick = s.tick ∧ (s.setVault x).running = s.running ∧ (s.setVault x).role = s.role ∧
    (s.setVault x).mem = s.mem ∧ (s.setVault x).marks = s.marks ∧ (s.setVault x).stalls = s.stalls ∧
    (s.setVault x).host = s.host ∧ (s.setVault x).ports = s.ports ∧ (s.setVault x).htp = s.htp ∧
    (s.setVault x).rns = s.rns ∧ (s.setVault x).inbox = s.inbox ∧ (s.setVault x).far = s.far ∧
    (s.setVault x).fmts = s.fmts ∧ (s.setVault x).kvp = s.kvp ∧ (s.setVault x).works = s.works ∧
    (s.setVault x).dealloc = s.dealloc ∧ (s.setVault x).tem = s.tem ∧ (s.setVault x).ped = s.ped ∧
    (s.setVault x).ldg = s.ldg ∧ (s.setVault x).pkh = s.pkh ∧ (s.setVault x).cou = s.cou ∧ (s.setVault x).grm = s.grm ∧
    (s.setVault x).clk = s.clk ∧ (s.setVault x).tck = s.tck ∧ (s.setVault x).asy = s.asy ∧ (s.setVault x).holds = s.holds ∧
    (s.setVault x).lowStalls = s.lowStalls ∧ (s.setVault x).groomLog = s.groomLog ∧ (s.setVault x).out = s.out ∧
    (s.setVault x).freeCtr = s.freeCtr ∧ (s.setVault x).pending = s.pending := by
  simp [State.setVault]

@[simp] theorem State.setPhase_frame (s : State) (x : Nat) :
    (s.setPhase x).tick = s.tick ∧ (s.setPhase x).running = s.running ∧ (s.setPhase x).role = s.role ∧
    (s.setPhase x).mem = s.mem ∧ (s.setPhase x).marks = s.marks ∧ (s.setPhase x).stalls = s.stalls ∧
    (s.setPhase x).host = s.host ∧ (s.setPhase x).ports = s.ports ∧ (s.setPhase x).htp = s.htp ∧
    (s.setPhase x).rns = s.rns ∧ (s.setPhase x).inbox = s.inbox ∧ (s.setPhase x).far = s.far ∧
    (s.setPhase x).fmts = s.fmts ∧ (s.setPhase x).kvp = s.kvp ∧ (s.setPhase x).works = s.works ∧
    (s.setPhase x).dealloc = s.dealloc ∧ (s.setPhase x).tem = s.tem ∧ (s.setPhase x).ped = s.ped ∧
    (s.setPhase x).ldg = s.ldg ∧ (s.setPhase x).pkh = s.pkh ∧ (s.setPhase x).cou = s.cou ∧ (s.setPhase x).grm = s.grm ∧
    (s.setPhase x).clk = s.clk ∧ (s.setPhase x).tck = s.tck ∧ (s.setPhase x).asy = s.asy ∧ (s.setPhase x).holds = s.holds ∧
    (s.setPhase x).lowStalls = s.lowStalls ∧ (s.setPhase x).groomLog = s.groomLog ∧ (s.setPhase x).out = s.out ∧
    (s.setPhase x).freeCtr = s.freeCtr ∧ (s.setPhase x).pending = s.pending := by
  simp [State.setPhase]

@[simp] theorem State.writeField_frame (s : State) (o : Nat) (d : FieldDesc) (x : Nat) :
    (s.writeField o d x).tick = s.tick ∧ (s.writeField o d x).running = s.running ∧ (s.writeField o d x).role = s.role ∧
    (s.writeField o d x).mem = s.mem ∧ (s.writeField o d x).marks = s.marks ∧ (s.writeField o d x).stalls = s.stalls ∧
    (s.writeField o d x).host = s.host ∧ (s.writeField o d x).ports = s.ports ∧ (s.writeField o d x).htp = s.htp ∧
    (s.writeField o d x).rns = s.rns ∧ (s.writeField o d x).inbox = s.inbox ∧ (s.writeField o d x).far = s.far ∧
    (s.writeField o d x).fmts = s.fmts ∧ (s.writeField o d x).kvp = s.kvp ∧ (s.writeField o d x).works = s.works ∧
    (s.writeField o d x).dealloc = s.dealloc ∧ (s.writeField o d x).tem = s.tem ∧ (s.writeField o d x).ped = s.ped ∧
    (s.writeField o d x).ldg = s.ldg ∧ (s.writeField o d x).pkh = s.pkh ∧ (s.writeField o d x).cou = s.cou ∧
    (s.writeField o d x).grm = s.grm ∧ (s.writeField o d x).clk = s.clk ∧ (s.writeField o d x).tck = s.tck ∧
    (s.writeField o d x).asy = s.asy ∧ (s.writeField o d x).holds = s.holds ∧
    (s.writeField o d x).lowStalls = s.lowStalls ∧ (s.writeField o d x).groomLog = s.groomLog ∧
    (s.writeField o d x).out = s.out ∧ (s.writeField o d x).freeCtr = s.freeCtr ∧ (s.writeField o d x).pending = s.pending := by
  unfold State.writeField; dsimp only; repeat' split
  all_goals simp

@[simp] theorem State.writeFields_frame (l : List FieldDesc) (s : State) (o x : Nat) :
    (l.foldl (fun s f => s.writeField o f x) s).tick = s.tick ∧
    (l.foldl (fun s f => s.writeField o f x) s).running = s.running ∧
    (l.foldl (fun s f => s.writeField o f x) s).role = s.role ∧ (l.foldl (fun s f => s.writeField o f x) s).mem = s.mem ∧
    (l.foldl (fun s f => s.writeField o f x) s).marks = s.marks ∧
    (l.foldl (fun s f => s.writeField o f x) s).stalls = s.stalls ∧
    (l.foldl (fun s f => s.writeField o f x) s).host = s.host ∧
    (l.foldl (fun s f => s.writeField o f x) s).ports = s.ports ∧ (l.foldl (fun s f => s.writeField o f x) s).htp = s.htp ∧
    (l.foldl (fun s f => s.writeField o f x) s).rns = s.rns ∧ (l.foldl (fun s f => s.writeField o f x) s).inbox = s.inbox ∧
    (l.foldl (fun s f => s.writeField o f x) s).far = s.far ∧ (l.foldl (fun s f => s.writeField o f x) s).fmts = s.fmts ∧
    (l.foldl (fun s f => s.writeField o f x) s).kvp = s.kvp ∧ (l.foldl (fun s f => s.writeField o f x) s).works = s.works ∧
    (l.foldl (fun s f => s.writeField o f x) s).dealloc = s.dealloc ∧
    (l.foldl (fun s f => s.writeField o f x) s).tem = s.tem ∧ (l.foldl (fun s f => s.writeField o f x) s).ped = s.ped ∧
    (l.foldl (fun s f => s.writeField o f x) s).ldg = s.ldg ∧ (l.foldl (fun s f => s.writeField o f x) s).pkh = s.pkh ∧
    (l.foldl (fun s f => s.writeField o f x) s).cou = s.cou ∧ (l.foldl (fun s f => s.writeField o f x) s).grm = s.grm ∧
    (l.foldl (fun s f => s.writeField o f x) s).clk = s.clk ∧ (l.foldl (fun s f => s.writeField o f x) s).tck = s.tck ∧
    (l.foldl (fun s f => s.writeField o f x) s).asy = s.asy ∧ (l.foldl (fun s f => s.writeField o f x) s).holds = s.holds ∧
    (l.foldl (fun s f => s.writeField o f x) s).lowStalls = s.lowStalls ∧
    (l.foldl (fun s f => s.writeField o f x) s).groomLog = s.groomLog ∧
    (l.foldl (fun s f => s.writeField o f x) s).out = s.out ∧
    (l.foldl (fun s f => s.writeField o f x) s).freeCtr = s.freeCtr ∧
    (l.foldl (fun s f => s.writeField o f x) s).pending = s.pending := by
  induction l generalizing s with
  | nil => simp
  | cons d l ih => rw [List.foldl_cons]; simp [ih]

@[simp] theorem State.rawWrite_frame (s : State) (o x : Nat) :
    (s.rawWrite o x).tick = s.tick ∧ (s.rawWrite o x).running = s.running ∧ (s.rawWrite o x).role = s.role ∧
    (s.rawWrite o x).mem = s.mem ∧ (s.rawWrite o x).marks = s.marks ∧ (s.rawWrite o x).stalls = s.stalls ∧
    (s.rawWrite o x).host = s.host ∧ (s.rawWrite o x).ports = s.ports ∧ (s.rawWrite o x).htp = s.htp ∧
    (s.rawWrite o x).rns = s.rns ∧ (s.rawWrite o x).inbox = s.inbox ∧ (s.rawWrite o x).far = s.far ∧
    (s.rawWrite o x).fmts = s.fmts ∧ (s.rawWrite o x).kvp = s.kvp ∧ (s.rawWrite o x).works = s.works ∧
    (s.rawWrite o x).dealloc = s.dealloc ∧ (s.rawWrite o x).tem = s.tem ∧ (s.rawWrite o x).ped = s.ped ∧
    (s.rawWrite o x).ldg = s.ldg ∧ (s.rawWrite o x).pkh = s.pkh ∧ (s.rawWrite o x).cou = s.cou ∧
    (s.rawWrite o x).grm = s.grm ∧ (s.rawWrite o x).clk = s.clk ∧ (s.rawWrite o x).tck = s.tck ∧
    (s.rawWrite o x).asy = s.asy ∧ (s.rawWrite o x).holds = s.holds ∧ (s.rawWrite o x).lowStalls = s.lowStalls ∧
    (s.rawWrite o x).groomLog = s.groomLog ∧ (s.rawWrite o x).out = s.out ∧ (s.rawWrite o x).freeCtr = s.freeCtr ∧
    (s.rawWrite o x).pending = s.pending := by
  unfold State.rawWrite; split <;> simp

end Sys2Proof.Machine
end

