-- ==== Sys2Proof/Laws/Tab.lean ====
section
/-!
SUPPORT. Laws/Tab.lean: the laws of the sparse table and of HBM bytes: what a read gives after a write, and that the canonical
form is kept.
-/
namespace Sys2Proof.Machine

@[simp] theorem Tab.get?_put_same {α : Type} (t : Tab α) (k : Nat) (v : α) : (t.put k v).get? k = some v := by
  induction t with
  | nil => simp [Tab.put, Tab.get?]
  | cons c t ih =>
    obtain ⟨k', v'⟩ := c
    simp only [Tab.put]
    split
    · simp [Tab.get?]
    · split
      · simp [Tab.get?]
      · rename_i h; simp [Tab.get?, h, ih]

theorem Tab.get?_put_other {α : Type} (t : Tab α) {k j : Nat} (v : α) (h : j ≠ k) : (t.put k v).get? j = t.get? j := by
  induction t with
  | nil => simp [Tab.put, Tab.get?, h]
  | cons c t ih =>
    obtain ⟨k', v'⟩ := c
    simp only [Tab.put]
    split
    · simp [Tab.get?, h]
    · split
      · rename_i e; subst e; simp [Tab.get?, h]
      · simp [Tab.get?, ih]

@[simp] theorem Tab.get?_del_same {α : Type} (t : Tab α) (k : Nat) : (t.del k).get? k = none := by
  induction t with
  | nil => rfl
  | cons c t ih =>
    obtain ⟨k', v'⟩ := c
    simp only [Tab.del]
    split
    · exact ih
    · rename_i h; simp [Tab.get?, h, ih]

theorem Tab.get?_del_other {α : Type} (t : Tab α) {k j : Nat} (h : j ≠ k) : (t.del k).get? j = t.get? j := by
  induction t with
  | nil => rfl
  | cons c t ih =>
    obtain ⟨k', v'⟩ := c
    simp only [Tab.del]
    split
    · rename_i e; subst e; simp [Tab.get?, h, ih]
    · simp [Tab.get?, ih]

@[simp] theorem Tab.getD_put_same {α : Type} (t : Tab α) (k : Nat) (v d : α) : (t.put k v).getD k d = v := by
  simp [Tab.getD]

theorem Tab.getD_put_other {α : Type} (t : Tab α) {k j : Nat} (v d : α) (h : j ≠ k) :
    (t.put k v).getD j d = t.getD j d := by
  simp [Tab.getD, Tab.get?_put_other t v h]

/-! ### The canonical form -/

theorem Tab.risingFrom_mono {α : Type} {a b : Nat} (h : a ≤ b) {t : Tab α} (w : t.risingFrom b = true) :
    t.risingFrom a = true := by
  cases t with
  | nil => rfl
  | cons c t =>
    simp only [Tab.risingFrom, Bool.and_eq_true, decide_eq_true_eq] at w ⊢
    exact ⟨Nat.le_trans h w.1, w.2⟩

theorem Tab.risingFrom_put {α : Type} (t : Tab α) (a k : Nat) (v : α) (h : a ≤ k) (w : t.risingFrom a = true) :
    (t.put k v).risingFrom a = true := by
  induction t generalizing a with
  | nil => simpa [Tab.put, Tab.risingFrom] using h
  | cons c t ih =>
    obtain ⟨k', v'⟩ := c
    simp only [Tab.risingFrom, Bool.and_eq_true, decide_eq_true_eq] at w
    simp only [Tab.put]
    split
    · simp only [Tab.risingFrom, Bool.and_eq_true, decide_eq_true_eq]; exact ⟨h, by omega, w.2⟩
    · split
      · rename_i e; subst e; simp only [Tab.risingFrom, Bool.and_eq_true, decide_eq_true_eq]; exact w
      · simp only [Tab.risingFrom, Bool.and_eq_true, decide_eq_true_eq]
        exact ⟨w.1, ih _ (by omega) w.2⟩

theorem Tab.risingFrom_del {α : Type} (t : Tab α) (a k : Nat) (w : t.risingFrom a = true) :
    (t.del k).risingFrom a = true := by
  induction t generalizing a with
  | nil => exact w
  | cons c t ih =>
    obtain ⟨k', v'⟩ := c
    simp only [Tab.risingFrom, Bool.and_eq_true, decide_eq_true_eq] at w
    simp only [Tab.del]
    split
    · exact ih _ (Tab.risingFrom_mono (by omega) w.2)
    · simp only [Tab.risingFrom, Bool.and_eq_true, decide_eq_true_eq]; exact ⟨w.1, ih _ w.2⟩

theorem Tab.sorted_put {α : Type} {t : Tab α} (k : Nat) (v : α) (w : t.sorted = true) : (t.put k v).sorted = true :=
  Tab.risingFrom_put t 0 k v (Nat.zero_le _) w

theorem Tab.sorted_del {α : Type} {t : Tab α} (k : Nat) (w : t.sorted = true) : (t.del k).sorted = true :=
  Tab.risingFrom_del t 0 k w

theorem Memory.noZero_put (m : Memory) (a : Nat) (v : Byte) (h : v ≠ 0) (w : Memory.noZero m = true) :
    Memory.noZero (Tab.put m a v) = true := by
  have hv : (v != 0) = true := by simpa using h
  induction m with
  | nil => simp only [Tab.put, Memory.noZero, List.all_cons, List.all_nil, hv, Bool.and_self]
  | cons c m ih =>
    obtain ⟨k', v'⟩ := c
    simp only [Memory.noZero, List.all_cons, Bool.and_eq_true] at w ih ⊢
    simp only [Tab.put]
    split
    · simp only [List.all_cons, Bool.and_eq_true]; exact ⟨hv, w⟩
    · split
      · simp only [List.all_cons, Bool.and_eq_true]; exact ⟨hv, w.2⟩
      · simp only [List.all_cons, Bool.and_eq_true]; exact ⟨w.1, ih w.2⟩

theorem Memory.noZero_del (m : Memory) (a : Nat) (w : Memory.noZero m = true) : Memory.noZero (Tab.del m a) = true := by
  induction m with
  | nil => rfl
  | cons c m ih =>
    obtain ⟨k', v'⟩ := c
    simp only [Memory.noZero, List.all_cons, Bool.and_eq_true] at w ih ⊢
    simp only [Tab.del]
    split
    · exact ih w.2
    · simp only [List.all_cons, Bool.and_eq_true]; exact ⟨w.1, ih w.2⟩

theorem Memory.wf_set (m : Memory) (a : Nat) (v : Byte) (w : Memory.wf m = true) : Memory.wf (Memory.set m a v) = true := by
  simp only [Memory.wf, Bool.and_eq_true] at w ⊢
  unfold Memory.set
  split
  · exact ⟨Tab.sorted_del _ w.1, Memory.noZero_del _ _ w.2⟩
  · rename_i h; exact ⟨Tab.sorted_put _ _ w.1, Memory.noZero_put _ _ _ h w.2⟩

/-- A write of any bytes keeps HBM canonical. -/
theorem Memory.wf_write (bs : Bytes) (m : Memory) (a : Nat) (w : Memory.wf m = true) :
    Memory.wf (Memory.write m a bs) = true := by
  induction bs generalizing m a with
  | nil => exact w
  | cons b bs ih => exact ih _ _ (Memory.wf_set m a b w)

/-- Keeping only some of the listed bytes keeps HBM canonical. -/
theorem Memory.wf_filter (p : Nat × Byte → Bool) (m : Memory) (w : Memory.wf m = true) :
    Memory.wf (m.filter p) = true := by
  have rise : ∀ (a : Nat) (m : Memory), Tab.risingFrom a m = true → Tab.risingFrom a (m.filter p) = true := by
    intro a m
    induction m generalizing a with
    | nil => exact id
    | cons c m ih =>
      obtain ⟨k, v⟩ := c
      intro w
      simp only [Tab.risingFrom, Bool.and_eq_true, decide_eq_true_eq] at w
      rw [List.filter_cons]
      split
      · simp only [Tab.risingFrom, Bool.and_eq_true, decide_eq_true_eq]; exact ⟨w.1, ih _ w.2⟩
      · exact ih _ (Tab.risingFrom_mono (by omega) w.2)
  simp only [Memory.wf, Bool.and_eq_true, Memory.noZero, List.all_eq_true, List.mem_filter] at w ⊢
  exact ⟨rise 0 m w.1, fun x hx => w.2 x hx.1⟩

/-! ### A read after a write -/

theorem Memory.byte_set_same (m : Memory) (a : Nat) (v : Byte) : Memory.byte (Memory.set m a v) a = v := by
  unfold Memory.byte Memory.set
  split
  · rename_i h; simp [Tab.getD, h]
  · simp [Tab.getD]

theorem Memory.byte_set_other (m : Memory) {a b : Nat} (v : Byte) (h : b ≠ a) :
    Memory.byte (Memory.set m a v) b = Memory.byte m b := by
  unfold Memory.byte Memory.set
  split
  · simp [Tab.getD, Tab.get?_del_other m h]
  · simp [Tab.getD, Tab.get?_put_other m v h]

/-- A write leaves every byte outside its range as it was. -/
theorem Memory.byte_write_outside (bs : Bytes) (m : Memory) (a b : Nat) (h : b < a ∨ a + bs.length ≤ b) :
    Memory.byte (Memory.write m a bs) b = Memory.byte m b := by
  induction bs generalizing m a with
  | nil => rfl
  | cons v bs ih =>
    simp only [List.length_cons] at h
    simp only [Memory.write]
    rw [ih _ _ (by omega), Memory.byte_set_other _ _ (by omega)]

/-- A byte within a write's range reads as written. -/
theorem Memory.byte_write_inside (bs : Bytes) (m : Memory) (a i : Nat) (h : i < bs.length) :
    Memory.byte (Memory.write m a bs) (a + i) = bs[i] := by
  induction bs generalizing m a i with
  | nil => simp at h
  | cons v bs ih =>
    cases i with
    | zero =>
      simp only [Memory.write, Nat.add_zero, List.getElem_cons_zero]
      rw [Memory.byte_write_outside _ _ _ _ (by omega), Memory.byte_set_same]
    | succ i =>
      simp only [Memory.write, List.getElem_cons_succ]
      have := ih (Memory.set m a v) (a + 1) i (by simpa using h)
      rw [show a + 1 + i = a + (i + 1) by omega] at this
      exact this

end Sys2Proof.Machine
end

