-- ==== Sys2Proof/Laws/Ops.lean ====
section
/-!
SUPPORT. Laws/Ops.lean: the laws of the shared operations: bit fields, registers after a write, what raising an event or a
message adds, and memory after a line write.
-/
namespace Sys2Proof.Machine

/-! ### Bit fields -/

theorem testBit_bits (v hi lo i : Nat) : (bits v hi lo).testBit i = (decide (i < hi + 1 - lo) && v.testBit (lo + i)) := by
  unfold bits
  rw [Nat.testBit_mod_two_pow, Nat.testBit_div_two_pow, Nat.add_comm i lo]

theorem setBits_eq (v hi lo x : Nat) :
    setBits v hi lo x = 2 ^ lo * (2 ^ (hi + 1 - lo) * (v / 2 ^ lo / 2 ^ (hi + 1 - lo)) + x % 2 ^ (hi + 1 - lo)) + v % 2 ^ lo := by
  unfold setBits bits
  have h1 := Nat.div_add_mod v (2 ^ lo)
  have h2 := Nat.div_add_mod (v / 2 ^ lo) (2 ^ (hi + 1 - lo))
  generalize 2 ^ lo = L at *
  generalize 2 ^ (hi + 1 - lo) = M at *
  generalize v / L = q at *
  generalize x % M = y
  generalize v % L = r at *
  generalize hb : q % M = b at *
  generalize q / M = a at *
  subst h2
  subst h1
  rw [Nat.mul_add, Nat.mul_add, Nat.mul_comm b L, Nat.mul_comm y L]
  omega

theorem testBit_setBits (v hi lo x i : Nat) (h : lo ≤ hi + 1) :
    (setBits v hi lo x).testBit i = if lo ≤ i ∧ i ≤ hi then x.testBit (i - lo) else v.testBit i := by
  rw [setBits_eq, Nat.testBit_two_pow_mul_add _ (Nat.mod_lt _ (Nat.two_pow_pos _))]
  split
  · rename_i hlt
    rw [if_neg (by omega), Nat.testBit_mod_two_pow]; simp [hlt]
  · rename_i hge
    rw [Nat.testBit_two_pow_mul_add _ (Nat.mod_lt _ (Nat.two_pow_pos _))]
    split
    · rw [if_pos (by omega), Nat.testBit_mod_two_pow]; simp; omega
    · rw [if_neg (by omega), Nat.testBit_div_two_pow, Nat.testBit_div_two_pow]
      congr 1; omega

@[simp] theorem bits_setBits_same (v hi lo x : Nat) (h : lo ≤ hi + 1) : bits (setBits v hi lo x) hi lo = x % 2 ^ (hi + 1 - lo) := by
  apply Nat.eq_of_testBit_eq; intro i
  rw [testBit_bits, testBit_setBits _ _ _ _ _ h, Nat.testBit_mod_two_pow]
  by_cases hi' : i < hi + 1 - lo
  · rw [if_pos (by omega)]; simp
  · simp [hi']

theorem bits_setBits_other (v hi lo x hi' lo' : Nat) (h : lo ≤ hi + 1) (d : hi < lo' ∨ hi' < lo) : bits (setBits v hi lo x) hi' lo' = bits v hi' lo' := by
  apply Nat.eq_of_testBit_eq; intro i
  rw [testBit_bits, testBit_bits, testBit_setBits _ _ _ _ _ h]
  by_cases q : i < hi' + 1 - lo'
  · rw [if_neg (by omega)]
  · simp [q]

theorem bits_mod (v hi lo : Nat) (h : hi < 32) : bits (v % 2 ^ 32) hi lo = bits v hi lo := by
  apply Nat.eq_of_testBit_eq; intro i
  rw [testBit_bits, testBit_bits, Nat.testBit_mod_two_pow]
  by_cases q : i < hi + 1 - lo
  · have : lo + i < 32 := by omega
    simp [this]
  · simp [q]

/-! ### Registers -/

@[simp] theorem State.reg_setReg_same (s : State) (o v : Nat) : (s.setReg o v).reg o = v % 2 ^ 32 := by
  by_cases h : v % 2 ^ 32 = regReset o
  · simp only [State.setReg, State.reg, if_pos h, Tab.get?_del_same]; exact h.symm
  · simp only [State.setReg, State.reg, if_neg h, Tab.get?_put_same, BitVec.toNat_ofNat]

theorem State.reg_setReg_other (s : State) {o j : Nat} (v : Nat) (h : j ≠ o) : (s.setReg o v).reg j = s.reg j := by
  by_cases e : v % 2 ^ 32 = regReset o
  · simp only [State.setReg, State.reg, if_pos e, Tab.get?_del_other _ h]
  · simp only [State.setReg, State.reg, if_neg e, Tab.get?_put_other _ _ h]

theorem State.reg_setFld_other (s : State) {o j : Nat} (f : Field) (v : Nat) (h : j ≠ o) : (s.setFld o f v).reg j = s.reg j :=
  State.reg_setReg_other s _ h

theorem State.fld_setFld_other (s : State) {o j : Nat} (f g : Field) (v : Nat) (h : j ≠ o) : (s.setFld o f v).fld j g = s.fld j g := by
  unfold State.fld; rw [State.reg_setFld_other _ _ _ h]

theorem State.fld_setFld_same (s : State) (o : Nat) (f : Field) (v : Nat) (h : f.hi < 32) (l : f.lo ≤ f.hi + 1) :
    (s.setFld o f v).fld o f = v % 2 ^ (f.hi + 1 - f.lo) := by
  unfold State.fld State.setFld
  rw [State.reg_setReg_same, bits_mod _ _ _ h, bits_setBits_same _ _ _ _ l]

theorem State.fld_setFld_apart (s : State) (o : Nat) (f g : Field) (v : Nat) (h : g.hi < 32) (l : f.lo ≤ f.hi + 1)
    (d : f.hi < g.lo ∨ g.hi < f.lo) : (s.setFld o f v).fld o g = s.fld o g := by
  unfold State.fld State.setFld
  rw [State.reg_setReg_same, bits_mod _ _ _ h, bits_setBits_other _ _ _ _ _ _ l d]
@[simp] theorem State.reg_draw (s : State) (o : Nat) : s.draw.2.reg o = s.reg o := rfl

@[simp] theorem State.reg_emit (s : State) (x : Out) (o : Nat) : (s.emit x).reg o = s.reg o := rfl

@[simp] theorem State.reg_groomLogPush (s : State) (e : Event) (o : Nat) : (s.groomLogPush e).reg o = s.reg o := rfl

theorem State.reg_bumpBy_same (s : State) (o k : Nat) : (s.bumpBy o k).reg o = (s.reg o + k) % 2 ^ 32 := by
  simp [State.bumpBy, wrap32]

theorem State.reg_bump_same (s : State) (o : Nat) : (s.bump o).reg o = (s.reg o + 1) % 2 ^ 32 := State.reg_bumpBy_same s o 1

theorem State.reg_bump_other (s : State) {o j : Nat} (h : j ≠ o) : (s.bump o).reg j = s.reg j :=
  State.reg_setReg_other s _ h

/-! ### Messages and event records -/

/-- A message, sent or blocked, changes no register but HST_STATUS and HST_BLOCKED. -/
theorem State.reg_msixSend (s : State) (v j : Nat) (h1 : j ≠ Reg.HST_STATUS) (h2 : j ≠ Reg.HST_BLOCKED) :
    (s.msixSend v).reg j = s.reg j := by
  unfold State.msixSend
  dsimp only
  split
  · rfl
  · rw [State.blocked, State.reg_bump_other _ h2, State.reg_setFld_other _ _ _ h1]; rfl

theorem State.reg_msixRaise (s : State) (v j : Nat) (h1 : j ≠ Reg.HST_STATUS) (h2 : j ≠ Reg.HST_BLOCKED) :
    (s.msixRaise v).reg j = s.reg j := by
  unfold State.msixRaise
  dsimp only
  repeat' split
  all_goals first | rfl | exact State.reg_msixSend s v j h1 h2

theorem State.reg_setSummary (s : State) (f : Field) (j : Nat) (h1 : j ≠ Reg.HST_STATUS) (h2 : j ≠ Reg.HST_BLOCKED)
    (h3 : j ≠ Reg.GLB_SUMMARY) : (s.setSummary f).reg j = s.reg j := by
  unfold State.setSummary
  split
  · rfl
  · rw [State.reg_msixRaise _ _ _ h1 h2, State.reg_setFld_other _ _ _ h3]

theorem State.reg_noteSev (s : State) (sev j : Nat) (h1 : j ≠ Reg.HST_STATUS) (h2 : j ≠ Reg.HST_BLOCKED)
    (h3 : j ≠ Reg.GLB_SUMMARY) : (s.noteSev sev).reg j = s.reg j := by
  unfold State.noteSev
  repeat' split
  all_goals first | rfl | exact State.reg_setSummary s _ j h1 h2 h3

theorem State.reg_bufferEvent (s : State) (e : Event) (j : Nat) (h : j ≠ Reg.FAR_EV_DROP) :
    (s.bufferEvent e).reg j = s.reg j := by
  unfold State.bufferEvent
  repeat' split
  all_goals first | rfl | exact State.reg_bump_other s h

/-- An event record changes no register but GLB_SUMMARY, FAR_EV_DROP and those of a message. -/
theorem State.reg_raise (s : State) (tag code sev subject : Nat) (d : List Nat) (j : Nat) (h1 : j ≠ Reg.HST_STATUS)
    (h2 : j ≠ Reg.HST_BLOCKED) (h3 : j ≠ Reg.GLB_SUMMARY) (h4 : j ≠ Reg.FAR_EV_DROP) :
    (s.raise tag code sev subject d).reg j = s.reg j :=
  (State.reg_bufferEvent _ _ j h4).trans (State.reg_noteSev s sev j h1 h2 h3)

/-- A raise puts its record last in Farrier's buffer while the buffer has room. -/
theorem State.raise_events (s : State) (tag code sev subject : Nat) (d : List Nat) (h : s.far.events.length < 256) :
    (s.raise tag code sev subject d).far.events = s.far.events ++ [s.record tag code sev subject d] := by
  have e : (s.noteSev sev).far = s.far := by simp
  unfold State.raise State.bufferEvent
  rw [e, if_pos h]

/-- A raise changes nothing of Farrier but its buffer. -/
theorem State.raise_far (s : State) (tag code sev subject : Nat) (d : List Nat) :
    ∃ es, (s.raise tag code sev subject d).far = { s.far with events := es } := by
  have e : (s.noteSev sev).far = s.far := by simp
  unfold State.raise State.bufferEvent
  repeat' split
  · exact ⟨_, by rw [e]⟩
  · exact ⟨s.far.events, by simp⟩
  · exact ⟨s.far.events, by simp⟩

/-! ### Time -/

/-- A view of the tick is never ahead of it. -/
theorem tickView_le (dom t : Nat) : tickView dom t ≤ t := by
  unfold tickView
  dsimp only
  split
  · omega
  · have h : viewStep dom * (t / viewStep dom) ≤ t := Nat.mul_div_le t _
    split
    · exact h
    · exact Nat.le_trans (Nat.mul_le_mul_left _ (Nat.sub_le _ _)) h

/-- A view is within two of its steps of the tick. -/
theorem tickView_near (dom t : Nat) : t < tickView dom t + 2 * viewStep dom := by
  have e : viewStep dom = 64 ∨ viewStep dom = 8 := by unfold viewStep; split <;> simp
  unfold tickView
  dsimp only
  rcases e with e | e <;> rw [e] <;> split
  · omega
  · split <;> omega
  · omega
  · split <;> omega

/-- A domain's view is never ahead of the tick. -/
theorem State.nowIn_le (s : State) (dom : Nat) : s.nowIn dom ≤ s.tick.toNat := tickView_le dom _

/-- What lies two steps of the view behind the tick has come in every domain. -/
theorem State.le_nowIn (s : State) (dom : Nat) {n : Nat} (h : n + 2 * viewStep dom ≤ s.tick.toNat) : n ≤ s.nowIn dom := by
  have := tickView_near dom s.tick.toNat
  unfold State.nowIn
  omega

/-- The MESH view is never ahead of the tick. -/
theorem State.now_le (s : State) : s.now ≤ s.tick.toNat := s.nowIn_le 1

/-- What lies two view steps behind the tick has come in MESH. -/
theorem State.le_now (s : State) {n : Nat} (h : n + 16 ≤ s.tick.toNat) : n ≤ s.now := s.le_nowIn 1 h

/-- What lies two view steps behind the tick has come in HARNESS. -/
theorem State.le_nowH (s : State) {n : Nat} (h : n + 16 ≤ s.tick.toNat) : n ≤ s.nowH := s.le_nowIn 3 h

/-- What lies two view steps behind the tick has come in ASSAY. -/
theorem State.le_nowAssay (s : State) {n : Nat} (h : n + 128 ≤ s.tick.toNat) : n ≤ s.nowAssay := s.le_nowIn 6 h

/-! ### HBM -/

/-- A whole-line write leaves every byte outside its line as it was. -/
theorem State.applyHome_outside (s : State) (w : HomeWrite) (b : Nat) (h : b < 64 * w.line ∨ 64 * w.line + 64 ≤ b) :
    Memory.byte (s.applyHome w).mem b = Memory.byte s.mem b := by
  unfold State.applyHome
  refine Memory.byte_write_outside _ _ _ _ ?_
  simp [padTo, slice]
  omega

/-- A whole-line write keeps HBM canonical. -/
theorem State.applyHome_wf (s : State) (w : HomeWrite) (h : Memory.wf s.mem = true) : Memory.wf (s.applyHome w).mem = true :=
  Memory.wf_write _ _ _ h

end Sys2Proof.Machine
end

