-- ==== Sys2Proof/WellFormed.lean ====
section
/-!
DEFINITION. WellFormed.lean: what a command's operands must satisfy to be one the block's surroundings can send: offsets
within their windows, byte strings of their carriers' lengths. exec gives every command a meaning, well formed or not.
-/
namespace Sys2Proof

/-- A byte string of a given length. -/
def lengthIs (n : Nat) (bs : Bytes) : Bool := bs.length == n

/-- A transport packet: 32 bytes of header, at most 4,096 of payload, 4 of trailer. -/
def packetWf (bs : Bytes) : Bool := decide (36 ≤ bs.length) && decide (bs.length ≤ 4132)

/-- An SPDM request: 4 bytes of header and no more than 4,096 in all. -/
def spdmWf (bs : Bytes) : Bool := decide (4 ≤ bs.length) && decide (bs.length ≤ 4096)

/-- A dword of BAR0 (R7). -/
def offWf (o : Nat) : Bool := decide (o < 0x4000000)

/-- A TLP at an offset of BAR2 (R267, R269): within the 64 GiB window or beyond it, 1 to 4,096 bytes. -/
def bar2Wf (addr len : Nat) : Bool := (decide (addr + len ≤ 0x1000000000) || decide (0x1000000000 ≤ addr)) && decide (1 ≤ len) && decide (len ≤ 4096)

/-- A page index (Table PKH-1). -/
def pageWf (page : Nat) : Bool := decide (page < 0x20000000)

/-- An input voltage in 10 mV, as event records carry it. -/
def inputWf (v : Nat) : Bool := decide (v < 65536)

/-- Bytes that a read gave: no more than an image holds. -/
def readWf : HostRead → Bool
  | .data bs => decide (bs.length ≤ 0x10000000)
  | .poisoned => true
  | .timeout => true

/-- A codeword is 2,720 PAM4 symbols on one, two or four lanes. -/
def codewordWf (first second : List Pam) (others : List (List Pam)) : Bool :=
  first.length + second.length + (others.map (·.length)).sum == 2720

/-- A well-formed command. -/
def Instr.wf : Instr → Bool
  | .registerWrite off _ _ => offWf off
  | .graceEmpty root => decide (root < 0x8000000000) && root % 64 == 0
  | .hello _ slot => lengthIs 64 slot
  | .codewordReceive _ first second others => codewordWf first second others
  | .credit _ slot => lengthIs 64 slot
  | .width _ slot => lengthIs 64 slot
  | .hoofbeat _ slot => lengthIs 64 slot
  | .store _ pkt => packetWf pkt
  | .load _ pkt => packetWf pkt
  | .fetchAdd _ pkt => packetWf pkt
  | .swap _ pkt => packetWf pkt
  | .cas _ pkt => packetWf pkt
  | .reduce _ pkt => packetWf pkt
  | .mstore _ pkt => packetWf pkt
  | .put _ pkt => packetWf pkt
  | .attnPacket _ pkt => packetWf pkt
  | .appendPacket _ pkt => packetWf pkt
  | .recordPacket _ pkt => packetWf pkt
  | .ledgerPacket _ pkt => packetWf pkt
  | .pedigreePacket _ pkt => packetWf pkt
  | .teamPacket _ pkt => packetWf pkt
  | .unlistedOpcode _ pkt => packetWf pkt
  | .transitPacket _ pkt => packetWf pkt
  | .sync _ pkt => packetWf pkt
  | .syncAck _ pkt => packetWf pkt
  | .ack _ pkt => packetWf pkt
  | .loadResp _ pkt => packetWf pkt
  | .atomicResp _ pkt => packetWf pkt
  | .cSend _ pkt => packetWf pkt
  | .cWrite _ pkt => packetWf pkt
  | .cWriteImm _ pkt => packetWf pkt
  | .cRead _ pkt => packetWf pkt
  | .cAtomic _ pkt => packetWf pkt
  | .cConnect _ pkt => packetWf pkt
  | .cClose _ pkt => packetWf pkt
  | .cAck _ pkt => packetWf pkt
  | .cReadResp _ pkt => packetWf pkt
  | .cAtomicResp _ pkt => packetWf pkt
  | .cConnectResp _ pkt => packetWf pkt
  | .copy reads => reads.all readWf
  | .promotionComplete page read => pageWf page && readWf read
  | .demotionCopyComplete page => pageWf page
  | .tierIoFail page => pageWf page
  | .fillComplete _ _ reads => reads.all readWf
  | .vaultAttachComplete ident _ _ _ _ => lengthIs 1024 ident
  | .smartRead log => lengthIs 512 log
  | .vaultCompletion _ _ data => lengthIs 0 data || lengthIs 16384 data
  | .bar2Write addr data _ _ => bar2Wf addr data.length
  | .bar2Read tag addr len => bar2Wf addr len && decide (tag < 1024)
  | .bar4UnmappedWrite off _ => decide (off < 2 ^ 64)
  | .crossingTimeout _ _ _ handle => decide (handle < 0x10000000000000000)
  | .preambleReadComplete image => readWf image
  | .fetchComplete image => readWf image
  | .tckReload _ image => readWf image
  | .inputStartLevel input => inputWf input
  | .railFault _ input => inputWf input
  | .brownoutWarn input => inputWf input
  | .brownoutRecover input _ => (inputWf input.least && inputWf input.lowest)
  | .undervoltage input => inputWf input
  | .overvoltage input => inputWf input
  | .groomSamplePeriod samples => lengthIs 128 samples
  | .getVersion req => spdmWf req
  | .getCapabilities req => spdmWf req
  | .negotiateAlgorithms req => spdmWf req
  | .getDigests req => spdmWf req
  | .getCertificate req => spdmWf req
  | .challenge req => spdmWf req
  | .getMeasurements req => spdmWf req
  | .unsupportedSpdmRequest req => spdmWf req
  | .ncResetLRise .. | .ncResetLAssert | .glbLockSet .. | .tickSnapshotRead | .modidDataRead | .eventDeliver
  | .outReq .. | .inReq .. | .stallDrained .. | .bufPartWrite .. | .homeWriteApply .. | .nmuGo .. | .nmuFill ..
  | .nmuCopy .. | .nmuCompare .. | .nmuReduce .. | .nmuComplete .. | .nmuCqHeadWrite .. | .nmuCqEnable ..
  | .meshRouterFault .. | .dutyTakeEffect .. | .tableLoadGo .. | .tableLoadCommit .. | .mintSeedWrite ..
  | .ropeFreqWrite .. | .attGo .. | .attDecode .. | .attPrefill .. | .attBackward .. | .attDescriptorEnd ..
  | .mergeRecord .. | .mergeContextOpen .. | .mergeTimeout .. | .tombstoneExpiry .. | .append .. | .appendCommit ..
  | .kvpEditGo .. | .editOpen .. | .editAttach .. | .editReplace .. | .editTruncate .. | .editCompact ..
  | .editRelease .. | .editCommit .. | .releaseFree .. | .pedLookup | .pedAttach | .pedAttachReply | .pedInsert
  | .evictionHandVisit | .withdrawnNodeEvict | .pedRehashGo .. | .rehashMigrate | .ldgSqDoorbell ..
  | .ldgCqDoorbell .. | .ldgAdmit .. | .ldgCancelCmd .. | .retarget .. | .ldgWhoOwnsCmd .. | .lookupResult | .offer
  | .grant | .accept | .ldgCommit | .revert | .whoOwns | .ownerIs | .refuse | .ldgCancel | .cancelReply | .step
  | .ldgRelease | .released | .escrowTimeout | .grantRetry | .offerRetry | .cancelRetry | .contextSilence
  | .homeDeadline | .deadlineGraceExpiry | .closeComplete | .dutySample | .dutySplitAdjust .. | .ldgTeamEnable ..
  | .portEnable .. | .portRetrain .. | .laneRetrain .. | .trainingMarkerDetect .. | .trainingFrame ..
  | .qualificationWindowEnd .. | .codewordLock .. | .helloTimer .. | .trainingTimeout .. | .alignBlock ..
  | .laneSignalLoss .. | .retrainSetTimeout .. | .creditReportTimer .. | .recalPeriod .. | .recalSlotTimeout ..
  | .recalReq .. | .recalDone .. | .hoofbeatTimer .. | .neighbourLoss .. | .eyeScanGo .. | .eyeScanComplete ..
  | .orderedRelease | .retransmitTimeout .. | .syncTimeout .. | .quietTimeEnd | .htpFenceGo .. | .fenceComplete
  | .combineWindowExpiry | .queueAgeDiscard .. | .mstoreMemberTimeout | .messageContextTimeout | .routeDataWrite ..
  | .mcDataWrite .. | .couAdmGo .. | .register | .revoke | .revokeComplete | .connect | .close | .cqSetup
  | .connectRetry .. | .connectTimeout .. | .courierAccessComplete .. | .couSqDoorbell .. | .couRqDoorbell ..
  | .couCqDoorbell .. | .wrSend .. | .wrWrite .. | .wrWriteImm .. | .wrRead .. | .wrAtomic .. | .temChgGo ..
  | .prepare | .chgReady | .temCommit | .chgDone | .abort | .probe | .probeAck | .teamEnd | .publish | .publishAccept
  | .rread | .rreadComplete | .prepareRetry | .commitRetry | .changeTimeout | .temGraceExpiry | .oldMapFree
  | .preparedMapTimeout | .probeTimeout | .regionCreate .. | .regionDestroy .. | .rcmdGo .. | .hostShaperRelease
  | .hostShaperWrite .. | .meterWrite .. | .tenData7Write .. | .tenData0Read | .wheelRelease .. | .histSelWrite ..
  | .histDepthSample | .paceWindowEnd .. | .pkhCmdGo .. | .demote | .promote | .free | .promotionRequest
  | .pkhTicketDoorbell .. | .ticketTake .. | .ticket | .prefetch | .ticketRelease | .fillStart | .ticketDeadline
  | .vaultPresence .. | .vaultCommandTimeout | .deallocateIssue | .vaultDetach .. | .vaultDetached | .vaultFormat ..
  | .vaultRemoval | .pkhMapWrite .. | .pkhMapData0Read | .pkhModelWrite .. | .pkhModelData0Read | .pkhCqHeadWrite ..
  | .bar2MergeTimeout | .flr | .hotReset | .hostLinkDown | .perstLAssert | .busMasterEnable .. | .msixUnmask ..
  | .msixCoalesceExpiry | .evqEnable .. | .apertureWrite .. | .apData0Read | .doorbellBaseWrite ..
  | .pllRelockComplete | .pllLockLoss .. | .resetNotice .. | .crossingReopen .. | .chipRelease | .rngQualified
  | .entropyTimeout | .tckStart .. | .hbmInitComplete | .checkComplete | .tackWaitMet | .tackWaitTimeout
  | .applyComplete | .groomPowerUp | .groomPowerLoss | .railPowerGood .. | .railDisableStep | .shutdownHoldRelease ..
  | .gaitRequest .. | .varithRampComplete | .stabledEntryComplete | .stabledExitComplete | .thermalTrip
  | .setEndpointId .. | .getEndpointId .. | .getEndpointUuid .. | .getMctpVersionSupport ..
  | .getMessageTypeSupport .. | .getSensors .. | .getStatus | .getLog .. | .getTallies | .setGait .. | .wake
  | .spdmSignatureComplete | .farPageResolve | .poisonedPageReclaim .. | .scrubLine .. | .svnAdvance | .revokeSlot ..
  | .fuseBitProgram .. | .rngTestFail .. | .prEnable .. | .prInitComplete .. | .equaliseHalfTimeout ..
  | .vaultLinkDown | .lostMemberOfferTimeout | .unsupportedMctpRequest .. => true

end Sys2Proof
end

