-- ==== Sys2Proof/Tests/Slice0.lean ====
section
/-!
SUPPORT. Tests/Slice0.lean: tests of the model: a witness for each statement, and the worked examples of the spec.
-/
namespace Sys2Proof.Tests

open Sys2Proof Sys2Proof.Machine

set_option maxRecDepth 100000

/-! ### Helpers -/

/-- The state a command leaves. -/
def after (c : Instr) (s : State) : State :=
  match exec c s with
  | .next t => t
  | .fault _ => s
  | .refused _ => s

/-- A state with some fields of registers set. -/
def set (l : List (Nat × Field × Nat)) (s : State) : State := l.foldl (fun s x => s.setFld x.1 x.2.1 x.2.2) s

/-- A C-role module in service, CHIP released, at GALLOP. -/
def base : State :=
  set [(Reg.PWR_STATUS, F.PWR_STATUS_GAIT, 0), (Reg.PWR_GAIT, F.PWR_GAIT_REQ, 0), (Reg.GLB_SUMMARY, F.GLB_SUMMARY_READY, 1)]
    { State.reset with role := roleC, running := true, clk := { State.reset.clk with released := true } }

/-- `base` with one stall as given. -/
def withStall (k : Nat) (x : Stall) : State := base.setStall k x

theorem stall_all (s : State) (p : Stall → Bool) (h : s.stalls.all (fun x => p x.2) = true) (d : ∀ n, p (Stall.initial n) = true)
    (m : Nat) : p (s.stall m) = true := by
  unfold State.stall Tab.getD
  generalize s.stalls = t at h
  induction t with
  | nil => exact d m
  | cons x t ih =>
    simp only [List.all_cons, Bool.and_eq_true] at h
    unfold Tab.get?
    split
    · exact h.1
    · exact ih h.2

/-- Every stall of a state is without queued writes and not FAILED. -/
def calm (s : State) : Bool := s.stalls.all fun x => x.2.storeQ.isEmpty && x.2.service != .failed

theorem calm_stall (s : State) (h : calm s = true) (m : Nat) : (s.stall m).storeQ = [] ∧ s.stallFailed m = false := by
  have := stall_all s (fun x => x.storeQ.isEmpty && x.service != .failed) h (fun n => by unfold Stall.initial; split <;> rfl) m
  simp only [Bool.and_eq_true, List.isEmpty_iff, bne_iff_ne, ne_eq] at this
  exact ⟨this.1, by simp [State.stallFailed, this.2]⟩

theorem calm_quiet (s : State) (o n : Nat) (h : calm s = true) (b : o + n ≤ hbmBytes) : Quiet s o n :=
  ⟨b, fun m _ _ => calm_stall s h m⟩

theorem marks_clean (s : State) (o n : Nat) (h : s.marks = []) : Clean s o n := fun l _ _ => by rw [h]; rfl

theorem calm_settled (s : State) (h : calm s = true) (m : s.marks = []) (c : s.clk.stable = .none) : Settled s :=
  ⟨m, c, fun n => calm_stall s h n⟩

/-! ### Registers (chapter Scope) -/

theorem test_registerWrite_partial : exec (.registerWrite 0x80001C ⟨7, false⟩ 5) base = .next base := by rfl
theorem test_registerWrite_rw : (after (.registerWrite (Reg.STL_ALLOC_LOW 5) ⟨15, false⟩ 77) base).reg (Reg.STL_ALLOC_LOW 5) = 77 := by decide
theorem test_registerWrite_range : (after (.registerWrite (Reg.STL_NMU_CQ_CTRL 5) ⟨15, false⟩ 3) base).fld (Reg.STL_NMU_CQ_CTRL 5)
    F.STL_NMU_CQ_CTRL_LOG2_SIZE = 4 := by decide
theorem test_lock_holds_rwl : (after (.registerWrite (Reg.STL_RSV_FIRST 5) ⟨15, false⟩ 9) (after (.glbLockSet 1) base)).reg
    (Reg.STL_RSV_FIRST 5) = 0 := by decide
/-- R7: the registers of stall 37 begin at 0x0080_0000 + 37 × 0x1_0000 = 0x00A5_0000. -/
theorem test_stall37_block : Reg.STL_ID 37 = 0xA50000 ∧ readReg base (Reg.STL_ID 37) = 0x2525 := by decide
theorem test_tick_snapshot : (after .tickSnapshotRead { base with tick := 0x500000007 }).out =
    [.readCompletion 0 0 [7, 0, 0, 0]] := by decide
theorem test_modid_magic : (after .modidDataRead base).out = [.readCompletion 0 0 [0x4E, 0x4D, 0x4F, 0x44]] := by rfl
theorem test_unoccupied_reads_zero : readReg base 0x600000 = 0 ∧ readReg base 0x2600000 = 0 := by decide

/-! ### Well-formed operands: an ill-formed term for each check -/

theorem test_wf_packet : (Instr.store 0 (zeros 35)).wf = false ∧ (Instr.store 0 (zeros 36)).wf = true := by decide
theorem test_wf_spdm : (Instr.challenge [1, 2, 3]).wf = false ∧ (Instr.challenge [0x12, 0x83, 0, 0]).wf = true := by decide
theorem test_wf_off : (Instr.registerWrite 0x4000000 ⟨15, false⟩ 0).wf = false ∧ (Instr.registerWrite 0 ⟨7, true⟩ 0).wf = true ∧
    (Instr.registerWrite 0x3FFFFFC ⟨15, false⟩ 0).wf = true := by decide
theorem test_wf_bar2 : (Instr.bar2Read 0 0xFFFFFFFFF 2).wf = false ∧ (Instr.bar2Read 0 0 0).wf = false ∧
    (Instr.bar2Read 0 0xFFFFFFFFF 1).wf = true ∧ (Instr.bar2Read 1024 0 1).wf = false := by decide
theorem test_wf_page : (Instr.tierIoFail 0x20000000).wf = false ∧ (Instr.tierIoFail 0x1FFFFFFF).wf = true := by decide
theorem test_wf_input : (Instr.overvoltage 65536).wf = false ∧ (Instr.overvoltage 65535).wf = true := by decide
theorem test_wf_read : readWf (.data [0]) = true ∧ (Instr.promotionComplete 0x20000000 .poisoned).wf = false := by decide
theorem test_wf_codeword : codewordWf [.p1] [] [] = false ∧ codewordWf (List.replicate 2720 .m3) [] [] = true := by decide
theorem test_wf_length : (Instr.hello 0 (zeros 63)).wf = false ∧ (Instr.hello 0 (zeros 64)).wf = true := by decide
theorem test_wf_root : (Instr.graceEmpty 65).wf = false ∧ (Instr.graceEmpty 128).wf = true := by decide

/-! ### The stall array -/

def svc (k : Nat) (x : Service) : State := withStall k { service := x }

theorem test_outReq : ((after (.outReq 5) (svc 5 .inService)).stall 5).service = .draining := by decide
theorem test_inReq : ((after (.inReq 5) (svc 5 .outOfService)).stall 5).service = .inService := by decide
theorem test_stallDrained : stallIdle (svc 5 .draining) 5 = true ∧
    ((after (.stallDrained 5) (svc 5 .draining)).stall 5).service = .outOfService := by decide
theorem test_outReq_conflict : (after (.outReq 5) (svc 5 .draining)).flag (Reg.STL_STATUS 5) F.STL_STATUS_CTRL_CONFLICT = true := by
  decide
theorem test_inReq_conflict : (svc 5 .inService |>.stall 5).service ≠ .outOfService := by decide

def lineWrite : HomeWrite := ⟨3, List.replicate 64 7⟩

theorem test_homeWriteApply : ((after (.homeWriteApply 0) (withStall 0 { storeQ := [lineWrite] })).mem.byte 192,
    (withStall 0 { storeQ := [lineWrite] }).clk.stable) = (7, .none) := by decide
theorem test_bufPartWrite : (svc 5 .outOfService).locked = false ∧ (3 + 9 + 35 = 47) ∧
    (after (.bufPartWrite 5 0x030923) (svc 5 .outOfService)).reg (Reg.STL_BUF_PART 5) = 0x030923 := by decide
theorem test_bufPartWrite_sum : (after (.bufPartWrite 5 0x030922) (svc 5 .outOfService)).flag (Reg.STL_STATUS 5)
    F.STL_STATUS_PART_ERR = true := by decide
theorem test_bufPartWrite_busy : exec (.bufPartWrite 5 0x030923) (svc 5 .inService) = .next (svc 5 .inService) := by rfl
theorem test_dutyTakeEffect : ((after (.dutyTakeEffect 5) (withStall 5 { dutyNext := some .ingest })).stall 5).duty = .ingest := by
  decide

/-- Near-memory descriptors: OP, DTYPE and RED_OP, flags, TAG, DST, SRC, LEN. -/
def nmuDesc (op fmt flags dst src len : Nat) : Bytes :=
  toLE 1 op ++ toLE 1 fmt ++ toLE 2 flags ++ toLE 4 9 ++ toLE 8 dst ++ toLE 8 src ++ toLE 4 len ++ zeros 4

def nmuState (d : Bytes) : State := withStall 5 { service := .inService, nmuQ := [d] }

theorem test_nmuGo_room : ((after (.nmuGo 5 1) (svc 5 .inService)).stall 5).nmuQ.length = 1 := by decide
theorem test_nmuGo_full : (after (.nmuGo 5 1) (withStall 5 { service := .inService, nmuQ := List.replicate 64 [] })).flag
    (Reg.STL_NMU_STATUS 5) F.STL_NMU_STATUS_OVERFLOW = true := by decide
theorem test_nmuGo_service : ((after (.nmuGo 5 1) (svc 5 .draining)).stall 5).nmuRun.map (·.status) = [St.rights] := by decide
theorem test_nmuReady : NmuReady (nmuState (nmuDesc 1 0 0 128 0x11 64)) 5 (nmuDesc 1 0 0 128 0x11 64) [] := by
  unfold NmuReady; decide
theorem test_nmuCheck_bounds : nmuCheck (nmuDesc 1 0 0 100 0x11 64) = St.bounds ∧ nmuCheck (nmuDesc 9 0 0 128 0 64) = St.rights ∧
    nmuCheck (nmuDesc 4 3 0 128 0 64) = St.rights ∧ nmuCheck (nmuDesc 1 0 0 128 0x11 64) = St.ok := by decide
theorem test_nmuQuiet : Quiet (nmuState (nmuDesc 1 0 0 128 0x11 64)) 128 64 := calm_quiet _ _ _ (by decide) (by decide)
theorem test_nmuClean : Clean (nmuState (nmuDesc 1 0 0 128 0x11 64)) 0 64 := marks_clean _ _ _ rfl
theorem test_nmuFill : (after (.nmuFill 5) (nmuState (nmuDesc 1 0 0 128 0x0102030405060708 64))).mem.byte 129 = 7 := by decide

/-- Line 0 holds 3 at byte 8; line 1 holds zeros. -/
def twoLines (d : Bytes) : State := { nmuState d with mem := [(8, 3)] }

theorem test_nmuCopy : (after (.nmuCopy 5) (twoLines (nmuDesc 2 0 0 64 0 64))).mem = [(8, 3), (72, 3)] := by decide
theorem test_nmuCompare : ((after (.nmuCompare 5) (twoLines (nmuDesc 3 0 0 64 0 64))).stall 5).nmuRun.map (·.result) = [8] := by
  decide
theorem test_nmuReduce : (after (.nmuReduce 5) { twoLines (nmuDesc 4 2 0 64 0 64) with mem := [(8, 3), (72, 4)] }).mem =
    [(8, 3), (72, 7)] := by decide

/-- A stall whose completion ring is enabled in host memory, bus master on. -/
def ringState : State :=
  let s := set [(Reg.STL_NMU_CQ_CTRL 5, F.STL_NMU_CQ_CTRL_EN, 1)] (withStall 5 { nmuRun := [⟨nmuDesc 1 0 1 128 0 64, 0, 0, 64, true⟩] })
  let s := s.setReg (Reg.STL_NMU_CQ_BASE_HI 5) 0x80000000
  { s with host := { s.host with linkUp := true, bme := true } }

theorem test_nmuComplete : nmuRingFull ringState 5 = false ∧ bit (ringState.base (Reg.STL_NMU_CQ_BASE_LO 5)) 63 = true ∧
    ringState.hostOpen = true ∧ (after (.nmuComplete 5) ringState).out.head? =
      some (.hostWrite 0 (toLE 4 9 ++ [0, 1, 1, 0] ++ zeros 4 ++ toLE 4 64)) := by decide
theorem test_nmuCqEnable : ((after (.nmuCqEnable 5 0x80000004) (withStall 5 { nmuSlot := 3, nmuPhase := false })).stall 5).nmuPhase =
    true := by decide
theorem test_nmuCqHeadWrite : (after (.nmuCqHeadWrite 5 7) base).fld (Reg.STL_NMU_CQ_HEAD 5) F.STL_NMU_CQ_HEAD_HEAD = 7 := by decide
theorem test_meshRouterFault : (after (.meshRouterFault 5 2) base).groomLog.map (·.code) ≠ [] := by decide

/-! ### Number formats -/

/-- The spec's record for MXFP4: lengths of 2 to symbols 0x00 and 0x01, 3 to 0x10, 0x11, 0x22 and 0x33. -/
def exampleLens : Bytes := patch (patch (patch (zeros 256) 0 [2, 2]) 0x10 [3, 3]) 0x22 [3] |> fun b => patch b 0x33 [3]

theorem test_kraft_example : kraft exampleLens = 32768 := by rfl
/-- Symbols 0x11, 0x00 and 0x22 in that order: byte 0 of the sub-stream is 0x65. -/
theorem test_code_example : (codeBits (buildCodes exampleLens) 0x11, codeBits (buildCodes exampleLens) 0x00,
    codeBits (buildCodes exampleLens) 0x22) = (some [1, 0, 1], some [0, 0], some [1, 1, 0]) := by rfl
/-- The first 16 LFSR steps from 1 leave 0xB6F6_B6C3. -/
theorem test_lfsr_example : lfsr16 1 = 0xB6F6B6C3 := by rfl
/-- 3.0, 0.375 and −0.8 in a block of amax 3.0: codes 0b0111, 0b0010 and 0b1011, scale byte 0x7E. -/
theorem test_mint_example : ((mxFmt 7).map fun f => f.unpack (f.mint false 0 (([0x4040, 0x3EC0, 0xBF4D] ++ List.replicate 29 0).map
    FpFmt.bf16.decode)).1) = some ([7, 2, 11] ++ List.replicate 29 0, 0x7E) := by decide

theorem test_mintSeedWrite_zero : (after (.mintSeedWrite 3 0) base).reg (Reg.FMT_MINT_SEED 3) = 1 := by decide
theorem test_ropeFreqWrite : let s := set [(Reg.FMT_ROPE_IDX 3, F.FMT_ROPE_IDX_INDEX, 127)] base
    ((after (.ropeFreqWrite 3 5) s).fmtUnit 3).rope.getD 127 0 = 5 ∧
      (after (.ropeFreqWrite 3 5) s).fld (Reg.FMT_ROPE_IDX 3) F.FMT_ROPE_IDX_INDEX = 0 := by decide

theorem test_tableLoadGo : base.flag (Reg.FMT_TBL_RESULT 3) F.FMT_TBL_RESULT_BUSY = false ∧ bit (2 : Word).toNat 1 = true := by decide
theorem test_tableLoadGo_quiet : Quiet base 0 320 := calm_quiet _ _ _ rfl (by decide)
theorem test_tableLoadGo_busy : (set [(Reg.FMT_TBL_RESULT 3, F.FMT_TBL_RESULT_BUSY, 1)] base).flag (Reg.FMT_TBL_RESULT 3)
    F.FMT_TBL_RESULT_BUSY = true := by decide

/-- A staged load of stall 3 into slot B, whose GEN is 63, with its check's result. -/
def loadState (err : Nat) : State :=
  base.updFmt 3 fun u => { u with load := some (true, 7, zeros 256, err), b := { valid := true, format := 3, gen := 63, lens := [] } }

/-- GEN wraps from 63 to 0. -/
theorem test_tableLoadCommit : (loadState 0).holdCount 3 true = 0 ∧
    ((after (.tableLoadCommit 3) (loadState 0)).fmtUnit 3).b.gen = 0 := by decide
theorem test_tableLoadCommit_err : ((after (.tableLoadCommit 3) (loadState 7)).fmtUnit 3).b.gen = 63 ∧
    (after (.tableLoadCommit 3) (loadState 7)).fld (Reg.FMT_TBL_RESULT 3) F.FMT_TBL_RESULT_ERR = 7 := by decide
theorem test_tableLoadCommit_held : ((loadState 0).tagPage (3 * stallPages + 9) true).holdCount 3 true = 1 := by decide

/-! ### Attention -/

/-- A DECODE descriptor of team 5 for stall 5: one query row, one KV head of 64, positions 0 to 2, query inline. -/
def attDesc (pidx pcount root : Nat) : Bytes :=
  toLE 1 1 ++ toLE 1 1 ++ toLE 1 1 ++ toLE 1 0 ++ toLE 2 0 ++ toLE 2 1 ++ toLE 8 5 ++ toLE 4 9 ++ toLE 2 pidx ++ toLE 2 pcount ++
    toLE 8 root ++ toLE 4 0 ++ toLE 4 3 ++ toLE 4 1 ++ toLE 4 2 ++ toLE 4 0x3F800000 ++ toLE 4 0 ++ toLE 8 inlineSrc ++ zeros 8 ++
    toLE 2 0 ++ toLE 1 0 ++ toLE 1 1 ++ toLE 1 5 ++ toLE 1 1 ++ zeros 34 ++ zeros 16 ++ zeros 128

/-- Team 5 holds group 0 on this module. -/
def teamState : State :=
  set [(Reg.TEM_TEAM_STATUS 0, F.TEM_TEAM_STATUS_VALID, 1), (Reg.TEM_TEAM_STATUS 0, F.TEM_TEAM_STATUS_TEAM, 5),
    (Reg.TEM_TEAM_SPAN 0, F.TEM_TEAM_SPAN_GROUPS, 1)] base

def attItem (m : Bytes) : AttItem := ⟨0, m, true, 0⟩

def attState (m : Bytes) : State := teamState.updWork 5 fun w => { w with att := [attItem m] }

theorem test_attReady : AttReady (attState (attDesc 0 1 0)) 5 (attItem (attDesc 0 1 0)) [] := by unfold AttReady; decide
theorem test_attCheck_ok : attCheck (attState (attDesc 0 1 0)) 5 (attItem (attDesc 0 1 0)) = St.ok := by decide
theorem test_attCheck_bounds : attCheck (attState (attDesc 1 1 0)) 5 (attItem (attDesc 1 1 0)) = St.bounds ∧
    badPlace 5 (attDesc 1 1 0) = true := by decide
theorem test_attCheck_role : attCheck { attState (attDesc 0 1 0) with role := roleP } 5 (attItem (attDesc 0 1 0)) = St.rights := by decide
/-- A root that is no table: the record is empty and its status is BOUNDS. -/
theorem test_attDecode : ((after (.attDecode 5 none) (attState (attDesc 0 1 0))).work 5).run.map (·.status) = [St.bounds] := by decide
theorem test_attGo : ((after (.attGo 5 1) teamState).work 5).att.length = 1 := by decide
theorem test_attGo_full : (after (.attGo 5 1) (teamState.updWork 5 fun w => { w with att := List.replicate 64 (attItem []) })).flag
    (Reg.ATT_STATUS 5) F.ATT_STATUS_OVERFLOW = true := by decide
theorem test_attDescriptorEnd : ((after (.attDescriptorEnd 5 0) (after (.attDecode 5 none) (attState (attDesc 0 1 0)))).work 5).run =
    [] := by decide

/-- QPOS 1, WINDOW 2, CAUSAL: row 0 sees positions 0 and 1. -/
theorem test_visible : (List.range 5).map (visible (attDesc 0 1 0) 0) = [true, true, false, false, false] := by decide
theorem test_mergeEntry_nan : mergeEntry ⟨f32qnan, 0, [0]⟩ ⟨0, 0, [1]⟩ = ⟨f32qnan, f32qnan, [f32qnan]⟩ ∧ f32isNan f32qnan = true := by
  decide
/-- Equal maxima: exp2 0 is 1, so l and O add. -/
theorem test_mergeEntry_tie : mergeEntry ⟨0, 0x3F800000, [0x3F800000]⟩ ⟨0, 0x3F800000, [0x40000000]⟩ =
    ⟨0, 0x40000000, [0x40400000]⟩ := by decide
theorem test_scanTile_ninf : f32isNan f32ninf = false ∧
    scanTile 1 ⟨f32ninf, 0, [0], false⟩ [(0, f32ninf, [])] = ⟨f32ninf, 0, [0], false⟩ := by decide

/-- A record of LEVEL 1 from PIDX 2 of 4, and the contexts of stall 5. -/
def mrgRecord : Bytes := emptied (makeRecord (attDesc 2 4 0) 0 false false false []) 1 0
def mrgItem : MrgItem := { line := none, record := mrgRecord }
def openCtx : MergeCtx := { key := Rec.key mrgRecord, head := mrgRecord, opened := 0 }
def mrgState (cs : List MergeCtx) : State := teamState.updWork 5 fun w => { w with mrg := [mrgItem], ctxs := cs }

theorem test_mergeRecord_open : ctxAccepts openCtx mrgItem = true ∧ ((after (.mergeRecord 5) (mrgState [])).work 5).ctxs.length = 1 := by
  decide
theorem test_mergeRecord_full : ((after (.mergeRecord 5) (mrgState (List.replicate 64 { openCtx with key := [] }))).work 5).mrgWait.length =
    1 := by decide
theorem test_mergeRecord_late : (after (.mergeRecord 5) (mrgState [{ openCtx with tomb := some 0 }])).reg (Reg.ATT_LATE 5) = 1 := by decide
theorem test_mergeRecord_foreign : let c := { openCtx with kids := [(1, mrgRecord)] }
    ctxAccepts c mrgItem = false ∧ (after (.mergeRecord 5) (mrgState [c])).far.events.map (·.code) = [4] := by decide
theorem test_mergeContextOpen : ((after (.mergeContextOpen 5) (teamState.updWork 5 fun w => { w with mrgWait := [mrgItem] })).work
    5).ctxs.length = 1 := by decide
theorem test_mergeTimeout : let s := (mrgState [openCtx]).setReg (Reg.ATT_MERGE_TMO 5) 0
    (after (.mergeTimeout 5) s).reg (Reg.ATT_MERGE_LOST 5) = 1 := by decide
theorem test_tombstoneExpiry : let s := (mrgState [{ openCtx with tomb := some 0 }]).setReg (Reg.ATT_MERGE_TMO 5) 0
    ((after (.tombstoneExpiry 5) s).work 5).ctxs = [] := by decide

/-! ### Page tables -/

/-- Page 20 of stall 5, and the table root there. -/
def page5 (p : Nat) : Nat := 5 * stallPages + p
def root5 : Nat := page5 20 * pageBytes

/-- A root line of one pair in MXFP4, head dimension 64. -/
def rootBytes (epoch cur old state grace ngrace : Nat) : Bytes :=
  toLE 2 epoch ++ toLE 2 cur ++ toLE 2 old ++ toLE 1 state ++ zeros 1 ++ toLE 8 5 ++ toLE 2 0 ++ toLE 2 1 ++ toLE 1 0 ++ toLE 1 1 ++
    toLE 1 7 ++ zeros 1 ++ zeros 16 ++ toLE 4 grace ++ toLE 2 ngrace ++ zeros 18

/-- A pair header: LEN, NPAGES, NSHARED, its first list page. -/
def pairBytes (len npages nshared list : Nat) : Bytes :=
  toLE 4 len ++ toLE 2 npages ++ toLE 2 nshared ++ toLE 2 noPatch ++ zeros 6 ++ toLE 4 list ++ zeros 44

def pte5 (fill p : Nat) : Nat := mkPte true false false false 7 fill 0 (page5 p)

/-- A LIVE table at `root5` with the pair header and list entries given, and pages 30 to 33 free on top of the stack. -/
def tableWith (r h : Bytes) (es : List (Nat × Nat)) : State :=
  { base with
    mem := Memory.write (Memory.write [] root5 (r ++ h)) (page5 21 * pageBytes) (es.flatMap fun e => entryBytes e.1 e.2)
    stalls := [(5, { service := .inService, freed := [30, 31, 32, 33] })] }

def liveTable : State := tableWith (rootBytes 7 0 0 1 noPage 0) (pairBytes 0 0 0 0) []

/-- Three pages of 2, 3 and 4 positions. -/
def filled : State := tableWith (rootBytes 7 0 0 1 noPage 0) (pairBytes 9 3 0 (page5 21)) [(pte5 2 22, 0), (pte5 3 23, 2), (pte5 4 24, 5)]

/-- An edit descriptor: OP, flags, EXPECT, POS, INDEX, ARG; table `root5`, layer 0, head 0, one pair in MXFP4. -/
def editDesc (op flags expect pos index arg : Nat) : Bytes :=
  toLE 1 op ++ toLE 1 flags ++ toLE 2 expect ++ toLE 4 9 ++ toLE 8 root5 ++ toLE 8 5 ++ toLE 2 0 ++ toLE 1 0 ++ toLE 1 7 ++
    toLE 4 pos ++ toLE 4 index ++ toLE 2 1 ++ toLE 1 1 ++ zeros 1 ++ toLE 8 arg ++ zeros 16

def editOf (d : Bytes) : EditItem := { sub := 5, desc := d, ord := 0, origin := .ledger 3 }
def withEdit (s : State) (d : Bytes) : State := { s with kvp := { s.kvp with edits := [editOf d] } }

theorem test_settled : Settled filled ∧ calm filled = true := ⟨calm_settled _ (by decide) rfl rfl, by decide⟩

theorem test_editOpen : EditReady (withEdit liveTable (editDesc 0x10 0 0 0 0 0)) 5 0x10 (editOf (editDesc 0x10 0 0 0 0 0)) ∧
    (after (.editOpen 5) (withEdit liveTable (editDesc 0x10 0 0 0 0 0))).kvp.done = [⟨.ledger 3, 0, page5 30, 0⟩] := by
  unfold EditReady; decide
theorem test_editOpen_reserved : (after (.editOpen 5) (withEdit liveTable (patch (editDesc 0x10 0 0 0 0 0) 27 [9]))).kvp.done.map
    (·.status) = [St.rights] := by decide
def attachState : State :=
  withEdit { liveTable with mem := Memory.write liveTable.mem 0x40000 (entryBytes (pte5 2 22) 0) } (editDesc 0x11 4 0 0 1 0x40000)
theorem test_editAttach : EditReady attachState 5 0x11 (editOf (editDesc 0x11 4 0 0 1 0x40000)) ∧
    (after (.editAttach 5) attachState).kvp.done = [⟨.ledger 3, 0, 7, 0⟩] := by unfold EditReady; decide
theorem test_tableLive : TableLive filled (editOf (editDesc 0x13 0 7 5 0 0)) ∧ Root.state (rootLine filled (editOf (editDesc 0x13 0 7 5 0 0))) =
    Root.live := by unfold TableLive; decide
theorem test_pairAt : PairAt filled (editOf (editDesc 0x13 4 0 5 0 0)) 0 (pairBytes 9 3 0 (page5 21)) ∧
    listEntries filled (pairBytes 9 3 0 (page5 21)) = [(pte5 2 22, 0), (pte5 3 23, 2), (pte5 4 24, 5)] := by unfold PairAt; decide
theorem test_listOk : ListOk (pairBytes 9 3 0 (page5 21)) := by unfold ListOk; decide
theorem test_edit_stale : (after (.editTruncate 5) (withEdit filled (editDesc 0x13 0 6 5 0 0))).kvp.done =
    [⟨.ledger 3, St.epochStale, 7, 0⟩] := by decide
theorem test_edit_releasing : (after (.editTruncate 5) (withEdit (tableWith (rootBytes 7 0 0 2 noPage 0) (pairBytes 0 0 0 0) [])
    (editDesc 0x13 4 0 5 0 0))).kvp.done.map (·.status) = [St.bounds] := by decide
theorem test_edit_root : (after (.editReplace 5) (withEdit filled (patch (editDesc 0x12 4 0 0 0 0) 8 [1]))).kvp.done.map (·.status) =
    [St.bounds] := by decide
theorem test_editRelease : (after (.editRelease 5) (withEdit filled (editDesc 0x15 4 0 0 0 0))).kvp.edits.map (·.releasing) =
    [some 7] := by decide
theorem test_editReplace : EditReady (withEdit filled (editDesc 0x12 4 0 0 1 (pte5 3 25))) 5 0x12 (editOf (editDesc 0x12 4 0 0 1 (pte5 3 25))) ∧
    ((after (.editReplace 5) (withEdit filled (editDesc 0x12 4 0 0 1 (pte5 3 25)))).kvp.edits.filterMap (·.build)).map (·.grace) =
      [[graceEntry false false (page5 23)]] := by unfold EditReady; decide
theorem test_editTruncate : ((after (.editTruncate 5) (withEdit filled (editDesc 0x13 4 0 5 0 0))).kvp.edits.filterMap (·.build)).map
    (fun b => (b.lowered, b.grace.length)) = [(true, 1)] := by decide
theorem test_editTruncate_none : (after (.editTruncate 5) (withEdit filled (editDesc 0x13 4 0 9 0 0))).kvp.done.map (·.status) =
    [St.noEffect] := by decide
theorem test_editCompact : EditReady (withEdit filled (editDesc 0x14 4 0 0 0 0)) 5 0x14 (editOf (editDesc 0x14 4 0 0 0 0)) ∧
    ((after (.editCompact 5) (withEdit filled (editDesc 0x14 4 0 0 0 0))).kvp.edits.filterMap (·.build)).map (·.fresh) =
      [[page5 30]] := by unfold EditReady; decide

def builtEdit : EditItem :=
  { editOf (editDesc 0x13 4 0 5 0 0) with
    build := some { pairs := [.inPlace 0 (pairBytes 5 2 0 (page5 21)) []], grace := [graceEntry false false (page5 24)], lowered := true,
                    fresh := [] } }
def built (old : Nat) : State :=
  let s := tableWith (rootBytes 7 2 old 1 noPage 0) (pairBytes 9 3 0 (page5 21)) [(pte5 2 22, 0), (pte5 3 23, 2), (pte5 4 24, 5)]
  { s with kvp := { s.kvp with edits := [builtEdit] } }

/-- EPOCH 7 to 8, CUR_TALLY 2 to OLD_TALLY, LOWERED. -/
theorem test_editCommit : let r := rootLine (after (.editCommit 5) (built 0)) builtEdit
    (Root.epoch r, Root.cur r, Root.old r, Root.lowered r, Root.ngrace r) = (8, 0, 2, true, 1) := by decide
theorem test_editCommit_waits : exec (.editCommit 5) (built 1) = .next (built 1) := by rfl
theorem test_releaseFree : let s := tableWith (rootBytes 7 0 0 2 noPage 0) (pairBytes 0 0 0 0) []
    let s := { s with kvp := { s.kvp with edits := [{ editOf (editDesc 0x15 4 0 0 0 0) with releasing := some 7 }] } }
    Root.state (rootLine (after (.releaseFree 5) s) builtEdit) = 0 := by decide
theorem test_graceEmpty : let s := tableWith (rootBytes 8 0 0 5 (page5 30) 1) (pairBytes 0 0 0 0) []
    let s := { s with mem := Memory.write s.mem (page5 30 * pageBytes) (toLE 4 (graceEntry false false (page5 24))) }
    let t := after (.graceEmpty root5) s
    (Root.grace (rootLine t builtEdit), Root.lowered (rootLine t builtEdit), (t.stall 5).freed.length) = (noPage, false, 6) := by decide
theorem test_kvpEditGo : ((after (.kvpEditGo 5 1) ((base.updStall 5 fun x => { x with service := .inService }).setReg (Reg.KVP_EDIT_DESC 5 0) 0x10)).kvp.edits.map (·.sub)) = [5] ∧
    editQueued base 5 = 0 := by decide
theorem test_kvpEditGo_full : (after (.kvpEditGo 5 1) { base with kvp := { base.kvp with edits := List.replicate 32 ⟨5, editDesc 0x13 0 0 0 0 0, 0, .software, none, none, none, false, false, []⟩ } }).flag
    (Reg.KVP_STATUS 5) F.KVP_STATUS_OVERFLOW = true := by decide

/-- An append of one FP32 position of 64 + 64 zeros at position 0. -/
def appendMsg (b0 : Nat) : Bytes :=
  toLE 1 b0 ++ toLE 1 0 ++ toLE 1 0 ++ toLE 1 1 ++ toLE 2 0 ++ toLE 2 1 ++ toLE 8 5 ++ toLE 8 root5 ++ toLE 4 0 ++ zeros 36 ++ zeros 512
def appendOf (b0 : Nat) : AppendItem := ⟨0, appendMsg b0, true, 0, none⟩
def withAppend (s : State) (a : AppendItem) : State := s.updWork 5 fun w => { w with appends := [a] }

theorem test_append_ready : AppendReady (withAppend liveTable (appendOf 1)) 5 (appendOf 1) [] := by
  unfold AppendReady; decide
theorem test_append_reserved : appendReserved (appendMsg 2) = true ∧
    (after (.append 5) (withAppend liveTable (appendOf 2))).reg (Reg.KVP_APPEND_ERR 5) = 1 := by decide
theorem test_append_fits : appendReserved (appendMsg 1) = false ∧ rawCap 7 64 = 240 ∧ posBytes 7 64 = 68 ∧
    64 + 1 * 2 * 64 * 4 ≤ (appendMsg 1).length := by decide
theorem test_append : (((after (.append 5) (withAppend liveTable (appendOf 1))).work 5).appends.map fun a => a.run.map (·.unused)) =
    [some [page5 31]] := by decide
theorem test_appendCommit : let t := after (.appendCommit 5) (after (.append 5) (withAppend liveTable (appendOf 1)))
    t.reg (Reg.KVP_APPENDS 5) = 1 ∧ Pair.len (Memory.read t.mem (root5 + 64) 64) = 1 := by decide

/-! ### Pedigree -/

/-- Team 5 has entry 0 with blocks of 16 tokens; four node records at 0x1000_0000; a prompt of zeros at 0x10_0000. -/
def pedBase : State :=
  set [(Reg.PED_CTRL, F.PED_CTRL_EN, 1), (Reg.PED_TEAM 0, F.PED_TEAM_EN, 1), (Reg.PED_TEAM 0, F.PED_TEAM_TEAM, 5),
    (Reg.PED_TEAM 0, F.PED_TEAM_BLK, 0), (Reg.PED_NODE_CAP, F.PED_NODE_CAP_CAP, 4)] (base.setReg Reg.PED_NODE_BASE_LO 0x10000000)
def block5 : Nat × Nat := block1 pedBase 5 0 0x100000 32

/-- A node record: STATE and USE, PINS, holder 3, key of the one block. -/
def nodeBytes (st : Nat) (use : Bool) (pins : Nat) : Bytes :=
  toLE 8 block5.1 ++ toLE 4 block5.2 ++ toLE 2 1 ++ toLE 2 (5 + st * 4096 + b2n use * 16384) ++ toLE 4 noNode ++ zeros 4 ++ toLE 2 pins ++
    toLE 2 3 ++ zeros 36
/-- Node 0 as given, its entry in its bucket, holder 3 with its tables on this module. -/
def pedState (st : Nat) (use : Bool) (pins : Nat) : State :=
  { pedBase with
    mem := Memory.write [] 0x10000000 (nodeBytes st use pins)
    ped := { pedBase.ped with
      table := [(block5.1 % 2 ^ pedBase.pedLog2, [⟨block5.1, block5.2 % 2 ^ 32, 0⟩])]
      holders := [(3, ⟨9, 1, 1, 1, [1]⟩)] } }
def withLookup (s : State) (len : Nat) : State := { s with ped := { s.ped with lookups := [⟨5, len, 0x100000, 0⟩] } }

theorem test_block1 : Block1Ok pedBase 0 0x100000 32 ∧ pedBase.pedTeam 5 = some 0 ∧ pedBase.pedBlk 0 = 16 := by
  unfold Block1Ok; decide
theorem test_lookup_hit_premises : (pedState 1 false 0).pedProbe block5 = some ⟨block5.1, block5.2 % 2 ^ 32, 0⟩ ∧ NodeOk (pedState 1 false 0) 0 ∧
    Nd.state ((pedState 1 false 0).nodeAt 0) = Nd.live := by unfold NodeOk; decide
theorem test_pedLookup_hit : let t := after .pedLookup (withLookup (pedState 1 false 0) 32)
    Nd.pins (t.nodeAt 0) = 1 ∧ Nd.use (t.nodeAt 0) = true ∧ t.ped.attaching.map (·.waiting) = [[1]] := by decide
theorem test_pedLookup_miss : (after .pedLookup (withLookup pedBase 32)).ldg.results.map (fun r => (r.matched, r.status)) = [(0, St.ok)] := by
  decide
theorem test_pedLookup_rights : let t := after .pedLookup (withLookup (set [(Reg.PED_TEAM 0, F.PED_TEAM_EN, 0)] pedBase) 32)
    t.ldg.results.map (·.status) = [St.rights] := by decide
theorem test_pedLookup_full : let s := withLookup { pedBase with ped := { pedBase.ped with attaching := List.replicate 64 ⟨0, 0, 0, 0, 0, 0, 0, []⟩ } } 32
    exec .pedLookup s = .next s := by rfl

def pedMsg (kind st : Nat) (rs : List (Nat × Nat)) : Msg :=
  ⟨Op.pedigree, 1, 5, 0, 0xFF, toLE 1 kind ++ toLE 1 st ++ toLE 2 1 ++ toLE 2 rs.length ++ zeros 2 ++ toLE 8 5 ++ toLE 8 9 ++ toLE 4 16 ++
    zeros 36 ++ rootWords rs⟩
def waits (l : List Nat) : State :=
  { pedState 1 false 1 with inbox := [pedMsg Pm.attachReply 0 []],
                            ped := { (pedState 1 false 1).ped with attaching := [⟨5, 16, 1, 2, 0, 3, 0, l⟩] } }
theorem test_pedAttachReply_last : let t := after .pedAttachReply (waits [1])
    Nd.pins (t.nodeAt 0) = 0 ∧ t.ldg.results.map (fun r => (r.matched, r.spill, r.status)) = [(16, 16, St.ok)] := by decide
theorem test_pedAttachReply_first : (after .pedAttachReply (waits [1, 2])).ped.attaching.map (·.waiting) = [[2]] := by decide
theorem test_pedAttach_bounds : let s := { pedState 1 false 0 with inbox := [pedMsg Pm.attach 0 [(5, root5)]] }
    s.takePed Pm.attach = some (pedMsg Pm.attach 0 [(5, root5)], { s with inbox := [] }) ∧ (after .pedAttach s).kvp = s.kvp := by decide

def attachHome : State :=
  { filled with
    mem := Memory.write filled.mem (page5 25 * pageBytes) (rootBytes 1 0 0 1 noPage 0 ++ pairBytes 0 0 0 0)
    inbox := [pedMsg Pm.attach 0 [(5, page5 25 * pageBytes)]]
    ped := { filled.ped with roots := [(9, [(5, root5)])] } }
/-- A holder's table of one page of 2 positions: M is 1 here, so the page is taken with FILL 1. -/
theorem test_pedAttach : let s := { attachHome with
      mem := Memory.write attachHome.mem (root5 + 64) (pairBytes 2 1 0 (page5 21))
      inbox := [{ pedMsg Pm.attach 0 [] with data := patch (pedMsg Pm.attach 0 [(5, page5 25 * pageBytes)]).data 24 [1] }] }
    (after .pedAttach s).kvp.edits.map (·.given) = [[(pteSetFill (pte5 2 22) 1, 0)]] := by decide

def withInsert (s : State) (len : Nat) (h : Option Nat) : State :=
  { s with ped := { s.ped with inserts := [{ handle := 5, len := len, prompt := 32, tokens := 0x100000, roots := 0, holder := h }] } }
theorem test_pedInsert_short : (after .pedInsert (withInsert pedBase 15 none)).ldg.inserted = [(5, St.noEffect)] := by decide
/-- A state in which an insert of one block may make a node. -/
theorem test_pedInsert_premises : let s := withInsert { pedBase with ped := { pedBase.ped with holders := [(3, ⟨9, 0, 0, 0, []⟩)] } } 16 (some 3)
    s.ped.rehash = none ∧ (s.ped.table.getD (block5.1 % 2 ^ s.pedLog2) []).length < 4 ∧ s.nodeFree = 4 ∧ s.pedProbe block5 = none ∧
      (∀ i, i < s.nodeCap → NodeOk s i) := by unfold NodeOk; decide

theorem test_hand_use : let s := set [(Reg.PED_NODE_FREE, F.PED_NODE_FREE_LOW, 1), (Reg.PED_CTRL, F.PED_CTRL_EVICT_EN, 1)] (pedState 1 true 2)
    handRuns s = true ∧ Nd.use ((after .evictionHandVisit s).nodeAt 0) = false ∧ (after .evictionHandVisit s).ped.hand = 1 := by decide
theorem test_hand_pinned : let s := set [(Reg.PED_NODE_FREE, F.PED_NODE_FREE_LOW, 1), (Reg.PED_CTRL, F.PED_CTRL_EVICT_EN, 1)] (pedState 1 false 2)
    Nd.state ((after .evictionHandVisit s).nodeAt 0) = Nd.live ∧ (after .evictionHandVisit s).ped.hand = 1 := by decide
theorem test_hand_evicts : let t := after .evictionHandVisit (set [(Reg.PED_NODE_FREE, F.PED_NODE_FREE_LOW, 1), (Reg.PED_CTRL, F.PED_CTRL_EVICT_EN, 1)] (pedState 1 false 0))
    Nd.state (t.nodeAt 0) = Nd.free ∧ t.reg Reg.PED_EVICTS = 1 ∧ t.ped.table = [] := by decide
theorem test_withdrawn_pinned : let s := pedState 3 false 1
    exec .withdrawnNodeEvict s = .next s := by rfl
theorem test_withdrawn : Nd.state ((after .withdrawnNodeEvict (pedState 3 false 0)).nodeAt 0) = Nd.free := by decide

theorem test_rehash_start : let t := after (.pedRehashGo 0x8000000A) pedBase
    t.ped.rehash = some (10, [], 0) ∧ t.flag Reg.PED_STATUS F.PED_STATUS_REHASH = true := by decide
theorem test_rehash_range : (after (.pedRehashGo 0x80000009) pedBase).flag Reg.PED_STATUS F.PED_STATUS_REHASH_REFUSED = true ∧
    (after (.pedRehashGo 0x80000013) pedBase).ped.rehash = none := by decide
/-- The last bucket migrates: the new table takes over. -/
theorem test_rehash_last : let s := pedState 1 false 0
    let s := set [(Reg.PED_CURSOR, F.PED_CURSOR_CURSOR, 2 ^ s.pedLog2 - 1)]
      { s with ped := { s.ped with rehash := some (12, [(block5.1 % 2 ^ 12, [⟨block5.1, block5.2 % 2 ^ 32, 0⟩])], 0) } }
    let t := after .rehashMigrate s
    s.walk = false ∧ t.ped.rehash = none ∧ t.pedLog2 = 12 ∧ t.pedProbe block5 = some ⟨block5.1, block5.2 % 2 ^ 32, 0⟩ := by decide

/-! ### Ledger -/

/-- Queue 3 with its rings at 0x2000_0000 and 0x2100_0000, records at 0x3000_0000, contexts at 0x3800_0000, team 5 in entry 0. -/
def ldgBase : State :=
  set [(Reg.LDG_CTRL, F.LDG_CTRL_ADMIT_EN, 1), (Reg.LDG_CTRL, F.LDG_CTRL_FIN_EN, 1), (Reg.LDG_AQ_CTRL 3, F.LDG_AQ_CTRL_EN, 1),
    (Reg.LDG_AQ_CTRL 3, F.LDG_AQ_CTRL_SQ_LOG2, 4), (Reg.LDG_AQ_CTRL 3, F.LDG_AQ_CTRL_CQ_LOG2, 4), (Reg.LDG_TEAM 0, F.LDG_TEAM_EN, 1),
    (Reg.LDG_TEAM 0, F.LDG_TEAM_TEAM, 5)]
    ((((base.setReg (Reg.LDG_AQ_SQ_BASE_LO 3) 0x20000000).setReg (Reg.LDG_AQ_CQ_BASE_LO 3) 0x21000000).setReg Reg.LDG_REC_BASE_LO
      0x30000000).setReg Reg.LDG_CTX_BASE_LO 0x38000000)

/-- Slot 2 of this home, generation 0, team 5. -/
def handle2 : Nat := mkHandle 0 2 0 5

/-- A command: OP, handle, P_NODE. -/
def ldgCmd (op h p : Nat) : Bytes :=
  toLE 1 op ++ toLE 1 0 ++ toLE 2 5 ++ toLE 4 0x77 ++ toLE 8 h ++ toLE 8 0x100000 ++ toLE 8 0x110000 ++ toLE 8 0x120000 ++ zeros 16 ++
    toLE 4 32 ++ toLE 4 8 ++ toLE 2 p ++ zeros 4 ++ toLE 1 0 ++ toLE 1 4 ++ zeros 56
def withCmd (s : State) (c : Bytes) : State :=
  { s with mem := Memory.write s.mem 0x20000000 c, ldg := { s.ldg with queues := [(3, { tail := 1 })] } }

/-- A record of slot 2: state, owner, OWNSEQ, pending, phase flags, GRANT_TICK. -/
def recBytes (st owner seq pending flags tick : Nat) : Bytes :=
  toLE 8 handle2 ++ toLE 1 st ++ zeros 2 ++ toLE 1 flags ++ toLE 2 owner ++ toLE 2 seq ++ toLE 2 pending ++ toLE 2 0xFFFF ++ zeros 3 ++
    toLE 1 4 ++ zeros 8 ++ toLE 8 tick ++ toLE 4 32 ++ toLE 4 0 ++ toLE 4 8 ++ toLE 4 0 ++ toLE 8 0x100000 ++ zeros 8 ++ toLE 8 0x120000 ++
    toLE 8 0x110000 ++ zeros 8 ++ toLE 4 0x77 ++ zeros 2 ++ toLE 1 3 ++ zeros 1 ++ toLE 4 0xFFFFFFFF ++ zeros 20
def withRec (s : State) (r : Bytes) (a : HomeAux) : State :=
  { s with mem := Memory.write s.mem 0x30000100 r, ldg := { s.ldg with homes := [(2, a)] } }
def homeState (st owner seq pending flags tick : Nat) : State := withRec ldgBase (recBytes st owner seq pending flags tick) {}
def withLdg (s : State) (m : Bytes) : State := { s with inbox := [⟨Op.ledger, 9, 5, 0, 0xFF, m⟩] }

/-- The ledger's periods are zero. -/
def due (s : State) : State :=
  ((s.setReg Reg.LDG_ESCROW_TMO 0).setReg Reg.LDG_ESCROW_RETRY 0).setReg Reg.LDG_DEADLINE_GRACE 0

/-- The last completion's bytes 0 to 15. -/
def cq3 (t : State) : List Nat := [leNat (Memory.read t.mem 0x21000000 4), leNat (Memory.read t.mem 0x21000004 1), leNat (Memory.read t.mem 0x21000005 1),
  leNat (Memory.read t.mem 0x21000006 1), leNat (Memory.read t.mem 0x21000007 1)]

theorem test_ldg_premises : let s := withCmd (homeState 2 0 4 0xFFFF 0 0) (ldgCmd 2 handle2 0)
    mayTake s 3 = true ∧ calm s = true ∧ s.walk = false ∧ handleStatus s handle2 = St.ok ∧ RecOk s 2 ∧ CqApart s 3 (s.recOff 2) 128 := by
  unfold RecOk CqApart; decide
theorem test_cmdAt : CmdAt (withCmd (homeState 2 0 4 0xFFFF 0 0) (ldgCmd 2 handle2 0)) 3 (ldgCmd 2 handle2 0) :=
  ⟨by decide, calm_settled _ (by decide) rfl rfl, by decide, by decide, by decide, by decide, by decide, by decide⟩
/-- Table LDG-13: TAG, STATUS, OP, PHASE, STATE of the entry. -/
theorem test_ldgCancelCmd_held : let t := after (.ldgCancelCmd 3 .timeout) (withCmd (homeState 2 0 4 0xFFFF 0 0) (ldgCmd 2 handle2 0))
    cq3 t = [0x77, St.ok, 2, 1, 6] ∧ Lr.state (recAt t 2) = 6 ∧ Lr.endStatus (recAt t 2) = St.cancelled := by decide
theorem test_ldgCancelCmd_lookup : let t := after (.ldgCancelCmd 3 .timeout) (withCmd (homeState 1 0 0 0xFFFF 0 0) (ldgCmd 2 handle2 0))
    Lr.cancelPend (recAt t 2) = true ∧ t.ldg.homes.map (fun x => x.2.cancel) = [some ⟨3, 0x77, handle2, none⟩] := by decide
theorem test_retarget : let t := after (.retarget 3 .timeout) (withCmd (homeState 2 0 4 0xFFFF 0 0) (ldgCmd 3 handle2 8))
    cq3 t = [0x77, St.ok, 3, 1, 3] ∧ Lr.pending (recAt t 2) = 8 := by decide
theorem test_ldgWhoOwnsCmd : cq3 (after (.ldgWhoOwnsCmd 3 .timeout) (withCmd (homeState 5 9 4 0xFFFF 0 0) (ldgCmd 4 handle2 0))) =
    [0x77, St.ok, 4, 1, 5] := by decide
/-- A handle of generation 1 while the slot is at 0 is stale. -/
theorem test_ldg_stale : cq3 (after (.ldgWhoOwnsCmd 3 .timeout) (withCmd (homeState 5 9 4 0xFFFF 0 0) (ldgCmd 4 (mkHandle 0 2 1 5) 0))) =
    [0x77, St.epochStale, 4, 1, 0] := by decide
theorem test_ldg_reserved : cq3 (after (.ldgAdmit 3 .timeout) (withCmd ldgBase (ldgCmd 5 handle2 0))) = [0x77, St.rights, 5, 1, 0] := by
  decide
theorem test_ldgAdmit_team : let s := withCmd (set [(Reg.LDG_TEAM 0, F.LDG_TEAM_EN, 0)] ldgBase) (ldgCmd 1 0 0)
    cq3 (after (.ldgAdmit 3 .timeout) s) = [0x77, St.rights, 1, 1, 0] := by decide

/-- An ADMIT that passes its checks: root lists of one stall, a tenant entry of team 5 with a full bucket, one freed slot. -/
def admitState : State :=
  let s := withCmd ldgBase (ldgCmd 1 0 0)
  let m := Memory.write s.mem 0x110000 (toLE 1 1 ++ zeros 33 ++ toLE 1 1 ++ zeros 29 ++ toLE 8 root5)
  let m := Memory.write m (s.tenOff 0) (toLE 4 0x10000000 ++ toLE 4 0 ++ toLE 4 0x100000 ++ toLE 2 0 ++ toLE 2 0x8005)
  { s with mem := m, ldg := { s.ldg with virgin := [], freed := [2] } }
theorem test_ldgAdmit : let t := after (.ldgAdmit 3 .timeout) admitState
    cq3 t = [0x77, St.ok, 1, 1, 1] ∧ t.ped.lookups = [⟨handle2, 32, 0x100000, 0x110000⟩] ∧ Lr.state (recAt t 2) = Lr.lookup := by decide

/-- R124: an OFFER of owner 9 for node 8. -/
theorem test_offer : let s := withLdg (homeState 4 9 4 0xFFFF 0 0) (ldgMsg 9 Lm.offer handle2 { seq := 4, target := 8, token := 33 })
    let r := recAt (after .offer s) 2
    (Lr.state r, Lr.owner r, Lr.seq r, Lr.phase r, Lr.pending r, Lr.firstToken r) = (3, 0, 5, 1, 8, 33) := by decide
theorem test_offer_end : let s := withLdg (homeState 5 9 4 0xFFFF 0 0) (ldgMsg 9 Lm.offer handle2 { seq := 4, target := 0, reason := 3, ngen := 8 })
    let r := recAt (after .offer s) 2
    (Lr.state r, Lr.endStatus r, Lr.reason r, Lr.ngen r) = (6, 0, 3, 8) := by decide
theorem test_offer_stale : let s := withLdg (homeState 5 9 4 0xFFFF 0 0) (ldgMsg 9 Lm.offer handle2 { seq := 3, target := 8 })
    (after .offer s).reg Reg.LDG_STALE = 1 := by decide
theorem test_offer_repeated : let s := withLdg (homeState 3 0 5 8 0x20 0) (ldgMsg 9 Lm.offer handle2 { seq := 4, target := 8 })
    exec .offer s = .next { s with inbox := [] } := by rfl
/-- Table TEM-5: after END an OFFER for another node ends the request; one for the home is taken. -/
theorem test_offer_lost :
    let s := withLdg (withRec ldgBase (recBytes 4 9 4 0xFFFF 0 0) { lostAt := some 0 }) (ldgMsg 9 Lm.offer handle2 { seq := 4, target := 8 })
    let r := recAt (after .offer s) 2
    (Lr.state r, Lr.endStatus r, Lr.owner r, Lr.seq r) = (6, St.memberLost, 0, 5) := by decide
theorem test_accept : let s := withLdg (homeState 3 0 5 8 0x20 0) (ldgMsg 8 Lm.accept handle2 { seq := 6 })
    let r := recAt (after .accept s) 2
    escrowOver s (recAt s 2) = false ∧ (Lr.state r, Lr.owner r, Lr.seq r, Lr.pending r) = (5, 8, 6, 0xFFFF) := by decide
theorem test_accept_late : let s := withLdg (due (homeState 3 0 5 8 0x20 0)) (ldgMsg 8 Lm.accept handle2 { seq := 6 })
    let r := recAt (after .accept s) 2
    escrowOver s (recAt s 2) = true ∧ (Lr.state r, Lr.owner r, Lr.seq r) = (2, 0, 6) := by decide
theorem test_accept_stale : let s := withLdg (homeState 2 0 5 0xFFFF 0 0) (ldgMsg 8 Lm.accept handle2 { seq := 6 })
    (after .accept s).reg Reg.LDG_STALE = 1 := by decide
theorem test_refuse : let s := withLdg (homeState 3 0 5 8 0 0) (ldgMsg 8 Lm.refuse handle2 { status := St.rights, seq := 6 })
    let r := recAt (after .refuse s) 2
    (Lr.state r, Lr.seq r, Lr.pending r) = (2, 6, 0xFFFF) ∧ (after .refuse s).reg Reg.LDG_REVERTS = 1 := by decide
theorem test_escrowTimeout : let s := due (homeState 3 0 5 8 0 0)
    Lr.state (recAt (after .escrowTimeout s) 2) = 2 := by decide
theorem test_lookupResult_held : let s := homeState 1 0 0 0xFFFF 0 0
    let s := { s with ldg := { s.ldg with results := [⟨handle2, 16, 0, 0, 0, 16, 3⟩] } }
    Lr.state (recAt (after .lookupResult s) 2) = 2 ∧ Lr.matched (recAt (after .lookupResult s) 2) = 16 := by decide
theorem test_lookupResult_cancelled : let s := withRec ldgBase (recBytes 1 0 0 0xFFFF 0x40 0) { cancel := some ⟨3, 0x55, handle2, none⟩ }
    let s := { s with ldg := { s.ldg with results := [⟨handle2, 16, 0, 0, 0, 16, 3⟩] } }
    cq3 (after .lookupResult s) = [0x55, St.ok, 2, 1, 6] := by decide
def replyState : State := withLdg (withRec ldgBase (recBytes 5 9 4 0xFFFF 0x40 0) { cancel := some ⟨3, 0x55, handle2, some 0⟩ })
  (ldgMsg 9 Lm.cancelReply handle2 { status := St.noEffect, seq := 4 })
theorem test_cancelReply : let s := replyState
    cq3 (after .cancelReply s) = [0x55, St.noEffect, 2, 1, 5] ∧ Lr.cancelPend (recAt (after .cancelReply s) 2) = false := by decide

/-! Timers: every period zero, so all of them are due at tick 0 -/

theorem test_grantRetry : let s := (withRec ldgBase (recBytes 3 0 5 8 0 0) { grantSent := 0 }).setReg Reg.LDG_ESCROW_RETRY 0
    findSlot s (fun _ h r => Lr.state r == Lr.escrow && !escrowOver s r &&
      decide (h.grantSent + s.reg Reg.LDG_ESCROW_RETRY ≤ s.now)) = some 2 ∧ (after .grantRetry s).mem = s.mem := by decide
theorem test_cancelRetry : let s := due (withRec ldgBase (recBytes 5 9 4 0xFFFF 0x40 0) { cancel := some ⟨3, 0x55, handle2, some 0⟩ })
    (after .cancelRetry s).ldg.homes.map (fun x => x.2.cancel) = [some ⟨3, 0x55, handle2, some 0⟩] ∧ (after .cancelRetry s).mem = s.mem := by decide
theorem test_homeDeadline : let s := { withRec ldgBase (patch (recBytes 2 0 4 0xFFFF 0 0) 24 [8]) {} with tick := 24 }
    Lr.deadline (recAt s 2) = 8 ∧ Lr.state (recAt s 2) = Lr.held ∧ 8 ≤ s.now := ⟨by decide, by decide, State.le_now _ (by decide)⟩
theorem test_lostMember : let s := due (withRec ldgBase (recBytes 4 9 4 0xFFFF 0 0) { lostAt := some 0 })
    Lr.endStatus (recAt (after .lostMemberOfferTimeout s) 2) = St.memberLost := by decide
theorem test_whoOwns : let s := withLdg (homeState 5 9 4 0xFFFF 0 0) (ldgMsg 0 Lm.whoOwns handle2 {})
    (after .whoOwns s).inbox.map (fun m => (Lm.kind m.data, Lm.target m.data, Lm.seq m.data)) = [(Lm.ownerIs, 9, 4)] := by decide

/-! Owner contexts: handle of home 9, slot 2, team 5 -/

def handle9 : Nat := mkHandle 9 2 0 5
def stop5 : Bytes := zeros 1152
def ctx9 : OwnerCtx := { handle := handle9, place := 0, record := patch (recBytes 5 1 4 0xFFFF 0x20 0) 0 (toLE 8 handle9), stop := stop5,
                         d := List.replicate 8 0, step := 3, seq := 4 }
def ctxState (c : OwnerCtx) : State := { ldgBase with role := roleG, ldg := { ldgBase.ldg with ctxs := [c] } }
def entry9 (seq status tok step : Nat) : Bytes :=
  ldgMsg 9 Lm.step 0 { nent := 1, payload := toLE 8 handle9 ++ toLE 2 seq ++ toLE 1 status ++ toLE 1 0 ++ toLE 4 tok ++ toLE 4 step ++ zeros 12 }

theorem test_grant_premises : let s := withLdg { ldgBase with role := roleG } (ldgMsg 9 Lm.grant handle9 { seq := 4, payload := ctx9.record ++ stop5 })
    s.role = Lr.phase (slice (ldgMsg 9 Lm.grant handle9 { seq := 4, payload := ctx9.record ++ stop5 }) 64 128) ∧ s.ldgTeam (hTeam handle9) = some 0 ∧
      s.ctx handle9 = none := by decide
theorem test_grant_refused : let s := withLdg ldgBase (ldgMsg 9 Lm.grant handle9 { seq := 4, payload := ctx9.record ++ stop5 })
    (after .grant s).ldg = s.ldg := by decide
theorem test_grant_repeat : let s := withLdg (ctxState { ctx9 with heard := 50 }) (ldgMsg 9 Lm.grant handle9 { seq := 4 })
    (after .grant s).ldg.ctxs.map (·.heard) = [0] := by decide
theorem test_ldgCommit : let s := withLdg (ctxState ctx9) (ldgMsg 9 Lm.commit handle9 { seq := 4, target := 0 })
    (after .ldgCommit s).ldg.ctxs.map (fun c => (c.acting, c.step)) = [(true, 4)] := by decide
theorem test_ldgCommit_late : let s := withLdg (ctxState ctx9) (ldgMsg 9 Lm.commit handle9 { seq := 5, target := 8 })
    (after .ldgCommit s).ldg.ctxs = [] := by decide
theorem test_revert : let s := withLdg (ctxState ctx9) (ldgMsg 9 Lm.revert handle9 { seq := 4 })
    (after .revert s).ldg.ctxs = [] := by decide
theorem test_ownerIs : let s := withLdg (ctxState ctx9) (ldgMsg 9 Lm.ownerIs handle9 { seq := 4, target := 0 })
    (after .ownerIs s).ldg = s.ldg := by decide
/-- R128: an OWNER_IS that keeps a context ends the retries of its OFFER. -/
theorem test_ownerIs_offer : let s := withLdg (ctxState { ctx9 with offer := some (8, []) }) (ldgMsg 9 Lm.ownerIs handle9 { seq := 4, target := 0 })
    (after .ownerIs s).ldg.ctxs.map (·.offerOver) = [true] ∧ (after .offerRetry (after .ownerIs s)).out = [] := by decide
theorem test_ldgCancel : let s := withLdg (ctxState ctx9) (ldgMsg 9 Lm.cancel handle9 { seq := 4 })
    (after .ldgCancel s).ldg.ctxs.map (·.cancel) = [true] := by decide
theorem test_step : let s := withLdg (ctxState { ctx9 with acting := true }) (entry9 4 0 77 4)
    CtxOk s { ctx9 with acting := true } ∧ (after .step s).ldg.ctxs.map (fun c => (c.step, Lr.ngen c.record, c.line, c.acting)) =
      [(4, 1, [77], true)] := ⟨⟨calm_settled _ (by decide) rfl rfl, by decide⟩, by decide⟩
theorem test_step_order : let s := withLdg (ctxState { ctx9 with acting := true }) (entry9 4 0 77 5)
    (after .step s).reg Reg.LDG_STALE = 1 := by decide
theorem test_step_deadline : let s := withLdg (ctxState { ctx9 with acting := true, deadline := some 0 }) (entry9 4 0 77 4)
    (after .step s).ldg.ctxs.map (fun c => (c.acting, c.offer.map fun x => (x.1, Lm.endStatus x.2))) =
      [(false, some (9, St.deadline))] := by decide
theorem test_offerRetry : let s := due (ctxState { ctx9 with offer := some (9, []) })
    (after .offerRetry s).ldg.ctxs.map (·.offerAt) = [0] ∧ (after .offerRetry s).mem = s.mem := by decide
theorem test_contextSilence : let s := due (ctxState ctx9)
    (after .contextSilence s).ldg.ctxs.map (·.heard) = [0] ∧ (after .contextSilence s).mem = s.mem := by decide
theorem test_deadlineGrace : let s := due (ctxState { ctx9 with acting := true, deadline := some 0 })
    (after .deadlineGraceExpiry s).ldg.ctxs.map (fun c => c.offer.map fun x => Lm.endStatus x.2) = [some St.deadline] := by decide

/-- R140's example: the sequence 7, 9, 7, 3 over tokens 7, 9, 7, 9, 7, 3. -/
def stopEx : Bytes := toLE 1 0 ++ toLE 1 1 ++ toLE 1 4 ++ zeros 125 ++ toLE 4 7 ++ toLE 4 9 ++ toLE 4 7 ++ toLE 4 3 ++ zeros 1008
theorem test_stop_example : (([7, 9, 7, 9, 7, 3].foldl (fun (x : List Nat × List Nat) t =>
    (stopStep stopEx x.1 t, x.2 ++ [(stopStep stopEx x.1 t).getD 0 0])) (List.replicate 8 0, [])).2) = [1, 2, 5, 2, 5, 8] ∧
    stopReason stopEx [8] 3 6 6 = 2 := by decide

theorem test_closeComplete : let s := withRec ldgBase (recBytes 6 0 4 0xFFFF 0 0) { close := some {} }
    let t := after .closeComplete s
    t.ldg.homes = [] ∧ t.slotGen 2 = 1 ∧ t.ldg.freed = [2] ∧ cq3 t = [0x77, 0, 0x80, 1, 6] := by decide
theorem test_released : let s := withLdg (withRec ldgBase (recBytes 6 0 4 0xFFFF 0 0) { close := some { waiting := [9] } }) (ldgMsg 9 Lm.released handle2 {})
    (after .released s).ldg.homes.map (fun x => x.2.close.map (·.waiting)) = [some []] := by decide
theorem test_ldgRelease : let s := withLdg filled (ldgMsg 9 Lm.release 5 { nent := 1, payload := toLE 8 root5 })
    (after .ldgRelease s).kvp.edits.map (fun e => Ed.op e.desc) = [0x15] := by decide

/-- Team 5 spans group 0: stalls 0 to 7. -/
def dutyState (en : Nat) : State :=
  set [(Reg.LDG_TEAM 1, F.LDG_TEAM_EN, en), (Reg.LDG_TEAM 1, F.LDG_TEAM_TEAM, 5), (Reg.LDG_TEAM 1, F.LDG_TEAM_IMAX, 16),
    (Reg.LDG_CTRL, F.LDG_CTRL_SPLIT_EN, 1)] teamState
theorem test_ldgTeamEnable : let t := after (.ldgTeamEnable 1 0x82010005) (dutyState 0)
    (t.split 1).i = 8 ∧ (t.stall 7).dutyNext = some .ingest := by decide
theorem test_dutySample : ((dutyState 1).split 1).sampled + 1000 ≤ { dutyState 1 with tick := 1016 }.now ∧
    (dutyState 1).now < ({ dutyState 1 with ldg := { base.ldg with splits := [(1, { sampled := 9 })] } }.split 1).sampled + 1000 :=
  ⟨State.le_now _ (by decide), by decide⟩
theorem test_dutySplitAdjust : let s := { (dutyState 1).setReg Reg.LDG_SPLIT_PERIOD 0 with ldg := { base.ldg with splits := [(1, { a := 9, n := 1 })] } }
    ((after (.dutySplitAdjust 1) s).split 1).i = 8 := by decide

/-! ### Harness links -/

/-- Port 3 as given. -/
def portState (x : Port) : State := { base with ports := [(3, x)], tck := { base.tck with portsHeld := false } }
def port3 (st : PortState) : Port := { state := st, txSet := 3, rxSet := 3, lastSet := 3 }
def en3 (s : State) : State := set [(Reg.HLK_CTRL 3, F.HLK_CTRL_EN, 1)] s

theorem test_lanes4 : Lanes4 (portState (port3 .up)) 3 := by unfold Lanes4; decide
theorem test_portEnable : ((after (.portEnable 3 0x800000F0) (portState {})).port 3).state = .detect ∧
    ((after (.portEnable 3 0) (portState (port3 .up))).port 3).state = .disabled := by decide
theorem test_portRetrain : ((after (.portRetrain 3) (en3 (portState { port3 .up with armed := true }))).port 3).state = .detect ∧
    ((after (.portRetrain 3) (en3 (portState { port3 .up with armed := true }))).port 3).armed = true := by decide
theorem test_laneRetrain : let s := en3 (portState (port3 .up))
    s.fld (Reg.HLK_CTRL 3) F.HLK_CTRL_RETRAIN = 0 ∧ s.fld (Reg.HLK_CTRL 3) F.HLK_CTRL_LANE_RETRAIN = 0 ∧
      (((after (.laneRetrain 3 1) s).port 3).lane 1).alone = true := by decide
theorem test_trainingMarkerDetect : ((after (.trainingMarkerDetect 3 0) (portState (port3 .detect))).port 3).state = .equalise ∧
    Retrains (portState (port3 .up)) 3 2 (after (.trainingMarkerDetect 3 0) (portState (port3 .up))) := by unfold Retrains; decide
theorem test_laneSignalLoss : Retrains (portState (port3 .up)) 3 3 (after (.laneSignalLoss 3 1) (portState (port3 .up))) ∧
    ((after (.laneSignalLoss 3 2) (portState (port3 .up))).port 3).state = .up := by unfold Retrains; decide
theorem test_codewordLock : ((after (.codewordLock 3) (portState (port3 .lock))).port 3).state = .hello := by decide
theorem test_trainingTimeout : let s := (portState (port3 .equalise)).setReg (Reg.HLK_TRAIN 3) 0
    ((after (.trainingTimeout 3) s).port 3).state = .detect ∧ (after (.trainingTimeout 3) s).reg (Reg.HLK_TRAIN_FAIL 3) = 1 := by decide

/-- PRE −4 and POST −8: a request of 1 and of 2. -/
theorem test_trainingFrame : let t := after (.trainingFrame 3 0 ⟨0x9, 0⟩) (portState (port3 .equalise))
    (((t.port 3).lane 0).pre, ((t.port 3).lane 0).post) = (-3, -9) ∧ lanetrains (port3 .equalise) 0 = true := by decide
def goodLane : Lane := { rxReady := true, bothFrames := 15 }
theorem test_trainingFrame_locks : let x := { port3 .equalise with lanes := List.replicate 4 goodLane, laneEn := 1 }
    LocksOn 3 1 (after (.trainingFrame 3 0 ⟨0x10, 0⟩) (portState x)) := by unfold LocksOn; decide
theorem test_qualificationWindowEnd : let s := set [(Reg.HLK_TRAIN 3, F.HLK_TRAIN_QUAL_MAX, 32)] (portState (port3 .equalise))
    (((after (.qualificationWindowEnd 3 0 32 true) s).port 3).lane 0).rxReady = true ∧
      (((after (.qualificationWindowEnd 3 0 33 true) s).port 3).lane 0).rxReady = false := by decide
theorem test_equaliseHalfTimeout : let x := { port3 .equalise with lanes := [{ good := true }, {}, {}, {}] }
    LocksOn 3 1 (after (.equaliseHalfTimeout 3) ((portState x).setReg (Reg.HLK_TRAIN 3) 0)) := by unfold LocksOn; decide
theorem test_retrainSetTimeout : (port3 .retrain).retrainStart + 120000 ≤ { portState (port3 .retrain) with tick := 120016 }.now ∧
    pickSet ((port3 .retrain).good &&& (port3 .retrain).lastSet) = none := ⟨State.le_now _ (by decide), by decide⟩
theorem test_pickSet : (pickSet 0xF, pickSet 0xB, pickSet 0xC, pickSet 0xA, pickSet 0) = (some 0xF, some 3, some 0xC, some 2, none) := by
  decide

def hello9 : Bytes := Sl.make Sl.hello 9 2 roleP 0xF 0 0 0 [32, 32, 32, 32] quad0 0
theorem test_helloTimer : ((after (.helloTimer 3) (portState (port3 .hello))).port 3).helloTx = 1 := by decide
theorem test_helloTimer_up : let s := portState { port3 .hello with helloSeen := some hello9, helloRx := 3, helloTx := 2 }
    s.role < 4 ∧ ((port3 .hello).helloTx = 0 ∨ (port3 .hello).helloLast + 1000 ≤ { s with tick := 1016 }.now) :=
  ⟨by decide, .inl rfl⟩
def nearlyUp : Port := { port3 .hello with helloSeen := some hello9, helloRx := 2, helloTx := 3 }
theorem test_hello_up : UpWith 3 hello9 0 (after (.hello 3 hello9) (portState nearlyUp)) := by unfold UpWith; decide
theorem test_hello_conflict : let t := after (.hello 3 (Sl.make Sl.hello 0 2 roleP 0xF 0 0 0 quad0 quad0 0)) (portState (port3 .hello))
    t.flag (Reg.HLK_STATUS 3) F.HLK_STATUS_HELLO_CONFLICT = true := by decide
/-- The peer has sent 7 slots of class 0 and 5 arrived: two are lost and given back. -/
theorem test_credit : let x := { port3 .up with recv := [5, 0, 0, 0], freed := [4, 0, 0, 0] }
    let y := (after (.credit 3 (Sl.make Sl.credit 0 0 0 0 0 0 0 [1, 2, 3, 4] [7, 0, 0, 0] 0)) (portState x)).port 3
    (y.recv, y.freed, y.peerFreed) = ([7, 0, 0, 0], [6, 0, 0, 0], [1, 2, 3, 4]) := by decide
def allGood : Port := { port3 .up with lanes := List.replicate 4 { good := true } }
theorem test_width : ((after (.width 3 (Sl.make Sl.width 0 0 0 0 1 1 0 quad0 quad0 0)) (portState (port3 .up))).port 3).rxSet = 1 ∧
    ((after (.width 3 (Sl.make Sl.width 0 0 0 0xF 0 0 0 quad0 quad0 0)) (portState allGood)).port 3).txSet = 0xF := by decide
theorem test_recalReq : ((after (.recalReq 3) (portState (port3 .up))).port 3).idleReq = true ∧
    ((after (.recalDone 3) (portState { port3 .up with idleReq := true })).port 3).idleReq = false := by decide
theorem test_hoofbeat : let s := set [(Reg.HLK_NEIGHBOUR 3, F.HLK_NEIGHBOUR_NODE, 9)] (portState (port3 .up))
    ((after (.hoofbeat 3 (Sl.make Sl.hoofbeat 9 2 0 0 0 0 0 quad0 quad0 0)) s).port 3).state = .up ∧
      Retrains s 3 4 (after (.hoofbeat 3 (Sl.make Sl.hoofbeat 8 2 0 0 0 0 0 quad0 quad0 0)) s) := by unfold Retrains; decide
theorem test_creditReportTimer : (after (.creditReportTimer 3) (portState { port3 .up with creditDirty := true, freed := [4, 0, 0, 0] })).out =
    [.ctrlSlot 3 (Sl.make 3 0 0 0 0 0 0 0 [4, 0, 0, 0] quad0 0)] := by decide
theorem test_timers_due : let s := { portState { port3 .up with armed := true } with tick := 1000016 }
    (s.port 3).hoofLast + 50000 ≤ s.now ∧ (s.port 3).lifeTick + 400000 ≤ s.now ∧ (s.port 3).lastCredit + 1000 ≤ s.now :=
  ⟨State.le_now _ (by decide), State.le_now _ (by decide), State.le_now _ (by decide)⟩
theorem test_recalPeriod : let s := set [(Reg.HLK_RECAL 3, F.HLK_RECAL_EN, 1), (Reg.HLK_RECAL 3, F.HLK_RECAL_PERIOD, 0)] (portState (port3 .up))
    ((after (.recalPeriod 3) s).port 3).lanes.map (·.pass) = [some (65536, 0), some (65536, 0), none, none] := by decide
theorem test_recalSlotTimeout : let s := { portState { port3 .up with lanes := [{ pass := some (9, 0) }, {}, {}, {}] } with tick := 1000016 }
    ((s.port 3).lane 0).pass = some (9, 0) ∧ 0 + 1000000 ≤ s.now := ⟨by decide, State.le_now _ (by decide)⟩

/-- 544 symbols on two lanes that end in 30 given ones. -/
def endsIn (l : List Nat) : List (List Pam) := spread 2 (List.replicate 514 0 ++ l)
/-- ∏ (x − αʲ), j = 0 to 28: one root short of the generator, so its locator would have degree 30. -/
theorem test_lineDecode_none : lineDecode 3 (endsIn [1, 287, 513, 656, 197, 885, 815, 1011, 141, 211, 282, 451, 394, 740, 375, 387,
    301, 883, 11, 812, 927, 370, 437, 2, 961, 563, 614, 564, 941, 464]) = none := by decide +kernel
theorem test_codeword_bad : let t := codewordIn (portState { port3 .up with uncorrRun := 63 }) 3 none
    Retrains (portState { port3 .up with uncorrRun := 63 }) 3 1 t ∧ t.reg (Reg.HLK_FEC_HIST5 3) = 1 ∧ t.reg (Reg.HLK_CW 3) = 1 := by
  unfold Retrains; decide
/-- A PROBE without payload in slot 0, scrambled from the all-ones state. -/
def probeBody : Bytes := (descramble 0x7FFFFFFF (zeros 640)).1
theorem test_codeword_packet : let t := codewordIn (portState (port3 .up)) 3 (some ⟨1, probeBody, [1, 2]⟩)
    (t.port 3).rxq.length = 1 ∧ t.reg (Reg.HLK_FEC_HIST 3 1) = 1 := by decide
/-- The 640 bytes as one number: the first 5,120 bits of the scrambler from all-ones, 448 bits a row. -/
def probeBits : Nat := [
  0x71c4ec4f03f73f70070f8f000fe370001c4f00003f70000070ffffff01c71c7003f03f00070070000fff00001c7000003f00000070000000,
  0x4eb4eb408cf73093770f934f0fe34f701c4f70ffc08f01c76c8ffc0f3ec71b7073f030ff07006c700fff3f001c7070003f00ffff8ffe38e3,
  0x7e279c4f1fb83f70387f8f007f1c8fff1d881c703c803f0077ff8fff0e381c701f803f00380070007fff0000e38ffffe07e38e3b63b13b14,
  0x4157a43090b8406cb7809288636cb37f22886b8fb37f31386b8f907f313824706f8040ff3800938f800107e36db49c4f3cf7c08f88f1b7e3,
  0x013b13b00230230004ffb00008e3000013b00000230000004fffffff71c71c70fc0fc0fe3fe3fe3b1c4e3b14ad3b14be8b14bea814bea85b,
  0x223b174fb2302be304ffa3b008e3230013b04fffdcff71c7538f03f0b13923930234dcb004f7530008f0b00013930000234fffffb08e38e3,
  0x09d813b01180230027ffb000471cffff62771c70df0fc0fe701c01c46d8927645134d440b4f7409308f0934fec6cb08e1bacfec4a33e3ad3,
  0x2ad8344fa180641cd800d2775b6c20f0a2896c6cdecbad77577850f0b9c9939311a7dcb027b8acffb87e88e312a813b0217fdcffb47188e3,
  0x4ec4ec4f73f73f70f8f070fe3700fe3b0ffe3b148e3b14bec4eb41576579b42bbd5864ceaf5bbe57abcea99cce57a7c1a99cd527a7c19963,
  0x71b414bf0309087006cb7f000c1470001b40ffffcf6c71c770c0fc0f01b71b70030fcf0006c770000c0f00001b70000030ffffff938e38e3,
  0x79c412747c09046476cb6440f3ebbf6c6a878f3f336370706bb0ff00ceb71db7730fc30f06c76b700c0f30ffe48f938e081cb13b7fc14b14,
  0x187fcf0036388fff9f8138e355b4ec4f4308c08f6b7e481d].foldr (fun v acc => v + 2 ^ 448 * acc) 0
theorem probeBody_bits : probeBody = toLE 640 probeBits := by decide +kernel
/-- The same bytes as a codeword, its parity worked out by the division of clause 91. -/
def probeWord : List Nat :=
  ((List.range 514).map fun i => (1 + 2 ^ 20 * probeBits) / 1024 ^ i % 1024) ++
    [588, 65, 656, 533, 755, 644, 988, 535, 780, 493, 483, 810, 242, 418, 399, 115, 654, 899, 746, 641, 619, 346, 406, 140, 360, 683,
      453, 260, 883, 942]
/-- Six of the 30 syndromes of that codeword, from the `6 k`-th. -/
abbrev probeSyn (k : Nat) : List Nat := ((List.range 6).map (6 * k + ·)).map fun j => gfEval probeWord (gfExp j)
theorem probeSyn_0 : probeSyn 0 = List.replicate 6 0 := by decide +kernel
theorem probeSyn_1 : probeSyn 1 = List.replicate 6 0 := by decide +kernel
theorem probeSyn_2 : probeSyn 2 = List.replicate 6 0 := by decide +kernel
theorem probeSyn_3 : probeSyn 3 = List.replicate 6 0 := by decide +kernel
theorem probeSyn_4 : probeSyn 4 = List.replicate 6 0 := by decide +kernel
theorem rsSyndromes_probe : rsSyndromes probeWord = List.replicate 30 0 := by
  have h : List.range 30 = ((List.range 5).map fun k => (List.range 6).map (6 * k + ·)).flatten := by decide
  have e : (List.range 5).map probeSyn = List.replicate 5 (List.replicate 6 0) := by
    rw [show List.range 5 = [0, 1, 2, 3, 4] from rfl]
    simp only [List.map_cons, List.map_nil, probeSyn_0, probeSyn_1, probeSyn_2, probeSyn_3, probeSyn_4]; rfl
  rw [rsSyndromes, h, List.map_flatten, List.map_map]
  exact (congrArg List.flatten e).trans (by decide)
theorem rsFix_probe : rsFix probeWord = some (probeWord, []) := by rw [rsFix, rsSyndromes_probe]; rfl
theorem gather_probe : gather 544 ((spread 2 probeWord ++ List.replicate 4 []).take 2) = probeWord := by decide +kernel
theorem messageBits_probe : messageBits probeWord = 1 + 2 ^ 20 * probeBits := by decide +kernel
theorem lineDecode_of {set n : Nat} {lanes : List (List Pam)} {cw es : List Nat} (hw : max 1 (((List.range 4).filter (bit set ·)).length) = n)
    (hf : rsFix (gather 544 ((lanes ++ List.replicate 4 []).take n)) = some (cw, es)) : lineDecode set lanes =
      some ⟨messageBits cw % 2 ^ 20, toLE 640 (messageBits cw / 2 ^ 20),
        (List.range 4).map fun k => (es.filter fun i => laneOf set i == k).length⟩ := by
  simp only [lineDecode, hw, hf]
theorem test_lineDecode : lineDecode 3 (spread 2 probeWord) = some ⟨1, probeBody, [0, 0, 0, 0]⟩ := by
  rw [lineDecode_of (by decide) ((congrArg rsFix gather_probe).trans rsFix_probe), messageBits_probe, probeBody_bits]
  decide +kernel
/-- The generator of clause 91. -/
theorem test_rsGenerator : rsGenerator.take 4 = [1, 575, 552, 187] ∧ rsGenerator.getLast? = some 523 := by decide +kernel
theorem test_spread : gather 544 (spread 4 (List.range 544)) = List.range 544 := by decide +kernel
theorem test_alignBlocks : (alignBlocks 3).map (·.drop 64) =
    [[.m3, .p3, .m3, .p3, .p3, .m3, .m3, .p3, .m3, .p3, .m3, .p3, .p3, .m3, .m3, .p3],
     [.m3, .p3, .p3, .m3, .p3, .m3, .m3, .p3, .m3, .p3, .p3, .m3, .p3, .m3, .m3, .p3]] := by decide
theorem test_alignBlock : ((after (.alignBlock 3) (portState { port3 .up with scram := 5 })).port 3).scram = 2 ^ 31 - 1 := by decide
theorem test_eyeScan : let t := after (.eyeScanGo 3 0x40000000) (portState (port3 .up))
    (t.port 3).eyeBusy = true ∧ (after (.eyeScanComplete 3 1 2 3 4) t).reg (Reg.HLK_EYE_RESULT 3) = 0x01020304 := by decide

/-! ### Transport -/

/-- Port 3 is UP and the route to node 9; node 9's pair stands at CSN 10. -/
def htpBase : State :=
  { teamState with
    ports := [(3, { state := .up, txSet := 15, rxSet := 15 })]
    htp := { teamState.htp with routes := [(9, 0x80000003)], rx := [(9, ⟨7, 10, [], []⟩)] } }
def pkt9 (op len off : Nat) (d : Bytes) : Pkt := { src := 9, opcode := op, team := 5, length := len, seq := 11, offset := off, payload := d }
def ones64 : Bytes := List.replicate 64 1
def store9 : Pkt := pkt9 Op.store 64 0x1000 ones64
/-- The answers waiting at port 3, with those sent: opcode, sequence, status. -/
def answers (t : State) : List (Nat × Nat × Nat) :=
  ((t.port 3).txq.map (·.pkt) ++ t.out.filterMap fun o => match o with
    | .packet _ q => some q
    | _ => none).map fun q => (q.opcode, q.seq, q.status)

theorem test_goodPkt : GoodPkt htpBase 3 Op.store store9.wire store9 := ⟨by decide, rfl, .inl (by decide)⟩
theorem test_newReq : NewReq htpBase store9 :=
  ⟨by decide, by decide, ⟨7, 10, [], []⟩, rfl, by decide, by decide, by decide, by decide⟩
theorem test_teamNow : TeamNow htpBase store9 := ⟨0, by decide, by decide, by decide⟩
theorem test_store_premises : memCheck htpBase store9 = St.ok ∧ LinesGood htpBase 0x1000 64 ∧ store9.payload.length = store9.length ∧
    Uncombined htpBase { store9 with nocomb := true } := by unfold LinesGood Uncombined; decide
theorem test_canAnswer : CanAnswer htpBase store9 := by unfold CanAnswer; decide
theorem test_store : let t := after (.store 3 store9.wire) htpBase
    answers t = [(Op.ack, 11, St.ok)] ∧ homeByte t 0x1003 = 1 ∧ homeByte t 0x1040 = 0 ∧ t.htp.rx = [(9, ⟨7, 11, [], []⟩)] := by decide
theorem test_load : answers (after (.load 3 { pkt9 Op.load 64 0x1000 [] with nocomb := true }.wire) htpBase) = [(Op.loadResp, 11, St.ok)] := by decide
/-- 0xFFFF_FFFF plus 2 wraps in four bytes. -/
def addState : State := { htpBase with mem := Memory.write [] 0x1000 (toLE 4 0xFFFFFFFF) }
def atomic9 (op a b : Nat) : Pkt := pkt9 op 64 0x1000 (toLE 8 a ++ toLE 8 b ++ toLE 1 4 ++ zeros 47)
theorem test_fetchAdd : let t := after (.fetchAdd 3 { atomic9 Op.fetchAdd 2 0 with nocomb := true }.wire) addState
    (atomic9 Op.fetchAdd 2 0).size = 4 ∧ leNat (homeRead t 0x1000 4) = 1 ∧ answers t = [(Op.atomicResp, 11, St.ok)] := by decide
theorem test_swap : leNat (homeRead (after (.swap 3 (atomic9 Op.swap 7 0).wire) addState) 0x1000 4) = 7 := by decide
theorem test_cas : leNat (homeRead (after (.cas 3 (atomic9 Op.cas 7 0xFFFFFFFF).wire) addState) 0x1000 4) = 7 ∧
    leNat (homeRead (after (.cas 3 (atomic9 Op.cas 7 1).wire) addState) 0x1000 4) = 0xFFFFFFFF := by decide
/-- REDUCE, operation and format 0: FP32 addition of 1.0 and 2.0. -/
theorem test_reduce : let s := { htpBase with mem := Memory.write [] 0x1000 (toLE 4 0x3F800000) }
    let p := pkt9 Op.reduce 64 0x1000 (toLE 4 0x40000000 ++ zeros 60)
    leNat (homeRead (after (.reduce 3 p.wire) s) 0x1000 4) = 0x40400000 := by decide
def stray : Pkt := pkt9 Op.put 64 (8 * stallPages * pageBytes) ones64
theorem test_put_span : memCheck htpBase stray = St.bounds ∧ answers (after (.put 3 stray.wire) htpBase) = [(Op.ack, 11, St.bounds)] := by
  decide
def ordered9 : Pkt := { store9 with ordered := true }
theorem test_orderedRelease : let s := { htpBase with htp := { htpBase.htp with held := [ordered9] } }
    (after .orderedRelease s).htp.held = [] ∧ answers (after .orderedRelease s) = [(Op.ack, 11, St.ok)] := by decide

theorem test_store_unsync : answers (after (.store 3 { store9 with src := 9 }.wire) { htpBase with htp := { htpBase.htp with rx := [] } }) =
    [(Op.ack, 11, St.epochStale)] := by decide
theorem test_store_dup : let t := after (.store 3 { store9 with seq := 10 }.wire) htpBase
    t.reg Reg.HTP_DUP = 1 ∧ answers t = [(Op.ack, 10, St.ok)] ∧ t.stalls = htpBase.stalls := by decide
theorem test_store_old : let t := after (.store 3 { store9 with seq := 10000 }.wire) htpBase
    t.reg Reg.HTP_OLD_DUP = 1 ∧ answers t = [] := by decide
theorem test_store_crc : (after (.store 3 (store9.header 0 ++ ones64 ++ toLE 4 (store9.crc ^^^ 1))) htpBase).reg Reg.HTP_CRC = 1 ∧
    (after (.store 3 (store9.header 0 ++ ones64 ++ toLE 4 (store9.crc ^^^ 0xFFFFFFFF))) htpBase).reg (Reg.HLK_STOMP 3) = 1 := by decide
theorem test_unlisted : listedOp 0x09 = false ∧ answers (after (.unlistedOpcode 3 (pkt9 0x09 0 0 []).wire) htpBase) =
    [(Op.ack, 11, St.rights)] ∧ (after (.unlistedOpcode 3 (pkt9 0x45 0 0 []).wire) htpBase).reg Reg.HTP_BAD_OP = 1 := by decide
def transit : Pkt := { store9 with dst := 9, src := 8, hops := 62 }
theorem test_transit : htpBase.choosePort transit = some 3 ∧ FairRoom htpBase 3 transit ∧
    (after (.transitPacket 3 { transit with hops := 63 }.wire) htpBase).reg Reg.HTP_HOPS = 1 := ⟨by decide, .inr (by decide), by decide⟩
theorem test_transit_noRoute : (after (.transitPacket 3 { transit with dst := 7 }.wire) htpBase).reg Reg.HTP_NOROUTE = 1 := by decide
def mstore9 : Pkt := { pkt9 Op.mstore 64 0x1000 ones64 with dst := 2 }
theorem test_mstore : let s := { htpBase with htp := { htpBase.htp with groups := [(2, 0xC0000000)] } }
    answers (after (.mstore 3 mstore9.wire) s) = [(Op.ack, 11, St.ok)] ∧ homeByte (after (.mstore 3 mstore9.wire) s) 0x1003 = 1 := by decide
theorem test_mstore_unknown : (after (.mstore 3 mstore9.wire) htpBase).htp = htpBase.htp := by decide

/-- An MSTORE of this module to group 2, whose list names node 9: it counts at node 9 and leaves by H3. -/
def groupState : State :=
  { htpBase with
    mem := Memory.write [] 0x1000 (toLE 2 1 ++ toLE 2 9)
    htp := { htpBase.htp with groups := [(2, 0x80000008)], quietDone := true, nextGseq := 6 } }
theorem test_mstore_issue : let t := after (.mstore 3 { mstore9 with src := groupState.node }.wire) groupState
    (t.dest 9).t0 = 1 ∧ t.htp.nextGseq = 7 ∧ t.htp.mstores.map (fun m => (m.gseq, m.members)) = [(6, [9])] ∧
      answers t = [(Op.mstore, 6, 0)] := by decide

/-! Messages -/

def msg9 (op unit mlen moff : Nat) : Pkt := pkt9 op 64 (msgOffset unit mlen moff) ones64
theorem test_message_first : let t := after (.ledgerPacket 3 (msg9 Op.ledger 0xFF 2 0).wire) htpBase
    t.htp.msgs.map (·.tally) = [64] ∧ t.inbox = [] ∧ answers t = [(Op.ack, 11, St.ok)] := by decide
theorem test_message_whole : ((after (.teamPacket 3 (msg9 Op.team 0xFF 1 0).wire) htpBase).inbox.map fun m => (m.op, m.src)) =
    [(Op.team, 9)] ∧ (after (.pedigreePacket 3 (msg9 Op.pedigree 0xFF 1 0).wire) htpBase).htp.msgs = [] := by decide
theorem test_message_attn : ((after (.attnPacket 3 (msg9 Op.attn 5 1 0).wire) htpBase).rns.wheel.map (·.stall)) = [5] := by decide
theorem test_message_append : let s := { htpBase with stalls := [(5, { service := .inService })] }
    ((after (.appendPacket 3 (msg9 Op.append 5 1 0).wire) s).work 5).appends.length = 1 := by decide
theorem test_message_record : ((after (.recordPacket 3 (msg9 Op.record 5 1 0).wire) htpBase).work 5).mrg.length = 1 := by decide
/-- The first packet of a RECORD of three lines tells the merge stall. -/
theorem test_message_record_first : let p := { msg9 Op.record 5 3 0 with length := 128, payload := ones64 ++ ones64 }
    ((after (.recordPacket 3 p.wire) htpBase).work 5).mrg.map (·.part) = [true] := by decide
theorem test_message_bad : let t := after (.ledgerPacket 3 (msg9 Op.ledger 3 1 0).wire) htpBase
    answers t = [(Op.ack, 11, St.rights)] ∧ t.htp.msgs = [] := by decide
def ctx9m : MsgCtx := { src := 9, flow := 0, unit := 0xFF, op := Op.ledger, mlen := 2, tally := 64, data := ones64, opened := 0, team := 5, epoch := 0 }
theorem test_messageContextTimeout : let s := { htpBase with htp := { htpBase.htp with msgs := [ctx9m] } }.setReg Reg.HTP_MSG_TMO 0
    (after .messageContextTimeout s).htp.msgs = [] ∧ (after .messageContextTimeout s).reg Reg.HTP_MSG_TMO_CNT = 1 := by decide

/-! Senders -/

theorem test_sync : let p : Pkt := { src := 9, opcode := Op.sync, seq := 40, offset := 8 }
    (after (.sync 3 p.wire) htpBase).htp.rx = [(9, ⟨8, 40, [], []⟩)] ∧ answers (after (.sync 3 p.wire) htpBase) = [(Op.syncAck, 40, 0)] := by
  decide
def dest9 (x : Dest) : State := { htpBase with htp := { htpBase.htp with dests := [(9, x)] } }
theorem test_syncAck : let p : Pkt := { src := 9, opcode := Op.syncAck, seq := 40 }
    ((after (.syncAck 3 p.wire) (dest9 { sync := .sent { seq := 40 } 1 0 })).dest 9).sync = .done ∧
      ((after (.syncAck 3 p.wire) (dest9 { sync := .sent { seq := 41 } 1 0 })).dest 9).sync = .sent { seq := 41 } 1 0 := by decide
def out9 : Req := { pkt := { store9 with dst := 9, src := 0, seq := 4 }, origin := .silent, sends := 1 }
def ack9 : Pkt := { src := 9, opcode := Op.ack, seq := 4, offset := replyOffset false false 0 4 }
theorem test_noneWait : NoneWait (dest9 { sync := .done, out := [out9], t0 := 1 }) 9 := 
  ⟨by decide, fun _ _ h => (List.not_mem_nil (show (_, _) ∈ ([] : List (Nat × Conn)) from h)).elim⟩
/-- A sample of 0 ns is below TARGET: CWND grows. -/
theorem test_ack : let s := set [(Reg.HTP_CTRL, F.HTP_CTRL_CC_EN, 1)] (dest9 { sync := .done, out := [out9], t0 := 1 })
    let y := (after (.ack 3 ack9.wire) s).dest 9
    y.out = [] ∧ y.t0 = 0 ∧ y.rtt = 0 ∧ 8192 ≤ y.cwnd := by decide
theorem test_loadResp_unknown : let p : Pkt := { ack9 with opcode := Op.loadResp, seq := 5 }
    (after (.loadResp 3 p.wire) (dest9 { sync := .done, out := [out9] })).htp = (dest9 { sync := .done, out := [out9] }).htp := by decide
theorem test_retransmit : let s := set [(Reg.HTP_RETX, F.HTP_RETX_RTO, 0)] (dest9 { sync := .done, out := [out9] })
    let y := (after (.retransmitTimeout 9 none 4) s).dest 9
    y.out.map (fun r => (r.sends, r.pkt.retx)) = [(2, true)] ∧ y.pathEpoch = 1 := by decide
theorem test_giveup : let s := set [(Reg.HTP_RETX, F.HTP_RETX_RTO, 0)] (dest9 { sync := .done, out := [{ out9 with sends := 20 }] })
    s.fld Reg.HTP_RETX F.HTP_RETX_RETRY_MAX < 20 ∧ (after (.retransmitTimeout 9 none 4) s).reg Reg.HTP_GIVEUP = 1 := by decide
theorem test_syncTimeout : let s := set [(Reg.HTP_RETX, F.HTP_RETX_RTO, 0)] (dest9 { sync := .sent { seq := 40, dst := 9 } 1 0 })
    (match ((after (.syncTimeout 9) s).dest 9).sync with | .sent q k _ => decide (q.seq = 40 ∧ k = 2) | _ => false) = true ∧
      answers (after (.syncTimeout 9) s) = [(0, 40, 0)] := by decide
theorem test_quietTimeEnd : exec .quietTimeEnd (dest9 { waiting := [out9] }) = .next (dest9 { waiting := [out9] }) := rfl
theorem test_ccOff : let s := dest9 { cwnd := 77 }
    ((after (.registerWrite Reg.HTP_CTRL ⟨15, false⟩ 0) s).dest 9).cwnd = 256 * s.fld Reg.HTP_CC_PARAM F.HTP_CC_PARAM_INIT := by decide
theorem test_routeDataWrite : let t := after (.routeDataWrite 0x80000007) (set [(Reg.HTP_ROUTE_IDX, F.HTP_ROUTE_IDX_IDX, 0xFFFF)] htpBase)
    t.htp.routes.getD 0xFFFF 0 = 0x80000007 ∧ t.fld Reg.HTP_ROUTE_IDX F.HTP_ROUTE_IDX_IDX = 0 ∧ (t.dest 0xFFFF).pathEpoch = 1 := by decide
theorem test_mcDataWrite : (after (.mcDataWrite 5) htpBase).htp.groups = [(0, 5)] := by decide

theorem test_htpFenceGo : let t := after (.htpFenceGo 0x90000000) htpBase
    t.htp.phase = true ∧ t.htp.fence = some none ∧ t.flag Reg.HTP_FENCE F.HTP_FENCE_BUSY = true := by decide
def fenceState (x : Dest) : State := { dest9 x with htp := { (dest9 x).htp with phase := true, fence := some (some 9) } }
theorem test_fenceComplete : (after .fenceComplete (fenceState { lost0 := true })).fld Reg.HTP_FENCE F.HTP_FENCE_STATUS = St.memberLost ∧
    exec .fenceComplete (fenceState { t0 := 1 }) = .next (fenceState { t0 := 1 }) := ⟨by decide, rfl⟩
def adds : List Pkt := [atomic9 Op.fetchAdd 2 0, { atomic9 Op.fetchAdd 3 0 with seq := 12 }]
def group9 : Comb := { addr := 0x1000, size := 4, length := 0, team := 5, members := adds, opened := 0 }
theorem test_combine_join : let p := { atomic9 Op.fetchAdd 9 0 with seq := 13 }
    ((after (.fetchAdd 3 p.wire) { addState with htp := { addState.htp with combs := [group9] } }).htp.combs.map (·.members.length)) = [3] := by
  decide
theorem test_combineWindowExpiry : let s := set [(Reg.HTP_COMB_WIN, F.HTP_COMB_WIN_WIN, 0)] { addState with htp := { addState.htp with combs := [group9] } }
    leNat (homeRead (after .combineWindowExpiry s) 0x1000 4) = 4 ∧ (adds.all fun p => !s.isOld p) = true := by decide
theorem test_queueAgeDiscard : (after (.queueAgeDiscard 3) { htpBase with htp := { htpBase.htp with parked := [(3, ⟨0, 0, false, store9, 0⟩)] } }).htp.parked.length = 1 := by
  decide
def mst9 : Mstore := { gseq := 6, group := 2, pkt := mstore9, members := [9], sentAt := 0, phase := false }
theorem test_mstoreMemberTimeout : let s := set [(Reg.HTP_RETX, F.HTP_RETX_RTO, 0)] { htpBase with htp := { htpBase.htp with mstores := [mst9] } }
    (after .mstoreMemberTimeout s).htp.mstores.map (·.uni) = [[9]] ∧
      ((after .mstoreMemberTimeout s).dest 9).waiting.map (·.pkt.opcode) = [Op.store] := by decide

/-! ### Courier -/

/-- Courier on: 16 connection records at 0x4000_0000, 16 extent records at 0x4100_0000, command entries to queue 7. -/
def couBase : State :=
  set [(Reg.COU_CTRL, F.COU_CTRL_EN, 1), (Reg.COU_CTRL, F.COU_CTRL_ADM_CQ, 7), (Reg.COU_CONN_CAP, F.COU_CONN_CAP_CONN, 16),
    (Reg.COU_EXT_CAP, F.COU_EXT_CAP_EXT, 16)]
    (({ htpBase with htp := { htpBase.htp with quietDone := true } }.setReg Reg.COU_CONN_BASE_LO 0x40000000).setReg Reg.COU_EXT_BASE_LO 0x41000000)
/-- Connection 2, OPEN to connection 3 of node 9. -/
def conn2 : Conn := { state := .opened, peer := 9, peerConn := 3, team := 5, domain := 6, csn := 10, nextSeq := 40 }
def withConn (x : Conn) : State := { couBase with cou := { couBase.cou with conns := [(2, x)] } }
/-- An extent of 4,096 bytes at 0x5000_0000 with every right: its STATE, GEN 1, DOMAIN 6. -/
def extBytes (st tally refused : Nat) : Bytes :=
  toLE 8 0x50000000 ++ toLE 8 4096 ++ toLE 2 1 ++ toLE 2 6 ++ toLE 1 st ++ toLE 1 7 ++ zeros 2 ++ toLE 4 tally ++ toLE 4 refused
def withExt (s : State) (e : Bytes) : State := { s with mem := Memory.write s.mem 0x41000000 e }
def ext0 (t : State) : Bytes := homeRead t 0x41000000 32
def adm (s : State) (b : Bytes) : State := { s with cou := { s.cou with adm := [b] } }
/-- A command: OP, flags, connection, BASE, LEN, KEY, LOG2, queue, domain. -/
def admCmd (op flags conn base len key : Nat) : Bytes :=
  toLE 1 op ++ toLE 1 flags ++ toLE 2 conn ++ toLE 4 0x77 ++ toLE 8 base ++ toLE 8 len ++ toLE 4 key ++ toLE 1 7 ++ toLE 1 4 ++ toLE 1 4 ++ toLE 1 6 ++
    toLE 2 6 ++ toLE 2 9 ++ toLE 2 3 ++ toLE 2 5 ++ toLE 4 100 ++ toLE 4 200 ++ zeros 16

theorem test_couAdmGo : (after (.couAdmGo 1) couBase).cou.adm.map (·.length) = [64] ∧
    (after (.couAdmGo 1) { couBase with cou := { couBase.cou with adm := List.replicate 16 [] } }).flag Reg.COU_STATUS F.COU_STATUS_OVERFLOW =
      true := by decide
theorem test_admAt : AdmAt (adm couBase (admCmd 1 0 0 0x50000000 4096 0)) 1 (admCmd 1 0 0 0x50000000 4096 0) [] := by unfold AdmAt; decide
theorem test_extAt : ExtAt (withExt couBase (extBytes 1 0 0)) 0 (extBytes 1 0 0) :=
  ⟨by decide, by decide, by decide, by unfold LinesGood; decide, by decide⟩
theorem test_register : let t := after .register (adm couBase (admCmd 1 0 0 0x50000000 4096 0))
    Ex.base (ext0 t) = 0x50000000 ∧ Ex.len (ext0 t) = 4096 ∧ Ex.state (ext0 t) = 1 ∧ Ex.domain (ext0 t) = 6 := by decide
theorem test_revoke : let t := after .revoke (adm (withExt couBase (extBytes 1 2 9)) (admCmd 2 0 0 0 0 1))
    Ex.state (ext0 t) = 2 ∧ Ex.refused (ext0 t) = 0 ∧ t.cou.revokes = [(0, 0x77)] := by decide
theorem test_revokeComplete : let s := withExt couBase (extBytes 2 0 4)
    let t := after .revokeComplete { s with cou := { s.cou with revokes := [(0, 0x77)] } }
    Ex.state (ext0 t) = 0 ∧ Ex.gen (ext0 t) = 2 ∧ t.reg Reg.COU_REVOKES = 1 := by decide
theorem test_cqSetup : (after .cqSetup (adm couBase (admCmd 5 0 0 0x60000000 0 0))).couCq 6 = ⟨true, 0x60000000, 4, 0, 0, true, []⟩ := by decide
theorem test_connect : let y := (after .connect (adm couBase (admCmd 3 0 2 0 0 0))).conn 2
    ConnectOk couBase (admCmd 3 0 2 0 0 0) ∧ (y.state, y.peer, y.nextSeq, y.cmd) = (.connecting, 9, 101, some 0x77) := by
  unfold ConnectOk; decide
theorem test_connect_s2 : let y := (after .connect (adm couBase (admCmd 3 2 2 0 0 0))).conn 2
    (y.state, y.csn) = (.opened, 200) := by decide
theorem test_connectRetry : let s := set [(Reg.HTP_RETX, F.HTP_RETX_RTO, 0)] (withConn { conn2 with state := .connecting })
    answers (after (.connectRetry 2) s) = [(Co.connect, 0, 0)] := by decide
theorem test_connectTimeout : let s := (withConn { conn2 with state := .connecting }).setReg Reg.COU_CONNECT_TMO 0
    (after (.connectTimeout 2) s).conn 2 = {} := by decide
theorem test_close : (after .close (adm (withConn conn2) (admCmd 4 0 2 0 0 0))).conn 2 = {} := by decide

/-! Target -/

def couPkt (op key off : Nat) (d : Bytes) : Pkt :=
  { src := 9, opcode := op, team := 5, flow := 2, length := d.length, seq := 11, offset := off, key := key, payload := d }
def write2 : Pkt := couPkt Co.write 1 0x80 (Sh.make 0 0 0 0 64 0 0 0 0 0 ++ ones64)
def target : State := withExt (withConn conn2) (extBytes 1 0 0)

theorem test_couAt : CouAt target 3 Co.write write2.wire write2 ∧ CouFresh target write2 ∧ (keyCheck target conn2 write2 false).2.1 = St.ok :=
  ⟨⟨⟨⟨by decide, rfl, .inl (by decide)⟩, by decide, by decide, by decide, by decide, by decide, by unfold ConnGood; decide⟩, by decide⟩,
    by unfold CouFresh; decide, by decide⟩
theorem test_cWrite : let t := after (.cWrite 3 write2.wire) target
    Ex.tally (ext0 t) = 1 ∧ t.cou.access.map (·.ext) = [0] ∧ answers t = [] := by decide
theorem test_cWrite_done : let t := after (.courierAccessComplete .timeout) (after (.cWrite 3 write2.wire) target)
    homeByte t 0x50000083 = 1 ∧ Ex.tally (ext0 t) = 0 ∧ answers t = [(Co.ack, 11, St.ok)] ∧ (t.conn 2).csn = 11 := by decide
theorem test_cWrite_dup : let t := after (.cWrite 3 { write2 with seq := 10 }.wire) target
    t.reg Reg.COU_DUP = 1 ∧ answers t = [(Co.ack, 10, St.ok)] := by decide
/-- Table COU-6: another generation, a revoking extent, a right that is missing, a range past the end. -/
theorem test_cWrite_refused :
    answers (after (.cWrite 3 { write2 with key := 2 }.wire) target) = [(Co.ack, 11, St.violation)] ∧
    (keyCheck target conn2 { write2 with key := 2 } false).2.1 = St.keyInvalid ∧
    (keyCheck (withExt (withConn conn2) (extBytes 2 0 0)) conn2 write2 false).2.1 = St.revoked ∧
    (keyCheck (withExt (withConn conn2) (patch (extBytes 1 0 0) 21 [1])) conn2 write2 false).2.1 = St.rights ∧
    (keyCheck target conn2 { write2 with offset := 4096 } false).2.1 = St.bounds := by decide
theorem test_cRead : let p := couPkt Co.read 1 0 (Sh.make 0 0 0 0 0 0 0 64 0 0)
    let t := after (.courierAccessComplete .timeout) (after (.cRead 3 p.wire) target)
    answers t = [(Co.readResp, 11, St.ok)] := by decide
theorem test_cAtomic : let p := couPkt Co.atomic 1 0 (Sh.make 0 0 0 0 0 0 8 0 5 0)
    let t := after (.courierAccessComplete .timeout) (after (.cAtomic 3 p.wire) target)
    leNat (homeRead t 0x50000000 8) = 5 ∧ answers t = [(Co.atomicResp, 11, St.ok)] := by decide
def recvConn : Conn := { conn2 with posted := [{ addr := 0x51000000, len := 64, wrid := 8 }] }
theorem test_cWriteImm : let p := { write2 with opcode := Co.writeImm, payload := Sh.make 0 64 0 0 64 0 0 0 0 0 ++ ones64 }
    let s := withExt (withConn recvConn) (extBytes 1 0 0)
    (rxPosted recvConn p).isSome = true ∧ rxRoom recvConn p = true ∧ Ex.tally (ext0 (after (.cWriteImm 3 p.wire) s)) = 1 := by decide
theorem test_cSend : let p := couPkt Co.send 0 0 (Sh.make 0 64 0 0 64 0 0 0 0 0 ++ ones64)
    let t := after (.cSend 3 p.wire) (withConn recvConn)
    homeByte t 0x51000003 = 1 ∧ (t.conn 2).posted = [] ∧ (t.conn 2).rxNext = 1 ∧ answers t = [(Co.ack, 11, St.ok)] := by decide
theorem test_cSend_rnr : (after (.cSend 3 (couPkt Co.send 0 0 (Sh.make 0 64 0 0 64 0 0 0 0 0 ++ ones64)).wire) (withConn conn2)).reg
    Reg.COU_RNR = 1 := by decide
theorem test_cConnect : let p := { couPkt Co.connect 0 3 [] with seq := 300 }
    let y := (after (.cConnect 3 p.wire) (withConn { conn2 with state := .connecting, gotResp := true })).conn 2
    (y.state, y.csn, y.peerIss) = (.opened, 300, some 300) := by decide
theorem test_cConnect_free : let p := couPkt Co.connect 0 3 []
    answers (after (.cConnect 3 p.wire) couBase) = [(Co.connectResp, 11, St.revoked)] := by decide
theorem test_cClose : ((after (.cClose 3 (couPkt Co.close 0 0 []).wire) (withConn conn2)).conn 2).state = .error := by decide

/-- R172: an unlisted opcode of another TEAM is refused RIGHTS, with no VIOLATION. -/
theorem test_couUnlisted : let t := after (.unlistedOpcode 3 { couPkt 0x37 0 0 [] with team := 4 }.wire) (withConn conn2)
    answers t = [(Co.ack, 11, St.rights)] ∧ t.reg Reg.COU_VIOL_RX = 0 ∧ (t.conn 2).csn = 11 := by decide
/-- A command with a reserved bit: the entry of a CLOSE names its connection. -/
theorem test_admRefused : let b := patch (admCmd 4 0 2 0 0 0) 60 [1]
    (after .close (adm (withConn conn2) b)).cou.adm = [] ∧ (Ca.refused (withConn conn2) b).conn = 2 ∧
      (Ca.refused (withConn conn2) b).peer = 9 := by decide
/-- A C_CLOSE stays outstanding until its answer comes, and counts. -/
theorem test_close_ack : let t := after .close (adm (withConn conn2) (admCmd 4 0 2 0 0 0))
    let a : Pkt := { couPkt Co.ack 0 0 [] with flow := 3, seq := 40 }
    t.cou.bare.map (·.req.pkt.opcode) = [Co.close] ∧ (t.dest 9).courier = 1 ∧
      (after (.cAck 3 a.wire) t).cou.bare = [] ∧ ((after (.cAck 3 a.wire) t).dest 9).courier = 0 := by decide

/-! Sender -/

/-- A work request: OP, LADDR, LEN, KEY. -/
def wqe (op laddr len key : Nat) : Bytes :=
  toLE 1 op ++ toLE 1 0 ++ toLE 1 0 ++ toLE 1 8 ++ toLE 4 0x55 ++ toLE 8 laddr ++ toLE 4 len ++ toLE 4 key ++ zeros 40
def sender (w : Bytes) : State :=
  let s := withConn { conn2 with sendBase := 0x42000000, sqTail := 1 }
  { s with mem := Memory.write s.mem 0x42000000 w, htp := { s.htp with dests := [(9, { sync := .done })] } }
theorem test_wrAt : WrAt (sender (wqe 2 0x43000000 4096 1)) 2 (wqe 2 0x43000000 4096 1) :=
  ⟨by decide, by decide, by decide, by decide, by decide, by decide, by decide, by decide, by unfold LinesGood; decide, by decide, by decide⟩
/-- 8,128 bytes to read make three packets of at most 4,032. -/
theorem test_wrRead : let y := (after (.wrRead 2 .timeout) (sender (wqe 4 0x43000000 8128 1))).conn 2
    (y.out ++ y.waiting).map (fun r => (r.req.pkt.seq, r.req.pkt.offset, Sh.rlen r.req.pkt)) =
      [(40, 0, 4032), (41, 4032, 4032), (42, 8064, 64)] ∧ y.nextSeq = 43 ∧ y.sqHead = 1 := by decide
theorem test_wrSend : let y := (after (.wrSend 2 .timeout .timeout) (sender (wqe 1 0x43000000 64 1))).conn 2
    (y.out ++ y.waiting).map (fun r => r.req.pkt.opcode) = [Co.send] ∧ y.nextMsn = 1 := by decide
theorem test_wrWrite : let y := (after (.wrWrite 2 .timeout .timeout) (sender (wqe 2 0x43000000 64 1))).conn 2
    (y.out ++ y.waiting).map (fun r => r.req.pkt.opcode) = [Co.write] := by decide
theorem test_wrWriteImm : let y := (after (.wrWriteImm 2 .timeout .timeout) (sender (wqe 3 0x43000000 64 1))).conn 2
    (y.out ++ y.waiting).map (fun r => r.req.pkt.opcode) = [Co.writeImm] := by decide
theorem test_wrAtomic : let y := (after (.wrAtomic 2 .timeout) (sender (wqe 5 0x43000000 0 1))).conn 2
    (y.out ++ y.waiting).map (fun r => r.req.pkt.opcode) = [Co.atomic] := by decide
/-- A read of 100 bytes is not whole lines. -/
theorem test_wr_bounds : wrCheck conn2 (wqe 4 0 100 1) = St.bounds ∧ wrCheck conn2 (wqe 6 0 64 1) = St.rights ∧
    ((after (.wrRead 2 .timeout) (sender (wqe 4 0 100 1))).conn 2).nextSeq = 40 := by decide

def waitAck (op : Nat) : Conn :=
  { conn2 with
    out := [⟨{ pkt := { couPkt op 1 0 [] with dst := 9, src := 0, flow := 3, seq := 39 }, origin := .silent, sends := 1 }, 7⟩]
    wrs := [⟨7, 2, 0x55, false, 64, 1, 0, 0x43000000, 1, 0, 0, 39, 0⟩] }
def reply (op : Nat) (d : Bytes) : Pkt := { couPkt op 0 (replyOffset false false 0 39) d with flow := 3, seq := 39 }
theorem test_cAck : let t := after (.cAck 3 (reply Co.ack []).wire) (withConn (waitAck Co.write))
    connOf (withConn (waitAck Co.write)) (reply Co.ack []) = some 2 ∧ (t.conn 2).out = [] ∧ t.reg Reg.COU_WR_DONE = 1 := by decide
theorem test_cReadResp : let p := reply Co.readResp (Sh.make 0 0 0 0 64 0 0 64 0 0 ++ ones64)
    homeByte (after (.cReadResp 3 p.wire) (withConn (waitAck Co.read))) 0x43000003 = 1 := by decide
theorem test_cAtomicResp : let p := reply Co.atomicResp (Sh.make 0 0 0 0 0 0 0 0 77 0)
    leNat (homeRead (after (.cAtomicResp 3 p.wire) (withConn (waitAck Co.atomic))) 0x43000000 8) = 77 := by decide
/-- Packets 39 and 40 outstanding: 40 has failed first, then the answer of 39 counts. -/
theorem test_cAck_lowest : let w : WorkReq := {
      idx := 7, op := 2, wrid := 0, signal := false, len := 128, key := 1, roff := 0, laddr := 0,
      left := 2, status := St.poisoned, first := 39, badAt := 1 }
    let s := withConn { waitAck Co.write with wrs := [w] }
    ((after (.cAck 3 { reply Co.ack [] with offset := St.bounds * 2 ^ 32 }.wire) s).conn 2).wrs.map (fun v => (v.status, v.badAt)) =
      [(St.bounds, 0)] := by decide
theorem test_cConnectResp : let p := { reply Co.connectResp [] with seq := 39 }
    let s := withConn { conn2 with state := .connecting, iss := 39, peerIss := some 4 }
    ((after (.cConnectResp 3 p.wire) s).conn 2).state = .opened := by decide
theorem test_couRetransmit : let s := set [(Reg.HTP_RETX, F.HTP_RETX_RTO, 0)] (withConn (waitAck Co.write))
    (((after (.retransmitTimeout 9 (some 2) 39) s).conn 2).out.map fun r => (r.req.sends, r.req.pkt.retx)) = [(2, true)] := by decide

/-! ### Teams -/

/-- Map of slot 1 at 0x4400_0000: team 5, epoch 1, members 0 and 9, coordinated by `coord`. -/
def mapBytes (coord : Nat) : Bytes := toLE 2 5 ++ toLE 1 1 ++ toLE 1 0 ++ toLE 2 coord ++ toLE 2 2 ++ zeros 56 ++ toLE 2 0 ++ toLE 2 9
def mapOf (coord : Nat) : TeamMap := ⟨5, 1, false, false, coord, [0, 9], 0, 0, 0, 0, []⟩
def temBase : State :=
  let s := htpBase.setReg Reg.TEM_MAP_BASE_LO 0x44000000
  { s with mem := Memory.write s.mem 0x44010000 (mapBytes 0) }
def withTem (s : State) (kind : Nat) (f : TemFields) : State := { s with inbox := [⟨Op.team, 9, 5, 0, 0xFF, temMsg 9 kind 5 f⟩] }
/-- Kinds of the team messages handed on: to this node, and to node 9. -/
def told (t : State) : List Nat × List Nat :=
  (t.inbox.map fun m => Tm.kind m.data, ((t.dest 9).waiting ++ (t.dest 9).out).map fun r => Tm.kind r.pkt.payload)
def chg (committing : Bool) (a b : ChangeMember) : State :=
  set [(Reg.TEM_CHG, F.TEM_CHG_BUSY, 1)] { temBase with tem := { temBase.tem with change := some ⟨1, mapOf 0, [a, b], committing, 0, none⟩ } }
def aux (a : TeamAux) : State := { temBase with tem := { temBase.tem with aux := [(5, a)] } }

theorem test_readMap : (readMap temBase 1).2 = (St.ok, mapOf 0, true) := by decide
theorem test_mapCheck : mapCheck temBase 5 1 0 (mapOf 0) true = St.ok ∧ mapCheck temBase 5 2 0 { mapOf 0 with epoch := 2 } true = St.epochStale ∧
    mapCheck temBase 5 1 9 (mapOf 0) true = St.bounds := by decide
theorem test_temChgGo : told (after (.temChgGo 0x80000001) temBase) = ([Tm.prepare], [Tm.prepare]) := by decide
theorem test_temChgGo_bad : ChgDone St.bounds (after (.temChgGo 0x80000002) temBase) := by unfold ChgDone; decide
theorem test_chgReady_last : let s := withTem (chg false ⟨0, some 0, none, 0⟩ ⟨9, none, none, 0⟩) Tm.ready { epoch := 1 }
    told (after .chgReady s) = ([Tm.commit], [Tm.commit]) := by decide
theorem test_chgReady_bad : let s := withTem (chg false ⟨0, none, none, 0⟩ ⟨9, none, none, 0⟩) Tm.ready { status := St.rights, epoch := 1 }
    ChgDone St.rights (after .chgReady s) ∧ told (after .chgReady s) = ([Tm.abort], [Tm.abort]) := by unfold ChgDone; decide
theorem test_chgDone : let s := withTem (chg true ⟨0, some 0, some 0, 0⟩ ⟨9, some 0, none, 0⟩) Tm.done { epoch := 1 }
    ChgDone St.ok (after .chgDone s) := by unfold ChgDone; decide
theorem test_prepareRetry : let s := set [(Reg.HTP_RETX, F.HTP_RETX_RTO, 0)] (chg false ⟨0, some 0, none, 0⟩ ⟨9, none, none, 0⟩)
    told (after .prepareRetry s) = ([], [Tm.prepare]) := by decide
theorem test_commitRetry : let s := set [(Reg.HTP_RETX, F.HTP_RETX_RTO, 0)] (chg true ⟨0, some 0, none, 0⟩ ⟨9, some 0, some 0, 0⟩)
    told (after .commitRetry s) = ([Tm.commit], []) := by decide
theorem test_changeTimeout : let s := (chg false ⟨0, some 0, none, 0⟩ ⟨9, none, none, 0⟩).setReg Reg.TEM_CHG_TMO 0
    ChgDone St.memberLost (after .changeTimeout s) := by unfold ChgDone; decide

/-- A member's map coordinated by node 9. -/
def member9 : State := { temBase with mem := Memory.write temBase.mem 0x44010000 (mapBytes 9) }
theorem test_prepare : let t := after .prepare (withTem member9 Tm.prepare { epoch := 1, slot := 1 })
    (t.teamAux 5).prepared.map (·.1) = some (mapOf 9) ∧ temStatus t 0 F.TEM_TEAM_STATUS_PREPARED = 1 ∧ told t = ([], [Tm.ready]) := by decide
theorem test_prepare_stale : let t := after .prepare (withTem member9 Tm.prepare { epoch := 2, slot := 1 })
    (t.teamAux 5).prepared = none ∧ told t = ([], [Tm.ready]) := by decide
theorem test_temCommit : let t := after .temCommit (withTem (aux { prepared := some (mapOf 9, 0), outcome := some (1, 0) }) Tm.commit { epoch := 1 })
    (temStatus t 0 F.TEM_TEAM_STATUS_EPOCH, (t.teamAux 5).prepared, t.reg Reg.TEM_COMMITS, told t) = (1, none, 1, ([], [Tm.done])) := by decide
theorem test_temCommit_unknown : let t := after .temCommit (withTem (aux {}) Tm.commit { epoch := 1 })
    t.tem = (aux {}).tem ∧ told t = ([], [Tm.done]) := by decide
theorem test_abort : let t := after .abort (withTem (aux { prepared := some (mapOf 9, 0), outcome := some (1, 0) }) Tm.abort { epoch := 1 })
    (t.teamAux 5).prepared = none ∧ t.reg Reg.TEM_ABORTS = 1 := by decide
def graceState : State := (aux { cur := some (mapOf 9), old := some (mapOf 9), graceOver := false }).setReg Reg.TEM_GRACE 0
theorem test_temGraceExpiry : ((after .temGraceExpiry graceState).teamAux 5).graceOver = true ∧ graceState.teamSlot 5 = some 0 := by decide
theorem test_oldMapFree : ((after .oldMapFree graceState).teamAux 5).old = none := by decide
theorem test_preparedMapTimeout : let s := (aux { prepared := some (mapOf 9, 0), outcome := some (1, 0) }).setReg Reg.TEM_CHG_TMO 0
    temStatus (after .preparedMapTimeout s) 0 F.TEM_TEAM_STATUS_STATE = 2 ∧ temStatus s 0 F.TEM_TEAM_STATUS_STATE ≠ 2 := by decide
theorem test_probe : told (after .probe (withTem temBase Tm.probe { node := 9, tag := 4 })) = ([], [Tm.probeAck]) := by decide
theorem test_probeAck : let s := withTem { temBase with tem := { temBase.tem with probes := [(9, 0)] } } Tm.probeAck { node := 9 }
    (after .probeAck s).tem.probes = [] := by decide
theorem test_probeTimeout : let s := { aux { cur := some (mapOf 9) } with tem := { (aux { cur := some (mapOf 9) }).tem with probes := [(9, 0)] } }
    let t := after .probeTimeout (s.setReg Reg.TEM_PROBE_TMO 0)
    t.tem.probes = [] ∧ temStatus t 0 F.TEM_TEAM_STATUS_STATE = 2 := by decide
theorem test_teamEnd : let t := after .teamEnd (withTem (aux { cur := some (mapOf 9) }) Tm.teamEnd { node := 9 })
    temStatus t 0 F.TEM_TEAM_STATUS_STATE = 2 ∧ t.reg Reg.TEM_ENDS = 1 := by decide
/-- An END of epoch 255 is older than epoch 0. -/
theorem test_teamEnd_stale : let s := withTem (aux { cur := some (mapOf 9) }) Tm.teamEnd { node := 9, epoch := 255 }
    (after .teamEnd s).tem = s.tem := by decide

/-! Shared regions: region 4 of one line per half at 0x1_0000 -/

def rgn4 (x : Region) : State := set [(Reg.TEM_RGN_IDX, F.TEM_RGN_IDX_IDX, 4)] { temBase with tem := { temBase.tem with regions := [(4, x)] } }
def live4 : Region := { valid := true, team := 5, size := 1, base := 0x10000 }
def pub4 (v : Nat) : Bytes := temMsg 9 Tm.publish 5 { region := 4, version := v, reply := 9 * 2 ^ 48 } ++ ones64
theorem test_regionCreate : ((after (.regionCreate 0x80001005) (rgn4 { base := 0x10000 })).region 4) = live4 := by decide
theorem test_regionCreate_size : ((after (.regionCreate 0x80000005) (rgn4 { base := 0x10000 })).region 4).err = true := by decide
theorem test_regionDestroy : ((after (.regionDestroy 0x00001005) (rgn4 live4)).region 4).valid = false := by decide
theorem test_publish : let s := { rgn4 live4 with inbox := [⟨Op.team, 9, 5, 0, 0xFF, pub4 3⟩] }
    ((after .publish s).region 4).queue.map (·.accepted) = [true] := by decide
theorem test_publish_superseded : let s := { rgn4 { live4 with version := 4 } with inbox := [⟨Op.team, 9, 5, 0, 0xFF, pub4 3⟩] }
    (after .publish s).reg Reg.TEM_PUB_SUPERSEDED = 1 := by decide
theorem test_publishAccept : let t := after .publishAccept (rgn4 { live4 with queue := [⟨9, pub4 3, true⟩] })
    ((t.region 4).version, (t.region 4).active, (t.region 4).pubnode, homeByte t 0x10043) = (3, 1, 9, 1) := by decide
theorem test_publishAccept_waits : (after .publishAccept (rgn4 { live4 with queue := [⟨9, pub4 3, true⟩], tally1 := 1 })).region 4 =
    { live4 with queue := [⟨9, pub4 3, true⟩], tally1 := 1 } := by decide
theorem test_rread : let t := after .rread (withTem (rgn4 live4) Tm.rread { region := 4, addr := 9 * 2 ^ 48 + 0x40 })
    (t.region 4).tally0 = 1 ∧ ((t.dest 9).waiting ++ (t.dest 9).out).map (fun r => (r.pkt.opcode, r.pkt.offset)) = [(Op.put, 0x40)] := by decide
def reading4 : State := rgn4 { live4 with tally0 := 1, reads := [⟨7, 0, temMsg 9 Tm.rread 5 { region := 4 }, 3, 9, 0, 1⟩] }
theorem test_rreadComplete : let t := after .rreadComplete { reading4 with htp := { reading4.htp with answered := [(.rread 7, 0, [])] } }
    ((t.region 4).tally0, (t.region 4).reads, t.reg Reg.TEM_RREADS) = (0, [], 1) := by decide
def rcmd (s : State) (b : Bytes) : State :=
  (List.range 16).foldl (fun s i => s.setReg (Reg.TEM_RCMD 0 + 4 * i) (fld b (4 * i) 4)) s
theorem test_rcmdGo : let s := rcmd temBase (temMsg 0 Tm.rread 5 { region := 4, node := 9 })
    Tm.node (s.staged (Reg.TEM_RCMD 0) 16) = 9 ∧ told (after (.rcmdGo 1) s) = ([], [Tm.rread]) := by decide
theorem test_rcmdGo_full : let s := { temBase with tem := { temBase.tem with rcmds := List.replicate 16 (0, 1) } }
    (after (.rcmdGo 1) s).flag Reg.TEM_STATUS F.TEM_STATUS_OVERFLOW = true := by decide
/-- Another team's map is prepared over group 0. -/
theorem test_mapCheck_planned : let s := { temBase with tem := { temBase.tem with
      aux := [(7, { prepared := some ({ mapOf 0 with team := 7, groups := 1 }, 0) })] } }
    mapCheck s 5 1 0 { mapOf 0 with groups := 1 } true = St.rights ∧ spanOverlap s 5 2 = false := by
  decide
theorem test_forwardMem : let t := forwardMem htpBase store9 9 0x4000
    (t.reg Reg.TEM_FWD, (t.teamAux 5).oldTally, t.htp.forwards.length) = (1, 1, 1) ∧
      ((t.dest 9).waiting ++ (t.dest 9).out).map (fun r => (r.pkt.offset, r.pkt.fwd)) = [(0x4000, true)] := by decide
/-- A forwarded message of two packets, both given up: one event, and the forward ends. -/
theorem test_forwardMsg_lost : let t := forwardMsg htpBase { store9 with opcode := Op.append } 9 3 (zeros 4160)
    let p := { store9 with opcode := Op.append, flow := 0 }
    let u := forwardMsgDone (forwardMsgDone t 9 p true) 9 p true
    ((t.teamAux 5).oldTally, (u.teamAux 5).oldTally, u.htp.msgForwards.length, (u.far.events.map (·.code)).length) = (1, 0, 0, 1) := by
  decide +kernel

/-! ### Reins -/

/-- R237's example: tenant 0x41 of team 5 with RATE 2,000, BURST 100,000 and OVH 512, its table at 0x4500_0000. -/
def tenBytes (fill : Nat) : Bytes := toLE 4 (fill * 256) ++ toLE 4 2000 ++ toLE 4 100000 ++ toLE 2 512 ++ toLE 2 0x8005 ++ zeros 16
def tenBase (fill : Nat) : State :=
  let s := base.setReg Reg.RNS_TEN_BASE_LO 0x45000000
  set [(Reg.RNS_TEN_IDX, F.RNS_TEN_IDX_IDX, 0x41)] { s with mem := Memory.write s.mem (0x45000000 + 32 * 0x41) (tenBytes fill) }
theorem test_tenGood : TenGood (tenBase 100000) 0x41 := ⟨by decide, by unfold LinesGood; decide⟩
theorem test_tenant_passes : (tenantCheck (tenBase 100000) 0x41 5 10000).2 = (true, 89488 * 256) := by decide
/-- Nine such ADMITs leave 5,392 tokens: the tenth is refused. -/
theorem test_tenant_refused : (tenantCheck (tenBase (100000 - 9 * 10512)) 0x41 5 10000).2.1 = false ∧
    (tenantCheck (tenBase 100000) 0x41 6 10000).2.1 = false := by decide
theorem test_hostShaperWrite : let t := after (.hostShaperWrite 1 1024) base
    t.reg Reg.RNS_HOST_BURST = 1024 ∧ t.rns.fill = 1024 ∧ (after (.hostShaperWrite 1 1023) base).reg Reg.RNS_HOST_BURST =
      base.reg Reg.RNS_HOST_BURST := by decide
theorem test_meterWrite : (after (.meterWrite 3 0 77) base).reg (Reg.RNS_MTR_CIR 3) = 77 := by decide
theorem test_tenData7Write : let s := (tenBase 0).setReg (Reg.RNS_TEN_DATA 2) 9
    fld (tenAt (after (.tenData7Write 7) s) 0x41) 0 4 = 9 * 256 ∧ fld (tenAt (after (.tenData7Write 7) s) 0x41) 28 4 = 7 := by decide
theorem test_tenData0Read : (after .tenData0Read (tenBase 5)).reg (Reg.RNS_TEN_DATA 1) = 2000 := by decide
def item9 (n : Nat) : ShaperItem := ⟨{ dst := 9, opcode := Op.store, team := 5, length := n, payload := zeros n }, .silent, 0⟩
def shaped (f : Int) (l : List ShaperItem) : State :=
  set [(Reg.RNS_CTRL, F.RNS_CTRL_SHAPE_EN, 1)] { base with rns := { base.rns with fill := f, waiting := l } }
theorem test_hostShaperRelease : let t := after .hostShaperRelease (shaped 0 [item9 64, item9 64])
    t.rns.waiting.length = 1 ∧ t.rns.fill < 0 ∧ (t.dest 9).waiting.length = 1 := by decide
theorem test_hostShaper_holds : (after .hostShaperRelease (shaped (-1) [item9 64])).rns.waiting.length = 1 := by decide

/-- A meter at port 3: CBS and PBS of one 64-byte unit each, so 100 bytes are red. -/
def metered (c p : Nat) : State :=
  set [(Reg.HLK_NEIGHBOUR 3, F.HLK_NEIGHBOUR_VALID, 1), (Reg.HLK_NEIGHBOUR 3, F.HLK_NEIGHBOUR_ROLE, 3), (Reg.RNS_CTRL, F.RNS_CTRL_METER_EN, 1),
    (Reg.RNS_MTR_CFG 3, F.RNS_MTR_CFG_EN, 1), (Reg.RNS_MTR_CFG 3, F.RNS_MTR_CFG_OVH, 0), (Reg.RNS_MTR_SIZES 3, F.RNS_MTR_SIZES_CBS, c),
    (Reg.RNS_MTR_SIZES 3, F.RNS_MTR_SIZES_PBS, p)] htpBase
theorem test_meter_red : meterNow (metered 1 1) 3 64 = (64000, 64000, 100000) ∧ (after (.store 3 store9.wire) (metered 1 1)).reg Reg.RNS_RED = 1 ∧
    answers (after (.store 3 store9.wire) (metered 1 1)) = [] := by decide
theorem test_meter_yellow : let t := after (.store 3 store9.wire) (metered 1 2)
    t.reg Reg.RNS_YELLOW = 1 ∧ t.rns.meters = [(3, 64000, 28000, 0)] ∧ answers t = [(Op.ack, 11, St.ok)] := by decide
theorem test_meter_green : let t := after (.store 3 store9.wire) (metered 2 2)
    t.reg Reg.RNS_YELLOW = 0 ∧ t.rns.meters = [(3, 28000, 28000, 0)] := by decide

def wheelItem (due : Nat) : WheelItem := ⟨due, 0, 5, [], 9, 5, 0, 0⟩
def wheeled : State := { base with rns := { base.rns with wheel := [wheelItem 9, wheelItem 4] } }
theorem test_wheelPick : wheelPick (set [(Reg.RNS_CTRL, F.RNS_CTRL_WHEEL_EN, 1)] wheeled) 5 = some (wheelItem 4) ∧
    wheelPick (set [(Reg.RNS_CTRL, F.RNS_CTRL_WHEEL_EN, 0)] wheeled) 5 = some (wheelItem 9) := by decide
theorem test_wheelRelease : let t := after (.wheelRelease 5) (set [(Reg.RNS_CTRL, F.RNS_CTRL_WHEEL_EN, 1)] wheeled)
    t.rns.wheel = [wheelItem 9] ∧ (t.work 5).att.length = 1 := by decide
theorem test_histSelWrite : let t := after (.histSelWrite 0x10500) (base.setReg (Reg.RNS_HIST 3) 9)
    t.reg (Reg.RNS_HIST 3) = 0 ∧ t.fld Reg.RNS_HIST_SEL F.RNS_HIST_SEL_KIND = 1 ∧ t.fld Reg.RNS_HIST_SEL F.RNS_HIST_SEL_UNIT = 5 := by decide
theorem test_histDepthSample : let s := after (.histSelWrite 0x30000) wheeled
    (after .histDepthSample s).reg Reg.RNS_HIST_MAXD = 2 := by decide
theorem test_lowerMedian : (lowerMedian [5, 1, 4], lowerMedian [5, 1, 4, 2]) = (4, 2) := by decide
/-- 2,000 ticks over 100 position-heads: 20,480. -/
def paceState : State :=
  set [(Reg.RNS_CTRL, F.RNS_CTRL_LAG_EN, 1), (Reg.RNS_TEAM_PERIOD 0, F.RNS_TEAM_PERIOD_PERIOD, 0), (Reg.TEM_TEAM_NODES 0, F.TEM_TEAM_NODES_COORD, 9)]
    { teamState with
      rns := { base.rns with pace := [(0, { stalls := [(3, 2000, 100), (4, 10, 0)] })] }
      tem := { base.tem with aux := [(5, { cur := some ⟨5, 0, false, false, 9, [9, 0], 1, 0, 0, 0, []⟩ })] } }
theorem test_paceWindowEnd : spanPace (paceState.paceAcc 0) = some 20480 ∧
    ((after (.paceWindowEnd 0) paceState).dest 9).waiting.map (fun r => (r.pkt.opcode, r.pkt.offset)) = [(Op.store, 128), (Op.load, 0)] := by decide
def pace31 : State := teamState.updPace 0 fun a => { a with pace := 31 }
theorem test_paceMedian : let s := set [(Reg.RNS_TEAM_CFG 0, F.RNS_TEAM_CFG_RATIO, 24), (Reg.RNS_TEAM_CFG 0, F.RNS_TEAM_CFG_RUN, 1)] pace31
    (paceMedian s 0 20).reg Reg.RNS_LAGGARDS = 1 ∧ (paceMedian s 0 21).reg Reg.RNS_LAGGARDS = 0 := by decide

/-! ### Packhorse -/

/-- Tier 2 of four host pages behind map entry 64, tier 3 of four vault pages; the vault READY; records at 0x4600_0000. -/
def pkhOn (s : State) : State :=
  let s := set [(Reg.PKH_CTRL, F.PKH_CTRL_DEMOTE_EN, 1), (Reg.PKH_CTRL, F.PKH_CTRL_PROMOTE_EN, 1), (Reg.PKH_CTRL, F.PKH_CTRL_TICKET_EN, 1),
    (Reg.PKH_VAULT_STATUS, F.PKH_VAULT_STATUS_STATE, 2)] ((s.setReg Reg.PKH_TREC_BASE_LO 0x46000000).setReg (Reg.PKH_TIER_PAGES 1) 4)
  let s := s.setReg (Reg.PKH_TIER_PAGES 2) 4
  { s with pkh := { s.pkh with maps := [(64, toLE 8 0x100000 ++ toLE 4 0x80000004 ++ zeros 4)], vault := { cap := 16, rated := 3500000000000000 } } }

/-- `pkhOn` with the record of page k of tier t in the state given. -/
def recd (s : State) (t k st : Nat) : State := { s with mem := Memory.write s.mem (s.trecOff t k) (toLE 8 (st * 2 ^ 62)) }
def tier2 : Nat := tierBase 2 * pageBytes

def pcDesc (op fl n index tier src dst len : Nat) : Bytes :=
  toLE 1 op ++ toLE 1 fl ++ toLE 2 n ++ toLE 4 0xABC ++ toLE 8 root5 ++ toLE 2 0 ++ toLE 1 0 ++ toLE 1 tier ++ toLE 4 index ++
    toLE 8 src ++ toLE 8 dst ++ toLE 4 len ++ zeros 20
def withPc (s : State) (d : Bytes) : State := s.updPkh fun p => { p with cmds := [{ id := 0, desc := d }] }

theorem test_pkhCmdGo : ((after (.pkhCmdGo 1) (base.setReg (Reg.PKH_CMD 0) 4)).pkh.cmds.map fun c => (Pc.op c.desc, c.running)) =
    [(4, false)] ∧ exec (.pkhCmdGo 2) base = .next base := ⟨by decide, rfl⟩
theorem test_pkhCmdGo_full : (after (.pkhCmdGo 1) (base.updPkh fun p => { p with cmds := List.replicate 16 { id := 0, desc := [] } })).flag
    Reg.PKH_STATUS F.PKH_STATUS_OVERFLOW = true := by decide
theorem test_pkhCqHeadWrite : (after (.pkhCqHeadWrite 0x1005) base).fld Reg.PKH_CQ_HEAD F.PKH_CQ_HEAD_HEAD = 5 ∧ base.pkh.held = [] := by
  decide
/-- Off a C-role module a DEMOTE ends with RIGHTS: its entry in slot 0 of the ring. -/
def rightsState (op : Nat) : State :=
  let s := set [(Reg.PKH_CQ_CTRL, F.PKH_CQ_CTRL_EN, 1), (Reg.PKH_CQ_CTRL, F.PKH_CQ_CTRL_LOG2_SIZE, 4)] ((pkhOn base).setReg Reg.PKH_CQ_BASE_LO 0x47000000)
  withPc { s with role := roleP } (pcDesc op 1 1 0 2 0 0 0)
theorem test_demote_rights : let s := rightsState 1
    (cmdTurn s 1).isSome = true ∧ s.walk = false ∧ pkhRingFull s = false ∧ (after .demote s).pkh.cmds = [] ∧
      fld (homeRead (after .demote s) 0x47000000 16) 4 1 = St.rights ∧ fld (homeRead (after .demote s) 0x47000000 16) 0 4 = 0xABC ∧
      fld (homeRead (after .demote s) 0x47000000 16) 6 2 = 1 := by decide
theorem test_promote_rights : (after .promote (rightsState 2)).pkh.cmds = [] ∧
    fld (homeRead (after .promote (rightsState 2)) 0x47000000 16) 5 1 = 2 := by decide
theorem test_pkhSays_ring : LinesGood (rightsState 1) 0x47000000 16 := by unfold LinesGood; decide
theorem test_free : let s := withPc (recd (pkhOn base) 2 1 2) (pcDesc 4 0 0 0 0 0 (tier2 + pageBytes) pageBytes)
    copyTier (tier2 + pageBytes) = some (2, 1) ∧ copyRange s (tier2 + pageBytes) 1 = true ∧ s.trecStateAt 2 1 = 2 ∧
      (after .free s).trecStateAt 2 1 = 0 ∧ (after .free s).pkh.cmds = [] ∧ cmdTurn (after .free s) 4 = none := by decide
theorem test_free_bounds : let s := withPc (pkhOn base) (pcDesc 4 0 0 0 0 0 (tier2 + 3 * pageBytes) (2 * pageBytes))
    copyRange s (tier2 + 3 * pageBytes) 2 = false ∧ cmdTurn s 4 = some { id := 0, desc := pcDesc 4 0 0 0 0 0 (tier2 + 3 * pageBytes) (2 * pageBytes) } ∧
      (after .free s).pkh.cmds = [] := by decide
/-- A KV page in the destination: BOUNDS, and nothing is written. -/
theorem test_copy_kv : let s := withPc (recd (pkhOn base) 2 0 1) (pcDesc 3 0 0 0 0 0 tier2 pageBytes)
    copyRange s 0 1 = true ∧ copyRange s tier2 1 = true ∧ copyTier tier2 = some (2, 0) ∧ s.trecStateAt 2 0 = 1 ∧
      (after (.copy []) s).mem = s.mem ∧ (after (.copy []) s).pkh.cmds = [] := by decide
theorem test_copy_premises : let s := withPc (pkhOn base) (pcDesc 3 0 0 0 0 0 (4 * pageBytes) pageBytes)
    cmdTurn s 3 = some { id := 0, desc := pcDesc 3 0 0 0 0 0 (4 * pageBytes) pageBytes } ∧ s.walk = false ∧ copyRange s 0 1 = true ∧
      copyRange s (4 * pageBytes) 1 = true ∧ copyTier (4 * pageBytes) = none ∧ NoCqe { id := 0, desc := pcDesc 3 0 0 0 0 0 (4 * pageBytes) pageBytes } := by
  unfold NoCqe; decide
theorem linesGood_calm (s : State) (a n : Nat) (h : calm s = true) (m : s.marks = []) : LinesGood s a n :=
  fun _ _ => ⟨by rw [m]; rfl, (calm_stall s h _).2⟩
theorem test_copy_lines : LinesGood (withPc (pkhOn base) (pcDesc 3 0 0 0 0 0 (4 * pageBytes) pageBytes)) 0 pageBytes :=
  linesGood_calm _ _ _ (by decide) rfl
def mapState (s : State) : State := set [(Reg.PKH_MAP_IDX, F.PKH_MAP_IDX_IDX, 64)] (s.setReg (Reg.PKH_MAP_DATA 0) 0x200000)
theorem test_mapWrite_busy : let t := after (.pkhMapWrite 7) (mapState (recd (pkhOn base) 2 1 1))
    t.flag Reg.PKH_STATUS F.PKH_STATUS_MAP_BUSY = true ∧ Mp.base (t.mapEntry 64) = 0x100000 ∧
      (mapState (recd (pkhOn base) 2 1 1)).trecStateAt 2 1 = 1 ∧ Machine.mapOf 2 1 = 64 := by decide
theorem test_mapWrite : let t := after (.pkhMapWrite 0x50007) (mapState (pkhOn base))
    Mp.base (t.mapEntry 64) = 0x200000 ∧ Mp.node (t.mapEntry 64) = 7 ∧ Mp.team (t.mapEntry 64) = 5 ∧
      (∀ k, k < 4 → (mapState (pkhOn base)).trecStateAt 2 k = 0) := by decide
theorem test_modelWrite : let t := after (.pkhModelWrite 0x47) (base.setReg (Reg.PKH_MODEL_DATA 0) 0x80000003)
    Me.v (t.modelEntry 0) = true ∧ Me.nlayers (t.modelEntry 0) = 3 := by decide
theorem test_mapRead : (after .pkhMapData0Read (mapState (pkhOn base))).reg (Reg.PKH_MAP_DATA 0) = 0x100000 := by decide
theorem test_modelRead : (after .pkhModelData0Read (after (.pkhModelWrite 0x47) base)).reg (Reg.PKH_MODEL_DATA 3) = 0x47 ∧
    ((after (.pkhModelWrite 0x47) base).modelEntry 0).length = 16 := by decide

/-! Moves -/

theorem test_allocTier : let s := recd (pkhOn base) 2 0 2
    (allocTier s 2).2 = some 1 ∧ (allocTier s 2).1.pkh.cursors = [(2, 2)] := by decide
def demoteState : State := withPc (pkhOn filled) (pcDesc 1 0 1 1 2 0 0 0)
theorem test_demote_entries : (cmdEntries demoteState (pcDesc 1 0 1 1 2 0 0 0)).2 = (St.ok, 0, [(pte5 3 23, 2)]) ∧
    (entryAt demoteState root5 0 2).2 = some (rootBytes 7 0 0 1 noPage 0, 1, pte5 3 23, false) ∧
    (allocOrder demoteState 2 0).2 = some (tierBase 2) ∧ tierOf (tierBase 2) = some (2, 0) ∧ demoteState.trecOff 2 0 % 16 = 0 ∧
    demoteState.role = roleC ∧ isHbm (ptePage (pte5 3 23)) = true ∧ calm demoteState = true := by decide
/-- The record of the page a demotion has taken: KV, home stall 5, pair 0, the root page, FIRST 2. -/
theorem test_setKv : let t := setKv demoteState (tierBase 2) false root5 0 2
    t.trecStateAt 2 0 = 1 ∧ bits (t.trec 2 0).1 60 54 = 5 ∧ bits (t.trec 2 0).1 31 0 = page5 20 ∧ (t.trec 2 0).2 = 2 := by decide
def move9 (stage : Stage) (src dst : Nat) : Move :=
  { id := 0, root := root5, pair := 0, first := 2, src := src, dst := dst, stage := stage, io := .host, start := 0 }
def moving (s : State) (m : Move) : State := s.updPkh fun p => { p with moves := [m] }
def copied : State := moving (pkhOn filled) (move9 .writing (page5 23) (tierBase 2))
theorem test_demotionCopyComplete : let t := after (.demotionCopyComplete (tierBase 2)) copied
    t.pkh.moves.map (·.stage) = [.editing] ∧ t.kvp.edits.map (fun e => (Ed.op e.desc, Ed.root e.desc, fld e.desc 2 2, fld e.desc 32 4)) =
      [(0x12, root5, 7, 1)] ∧ t.kvp.edits.map (fun e => ptePage (Ed.arg e.desc)) = [tierBase 2] := by decide
/-- The entry at FIRST 3 is gone: the page is given back. -/
theorem test_demotionCopy_stale : let s := recd (moving (pkhOn filled) { move9 .writing (page5 23) (tierBase 2) with first := 3 }) 2 0 1
    (entryAt s root5 0 3).2 = none ∧ (after (.demotionCopyComplete (tierBase 2)) s).pkh.moves = [] ∧
      (after (.demotionCopyComplete (tierBase 2)) s).trecStateAt 2 0 = 0 := by decide
theorem test_demotion_done : let s := moving (pkhOn filled) (move9 .editing (page5 23) (tierBase 2))
    let s := { s with kvp := { s.kvp with done := [⟨.packhorse 0, St.ok, 8, 0⟩] } }
    (after (.demotionCopyComplete (tierBase 2)) s).pkh.moves = [] ∧ (after (.demotionCopyComplete (tierBase 2)) s).reg Reg.PKH_DEMOTES = 1 := by
  decide
def tierPte : Nat := mkPte true false false false 7 3 0 (tierBase 2)
/-- The second page of the table lies in tier 2. -/
def onTier : State := pkhOn (tableWith (rootBytes 7 0 0 1 noPage 0) (pairBytes 9 3 0 (page5 21)) [(pte5 2 22, 0), (tierPte, 2), (pte5 4 24, 5)])
def asked (s : State) : State := { s with kvp := { s.kvp with promote := [⟨tierBase 2, root5, 0, 2⟩] } }
theorem test_promotionRequest : (entryAt onTier root5 0 2).2 = some (rootBytes 7 0 0 1 noPage 0, 1, tierPte, false) ∧
    (after .promotionRequest (asked onTier)).pkh.moves.map (fun m => (m.src, m.dst, m.stage)) = [(tierBase 2, page5 30, .reading)] ∧
    (after .promotionRequest (asked onTier)).kvp.promote = [] := by decide
theorem test_promotionRequest_off : let s := set [(Reg.PKH_CTRL, F.PKH_CTRL_PROMOTE_EN, 0)] (asked base)
    exec .promotionRequest s = .next s := by rfl
theorem test_promotionRequest_drop : let s := (asked onTier).updPkh fun p => { p with moves := List.replicate 256 (move9 .reading (tierBase 2 + 1) 0) }
    256 ≤ s.promoting ∧ (after .promotionRequest s).reg Reg.PKH_PROMOTE_DROP = 1 := by decide
theorem test_promotionRequest_join : let s := moving (asked onTier) (move9 .reading (tierBase 2) (page5 30))
    (after .promotionRequest s).pkh.moves.map (·.src) = [tierBase 2] ∧ (s.pkh.moves.map (·.id)).Nodup := by decide
theorem test_promote : let s := withPc onTier (pcDesc 2 0 1 1 0 0 0 0)
    (cmdEntries s (pcDesc 2 0 1 1 0 0 0 0)).2 = (St.ok, 0, [(tierPte, 2)]) ∧
      (after .promote s).pkh.moves.map (fun m => (m.src, m.dst, m.stage)) = [(tierBase 2, page5 30, .reading)] := by decide
theorem test_promotionComplete_premises : let s := moving onTier (move9 .reading (tierBase 2) (page5 30))
    s.pkh.moves.find? (fun x => x.src == tierBase 2 && !isHbm (tierBase 2)) = some (move9 .reading (tierBase 2) (page5 30)) ∧
      (zeros pageBytes).length = pageBytes ∧ calm s = true := ⟨by decide, List.length_replicate, by decide⟩
theorem test_promotion_failed : (after (.promotionComplete (tierBase 2) .poisoned) (moving onTier (move9 .reading (tierBase 2) (page5 30)))).pkh.moves =
    [] := by decide
theorem test_tierIoFail_write : let t := after (.tierIoFail (tierBase 2)) copied
    t.pkh.moves = [] ∧ t.reg Reg.PKH_TIER_FAIL = 1 ∧ t.trecStateAt 2 0 = 3 ∧ t.reg Reg.PKH_VAULT_RETIRED = 0 := by decide
theorem test_tierIoFail_read : let t := after (.tierIoFail (tierBase 2)) (moving onTier (move9 .reading (tierBase 2) (page5 30)))
    t.pkh.moves = [] ∧ t.reg Reg.PKH_TIER_FAIL = 1 ∧ ((entryAt t root5 0 2).2.map fun x => ptePoison x.2.2.1) = some true := by decide

/-! Tickets -/

def tkBytes (op layer buf : Nat) : Bytes :=
  toLE 1 op ++ toLE 1 0 ++ toLE 2 layer ++ toLE 4 0x77 ++ toLE 8 (9 * 2 ^ 48 + 0x2000) ++ toLE 2 buf ++ zeros 46
def taken9 (op layer buf : Nat) : Bytes := tkBytes op layer buf ++ toLE 2 5
def layerDesc (src pages : Nat) : Bytes := toLE 8 src ++ toLE 4 pages ++ zeros 4
/-- Model 0 of two layers, table at 0x4500_0000: layer 0 in HBM at 0x8000, layer 1 of two pages in tier 2; two buffers of 2. -/
def staged : State :=
  let s := pkhOn base
  let s := set [(Reg.PKH_WBUF_CFG, F.PKH_WBUF_CFG_BUFSZ, 2), (Reg.PKH_WBUF_CFG, F.PKH_WBUF_CFG_NBUF, 2)] (s.setReg Reg.PKH_WBUF_BASE_LO 0x44000000)
  { s with
    mem := Memory.write [] 0x45000000 (layerDesc 0x8000 3 ++ layerDesc tier2 2)
    pkh := { s.pkh with models := [(0, toLE 2 2 ++ toLE 1 0 ++ toLE 1 0x80 ++ zeros 4 ++ toLE 8 0x45000000)] } }
def take9 (s : State) (tk : Bytes) : State := s.updPkh fun p => { p with taken := [(tk, 0)] }
/-- The records that wait for node 9: status, address, length, buffer. -/
def records (t : State) : List (Nat × Nat × Nat × Nat) :=
  ((t.dest 9).waiting ++ (t.dest 9).out).map fun r =>
    (fld r.pkt.payload 4 1, fld r.pkt.payload 8 8, fld r.pkt.payload 16 4, fld r.pkt.payload 20 2)
theorem test_layerIs : LayerIs staged 0 0 0x8000 3 ∧ LayerIs staged 0 1 tier2 2 := by unfold LayerIs LinesGood; decide
theorem test_ticketTake : let s := (pkhOn base).setReg (Reg.PKH_TKT_RING 2) 6
    let s := { s with mem := Memory.write [] (6 * pageBytes) (tkBytes 1 0 0) }
    let t := after (.ticketTake 2) s
    t.mem = [] ∧ t.pkh.rings = [(2, 1)] ∧ t.pkh.taken = [(tkBytes 1 0 0 ++ zeros 2, 0)] := by decide
theorem test_ticketTake_empty : let s := (pkhOn base).setReg (Reg.PKH_TKT_RING 2) 6
    (after (.ticketTake 2) s).pkh = s.pkh ∧ exec (.ticketTake 3) s = .next s := ⟨by decide, rfl⟩
theorem test_ticket_resident : let t := after .ticket (take9 staged (taken9 1 0 0))
    records t = [(St.ok, 0x8000, 3 * pageBytes, 0xFFFF)] ∧ t.reg Reg.PKH_TICKETS = 1 ∧ t.pkh.taken = [] := by decide
theorem test_ticket_bounds : records (after .ticket (take9 staged (taken9 1 2 0))) = [(St.bounds, 0, 0, 0xFFFF)] ∧
    records (after .prefetch (take9 staged (taken9 2 2 0))) = [(St.bounds, 0, 0, 0xFFFF)] ∧
    TakenNext (take9 staged (taken9 2 2 0)) (· == 2) (taken9 2 2 0) 0 := by unfold TakenNext; decide
theorem test_ticket_large : records (after .ticket (take9 (set [(Reg.PKH_WBUF_CFG, F.PKH_WBUF_CFG_BUFSZ, 1)] staged) (taken9 1 1 0))) =
    [(St.bounds, 0, 0, 0xFFFF)] := by decide
def fullBuf (pin : Nat) : State := staged.updBuf 1 fun _ => { layer := some (0, 1), pin := pin }
theorem test_ticket_full : (fullBuf 0).bufWith 0 1 = some 1 ∧
    records (after .ticket (take9 (fullBuf 0) (taken9 1 1 0))) = [(St.ok, 0x44000000 + 2 * pageBytes, 2 * pageBytes, 1)] ∧
    ((after .ticket (take9 (fullBuf 0) (taken9 1 1 0))).wbuf 1).pin = 1 := by decide
theorem test_prefetch_full : records (after .prefetch (take9 (fullBuf 0) (taken9 2 1 0))) =
    [(St.ok, 0x44000000 + 2 * pageBytes, 2 * pageBytes, 0xFFFF)] ∧ ((after .prefetch (take9 (fullBuf 0) (taken9 2 1 0))).wbuf 1).pin = 0 := by
  decide
theorem test_ticket_fill : (after .ticket (take9 staged (taken9 1 1 0))).pkh.fills.map (fun f => (f.model, f.layer, f.src, f.pages, f.buf)) =
    [(0, 1, tier2, 2, none)] ∧ records (after .ticket (take9 staged (taken9 1 1 0))) = [] := by decide
theorem test_ticket_reserved : records (after .ticket (take9 staged (taken9 4 0 0))) = [(St.rights, 0, 0, 0xFFFF)] ∧
    TakenNext (take9 staged (taken9 4 0 0)) (fun o => o == 1 || decide (3 < o)) (taken9 4 0 0) 0 := by unfold TakenNext; decide
theorem test_ticketRelease : let t := after .ticketRelease (take9 (fullBuf 2) (taken9 3 0 1))
    (t.wbuf 1).pin = 1 ∧ records t = [(St.ok, 0, 0, 0xFFFF)] ∧
      records (after .ticketRelease (take9 (fullBuf 0) (taken9 3 0 1))) = [(St.noEffect, 0, 0, 0xFFFF)] := by decide
theorem test_freeBuf : freeBuf (fullBuf 2) = some 0 ∧ freeBuf ((fullBuf 0).updBuf 0 fun x => { x with last := 5 }) = some 1 := by decide
def fill9 (op : Nat) : Fill := { id := 0, model := 0, layer := 1, src := tier2, pages := 2, waiting := [(taken9 op 1 0, 0)] }
def filling (f : Fill) (x : WBuf) : State := (staged.updPkh fun p => { p with fills := [f] }).updBuf 1 fun _ => x
/-- Neither page of the layer is WEIGHT: both reads fail at once, and the buffer is held until the fill's end. -/
theorem test_fillStart : let t := after .fillStart (filling (fill9 1) { pin := 1 })
    (t.wbuf 0).filling = true ∧ t.pkh.fills.map (·.buf) = [some 0] ∧ (t.wbuf 1).pin = 1 := by decide
def filledBuf : WBuf := { layer := some (0, 1), filling := true }
theorem test_fillComplete : let t := after (.fillComplete 0 1 []) (filling { fill9 1 with buf := some 1, next := 2, done := 2 } filledBuf)
    t.pkh.fills = [] ∧ (t.wbuf 1).pin = 1 ∧ (t.wbuf 1).filling = false ∧
      records t = [(St.ok, 0x44000000 + 2 * pageBytes, 2 * pageBytes, 1)] := by decide
theorem test_fillComplete_fails : let f := { fill9 1 with buf := some 1, next := 1, ios := [(0, .got St.tierFail [])] }
    records (after (.fillComplete 0 1 []) (filling f filledBuf)) = [(St.tierFail, 0, 0, 0xFFFF)] := by decide
theorem test_ticketDeadline : let s := { filling (fill9 1) {} with tick := 200017 }
    s.pkh.fills = [fill9 1] ∧ (fill9 1).waiting = [(taken9 1 1 0, 0)] ∧ Tk.op (taken9 1 1 0) = 1 ∧ 0 + s.reg Reg.PKH_TIER_DL < s.now := by
  intro s
  exact ⟨rfl, rfl, by decide, State.le_now s (n := 200001) (by decide)⟩
theorem test_ticketDeadline_early : exec .ticketDeadline (filling (fill9 1) {}) = .next (filling (fill9 1) {}) ∧
    (filling (fill9 1) {}).now ≤ 0 + (filling (fill9 1) {}).reg Reg.PKH_TIER_DL ∧
      ticketOver (filling (fill9 1) {}) (taken9 1 1 0, 0) = false := ⟨by rfl, by decide, by decide⟩

/-! The vault -/

def vaultAt (x : Nat) : State :=
  (set [(Reg.PKH_VAULT_STATUS, F.PKH_VAULT_STATUS_STATE, x)] (pkhOn base)).updVault fun v => { v with mqes := 255 }
/-- The vault commands sent: queue, opcode. -/
def vaultOut (t : State) : List (Nat × Nat) := t.out.filterMap fun o => match o with
  | .vaultCmd q op _ _ _ _ => some (q, op)
  | _ => none
theorem test_vaultPresence : let t := after (.vaultPresence true) (vaultAt 0)
    t.vaultState = Vs.attaching ∧ vaultOut t = [(0, 6), (0, 6)] := by decide
/-- A KV page of the vault: the record becomes FREE, and the table's entry is poisoned. -/
def vaultPte : Nat := mkPte true false false false 7 3 0 (tierBase 3)
def onVault : State :=
  setKv (pkhOn (tableWith (rootBytes 7 0 0 1 noPage 0) (pairBytes 9 3 0 (page5 21)) [(pte5 2 22, 0), (vaultPte, 2), (pte5 4 24, 5)]))
    (tierBase 3) false root5 0 2
theorem test_vaultRemoval : let t := after .vaultRemoval onVault
    onVault.trecStateAt 3 0 = 1 ∧ t.vaultState = Vs.absent ∧ t.trecStateAt 3 0 = 0 ∧ t.pkh.vault.cap = 0 ∧
      ((entryAt t root5 0 2).2.map fun x => ptePoison x.2.2.1) = some true := by decide
theorem test_vaultLinkDown : (after .vaultLinkDown (vaultAt 3)).vaultState = Vs.absent ∧
    (after (.vaultPresence false) (vaultAt 0)).vaultState = Vs.absent := by decide
/-- Identity record VLTX of 16 LBAs. -/
def ident9 : Bytes := toLE 4 0x564C5441 ++ toLE 2 1 ++ zeros 18 ++ toLE 8 3500000000000000 ++ toLE 8 16 ++ zeros 984
theorem test_attach_checks : attachCheck ident9 true true true 16 = none ∧ attachCheck ident9 true true true 15 = some 4 ∧
    attachCheck (zeros 1024) true true true 16 = some 5 ∧ attachCheck ident9 true false false 0 = some 2 := by decide
theorem test_attach_failed : let t := after (.vaultAttachComplete ident9 true true false ⟨16, 255⟩) (vaultAt 1)
    t.vaultState = Vs.failed ∧ t.far.events.map (fun e => (e.tag, e.code, e.detail.headD 0)) = [(Tag.pkh, 7, 3)] := by decide
/-- With no vault key the signature check fails. -/
theorem test_attach_noKey : vaultKeys 0 (vaultAt 1) ident9 = (vaultAt 1, false) ∧ (vaultAt 1).fld Reg.ASY_VKEY_N F.ASY_VKEY_N_N = 0 ∧
    (after (.vaultAttachComplete ident9 true true true ⟨16, 255⟩) (vaultAt 1)).vaultState = Vs.failed := ⟨by rfl, by decide, by decide⟩
/-- The admin queue holds 31 of the 33 commands; the I/O queues are not created, so the deallocation waits too. -/
theorem test_vaultReady : let t := vaultReady (vaultAt 1) ident9 255
    t.vaultState = Vs.ready ∧ t.pkh.vault.cap = 16 ∧ (vaultOut t).length = 31 ∧ t.pkh.vault.waiting.map (·.opcode) = [5, 1, 9] := by decide
/-- R263's example: 6,152,343,750 data units on a rating of 3.5 × 10¹⁵ bytes is USED 900. -/
def smartLog (warn units : Nat) : Bytes := toLE 1 warn ++ zeros 47 ++ toLE 16 units ++ zeros 448
theorem test_smartRead : let t := after (.smartRead (smartLog 0 6152343750)) (vaultAt 2)
    t.fld Reg.PKH_VAULT_LIFE F.PKH_VAULT_LIFE_USED = 900 ∧ t.vaultState = Vs.ready := by decide
theorem test_smartRead_worn : (after (.smartRead (smartLog 0 6835937500)) (vaultAt 2)).vaultState = Vs.readOnly ∧
    (after (.smartRead (smartLog 4 0)) (vaultAt 2)).vaultState = Vs.readOnly ∧ exec (.smartRead []) (vaultAt 5) = .next (vaultAt 5) :=
  ⟨by decide, by decide, rfl⟩
def withOps (s : State) (use : VaultUse) : State := s.updVault fun v => { v with ops := [(7, use, 0)], sent := [{ io := true, cid := 7, opcode := 2 }] }
theorem test_vaultCompletion : (after (.vaultCompletion 7 true []) (withOps (vaultAt 4) .flush)).pkh.vault.flushed = some true ∧
    (after (.vaultCompletion 7 false [1]) (withOps (vaultAt 2) .page)).pkh.vault.answers = [(7, false, [1])] := by decide
theorem test_vaultTimeout : let s := (withOps (vaultAt 2) .admin).setReg Reg.PKH_VAULT_TMO 0
    (after .vaultCommandTimeout s).vaultState = Vs.attaching ∧ exec .vaultCommandTimeout (withOps (vaultAt 2) .admin) = .next (withOps (vaultAt 2) .admin) :=
  ⟨by decide, rfl⟩
theorem test_deallocateIssue : let s := { vaultAt 2 with dealloc := ⟨List.replicate 257 3, some 0⟩ }
    (after .deallocateIssue s).dealloc.pages = [3] ∧ vaultOut (after .deallocateIssue s) = [(1, 9)] ∧ s.pkh.vault.wipe = false ∧ s.walk = false := by decide
theorem test_deallocateIssue_early : let s := { vaultAt 2 with dealloc := ⟨[3], some 0⟩ }
    exec .deallocateIssue s = .next s ∧ s.now < 0 + 10000000 := ⟨by rfl, by decide⟩
theorem test_vaultWipe : let s := (vaultAt 2).updVault fun v => { v with wipe := true, cap := 16 }
    vaultOut (after .deallocateIssue s) = [(1, 9)] ∧ (after .deallocateIssue s).pkh.vault.wipe = false := by decide
/-- The submission entry of a Read of vault page 3 into HBM page 40: opcode and identifier, namespace, PRP1, PRP list, SLBA 12, NLB 3. -/
theorem test_vaultRead_entry :
    let b := submission { io := true, move := true, cid := 7, opcode := 2, buf := 40 * pageBytes, cdw10 := 12, cdw12 := 3 } 0xD000
    b.length = 64 ∧ b.take 8 = [2, 0, 7, 0, 1, 0, 0, 0] ∧ fld b 24 8 = 40 * pageBytes ∧ fld b 32 8 = 0xD000 ∧ fld b 40 8 = 12 ∧
      fld b 48 4 = 3 := by decide
theorem test_deallocateIssue_due : let s := { vaultAt 2 with dealloc := ⟨[3], some 0⟩, tick := 10000016 }
    0 + 10000000 ≤ s.now := State.le_now _ (by decide)
theorem test_vaultDetach : let s := set [(Reg.GLB_LOCK, F.GLB_LOCK_LOCK, 1)] (recd (vaultAt 2) 3 1 2)
    s.locked = true ∧ (after (.vaultDetach 1) s).vaultState = Vs.detaching ∧ (after (.vaultDetach 1) s).trecStateAt 3 1 = 0 ∧
      (∀ k, k < 4 → s.trecStateAt 3 k ≠ 1) ∧ (after (.vaultDetach 1) (vaultAt 1)).vaultState = Vs.attaching ∧ calm s = true := by decide
theorem test_vaultDetach_settled : Settled (recd (vaultAt 2) 3 1 2) := calm_settled _ (by decide) rfl rfl
theorem test_vaultDetached : let s := (vaultAt 4).updVault fun v => { v with flushed := some true }
    vaultKv s = [] ∧ (after .vaultDetached s).vaultState = Vs.detached ∧ vaultOut (after .vaultDetached (vaultAt 4)) = [(1, 0)] := by decide
theorem test_vaultFormat : vaultOut (after (.vaultFormat 2) (vaultAt 2)) = [(0, 0x80)] ∧ vaultOut (after (.vaultFormat 2) (recd (vaultAt 2) 3 1 2)) = [] ∧
    (after (.vaultFormat 2) (vaultAt 5)).flag Reg.PKH_VAULT_CTRL F.PKH_VAULT_CTRL_FORMAT = false := by decide

/-! ### Host port -/

/-- Chapter Host port's example entry: NODE 0x0207, TEAM 0x021, BASE 0x9000_0000, LIMIT 0x0FFF, V, W, R and AUTOEP. -/
def apBytes (node : Nat) : Bytes := toLE 8 0x90000000 ++ toLE 2 node ++ toLE 2 0x21 ++ [0, 0xE4] ++ toLE 2 0xFFF
/-- The window open, the shaper off, the host up; entry 50 names node 0x0207, entry 51 this node. -/
def hostState : State :=
  set [(Reg.HST_CTRL, F.HST_CTRL_BAR2_EN, 1)]
    { base with host := { linkUp := true, bme := true, apertures := [(50, apBytes 0x207), (51, apBytes base.node)] } }
def merging (addr n : Nat) : State :=
  { hostState with host := { hostState.host with merge := some ⟨addr / windowBytes, addr, zeros n, 0, hostState.aperture (addr / windowBytes)⟩ } }
theorem test_apMiss : apMiss hostState 0x320001000 true = false ∧ apMiss hostState 0x321000000 true = true ∧
    apMiss hostState 0x300001000 false = true ∧ apMiss (set [(Reg.HST_CTRL, F.HST_CTRL_BAR2_EN, 0)] hostState) 0x320001000 true = true := by decide
theorem test_bar2Write_poisoned : let t := after (.bar2Write 0x320001000 ones64 true true) hostState
    (t.host.merge, t.host.pcie.aer) = (none, [(2, 0x320001000)]) := by decide
theorem test_bar2Read_beyond : (after (.bar2Read 7 0x1000000000 4) hostState).out = [.readCompletion 7 1 []] := by decide
theorem test_bar2Write_miss : (after (.bar2Write 0x300001000 ones64 true false) hostState).reg Reg.HST_MISS = 1 := by decide
theorem test_bar2Write_partial : let t := after (.bar2Write 0x320001000 ones64 false false) hostState
    t.reg Reg.HST_PARTIAL = 1 ∧ t.far.events.map (fun e => (e.code, e.subject, e.detail.headD 0)) = [(2, 0x320001000, 50)] := by decide
theorem test_bar2Write_opens : (after (.bar2Write 0x320001000 ones64 true false) hostState).host.merge =
    some ⟨50, 0x320001000, ones64, 0, apBytes 0x207⟩ ∧ WholeLines 0x320001000 ones64 := by unfold WholeLines; decide
theorem test_bar2Write_joins : let t := after (.bar2Write 0x320001040 ones64 true false) (merging 0x320001000 64)
    t.host.merge.map (·.data.length) = some 128 ∧ t.reg Reg.HST_MERGED = 1 := by decide
/-- The example: the block is full, and one STORE of 0x9000_1000 on goes to node 0x0207. -/
theorem test_bar2Write_full : let t := after (.bar2Write 0x320001FC0 ones64 true false) (merging 0x320001000 4032)
    t.host.merge = none ∧ (t.dest 0x207).waiting.map (fun r => (r.pkt.opcode, r.pkt.offset, r.pkt.length, r.pkt.team)) =
      [(Op.store, 0x90001000, 4096, 0x21)] := by decide
theorem test_shaperFree : ShaperFree hostState := by unfold ShaperFree; decide
theorem test_bar2Write_last : let t := after (.bar2Write 0x330001FC0 ones64 true false) hostState
    homeByte t 0x90001FC5 = 1 ∧ t.host.merge = none := by decide
theorem test_own_lines : LinesGood hostState 0x90001FC0 64 := by unfold LinesGood; decide
theorem test_bar2MergeTimeout : let s := set [(Reg.HST_CTRL, F.HST_CTRL_MERGE, 0)] (merging 0x320001000 64)
    (after .bar2MergeTimeout s).host.merge = none ∧ ((after .bar2MergeTimeout s).dest 0x207).waiting.length = 1 := by decide
theorem test_bar2Merge_early : let s := set [(Reg.HST_CTRL, F.HST_CTRL_MERGE, 9)] (merging 0x320001000 64)
    exec .bar2MergeTimeout s = .next s ∧ s.now < 0 + 9 := ⟨by rfl, by decide⟩
theorem test_bar2Read_miss : (after (.bar2Read 7 0x300001000 4) hostState).out = [.readCompletion 7 1 []] := by decide
theorem test_bar2Read : let s := { hostState with mem := Memory.write [] 0x90000044 [0xAB] }
    (after (.bar2Read 7 0x330000043 3) s).out = [.readCompletion 7 0 [0, 0xAB, 0]] := by decide
theorem test_bar2Read_remote : ((after (.bar2Read 7 0x320000FF0 32) hostState).dest 0x207).waiting.map
    (fun r => (r.pkt.opcode, r.pkt.offset, r.pkt.length)) = [(Op.load, 0x90000FC0, 64), (Op.load, 0x90001000, 64)] := by decide
theorem test_bar2_answer : let s := { hostState with host := { hostState.host with reads := [⟨7, 0x320000FF0, 32, 50, 1, [⟨0, 0, none⟩], false, true⟩] } }
    (hostAnswer s (.bar2Load 1 0) St.bounds []).out = [.readCompletion 7 4 []] ∧
      (hostAnswer s (.bar2Load 1 0) St.bounds []).reg Reg.HST_BAR2_ERR_LO = 0x20000FF0 := by decide
theorem test_apertureWrite : let s := set [(Reg.HST_AP_IDX, F.HST_AP_IDX_IDX, 9)] (hostState.setReg (Reg.HST_AP_DATA 1) 5)
    fld ((after (.apertureWrite 0x0FFFE400) s).aperture 9) 4 4 = 5 ∧ Aper.limit ((after (.apertureWrite 0x0FFFE400) s).aperture 9) = 0xFFF := by
  decide
theorem test_apData0Read : let s := set [(Reg.HST_AP_IDX, F.HST_AP_IDX_IDX, 50)] hostState
    (after .apData0Read s).reg (Reg.HST_AP_DATA 2) = 0x210207 ∧ (s.aperture 50).length = 16 := by decide

/-! Doorbells -/

/-- The ledger's doorbells at page 0, Courier's at 64, Packhorse's at 97. -/
def bells : State := set [(Reg.HST_DB_LDG, F.HST_DB_LDG_EN, 1), (Reg.HST_DB_COU, F.HST_DB_LDG_EN, 1), (Reg.HST_DB_PKH, F.HST_DB_LDG_EN, 1),
  (Reg.HST_DB_COU, F.HST_DB_LDG_PAGE, 64), (Reg.HST_DB_PKH, F.HST_DB_LDG_PAGE, 97)] hostState
theorem test_doorbell_miss : (after (.ldgSqDoorbell 3 5) base).reg Reg.HST_DB_MISS = 1 ∧ (after (.couCqDoorbell 3 5) base).reg Reg.HST_DB_MISS = 1 := by
  decide
def ownMerge : State := { bells with host := { (merging 0x330001000 64).host with doorbells := [] } }
theorem test_doorbell_waits : ownWrites ownMerge = true ∧ (after (.ldgSqDoorbell 3 5) ownMerge).host.doorbells = [.ldgSq 3 5] := by decide
theorem test_registerWrite_waits : let s := { ownMerge with host := { ownMerge.host with doorbells := [.ldgSq 3 5] } }
    (after (.registerWrite (Reg.STL_ALLOC_LOW 5) ⟨15, false⟩ 77) s).host.doorbells = [.ldgSq 3 5, .reg (Reg.STL_ALLOC_LOW 5) 77] ∧
    (after (.registerWrite (Reg.STL_ALLOC_LOW 5) ⟨15, false⟩ 77) { s with host := { s.host with merge := none } }).reg
      (Reg.STL_ALLOC_LOW 5) = 77 := by decide
theorem test_bar4_read : (after (.bar4UnmappedWrite 4 (.read 3 4)) bells).out = [.readCompletion 3 0 (zeros 4)] := by decide
/-- A ring of 2⁴ slots: the index is taken modulo 16. -/
theorem test_ldgSqDoorbell : let s := set [(Reg.LDG_AQ_CTRL 3, F.LDG_AQ_CTRL_SQ_LOG2, 4), (Reg.LDG_AQ_CTRL 3, F.LDG_AQ_CTRL_CQ_LOG2, 5)] bells
    dbRange s 0 = some (0, 64) ∧ ownWrites s = false ∧ ((after (.ldgSqDoorbell 3 21) s).aq 3).tail = 5 ∧
      ((after (.ldgCqDoorbell 3 41) s).aq 3).cqHead = 9 := by decide
def connected : State := { bells with cou := { bells.cou with conns := [(6, { state := .opened, peer := 9, sendLog2 := 4, recvLog2 := 4, recvBase := 0x10000 })] } }
theorem test_couSqDoorbell : ((after (.couSqDoorbell 6 19) connected).conn 6).sqTail = 3 := by decide
theorem test_couRqDoorbell : let s := { connected with mem := Memory.write [] 0x10000 (toLE 8 0x2000 ++ toLE 4 64 ++ toLE 4 77) }
    ((after (.couRqDoorbell 6 1 .timeout) s).conn 6).posted = [⟨0x2000, 64, 77, 0⟩] ∧ ((after (.couRqDoorbell 6 1 .timeout) s).conn 6).rqTail = 1 := by
  decide
theorem test_couCqDoorbell : ((after (.couCqDoorbell 2 300) bells).couCq 2).head = 300 % 2 ^ (bells.couCq 2).log2 := by decide
theorem test_pkhTicketDoorbell : let s := bells.setReg (Reg.PKH_TKT_RING 2) 6
    let s := { s with mem := Memory.write [] (6 * pageBytes) (1 :: zeros 63 ++ [2]) }
    ((after (.pkhTicketDoorbell 2 0) s).pkh.taken.map (·.1.headD 0)) = [1, 2] := by decide
theorem test_bar4 : exec (.bar4UnmappedWrite 4 .whole) bells = .next bells ∧ (after (.bar4UnmappedWrite 8 .whole) bells).reg Reg.HST_DB_MISS = 1 ∧
    bar4Defined bells (64 * 4096 + 4) = true ∧ bar4Defined bells (97 * 4096 + 64) = false := ⟨by rfl, by decide, by decide, by decide⟩
theorem test_doorbellBaseWrite : dbRange (after (.doorbellBaseWrite 2 0x80000062) bells) 2 = some (98, 99) ∧
    (after (.doorbellBaseWrite 2 0x8000003F) bells).flag Reg.HST_STATUS F.HST_STATUS_DB_OVERLAP = true ∧
    dbRange (after (.doorbellBaseWrite 0 0x80000FC1) base) 0 = none ∧ dbRange (after (.doorbellBaseWrite 0 0x80000FC0) base) 0 = some (4032, 4096) := by
  decide

/-! Host-port resets, MSI-X and event queues -/

theorem test_flr : let s := { hostState with host := { hostState.host with msix := [(3, 0, 5, false)], doorbells := [.ldgSq 1 2] } }
    (after .flr s).host.msix = [] ∧ (after .flr s).host.bme = false ∧ (after .flr s).host.linkUp = true ∧ (after .hostLinkDown s).host.linkUp = false ∧
      (after .perstLAssert s).host.doorbells = [] ∧ (after .hotReset s).reg Reg.HST_CTRL = regReset Reg.HST_CTRL := by decide
theorem test_busMasterEnable : (after (.busMasterEnable ⟨true, true⟩ 5 4) base).host.funcMask = true ∧
    (after (.busMasterEnable ⟨true, false⟩ 5 4) base).hostOpen = true ∧
    (after (.busMasterEnable ⟨true, false⟩ 5 4) base).fld Reg.HST_STATUS F.HST_STATUS_SPEED = 5 := by decide
/-- Vector 3 unmasked to address 0x1000, data 7; vector 4 masked. -/
def vectors (pba : List Nat) : State :=
  { hostState with host := { hostState.host with msix := [(3, 0x1000, 7, false), (4, 0x2000, 8, true)], pba := pba } }
theorem test_msix_masked : ((vectors []).msixRaise 4).host.pba = [4] ∧ ((vectors []).msixRaise 4).out = [] := by decide
theorem test_msix_sent : ((vectors []).msixRaise 3).out = [.msix 3 0x1000 7] ∧ (vectors []).host.lastMsg.get? 3 = none := by decide
theorem test_msix_gathered : let s := { vectors [] with host := { (vectors []).host with lastMsg := [(3, 0)] } }
    let s := set [(Reg.HST_CTRL, F.HST_CTRL_COAL, 100)] s
    (s.msixRaise 3).host.gathered = [3] ∧ (s.msixRaise 3).out = [] := by decide
theorem test_msixUnmask : (after (.msixUnmask (some 4)) (vectors [4])).out = [.msix 4 0x2000 8] ∧ (after (.msixUnmask (some 4)) (vectors [4])).host.pba = [] := by
  decide
theorem test_msixUnmask_function : let s := vectors [3, 4]
    (after (.msixUnmask none) { s with host := { s.host with funcMask := true } }).out = [.msix 3 0x1000 7] ∧
      (after (.msixUnmask none) { s with host := { s.host with funcMask := true } }).host.pba = [4] := by decide
theorem test_msixCoalesceExpiry : let s := { vectors [] with host := { (vectors []).host with gathered := [3], lastMsg := [(3, 0)] } }
    (after .msixCoalesceExpiry (set [(Reg.HST_CTRL, F.HST_CTRL_COAL, 0)] s)).out = [.msix 3 0x1000 7] ∧
      (after .msixCoalesceExpiry (set [(Reg.HST_CTRL, F.HST_CTRL_COAL, 9)] s)).host.gathered = [3] := by decide
theorem test_evqEnable : let t := after (.evqEnable 2 0x80000008) hostState
    t.flag (Reg.HST_EVQ_CTRL 2) F.HST_EVQ_CTRL_EN = true ∧ t.fld (Reg.HST_EVQ_CTRL 2) F.HST_EVQ_CTRL_LOG2 = 8 ∧
      (after (.evqEnable 2 0x80000009) t).fld (Reg.HST_EVQ_CTRL 2) F.HST_EVQ_CTRL_LOG2 = 8 := by decide
def event9 : Event := { code := 7, tag := 3, sev := 1, tick := 5, subject := 9, detail := zeros 12 }
def evq (b : Nat) : State := (evqCtrl hostState 2 0x80000006).setReg (Reg.HST_EVQ_BASE_LO 2) b
theorem test_evqPut : let t := (evqPut (evq 0x10000) 2 event9).1
    homeRead t 0x10000 32 = event9.bytes ∧ fld (homeRead t (0x10000 + 32 * 64) 64) 0 4 = 1 ∧ t.host.evqIdx = [(2, 1)] := by decide
theorem test_evqPut_full : let s := { evq 0x10000 with host := { (evq 0).host with evqIdx := [(2, 63)] } }
    (evqPut s 2 event9).1.reg (Reg.HST_EVQ_LOST 2) = 1 ∧ (evqPut s 2 event9).1.mem = [] ∧
      (evqPut s 2 event9).1.flag Reg.GLB_SUMMARY F.GLB_SUMMARY_EVQ_OVF = true := by decide

/-! ### Clocks and crossings -/

def relocking (f : Nat) : State := { base with clk := { base.clk with shift := .relock f } }
theorem test_pllRelockComplete : let s := { relocking 40 with grm := { base.grm with varith := 750 } }
    let t := after .pllRelockComplete s
    s.gait = 0 ∧ s.held = false ∧ t.clk.shift = .none ∧ t.fld Reg.CLK_ARITH F.CLK_ARITH_SRC = 0 ∧ t.fld Reg.CLK_ARITH F.CLK_ARITH_FREQ = 40 := by decide
/-- At WALK a finished relock leaves ARITH on PLL B. -/
theorem test_pllRelock_walk : let t := after .pllRelockComplete (set [(Reg.PWR_STATUS, F.PWR_STATUS_GAIT, 3)] (relocking 40))
    t.clk.pllA = 40 ∧ t.fld Reg.CLK_ARITH F.CLK_ARITH_SRC = 1 ∧ t.fld Reg.CLK_ARITH F.CLK_ARITH_FREQ = 12 := by decide
theorem test_chipRelease : let s := set [(Reg.PWR_STATUS, F.PWR_STATUS_GAIT, 3)] { State.reset with running := true }
    let t := after .chipRelease s
    s.held = true ∧ t.held = false ∧ t.phase = 2 ∧ t.reg Reg.CLK_STATUS % 65536 = 0xFFFF ∧ t.fld Reg.CLK_ARITH F.CLK_ARITH_FREQ = 12 := by decide
theorem test_crossingTimeout : let t := after (.crossingTimeout 1 2 3 77) base
    t.reg Reg.CLK_XTMO_INFO = 0x12030000 ∧ t.reg Reg.CLK_XTMO_CNT = 1 ∧ t.clk.closed = [⟨1, 2, 3, false⟩] ∧
      t.far.events.map (fun e => (e.tag, e.code, e.subject)) = [(Tag.clk, 1, 77)] := by decide
theorem test_crossing_arith : (after (.crossingTimeout 0 1 5 0) base).stallFailed 5 = true := by decide
theorem test_crossing_shut : let s := { base with clk := { base.clk with closed := [⟨1, 2, 3, false⟩] } }
    exec (.crossingTimeout 1 2 3 0) s = .next s := by rfl
theorem test_crossing_parked : let s := { base with clk := { base.clk with stable := .stabled } }
    exec (.crossingTimeout 1 2 3 0) s = .next s ∧ exec (.crossingTimeout 4 4 0 0) s = .next s := ⟨rfl, rfl⟩
/-- BAR2 reads at the host port end with an answer when the crossing to HARNESS closes. -/
theorem test_crossing_reads : let s := { base with host := { base.host with reads := [{ base := 1, tag := 9, len := 4, entry := 0, addr := 0, parts := [], hostLive := true, failed := false }] } }
    let t := after (.crossingTimeout 4 3 0 0) s
    t.host.reads = [] ∧ t.out = [.readCompletion 9 4 []] ∧ t.shut 3 4 0 = true := by decide
/-- Beyond a closed crossing a BAR0 read returns 0xFFFF_FFFF and a write is discarded. -/
def closed41 : State := { base with clk := { base.clk with closed := [⟨4, 1, 0, false⟩] } }
theorem test_barShut : (after .tickSnapshotRead closed41).out = [.readCompletion 0 0 [255, 255, 255, 255]] ∧
    exec (.registerWrite (Reg.STL_ALLOC_LOW 3) ⟨15, false⟩ 7) closed41 = .next closed41 := ⟨by decide, rfl⟩
theorem test_notice_once : exec (.resetNotice 4 1 0) (closed41.notice 4 1 0) = .next (closed41.notice 4 1 0) := by rfl
theorem test_resetNotice : let s := { base with clk := { base.clk with closed := [⟨1, 2, 3, false⟩] } }
    (after (.crossingReopen 1 2 3) s).clk.closed = [⟨1, 2, 3, false⟩] ∧ (after (.resetNotice 1 2 3) s).clk.closed = [⟨1, 2, 3, true⟩] ∧
      (after (.crossingReopen 1 2 3) (after (.resetNotice 1 2 3) s)).clk.closed = [] := by decide
def railsOn (s : State) : State := { s with grm := { s.grm with rails := .on } }
theorem test_pllLockLoss_fatal : let t := after (.pllLockLoss .mesh) (railsOn base)
    pllFatal .mesh = true ∧ t.held = true ∧ t.grm.rails = .falling 9 ∧ t.fld Reg.PWR_STATUS F.PWR_STATUS_CAUSE = 6 := by decide
theorem test_pllLockLoss_stable : let t := after (.pllLockLoss (.stable 1)) base
    t.stallFailed 16 = true ∧ t.stallFailed 31 = true ∧ t.stallFailed 32 = false ∧ t.reg Reg.CLK_LOCK_LOSS = 1 := by decide
theorem test_pllLockLoss_host : (after (.pllLockLoss .host) hostState).host.bme = false ∧ (after (.pllLockLoss .vault) (vaultAt 2)).vaultState = Vs.absent ∧
    ((after (.pllLockLoss (.harnessTx 3)) htpBase).port 3).state = .detect := by decide
theorem test_pllLockLoss_held : exec (.pllLockLoss .host) State.reset = .next State.reset := by rfl
def shadowed : State := { base with grm := { base.grm with shadow := [(Reg.GRM_RULE_CFG 2, 0x33)], filters := [(2, ⟨5, [5]⟩)] } }
theorem test_pllLockLoss_groom : let t := after (.pllLockLoss .groom) shadowed
    t.reg (Reg.GRM_RULE_CFG 2) = 0x33 ∧ t.grm.filters = [] ∧ t.held = false ∧ (shadowed.grm.shadow.map (·.1)).Nodup := by decide

/-! ### Tack image -/

/-- FIPS 180-4: SHA-512 of "abc". -/
theorem test_sha512 : beNat (sha512 [0x61, 0x62, 0x63]) =
    0xddaf35a193617abacc417349ae20413112e6fa4e89a97ea20a9eeee64b55d39a2192992a274fc1a836ba3c23a3feebbd454d4423643ce80e2a9ac94fa54ca49f := by
  decide

/-- A sound header: image length, sections, OVERRIDE and SVN, with the directory given from byte 1,024. -/
def preOf (len nsect ovr svn : Nat) (dir : Bytes) : Bytes :=
  padTo 5632 (toLE 4 0x4B434154 ++ toLE 2 1 ++ toLE 2 1024 ++ toLE 4 len ++ toLE 1 nsect ++ toLE 1 0 ++ toLE 2 ovr ++ toLE 4 svn ++
    toLE 2 3 ++ toLE 1 2 ++ toLE 1 1 ++ zeros 968 ++ toBE 4 65537 ++ zeros 28 ++ dir)
def entryOf (type flags inst version off len : Nat) (dg : Bytes) : Bytes :=
  toLE 1 type ++ toLE 1 flags ++ toLE 1 inst ++ zeros 1 ++ toLE 4 version ++ toLE 4 off ++ toLE 4 len ++ zeros 48 ++ padTo 64 dg
def endEntry (dg : Bytes) : Bytes := entryOf Tag.far 1 0 5 5632 16 dg
def goodPre : Bytes := preOf 5648 1 3 9 (endEntry (sha512 (zeros 16)))
def starting (phase : Nat) (x : Tack) : State := set [(Reg.TCK_STATUS, F.TCK_STATUS_PHASE, phase), (Reg.GLB_SUMMARY, F.GLB_SUMMARY_READY, 0)] { base with tck := x }
def failCode (t : State) : Nat × Nat × Bool := (t.phase, t.fld Reg.TCK_STATUS F.TCK_STATUS_ERR, t.tck.retry)

theorem test_header : headerOk goodPre = true ∧ headerOk (patch goodPre 0 [0]) = false ∧ Tk.svn goodPre = 9 ∧ Tk.nodeLo goodPre = 3 ∧
    Tk.ovrLinks goodPre = true := by decide
theorem test_directory : directoryBad goodPre = none ∧ directoryBad (preOf 5648 1 0 9 (entryOf Tag.far 1 0 5 5632 24 [])) = some 0 ∧
    directoryBad (preOf 5648 1 0 9 (entryOf Tag.asy 1 0 5 5632 16 [])) = some 0 := by decide
theorem test_lengthCheck : lengthCheck base goodPre false = 0 ∧ lengthCheck base goodPre true = 11 ∧
    lengthCheck base (preOf 5648 33 0 0 []) false = 2 ∧
      lengthCheck (set [(Reg.GLB_NODE, F.GLB_NODE_STRAP, 63)] base) (patch goodPre 20 [0xFF, 3]) false = 11 := by decide
theorem test_checksPass : Config.secureForce = false → ChecksPass base goodPre := fun h => .inl (by
  have : base.flag Reg.GLB_STRAP F.GLB_STRAP_SECURE = false := by decide
  simp [State.secure, h, this])

def straps (role tack : Fin 4) : Straps := ⟨some role, some tack, some 5, some false, some 1, none, some true⟩
def lowReset : State := { State.reset with grm := { State.reset.grm with rails := .on } }
theorem test_ncResetLRise : let t := after (.ncResetLRise (straps 0 1) 1000000) lowReset
    t.phase = 1 ∧ t.running = true ∧ t.fld Reg.GLB_NODE F.GLB_NODE_STRAP = 5 ∧ t.fld Reg.GLB_STRAP F.GLB_STRAP_EFF_GAIT = 1 ∧
      t.flag (Reg.HLK_CTRL 3) F.HLK_CTRL_EN = true ∧ t.flag (Reg.HLK_CTRL 4) F.HLK_CTRL_EN = false := by decide
theorem test_ncResetLRise_fault : let t := after (.ncResetLRise (straps 3 1) 1000000) lowReset
    t.held = true ∧ t.running = false ∧ t.alert = true ∧ t.grm.rails = .falling 9 ∧ (t.groomLog.map fun e => (e.tag, e.code)) = [(Tag.grm, 3)] := by decide
/-- Table TCK-1's pulls: ROLE reads 3, a strap fault, which valid straps at the next rise end with the rails off. -/
def faulted : State := { State.reset with grm := { State.reset.grm with rails := .off, strapFault := true } }
theorem test_ncResetLRise_pulls : (after (.ncResetLRise ⟨none, none, none, none, none, none, none⟩ 0) faulted).grm.strapFault = true ∧
    (after (.ncResetLRise (straps 0 1) 0) faulted).grm.strapFault = false ∧ (after (.ncResetLRise (straps 0 1) 0) faulted).running = false := by
  decide
theorem test_ncResetLRise_early : (after (.ncResetLRise (straps 0 1) 999999) lowReset).running = false := by decide
theorem test_ncResetLAssert : let s := { railsOn base with mem := [(5, 1)] }
    let t := after .ncResetLAssert { s with grm := { s.grm with resetHigh := true }, asy := { s.asy with svnMin := 3 } }
    t.mem = [] ∧ t.held = true ∧ t.asy.svnMin = 3 ∧ t.grm.rails = .on ∧ t.fld Reg.PWR_GAIT F.PWR_GAIT_REQ = 3 := by decide
theorem test_hbmInitComplete : (after .hbmInitComplete { base with mem := [(5, 1)] }).mem = [] ∧ base.tck.hbmReady = false := by decide
theorem test_preambleRead_fault : failCode (after (.preambleReadComplete .poisoned) (starting 3 { reading := true })) = (15, 10, true) ∧
    SourceOpen (starting 3 { reading := true }) := by unfold SourceOpen; decide
theorem test_preambleRead_header : failCode (after (.preambleReadComplete (.data [])) (starting 3 { reading := true })) = (15, 1, true) := by decide
theorem test_preambleRead_length : failCode (after (.preambleReadComplete (.data (preOf 100 1 0 0 []))) (starting 3 { reading := true })) =
    (15, 2, true) := by decide
theorem test_preambleRead_idle : exec (.preambleReadComplete .timeout) (starting 3 {}) = .next (starting 3 {}) := by rfl
def fetching : State := starting 4 { reading := true, hbmReady := true, preamble := goodPre }
theorem test_fetch_fault : failCode (after (.fetchComplete .timeout) fetching) = (15, 10, true) := by decide
theorem test_fetch_premises : goodPre.length = 5632 ∧ Tk.imageLen goodPre = 5648 ∧ (usedEntries goodPre).map (fun e => (Tk.offset e.2, Tk.length e.2)) =
    [(5632, 16)] ∧ (usedEntries goodPre).map (fun e => Tk.digest e.2 == sha512 (slice (goodPre ++ zeros 16) 5632 16)) = [true] := by decide
theorem test_fetch_bad : (usedEntries goodPre).map (fun e => Tk.digest e.2 == sha512 (slice (goodPre ++ [1]) 5632 1 ++ zeros 15)) = [false] := by decide
theorem test_fetch_lines : LinesGood fetching stageBase 5648 := linesGood_calm _ _ _ (by decide) rfl

/-- One WRITE record of FAR_CTRL-range dword `a`, then END. -/
def record9 (a d : Nat) : Bytes := toLE 4 1 ++ toLE 4 1 ++ toLE 8 a ++ toLE 8 d ++ zeros 16
def staged9 (bs : Bytes) (type : Nat) : State :=
  let s := starting 5 { hbmReady := true, preamble := preOf 5672 1 0 0 (entryOf type 0 0 5 5632 bs.length []) }
  { s with mem := Memory.write [] (stageBase + 5632) bs }
theorem test_checkComplete : let t := after .checkComplete (staged9 (record9 (Reg.FAR_ROUTE 2) 0x80000005) Tag.far)
    t.phase = 6 ∧ t.tck.todo = [] ∧ t.reg (Reg.FAR_ROUTE 2) = 0x80000005 ∧ t.reg Reg.TCK_SECT_APPLIED = 1 ∧ t.tck.portsHeld = false := by decide
theorem test_checkComplete_bad : let t := after .checkComplete (staged9 (record9 0x300000 7) Tag.far)
    failCode t = (15, 8, true) ∧ t.fld Reg.TCK_FAIL_INFO F.TCK_FAIL_INFO_ENTRY = 0 := by decide

/-- A WAIT for GLB_SUMMARY masked by 1 to equal 1, TIMEOUT in microseconds, then END. -/
def waitRec (want tmo : Nat) : Bytes :=
  toLE 4 6 ++ toLE 4 4 ++ toLE 8 (Reg.FAR_ROUTE 2) ++ toLE 4 1 ++ toLE 4 want ++ toLE 4 tmo ++ zeros 20
def waitState (want : Nat) (reload : Bool) : State :=
  let s := starting 6 { waitAt := some 0, reload := reload, todo := [⟨2, entryOf Tag.far 1 0 5 5632 48 [], stageBase⟩] }
  { s with mem := Memory.write [] stageBase (waitRec want 0) }
theorem test_tackWaitMet : let t := after .tackWaitMet (waitState 0 false)
    waitMet (waitState 0 false) ((waitRec 0 0).take 16) (slice (waitRec 0 0) 16 16) = true ∧ t.tck.todo = [] ∧ t.tck.portsHeld = false ∧
      exec .tackWaitMet base = .next base := ⟨by decide, by decide, by decide, rfl⟩
theorem test_tackWaitTimeout : let t := after .tackWaitTimeout (waitState 1 false)
    failCode t = (15, 9, false) ∧ t.fld Reg.TCK_FAIL_INFO F.TCK_FAIL_INFO_ENTRY = 2 := by decide
theorem test_tackWaitTimeout_reload : let t := after .tackWaitTimeout (waitState 1 true)
    t.fld Reg.TCK_STATUS F.TCK_STATUS_RERR = 9 ∧ t.reg Reg.TCK_RELOAD_FAIL = 1 := by decide

theorem test_applyComplete_layout : let t := after .applyComplete (starting 6 { preamble := goodPre })
    failCode t = (15, 16, false) ∧ t.fld Reg.GLB_NODE F.GLB_NODE_IMAGE = 3 := by decide
/-- A P-role module's ranges one after another from 2 GiB. -/
def laid : State :=
  let s := { starting 6 { preamble := goodPre } with role := roleP }
  let s := [(Reg.LDG_CTX_BASE_LO, 0x80000000), (Reg.HTP_RX_BASE_LO, 0x88000000), (Reg.HTP_TX_BASE_LO, 0x8C000000), (Reg.HTP_MC_BASE_LO, 0x8D000000),
    (Reg.TEM_MAP_BASE_LO, 0x8E000000), (Reg.TEM_STAGE_BASE_LO, 0xA0000000), (Reg.PKH_VQ_BASE_LO, 0xA8000000)].foldl (fun s x => s.setReg x.1 x.2) s
  set [(Reg.COU_CONN_CAP, F.COU_CONN_CAP_CONN, 0), (Reg.COU_EXT_CAP, F.COU_EXT_CAP_EXT, 0), (Reg.GLB_STRAP, F.GLB_STRAP_EFF_GAIT, 1)] s
theorem test_layoutOk : layoutOk laid = true ∧ layoutOk (laid.setReg Reg.HTP_RX_BASE_LO 0x87FFC000) = false := by decide
theorem test_applyComplete : let t := after .applyComplete laid
    let u := after .pllRelockComplete (after .varithRampComplete t)
    t.ready = false ∧ t.clk.shift = .ramp ∧ u.ready = true ∧ u.phase = 7 ∧ t.locked = true ∧ (t.stall 5).service = .inService ∧ t.fld Reg.PWR_GAIT F.PWR_GAIT_REQ = 1 := by decide
theorem test_tckStart : let s := set [(Reg.GLB_STRAP, F.GLB_STRAP_TACK, 2)] (starting 3 {})
    (after (.tckStart 0x80000001) s).tck.reading = true ∧ (after (.tckStart 0x80000002) s).tck.reading = false ∧
      (after (.tckStart 0x80000001) (starting 15 { retry := true })).phase = 3 ∧ (after (.tckStart 0x80000001) (starting 15 {})).phase = 15 := by decide

/-! Live reload -/

theorem test_tckReload_ignored : (after (.tckReload 0x40000003 .timeout) base).tck = base.tck ∧
    (after (.tckReload 0x40000000 .timeout) (set [(Reg.TCK_STATUS, F.TCK_STATUS_BUSY, 1)] base)).reg Reg.TCK_RELOAD_FAIL = 0 := by decide
def serving : State := set [(Reg.TCK_STATUS, F.TCK_STATUS_BUSY, 0)] base
theorem test_tckReload_source : let t := after (.tckReload 0x40000000 .timeout) serving
    serving.ready = true ∧ t.fld Reg.TCK_STATUS F.TCK_STATUS_RERR = 10 ∧ t.flag Reg.TCK_STATUS F.TCK_STATUS_DONE = true ∧ t.reg Reg.TCK_RELOAD_FAIL = 1 := by
  decide
theorem test_tckReload_header : (after (.tckReload 0x40000000 (.data [])) serving).fld Reg.TCK_STATUS F.TCK_STATUS_RERR = 1 ∧
    (after (.tckReload 0x40000000 (.data goodPre)) serving).fld Reg.TCK_STATUS F.TCK_STATUS_RERR = 11 := by decide
/-- The image names the node of the image in force, and entry 0 is selected. -/
def reloading : State := set [(Reg.GLB_NODE, F.GLB_NODE_IMAGE, 3)] (serving.setReg Reg.TCK_SEL 1)
theorem test_reload_premises : lengthCheck reloading goodPre true = 0 ∧ selectionBad reloading 1 [(0, Tk.entry goodPre 0)] = none ∧
    ((List.range 32).filter fun k => bit (reloading.reg Reg.TCK_SEL) k) = [0] ∧ Tk.digest (Tk.entry goodPre 0) = sha512 (zeros 16) ∧
    slice (goodPre ++ zeros 16) 5632 16 = zeros 16 ∧ calm reloading = true := by decide
theorem test_selectionBad : selectionBad reloading 1 [(0, entryOf Tag.far 0 0 5 5632 16 [])] = some (13, 0) ∧
    selectionBad (set [(Reg.TCK_SECT_INFO 0, F.TCK_SECT_INFO_VALID, 1), (Reg.TCK_SECT_INFO 0, F.TCK_SECT_INFO_TYPE, Tag.far)]
      (reloading.setReg (Reg.TCK_SECT_VERSION 0) 6)) 1 [(0, Tk.entry goodPre 0)] = some (12, 0) := by decide
/-- A reload from host memory waits while HBM is parked. -/
theorem test_tckReload_parked : (reloadGo { reloading with clk := { reloading.clk with stable := .stabled } } 2 .timeout).tck.reloadWait =
    some (2, .timeout) := by decide

/-! ### Power and the groom -/

theorem test_groomPowerUp : let s := { base with grm := { base.grm with up := false } }
    (after .groomPowerUp s).grm.up = true ∧ (after .groomPowerUp s).fld Reg.PWR_STATUS F.PWR_STATUS_RAIL_PG = 3 ∧
      exec .groomPowerUp base = .next base := ⟨by decide, by decide, rfl⟩
theorem test_groomPowerLoss : let t := after .groomPowerLoss { railsOn base with asy := { base.asy with svnMin := 4 } }
    t.grm.up = false ∧ t.held = true ∧ t.asy.svnMin = 4 ∧ t.out = [.pin "MOD_PWRGD" false] := by decide
/-- The start level: 40.0 V, above RESET + 2.0 V. -/
theorem test_inputStartLevel : (after (.inputStartLevel 4000) base).grm.rails = .rising 2 ∧ exec (.inputStartLevel 3999) base = .next base :=
  ⟨by decide, rfl⟩
def rising (k : Nat) (pg : Nat) : State :=
  set [(Reg.PWR_STATUS, F.PWR_STATUS_RAIL_PG, pg)] { base with grm := { base.grm with rails := .rising k } }
theorem test_railPowerGood : (after (.railPowerGood 4) (rising 4 0xF)).grm.rails = .rising 5 ∧
    (after (.railPowerGood 9) (rising 9 0x1FF)).grm.rails = .on ∧ (after (.railPowerGood 9) (rising 9 0x1FF)).out = [.pin "MOD_PWRGD" true] := by decide
theorem test_railFault : let t := after (.railFault 6 4800) (railsOn base)
    t.grm.rails = .falling 9 ∧ t.grm.hold = true ∧ t.fld Reg.PWR_STATUS F.PWR_STATUS_CAUSE = 3 ∧ t.held = true ∧ t.alert = true ∧
      (t.groomLog.map fun e => (e.tag, e.code, e.detail.take 2)) = [(Tag.pwr, 3, [3, 6]), (Tag.pwr, 4, [0, 3])] := by decide
theorem test_railDisableStep : (after .railDisableStep { base with grm := { base.grm with rails := .falling 9 } }).grm.rails = .falling 8 ∧
    (after .railDisableStep { base with grm := { base.grm with rails := .falling 2 } }).grm.rails = .off := by decide
theorem test_shutdownHoldRelease : let s := { base with grm := { base.grm with hold := true } }
    (after (.shutdownHoldRelease 10000 10000000) s).grm.rails = .rising 2 ∧ exec (.shutdownHoldRelease 9999 10000000) s = .next s :=
  ⟨by decide, rfl⟩
theorem test_undervoltage : let s := set [(Reg.PWR_BROWN, F.PWR_BROWN_RESET, 380)] (railsOn base)
    (after (.undervoltage 3799) s).fld Reg.PWR_STATUS F.PWR_STATUS_CAUSE = 1 ∧ exec (.undervoltage 3800) s = .next s := ⟨by decide, rfl⟩
theorem test_overvoltage : (after (.overvoltage 6101) (railsOn base)).fld Reg.PWR_STATUS F.PWR_STATUS_CAUSE = 2 ∧
    exec (.overvoltage 6100) (railsOn base) = .next (railsOn base) := ⟨by decide, rfl⟩
theorem test_thermalTrip : let s := railsOn { base with grm := { base.grm with overs := [(3, 10)] } }
    (after .thermalTrip s).fld Reg.PWR_STATUS F.PWR_STATUS_CAUSE = 4 ∧ exec .thermalTrip base = .next base := ⟨by decide, rfl⟩
theorem test_railsUp : RailsUp (railsOn base) ∧ ¬ RailsUp base :=
  ⟨.inl rfl, fun h => h.elim (fun h => absurd h (by decide)) fun ⟨k, h⟩ => nomatch (show Rails.off = Rails.rising k from h)⟩

theorem test_clockQuiet : ClockQuiet base ∧ NothingHeld base := by unfold ClockQuiet NothingHeld; decide
theorem test_gaitRequest : let t := after (.gaitRequest 3) base
    t.gait = 3 ∧ t.reg Reg.PWR_GAIT_CHANGES = 1 ∧ t.fld Reg.CLK_ARITH F.CLK_ARITH_SRC = 1 ∧ t.fld Reg.CLK_ARITH F.CLK_ARITH_FREQ = 12 ∧
      t.grm.varith = 600 := by decide
theorem test_gaitRequest_stabled : (after (.gaitRequest 4) base).clk.stable = .entering ∧
    (after (.gaitRequest 5) base).fld Reg.PWR_GAIT F.PWR_GAIT_REQ = 0 := by decide
/-- From WALK to CANTER: VARITH ramps to 650 or 700 mV, then PLL A relocks. -/
def walking : State :=
  set [(Reg.PWR_STATUS, F.PWR_STATUS_GAIT, 3), (Reg.PWR_GAIT, F.PWR_GAIT_REQ, 3)] base
theorem test_gaitRequest_ramp : (after (.gaitRequest 1) walking).clk.shift = .ramp ∧
    (after .varithRampComplete (after (.gaitRequest 1) walking)).clk.shift = .relock 32 ∧
    (after .varithRampComplete (after (.gaitRequest 1) walking)).grm.varith = 700 := by decide
theorem test_stabledEntry : let s := { base with clk := { base.clk with stable := .entering } }
    let t := after .stabledEntryComplete s
    nothingRuns s = true ∧ t.clk.stable = .stabled ∧ t.flag Reg.CLK_ARITH F.CLK_ARITH_PARKED = true ∧ t.grm.varith = 550 := by decide
theorem test_stabledExit : let t := after .stabledExitComplete { base with clk := { base.clk with stable := .exiting } }
    t.clk.stable = .none ∧ t.fld Reg.CLK_ARITH F.CLK_ARITH_FREQ = 40 ∧ t.grm.varith = 750 := by decide
/-- The example: 42.5 V begins a hold at GALLOP; at its end the minimum was 37.40 V after 110 µs. -/
theorem test_brownout : let t := after (.brownoutWarn 4250) base
    t.browned = true ∧ t.gait = 3 ∧ t.reg Reg.PWR_HOLDS = 1 ∧ t.grm.varith = base.grm.varith ∧
      (t.groomLog.map fun e => (e.code, e.detail.take 4)) = [(4, [0, 3, 2, 0]), (1, [0, 0, 0x9A, 0x10])] := by decide
theorem test_brownoutRecover : let s := set [(Reg.PWR_STATUS, F.PWR_STATUS_HOLD, 1), (Reg.PWR_STATUS, F.PWR_STATUS_GAIT, 3)] base
    let t := after (.brownoutRecover ⟨3740, 4600⟩ ⟨50000, 110⟩) s
    exec (.brownoutRecover ⟨3740, 10 * (s.fld Reg.PWR_BROWN F.PWR_BROWN_WARN + s.fld Reg.PWR_BROWN F.PWR_BROWN_HYST)⟩ ⟨50000, 110⟩) s = .next s ∧ t.browned = false ∧ t.gait = 0 ∧ (t.groomLog.map fun e => (e.code, e.detail.take 4)) = [(4, [3, 0, 2, 0]), (2, [0x9C, 0x0E, 110, 0])] := ⟨rfl, by decide⟩
/-- Chapter Module's example: sensor 54 reads 570, sensor 55 reads 200; a rule on 55 with SET 180, CLR 190 caps at WALK below. -/
def samples9 (flow : Nat) : Bytes := zeros 108 ++ toLE 2 570 ++ toLE 2 flow ++ zeros 16
def ruled : State :=
  let c := Reg.GRM_RULE_CFG 0
  set [(Reg.GRM_CTRL, F.GRM_CTRL_EN, 1), (c, F.GRM_RULE_CFG_EN, 1), (c, F.GRM_RULE_CFG_SENSOR, 55), (c, F.GRM_RULE_CFG_DIR, 1),
    (c, F.GRM_RULE_CFG_ACT, 1), (c, F.GRM_RULE_CFG_ARG, 3), (Reg.GRM_RULE_SET 0, F.GRM_RULE_SET_LEVEL, 180),
    (Reg.GRM_RULE_CLR 0, F.GRM_RULE_CLR_LEVEL, 190)] base
theorem test_rule_valid : ruleValid ruled 0 = true ∧ ruleValid (set [(Reg.GRM_RULE_CLR 0, F.GRM_RULE_CLR_LEVEL, 179)] ruled) 0 = false := by decide
def sampled (x : Int) : State := { ruled with grm := { ruled.grm with samples := [(55, x)] } }
theorem test_rule_asserts : (ruleEval (sampled 179) 0).2 = true ∧ (ruleEval (sampled 180) 0).2 = false ∧
    bit ((ruleEval (sampled 179) 0).1.reg Reg.GRM_ASSERTED) 0 = true ∧ ruleCap (ruleEval (sampled 179) 0).1 = 3 := by decide
theorem test_filterStep : (filterStep 2 0 (some ⟨0, [9, 4]⟩) 5).y = 5 ∧ (filterStep 1 127 (some ⟨0, []⟩) 100).y = 50 ∧ (filterStep 1 0 none 7).y = 7 := by
  decide
theorem test_groomSamplePeriod_off : let s := { base with grm := { base.grm with up := false } }
    exec (.groomSamplePeriod []) s = .next s := by rfl
/-- A stack whose PLL is not locked reads −32,768; one whose PLL is locked reads its sample. -/
theorem test_stackDown : let s := base.setReg Reg.CLK_STATUS 0xFDFF
    sampleOf s (zeros 128) 0 33 = -32768 ∧ sampleOf s (zeros 128) 0 34 = 0 := by decide

/-! ### Farrier -/

def event1 (sev : Nat) : Event := { code := 1, tag := 3, sev := sev, tick := 5, subject := 9, detail := zeros 12 }
/-- TAG 3 is routed to queue 2 from severity 1 on, and queue 2 is enabled. -/
def routing (sev : Nat) : State :=
  let s := set [(Reg.FAR_ROUTE 2, F.FAR_ROUTE_EN, 1), (Reg.FAR_ROUTE 2, F.FAR_ROUTE_MINSEV, 1), (Reg.FAR_ROUTE 2, F.FAR_ROUTE_QUEUE, 2),
    (Reg.FAR_CTRL, F.FAR_CTRL_FATAL_Q, 4)] (evq 0x10000)
  { s with far := { s.far with events := [event1 sev] } }
theorem test_evqOpen : EvqOpen (routing 1) 2 := by unfold EvqOpen; decide
theorem test_eventDeliver : let t := after .eventDeliver (routing 1)
    t.far.events = [] ∧ t.host.evqIdx = [(2, 1)] ∧ homeRead t 0x10000 32 = (event1 1).bytes := by decide
theorem test_eventDeliver_low : (after .eventDeliver (routing 0)).mem = [] ∧ (after .eventDeliver (routing 0)).far.events = [] ∧
    exec .eventDeliver base = .next base := ⟨by decide, by decide, rfl⟩
theorem test_eventDeliver_disabled : let s := set [(Reg.HST_EVQ_CTRL 2, F.HST_EVQ_CTRL_EN, 0)] (routing 1)
    (after .eventDeliver s).reg Reg.FAR_EV_DROP = 1 := by decide
/-- FATAL: its route's queue and FATAL_Q, which is disabled, and the groom log. -/
theorem test_eventDeliver_fatal : let t := after .eventDeliver (routing Sev.fatal)
    t.groomLog = [event1 Sev.fatal] ∧ t.reg Reg.FAR_EV_DROP = 1 ∧ t.host.evqIdx = [(2, 1)] := by decide

/-- An owner word of a KV page: KIND 1, the root page, pair 0, FIRST 2. -/
def ownerBytes (kind : Nat) : Bytes := toLE 4 (page5 20) ++ toLE 2 0 ++ toLE 1 kind ++ zeros 1 ++ toLE 4 2 ++ zeros 4
def damagedPage (kind : Nat) : State :=
  let s := filled.setReg Reg.FAR_OWNER_BASE_LO 0x20000000
  let s := { s with mem := Memory.write s.mem (s.ownerBase + 16 * page5 23) (ownerBytes kind) }
  { s with far := { s.far with toResolve := [page5 23] } }
theorem test_farPageResolve : let t := after .farPageResolve (damagedPage 1)
    ((entryAt t root5 0 2).2.map fun x => ptePoison x.2.2.1) = some true ∧ t.reg Reg.FAR_POISONED = 1 ∧ t.far.toResolve = [] ∧
      (t.far.events.map fun e => (e.tag, e.code, e.subject)) = [(Tag.far, 3, 5)] := by decide
theorem test_farPageResolve_premises : let s := taken (damagedPage 1) (page5 23) []
    (ownerWord s (page5 23)).2 = (St.ok, ownerBytes 1) ∧ (entryAt s root5 0 2).2 = some (rootBytes 7 0 0 1 noPage 0, 1, pte5 3 23, false) ∧
      fld (ownerBytes 1) 0 4 * pageBytes = root5 ∧ s.role = roleC ∧ NoneDue s := by unfold NoneDue; decide
theorem test_farPageResolve_free : let t := after .farPageResolve (damagedPage 0)
    t.reg Reg.FAR_POISONED = 0 ∧ t.mem = (damagedPage 0).mem ∧ t.far.resolved = [page5 23] := by decide
def reclaiming (p : Nat) : State := { base with far := { base.far with toReclaim := [p] }, stalls := [(5, { service := .inService })] }
theorem test_poisonedPageReclaim : (page5 40 + 1) * pageBytes ≤ hbmBytes ∧ page5 40 / stallPages = 5 ∧ (reclaiming (page5 40)).stallFailed 5 = false ∧
    NoneDue (reclaiming (page5 40)) ∧ (([] : List Nat).length + [3].length < 4096) := by unfold NoneDue; decide
theorem test_poisonedPage_failed : let s := { reclaiming (page5 40) with stalls := [(5, { service := .failed })] }
    (after (.poisonedPageReclaim []) s).far.toReclaim = [] ∧ s.stallFailed 5 = true := by decide

/-- Chapter Farrier's example: offset 0x14_D4E2_1A40 lies in page 5,460,872, the 5,001st page of stall 37, on pseudo-channel 74
of stack S2. -/
def line37 : Nat := 0x14D4E21A40 / 64
def at37 (m : List (Nat × LineMark)) : State :=
  set [(Reg.FAR_CTRL, F.FAR_CTRL_SCRUB_EN, 1)]
    { base with marks := m, far := { base.far with scrubAt := [(37, line37 - 37 * stallLines)] } }
theorem test_example_line : 0x14D4E21A40 / pageBytes = 5460872 ∧ 5460872 % stallPages = 5000 ∧ homeStall 0x14D4E21A40 = 37 ∧ stackOf 37 = 2 ∧
    pseudoChannel 0x14D4E21A40 = 74 ∧ scrubNext (at37 []) 37 = line37 := by decide
theorem test_scrubOn : ScrubOn (at37 []) 37 ∧ BelowLimit (at37 []) 37 := by unfold ScrubOn BelowLimit NoneDue; decide
theorem test_scrubLine_ue : let t := after (.scrubLine 37 2) (at37 [])
    t.marks = [(line37, .poison)] ∧ t.reg Reg.FAR_UE = 1 ∧ t.far.toResolve = [5460872] ∧
      (t.far.events.map fun e => (e.tag, e.code, e.subject, e.detail.take 3)) = [(Tag.far, 2, 0x14D4E21A40, [2, 74, 1])] := by decide
theorem test_scrubLine_ce : (after (.scrubLine 37 1) (at37 [])).reg Reg.FAR_CE = 1 ∧ (after (.scrubLine 37 1) (at37 [])).marks = [] ∧
    (after (.scrubLine 37 0) (at37 [(line37, .correctable 1)])).marks = [] := by decide
theorem test_scrubLine_poison : (after (.scrubLine 37 0) (at37 [(line37, .poison)])).marks = [(line37, .poison)] ∧
    (after (.scrubLine 37 0) (at37 [(line37, .damaged)])).marks = [(line37, .poison)] := by decide
theorem test_scrubLine_off : let s := set [(Reg.FAR_CTRL, F.FAR_CTRL_SCRUB_EN, 0)] base
    exec (.scrubLine 37 2) s = .next s := by rfl
/-- The last line of stall 37 completes its pass. -/
theorem test_scrubLine_last : let s := { at37 [] with far := { base.far with scrubAt := [(37, stallLines - 1)] } }
    (after (.scrubLine 37 0) s).far.scrubDone = [37] ∧ (after (.scrubLine 37 0) s).far.scrubAt.getD 37 0 = 0 := by decide
def marked (m : LineMark) : State := { htpBase with marks := [(0x40, m)] }
def load9 : Pkt := { pkt9 Op.load 64 0x1000 [] with nocomb := true }
theorem test_load_poisoned : answers (after (.load 3 load9.wire) (marked .poison)) = [(Op.loadResp, 11, St.poisoned)] ∧
    answers (after (.load 3 load9.wire) (marked .damaged)) = [(Op.loadResp, 11, St.uncorrectable)] ∧
    (after (.load 3 load9.wire) (marked .damaged)).marks = [(0x40, .poison)] := by decide
def failed0 : State := { htpBase.setReg Reg.HTP_RX_BASE_LO 0x90000000 with stalls := [(0, { service := .failed })] }
theorem test_load_failed : answers (after (.load 3 load9.wire) failed0) = [(Op.loadResp, 11, St.uncorrectable)] ∧
    answers (after (.store 3 store9.wire) failed0) = [(Op.ack, 11, St.uncorrectable)] ∧ (after (.store 3 store9.wire) failed0).mem = failed0.mem := by decide
theorem test_att_buffer : let s := attState (attDesc 0 1 0)
    let t := after (.attDecode 5 (some (some true))) s
    (t.work 5).run.map (·.status) = [St.uncorrectable] ∧ (t.work 5).att = [] ∧ ((t.fmtUnit 5).slot true).valid = false := by decide

/-! ### Assay -/

/-- READY and signed, TCK_SVN 3, no command running. -/
def signed : State :=
  set [(Reg.TCK_STATUS, F.TCK_STATUS_UNSIGNED, 0)] { base.setReg Reg.TCK_SVN 3 with tck := { base.tck with keySlot := 1 } }
def fuseSt (t : State) : Nat × Bool := (t.fld Reg.ASY_STATUS F.ASY_STATUS_FUSE_STATUS, t.flag Reg.ASY_STATUS F.ASY_STATUS_FUSE_BUSY)
theorem test_fuseOpen : FuseOpen signed := by unfold FuseOpen; decide
theorem test_svnAdvance : (after .svnAdvance signed).asy.fuse.map (fun f => f.op == 1 && f.upTo == 3 && f.last == 0) = some true ∧ (fuseSt (after .svnAdvance signed)).2 = true :=
  ⟨by decide, by decide⟩
theorem test_svnAdvance_none : fuseSt (after .svnAdvance { signed with asy := { signed.asy with svnMin := 3 } }) = (St.noEffect, false) := by decide
theorem test_svnAdvance_rights : fuseSt (after .svnAdvance (set [(Reg.GLB_SUMMARY, F.GLB_SUMMARY_READY, 0)] signed)) = (St.rights, false) ∧
    fuseSt (after .svnAdvance (set [(Reg.TCK_STATUS, F.TCK_STATUS_UNSIGNED, 1)] signed)) = (St.rights, false) := by decide
theorem test_revokeSlot : (after (.revokeSlot 2) signed).asy.fuse = some ⟨2, 2, 0, 0⟩ ∧ fuseSt (after (.revokeSlot 1) signed) = (St.rights, false) ∧
    fuseSt (after (.revokeSlot 2) { signed with asy := { signed.asy with keyRevoke := 4 } }) = (St.noEffect, false) := by decide
def burning (op : Nat) : State := { signed with asy := { signed.asy with fuse := some ⟨op, 0, 1, 0⟩ } }
theorem test_fuseBitProgram : let s := { burning 1 with tick := 2000016 }
    0 + 2000000 ≤ s.now ∧ s.browned = false := ⟨State.le_now _ (by decide), by decide⟩
theorem test_fuseBit_early : exec (.fuseBitProgram true) (burning 1) = .next (burning 1) ∧ (burning 1).now < 0 + 2000000 := ⟨rfl, by decide⟩
theorem test_fuseBit_held : let s := set [(Reg.PWR_STATUS, F.PWR_STATUS_HOLD, 1)] (burning 2)
    s.browned = true ∧ exec (.fuseBitProgram true) s = .next s ∧ exec (.fuseBitProgram true) base = .next base := ⟨by decide, rfl, rfl⟩
theorem test_rngQualified : let s := set [(Reg.TCK_STATUS, F.TCK_STATUS_PHASE, 1)] { base with asy := { base.asy with waiting := [3] } }
    (after .rngQualified s).asy.keys.has 3 = true ∧ (after .rngQualified s).asy.waiting = [] ∧
      (after .rngQualified s).flag Reg.ASY_STATUS F.ASY_STATUS_RNG_OK = true ∧ exec .rngQualified State.reset = .next State.reset :=
  ⟨by decide, by decide, by decide, rfl⟩
theorem test_rngQualified_phase : (set [(Reg.TCK_STATUS, F.TCK_STATUS_PHASE, 2)] base).phase = 2 ∧ base.held = false ∧
    base.fld Reg.GLB_STRAP F.GLB_STRAP_TACK < 2 := by decide
def phase2 : State := set [(Reg.TCK_STATUS, F.TCK_STATUS_PHASE, 2)] base
theorem test_entropyTimeout : let s := { phase2 with tick := 10000016 }
    s.held = false ∧ s.phase = 2 ∧ s.clk.releasedAt + 10000000 ≤ s.now := ⟨by decide, by decide, State.le_now _ (by decide)⟩
theorem test_entropy_early : exec .entropyTimeout phase2 = .next phase2 ∧ phase2.now < phase2.clk.releasedAt + 10000000 := ⟨rfl, by decide⟩
theorem test_rngTestFail : let t := after (.rngTestFail true) (set [(Reg.ASY_STATUS, F.ASY_STATUS_RNG_OK, 1)] base)
    t.flag Reg.ASY_STATUS F.ASY_STATUS_RNG_OK = false ∧ t.reg Reg.ASY_RNG_FAILS = 1 ∧ (t.far.events.map fun e => e.detail.headD 0) = [1] := by decide

/-- Chapter Assay's example: region 0 has BASE page 147,456 and 65,536 pages; its shadow of 4,096 pages stands at page 294,912. -/
def region0 : State :=
  set [(Reg.ASY_PR_BASE 0, F.ASY_PR_BASE_VALUE, 147474), (Reg.ASY_PR_PAGES 0, F.ASY_PR_PAGES_VALUE, 65536),
    (Reg.ASY_PR_SHADOW 0, F.ASY_PR_SHADOW_VALUE, 294930)] base
theorem test_prShadow : prShadowPages region0 0 = 4096 ∧ prAllowed region0 0 = true ∧ region0.locked = false ∧ prOn region0 0 = false := by decide
/-- A page of the region is not on its stall's stack. -/
theorem test_prMayEnable : let s := set [(Reg.ASY_PR_PAGES 0, F.ASY_PR_PAGES_VALUE, 1)] region0
    PrMayEnable s 0 := ⟨by decide, by decide, by decide, by decide, by decide, fun q h _ o => absurd o (by
    have := (by decide : ∀ q, q < 16 → prOn (set [(Reg.ASY_PR_PAGES 0, F.ASY_PR_PAGES_VALUE, 1)] region0) q = false) q h
    simp [this])⟩
theorem test_prEnable : let t := after (.prEnable 0 0x80000000) region0
    prOn t 0 = true ∧ t.asy.waiting = [0] ∧ (t.stall 2).virgin.all (fun r => decide (r.2 ≤ 18) || decide (4114 ≤ r.1)) = true := by decide
theorem test_prEnable_refused : let s := set [(Reg.ASY_PR_BASE 0, F.ASY_PR_BASE_VALUE, 147456)] region0
    let t := after (.prEnable 0 0x80000000) s
    prOn t 0 = false ∧ t.flag Reg.ASY_STATUS F.ASY_STATUS_PR_ERR = true ∧ pagesFree s 147456 (147456 + 65536) = false := by decide
theorem test_prEnable_locked : let s := set [(Reg.GLB_LOCK, F.GLB_LOCK_LOCK, 1)] region0
    exec (.prEnable 0 0x80000000) s = .next s := by rfl
def enabled : State :=
  set [(Reg.ASY_PR_CTRL 0, F.ASY_PR_CTRL_EN, 1)]
    { region0 with asy := { region0.asy with keys := [(0, 1, 2)] }, mem := [(5, 7), (147474 * pageBytes + 3, 9)] }
theorem test_prDisable : let t := after (.prEnable 0 0) enabled
    prOn t 0 = false ∧ t.asy.keys = [] ∧ t.mem = enabled.mem := by decide
theorem test_prInitComplete : let t := after (.prInitComplete 0) enabled
    t.mem = [(5, 7)] ∧ t.flag (Reg.ASY_PR_CTRL 0) F.ASY_PR_CTRL_READY = true ∧ exec (.prInitComplete 0) region0 = .next region0 :=
  ⟨by decide, by decide, rfl⟩

/-! The management port -/

theorem test_setEndpointId : let t := after (.setEndpointId 3 0 0x21) base
    t.fld Reg.GRM_EID F.GRM_EID_EID = 0x21 ∧ t.out = [.smbus (ctlMsg 3 1 0 (asBytes [0, 0x21, 0]))] ∧
      (after (.setEndpointId 3 0 255) base).out = [.smbus (ctlMsg 3 1 2 [])] := by decide
theorem test_getEndpointId : (after (.getEndpointId 3) base).out = [.smbus (ctlMsg 3 2 0 (asBytes [0, 0, 0]))] ∧
    (after (.getMessageTypeSupport 3) base).out = [.smbus (ctlMsg 3 5 0 (asBytes [2, 5, 0x7E]))] ∧
    (after (.getMctpVersionSupport 3 9) base).out = [.smbus (ctlMsg 3 4 0x80 [])] := by decide
theorem test_groom_down : let s := { base with grm := { base.grm with up := false } }
    exec (.getEndpointUuid 3) s = .next s ∧ exec .wake s = .next s ∧ exec (.getDigests []) s = .next s := ⟨rfl, rfl, rfl⟩
/-- Sensor 54 of chapter Module's example, 570, and one negative sample. -/
theorem test_getSensors : let s := { base with grm := { base.grm with samples := [(54, 570), (55, -2)] } }
    (after (.getSensors 54 2) s).out = [.smbus (vendorMsg 0 (asBytes [0x3A, 2, 0xFE, 0xFF]))] ∧
      (after (.getSensors 54 11) s).out = [.smbus (vendorMsg 1 [])] := by decide
theorem test_getStatus : (after .getStatus base).out = [.smbus (vendorMsg 0 (toLE 4 (readReg base Reg.PWR_STATUS) ++ toLE 4 (readReg base Reg.PWR_GAIT) ++
    zeros 4))] ∧ (after .getTallies (base.setReg Reg.PWR_HOLDS 7)).out = [.smbus (vendorMsg 0 (asBytes [7] ++ zeros 15))] := by decide
theorem test_getLog : let s := { base with groomLog := [event1 2] }
    (after (.getLog 0) s).out = [.smbus (vendorMsg 0 (event1 2).bytes)] ∧ (after (.getLog 1) s).out = [.smbus (vendorMsg 0 (zeros 32))] ∧
      (after (.getLog 64) s).out = [.smbus (vendorMsg 1 [])] := by decide
def managed : State := set [(Reg.PWR_GAIT, F.PWR_GAIT_MGMT_EN, 1), (Reg.PWR_GAIT, F.PWR_GAIT_WAKE_GAIT, 2)] base
theorem test_setGait : (after (.setGait 3) managed).gait = 3 ∧ (after (.setGait 3) managed).out = [.smbus (vendorMsg 0 [])] ∧
    (after (.setGait 5) managed).out = [.smbus (vendorMsg 1 [])] ∧ (after .wake managed).gait = 2 := by decide
theorem test_setGait_off : let s := set [(Reg.PWR_GAIT, F.PWR_GAIT_MGMT_EN, 0)] base
    (after (.setGait 3) s).out = [.smbus (vendorMsg 2 [])] ∧ (after (.setGait 3) s).gait = 0 := by decide
theorem test_unsupportedMctp : (after (.unsupportedMctpRequest 0 3 9) base).out = [.smbus (ctlMsg 3 9 5 [])] ∧
    (after (.unsupportedMctpRequest 0x7E 3 9) base).out = [.smbus (vendorMsg 1 [])] := by decide

/-- The responder in a stage of its exchange. -/
def spdmAt (n : Nat) : State :=
  set [(Reg.TCK_STATUS, F.TCK_STATUS_PHASE, 7)] (railsOn { base with asy := { base.asy with spdm := { stage := n } } })
def said (t : State) : List Bytes := t.out.filterMap fun o => match o with
  | .smbus m => some m
  | _ => none
theorem test_spdmAnswers : SpdmAnswers (spdmAt 0) ∧ ¬ SpdmAnswers base :=
  ⟨⟨rfl, rfl, rfl, by decide, by decide⟩, fun h => absurd h.2.1 (by decide)⟩
theorem test_getVersion : let t := after (.getVersion (asBytes [0x10, 0x84, 0, 0])) (spdmAt 0)
    said t = [asBytes [5, 0x10, 4, 0, 0, 0, 1, 0, 0x12]] ∧ t.asy.spdm.stage = 1 ∧
      said (after (.getVersion (asBytes [0x12, 0x84, 0, 0])) (spdmAt 0)) = [asBytes [5, 0x12, 0x7F, 0x41, 0]] := by decide
theorem test_spdm_order : said (after (.getDigests (asBytes [0x12, 0x81, 0, 0])) (spdmAt 0)) = [asBytes [5, 0x12, 0x7F, 4, 0]] ∧
    said (after (.unsupportedSpdmRequest (asBytes [0x12, 0xE5, 0, 0])) (spdmAt 0)) = [asBytes [5, 0x12, 0x7F, 7, 0xE5]] := by decide
theorem test_inPlace : InPlace (spdmAt 3) (asBytes [0x12, 0x81, 0, 0]) 3 := ⟨⟨rfl, rfl, rfl, by decide, by decide⟩, by decide, by decide, by decide⟩
theorem test_getCapabilities : (after (.getCapabilities (asBytes [0x12, 0xE1, 0, 0])) (spdmAt 1)).asy.spdm.stage = 2 := by decide
def algs (asym hash : Nat) : Bytes := asBytes [0x12, 0xE3, 0, 0, 32, 0, 1, 0] ++ toLE 4 asym ++ toLE 4 hash ++ zeros 16
theorem test_negotiateAlgorithms : (after (.negotiateAlgorithms (algs 0x40 4)) (spdmAt 2)).asy.spdm.stage = 3 ∧
    said (after (.negotiateAlgorithms (algs 0x40 2)) (spdmAt 2)) = [asBytes [5, 0x12, 0x7F, 1, 0]] := by decide
theorem test_getCertificate_slot : said (after (.getCertificate (asBytes [0x12, 0x82, 1, 0, 0, 0, 0, 4])) (spdmAt 3)) = [asBytes [5, 0x12, 0x7F, 1, 0]] := by
  decide
def challenge9 (slot sum : Nat) : Bytes := asBytes [0x12, 0x83, slot, sum] ++ zeros 32
def busy : State := (spdmAt 3).updSpdm fun x => { x with signing := some ⟨0x83, [], [], 0⟩ }
theorem test_challenge : said (after (.challenge (challenge9 0 2)) (spdmAt 3)) = [asBytes [5, 0x12, 0x7F, 1, 0]] ∧
    said (after (.challenge (challenge9 0 0)) (spdmAt 3)) = [asBytes [5, 0x12, 0x7F, 5, 0]] ∧
    said (after (.challenge (challenge9 0 0)) busy) = [asBytes [5, 0x12, 0x7F, 3, 0]] ∧ (after (.challenge (challenge9 0 0)) busy).reg Reg.ASY_SPDM_BUSY = 1 := by
  decide
theorem test_challenge_open : let s := set [(Reg.ASY_STATUS, F.ASY_STATUS_RNG_OK, 1)] (spdmAt 3)
    s.flag Reg.ASY_STATUS F.ASY_STATUS_RNG_OK = true ∧ s.asy.spdm.signing.isSome = false ∧ (after (.challenge (challenge9 0 0)) s).asy.spdm.signing.isSome = true := by
  decide
theorem test_getMeasurements : said (after (.getMeasurements (asBytes [0x12, 0xE0, 0, 9])) (spdmAt 3)) = [asBytes [5, 0x12, 0x7F, 1, 0]] ∧
    said (after (.getMeasurements (asBytes [0x12, 0xE0, 0, 0])) (spdmAt 3)) = [asBytes [5, 0x12, 0x7F, 5, 0]] := by decide
theorem test_spdmSignatureComplete : (after .spdmSignatureComplete busy).asy.spdm.signing = none ∧ (after .spdmSignatureComplete busy).reg Reg.ASY_SIGNS = 1 ∧
    exec .spdmSignatureComplete base = .next base := ⟨by decide, by decide, rfl⟩

/-! ### Steps and reset -/

theorem test_step_front : step { base with pending := [.hbmInitComplete, .thermalTrip] } = exec .hbmInitComplete { base with pending := [.thermalTrip] } := by
  rfl
theorem test_step_idle : step base = .next { base with tick := 1 } ∧ step State.reset = .next State.reset ∧ NoneDue base := ⟨by rfl, by rfl, by rfl⟩
theorem test_memOk : MemOk State.reset ∧ MemOk { base with mem := [(5, 7), (9, 1)] } ∧ ¬ MemOk { base with mem := [(5, 0)] } := by unfold MemOk; decide
theorem test_withFetchWord : State.reset.withFetchWord 32 0xFFFFFFFF = State.reset := by rfl
theorem test_reset_regs : State.reset.reg (Reg.FMT_MINT_SEED 5) = 6 ∧ State.reset.reg Reg.LDG_ESCROW_RETRY = 200000 ∧
    (State.reset.port 3).state = .disabled := by decide

end Sys2Proof.Tests
end

section
/-!
PROOFS. BAR0 as a whole (R3–R7, R283): writes that are discarded, what a read shows, and the offsets that no block occupies.
-/
namespace Sys2Proof.Machine

/-! ### Discarded writes -/

/-- R6, R283: what discards a BAR0 write that is not poisoned. -/
theorem registerWrite_discarded {s : State} {off : Nat} {tlp : DwordTlp} (data : Nat) (clean : tlp.poisoned = false)
    (h : tlp.be ≠ 15 ∨ off % 4 ≠ 0 ∨ s.barShut off = true) : registerWrite s off tlp data = s := by
  unfold registerWrite
  rw [if_neg (by simp [clean]), if_pos h]

/-- A whole dword that finds no doorbell waiting is written at once, where no closed crossing discards it. -/
theorem registerWrite_whole {s : State} {off : Nat} (data : Nat) (aligned : off % 4 = 0) (reached : s.barShut off = false)
    (noBells : s.host.doorbells = []) : registerWrite s off ⟨15, false⟩ data = barWrite s off data := by
  simp [registerWrite, aligned, reached, noBells]

/-! ### Read rows -/

/-- A command that reads the dword at BAR0 offset `o` for the host. -/
def IsReadRow (c : Instr) (o : Nat) : Prop :=
  (c = .tickSnapshotRead ∧ o = Reg.GLB_TICK_LO) ∨ (c = .modidDataRead ∧ o = Reg.GLB_MODID_DATA) ∨
  (c = .tenData0Read ∧ o = Reg.RNS_TEN_DATA 0) ∨ (c = .pkhMapData0Read ∧ o = Reg.PKH_MAP_DATA 0) ∨
  (c = .pkhModelData0Read ∧ o = Reg.PKH_MODEL_DATA 0) ∨ (c = .apData0Read ∧ o = Reg.HST_AP_DATA 0)

theorem exec_readRow {c : Instr} {o : Nat} (h : IsReadRow c o) (s : State) : exec c s = .next (hostBarRead s o) := by
  obtain ⟨rfl, rfl⟩ | ⟨rfl, rfl⟩ | ⟨rfl, rfl⟩ | ⟨rfl, rfl⟩ | ⟨rfl, rfl⟩ | ⟨rfl, rfl⟩ := h <;> rfl

theorem hostBarRead_shut {s : State} {o : Nat} (h : s.barShut o = true) :
    hostBarRead s o = s.emit (.readCompletion 0 0 (toLE 4 0xFFFFFFFF)) := if_pos h

theorem hostBarRead_reached {s : State} {o : Nat} (h : s.barShut o = false) :
    hostBarRead s o = (readEffect s o).emit (.readCompletion 0 0 (toLE 4 (barRead s o).2)) := if_neg (by simp [h])

/-! ### Bits that a read shows -/

/-- Writing a field leaves every bit outside it, also where the field has no bit. -/
theorem testBit_setBits_outside {hi lo i : Nat} (v x : Nat) (h : i < lo ∨ hi < i) :
    (setBits v hi lo x).testBit i = v.testBit i := by
  by_cases hw : lo ≤ hi + 1
  · rw [testBit_setBits _ _ _ _ _ hw, if_neg (by omega)]
  · have empty : hi + 1 - lo = 0 := by omega
    simp [setBits, bits, empty, Nat.mod_one]

/-- R3, R4: a bit of no field, or of write-only ones alone, is not readable. -/
theorem testBit_readable {o i : Nat}
    (h : ∀ (d : RegDesc) (k : Nat) (f : FieldDesc), regAt o = some (d, k) → f ∈ d.fields → f.acc ≠ .wo → i < f.lo ∨ f.hi < i) :
    (readable o).testBit i = false := by
  unfold readable
  split
  next d k hd =>
    refine List.foldlRecOn (motive := fun v : Nat => v.testBit i = false) _ _ (Nat.zero_testBit i) fun (v : Nat) hv f hf => ?_
    split
    next => exact hv
    next hacc => rwa [testBit_setBits_outside _ _ (h d k f hd hf (by simpa using hacc))]
  next => exact Nat.zero_testBit i

/-- Outside the MSI-X table and its PBA a read shows the readable bits of the register as it stands. -/
theorem readReg_eq_readable_bits (s : State) {o : Nat} (h : ¬(0x2410000 ≤ o ∧ o < 0x2420100)) :
    readReg s o = shown s o (s.reg o) &&& readable o := by
  unfold readReg msixBase pbaBase pbaEnd
  rw [if_neg (by omega)]

theorem testBit_readReg_of_no_field (s : State) {o i : Nat} (hm : ¬(0x2410000 ≤ o ∧ o < 0x2420100))
    (h : ∀ (d : RegDesc) (k : Nat) (f : FieldDesc), regAt o = some (d, k) → f ∈ d.fields → f.acc ≠ .wo → i < f.lo ∨ f.hi < i) :
    (readReg s o).testBit i = false := by
  rw [readReg_eq_readable_bits s hm, Nat.testBit_and, testBit_readable h, Bool.and_false]

/-! ### Offsets that no block occupies (R7) -/

/-- The offsets of BAR0 between the blocks below the stalls and the stalls, and past the last block. -/
def Unoccupied (o : Nat) : Prop := (0x600000 ≤ o ∧ o < 0x800000) ∨ 0x2600000 ≤ o

theorem regAt_unoccupied {o : Nat} (h : Unoccupied o) : regAt o = none := by
  unfold Unoccupied at h
  simp (disch := omega) only [regAt, if_neg]

theorem rawWrite_unoccupied {o : Nat} (h : Unoccupied o) (s : State) (d : Nat) : s.rawWrite o d = s := by
  simp only [State.rawWrite, regAt_unoccupied h]

/-- No register of the blocks below the stalls that has an operation of its own stands there. -/
theorem ctlWrite_unoccupied {o : Nat} (h : Unoccupied o) (s : State) (d : Nat) : ctlWrite s o d = s := by
  have raw := rawWrite_unoccupied h s d
  unfold Unoccupied at h
  unfold ctlWrite Reg.ASY_FUSE_CMD Reg.ASY_PR_BASE Reg.PWR_GAIT Reg.PWR_BROWN Reg.PWR_STATUS Reg.GRM_RULE_CFG Reg.TCK_CTRL
  iterate 7 rw [if_neg (by omega)]
  exact raw

theorem barWrite_unoccupied {o : Nat} (h : Unoccupied o) (s : State) (d : Nat) : barWrite s o d = s := by
  have raw := rawWrite_unoccupied h s d
  have ctl := ctlWrite_unoccupied h s d
  unfold Unoccupied at h
  simp (disch := omega) only [barWrite, Reg.COU_ADM_GO, if_neg, raw, ctl, ite_self]

theorem readReg_unoccupied {o : Nat} (h : Unoccupied o) (s : State) : readReg s o = 0 := by
  have none_readable : readable o = 0 := by simp only [readable, regAt_unoccupied h]
  rw [readReg_eq_readable_bits s (by unfold Unoccupied at h; omega), none_readable, Nat.and_zero]

theorem registerWrite_unoccupied {s : State} {o : Nat} (h : Unoccupied o) (noBells : s.host.doorbells = []) (d : Nat) :
    registerWrite s o ⟨15, false⟩ d = s := by
  by_cases discarded : o % 4 ≠ 0 ∨ s.barShut o = true
  · exact registerWrite_discarded d rfl (.inr discarded)
  · obtain ⟨aligned, reached⟩ : o % 4 = 0 ∧ s.barShut o = false := by simpa using discarded
    rw [registerWrite_whole d aligned reached noBells, barWrite_unoccupied h]

/-! ### The obligation -/

/-- Settles O1: what discards a write, what each read row answers, the readable bits of a register, and the offsets that no block
occupies, each by its lemma above. That undescribed offsets read zero is log 13, what a closed crossing answers log 1508. -/
theorem bar0WholeDwords : Obligations.Bar0WholeDwords := by
  unfold Obligations.Bar0WholeDwords
  refine ⟨fun off tlp data s clean h => ?_, fun c o s row => ⟨fun closed => ?_, fun reached => ?_⟩,
    fun s o i => testBit_readReg_of_no_field s, fun s o data h => ⟨readReg_unoccupied h s, fun noBells => ?_⟩⟩
  · exact congrArg Host.Outcome.next (registerWrite_discarded data.toNat clean h)
  · rw [exec_readRow row, hostBarRead_shut closed]
  · refine ⟨_, exec_readRow row s, ?_⟩
    rw [hostBarRead_reached reached]
    exact ⟨rfl, rfl⟩
  · exact congrArg Host.Outcome.next (registerWrite_unoccupied h noBells data.toNat)

end Sys2Proof.Machine
end

section
/-!
PROOFS. FP32 arithmetic (R18–R24): rounding does not see how an exact value is represented; sums, a factor of one, and −∞.
-/
namespace Sys2Proof.Machine

/-! ### Rounding does not see how an exact value is represented -/

/-- The same value with `j` more binary places below its mantissa. -/
def Num.refine (j : Nat) : Num → Num
  | .fin neg m e => .fin neg (m * 2 ^ j) (e - j)
  | x => x

theorem Num.refine_zero (x : Num) : x.refine 0 = x := by
  cases x with
  | fin neg m e => rw [Num.refine, Nat.pow_zero, Nat.mul_one, Int.natCast_zero, Int.sub_zero]
  | inf | nan => rfl

theorem rneShift_refine (m j : Nat) (k : Int) : rneShift (m * 2 ^ j) (k + j) = rneShift m k := by
  unfold rneShift
  by_cases whole : k ≤ 0
  · rw [if_pos whole]
    split
    next le =>
      have hj : k.natAbs = j + (k + j).natAbs := by omega
      rw [hj, Nat.pow_add, Nat.mul_assoc]
    next gt =>
      have hj : j = k.natAbs + (k + j).natAbs := by omega
      have quotient : m * 2 ^ j = m * 2 ^ k.natAbs * 2 ^ (k + j).natAbs := by rw [Nat.mul_assoc, ← Nat.pow_add, ← hj]
      have d_pos : 0 < 2 ^ (k + j).natAbs := Nat.two_pow_pos _
      simp only [quotient, Nat.mul_div_cancel _ d_pos, Nat.mul_mod_left, Nat.mul_zero, if_pos d_pos]
  · have hk : (k + j).natAbs = k.natAbs + j := by omega
    have j_pos : 0 < 2 ^ j := Nat.two_pow_pos j
    have d : 2 ^ (k + j).natAbs = 2 ^ k.natAbs * 2 ^ j := by rw [hk, Nat.pow_add]
    rw [if_neg whole, if_neg (by omega)]
    simp only [d, Nat.mul_div_mul_right _ _ j_pos, Nat.mul_mod_mul_right, ← Nat.mul_assoc, Nat.mul_lt_mul_right j_pos]

theorem log2_mul_two_pow {m : Nat} (h : m ≠ 0) (j : Nat) : Nat.log2 (m * 2 ^ j) = Nat.log2 m + j := by
  induction j with
  | zero => rw [Nat.pow_zero, Nat.mul_one, Nat.add_zero]
  | succ j ih =>
    have nonzero : m * 2 ^ j ≠ 0 := Nat.mul_ne_zero h (Nat.ne_of_gt (Nat.two_pow_pos j))
    rw [Nat.pow_succ', Nat.mul_left_comm, Nat.log2_two_mul nonzero, ih, Nat.add_assoc]

theorem roundCode_refine (mb : Nat) (bias : Int) (m j : Nat) (e : Int) :
    roundCode mb bias (m * 2 ^ j) (e - j) = roundCode mb bias m e := by
  by_cases zero : m = 0
  · simp only [roundCode, zero, Nat.zero_mul, if_true]
  · have nonzero : m * 2 ^ j ≠ 0 := Nat.mul_ne_zero zero (Nat.ne_of_gt (Nat.two_pow_pos j))
    have place : lastPlace mb (1 - bias) (m * 2 ^ j) (e - j) = lastPlace mb (1 - bias) m e := by
      have top : ((Nat.log2 m + j : Nat) : Int) + (e - j) = Nat.log2 m + e := by omega
      rw [lastPlace, log2_mul_two_pow zero, top, lastPlace]
    have shift (k : Int) : k - (e - j) = k - e + j := by omega
    simp only [roundCode, place, shift, rneShift_refine, if_neg zero, if_neg nonzero]

theorem FpFmt.encode_refine (f : FpFmt) (j : Nat) (x : Num) : f.encode (x.refine j) = f.encode x := by
  cases x with
  | fin neg m e => simp only [Num.refine, FpFmt.encode, roundCode_refine]
  | inf neg => rfl
  | nan => rfl

/-- The sum of two finite values whose magnitudes `a` and `b` stand at one exponent. -/
def signedSum (n1 n2 : Bool) (a b : Nat) (e : Int) : Num :=
  let v : Int := (if n1 then -(a : Int) else a) + (if n2 then -(b : Int) else b)
  if v = 0 then .fin (n1 && n2) 0 e else .fin (decide (v < 0)) v.natAbs e

theorem Num.add_fin (n1 n2 : Bool) (m1 m2 : Nat) (e1 e2 : Int) :
    (Num.fin n1 m1 e1).add (.fin n2 m2 e2) =
      signedSum n1 n2 (m1 * 2 ^ (e1 - min e1 e2).toNat) (m2 * 2 ^ (e2 - min e1 e2).toNat) (min e1 e2) := rfl

theorem signedSum_refine (n1 n2 : Bool) (a b j : Nat) (e : Int) :
    (signedSum n1 n2 a b e).refine j = signedSum n1 n2 (a * 2 ^ j) (b * 2 ^ j) (e - j) := by
  have pos : (0 : Int) < (2 ^ j : Nat) := Int.natCast_pos.mpr (Nat.two_pow_pos j)
  have signed (n : Bool) (c : Nat) :
      (if n then -((c * 2 ^ j : Nat) : Int) else (c * 2 ^ j : Nat)) = (if n then -(c : Int) else c) * (2 ^ j : Nat) := by
    cases n with
    | false => exact Int.natCast_mul c _
    | true => exact (congrArg Neg.neg (Int.natCast_mul c _)).trans (Int.neg_mul _ _).symm
  simp only [signedSum, signed, ← Int.add_mul]
  generalize (if n1 then -(a : Int) else a) + (if n2 then -(b : Int) else b) = v
  by_cases zero : v = 0
  · simp only [zero, Int.zero_mul, if_true, Num.refine, Nat.zero_mul]
  · have nonzero : v * (2 ^ j : Nat) ≠ 0 := Int.mul_ne_zero zero (Int.ne_of_gt pos)
    have sign : v * (2 ^ j : Nat) < 0 ↔ v < 0 := by
      simpa only [Int.zero_mul] using Int.mul_lt_mul_right (b := v) (c := 0) pos
    simp only [if_neg zero, if_neg nonzero, Num.refine, sign, Int.natAbs_mul, Int.natAbs_natCast]

theorem signedSum_cancel (neg : Bool) (a : Nat) (e : Int) : signedSum neg (!neg) a a e = .fin false 0 e := by
  cases neg with
  | false => exact if_pos (Int.add_right_neg _)
  | true => exact if_pos (Int.add_left_neg _)

theorem Num.add_comm (x y : Num) : x.add y = y.add x := by
  cases x with
  | nan => cases y <;> rfl
  | inf a =>
    cases y with
    | inf b =>
      by_cases same : a = b
      · rw [same]
      · rw [Num.add, Num.add, if_neg same, if_neg (Ne.symm same)]
    | fin | nan => rfl
  | fin n1 m1 e1 =>
    cases y with
    | fin n2 m2 e2 => simp only [Num.add_fin, signedSum, Int.add_comm, Int.min_comm, Bool.and_comm]
    | inf | nan => rfl

/-- More places below one operand give more places below the sum. -/
theorem Num.refine_add (x z : Num) (j : Nat) : ∃ i, (x.refine j).add z = (x.add z).refine i := by
  cases x with
  | fin n1 m1 e1 =>
    cases z with
    | fin n2 m2 e2 =>
      obtain ⟨i, lower⟩ : ∃ i : Nat, min (e1 - j) e2 = min e1 e2 - i :=
        ⟨(min e1 e2 - min (e1 - j) e2).toNat, by omega⟩
      have left : j + (e1 - j - min (e1 - j) e2).toNat = (e1 - min e1 e2).toNat + i := by omega
      have right : (e2 - min (e1 - j) e2).toNat = (e2 - min e1 e2).toNat + i := by omega
      refine ⟨i, ?_⟩
      rw [Num.add_fin, signedSum_refine, Num.refine, Num.add_fin, Nat.mul_assoc, ← Nat.pow_add, left, right, lower, Nat.pow_add,
        Nat.pow_add, Nat.mul_assoc, Nat.mul_assoc]
    | inf | nan => exact ⟨0, (Num.refine_zero _).symm⟩
  | inf | nan => exact ⟨0, (Num.refine_zero _).symm⟩

/-! ### FP32 arithmetic -/

/-- The FP32 code of 1.0. -/
def f32one : Nat := 0x3F800000

theorem Num.mul_one (x : Num) : x.mul (f32v f32one) = x.refine 23 := by
  have one : f32v f32one = .fin false (2 ^ 23) (-23) := by decide
  rw [one]
  cases x with
  | fin neg m e => rw [Num.mul, Bool.bne_false, ← Int.sub_eq_add_neg, Num.refine]; rfl
  | inf neg => rw [Num.mul, if_neg (by decide), Bool.bne_false, Num.refine]; exact nofun
  | nan => rfl

theorem f32add_comm (a b : Nat) : f32add a b = f32add b a := by
  rw [f32add, Num.add_comm, f32add]

/-- R77: with a factor of exactly one the fused multiply-add is one rounded sum. -/
theorem f32fma_one (a b : Nat) : f32fma a f32one b = f32add a b := by
  obtain ⟨i, sum⟩ := Num.refine_add (f32v a) (f32v b) 23
  rw [f32fma, Num.mul_one, sum, FpFmt.encode_refine, f32add]

/-- The three fields of an FP32 code (Table FMT-2). -/
theorem f32v_eq (c : Nat) : f32v c =
    if c / 2 ^ 23 % 2 ^ 8 = 255 then if c % 2 ^ 23 = 0 then .inf (bit c 31) else .nan
    else if c / 2 ^ 23 % 2 ^ 8 = 0 then .fin (bit c 31) (c % 2 ^ 23) (-149)
    else .fin (bit c 31) (2 ^ 23 + c % 2 ^ 23) ((c / 2 ^ 23 % 2 ^ 8 : Nat) - 150) := by
  have unbias (x : Int) : x - 127 - 23 = x - 150 := by omega
  simp only [← unbias]
  rfl

theorem f32v_eq_nan_iff (c : Nat) : f32v c = .nan ↔ f32isNan c = true := by
  rw [f32v_eq, f32isNan, decide_eq_true_eq]
  split
  next =>
    split
    next => exact ⟨nofun, fun _ => by omega⟩
    next => exact ⟨fun _ => by omega, fun _ => rfl⟩
  next =>
    split
    next => exact ⟨nofun, fun _ => by omega⟩
    next => exact ⟨nofun, fun _ => by omega⟩

theorem f32v_ne_nan {c : Nat} (h : f32isNan c = false) : f32v c ≠ .nan := fun value =>
  Bool.eq_false_iff.mp h ((f32v_eq_nan_iff c).mp value)

/-- An infinite code has all bits of its exponent field set and none of its fraction. -/
theorem f32inf_fields (neg : Bool) :
    (if neg then f32ninf else f32pinf) / 2 ^ 23 % 2 ^ 8 = 255 ∧ (if neg then f32ninf else f32pinf) % 2 ^ 23 = 0 := by
  cases neg <;> decide

theorem f32v_eq_inf_iff {c : Nat} (h : c < 2 ^ 32) (neg : Bool) : f32v c = .inf neg ↔ c = if neg then f32ninf else f32pinf := by
  obtain ⟨exponent, fraction⟩ := f32inf_fields neg
  rw [f32v_eq]
  split
  next =>
    split
    next =>
      cases neg with
      | false => rw [Num.inf.injEq, bit, beq_eq_false_iff_ne, if_neg Bool.false_ne_true, f32pinf]; omega
      | true => rw [Num.inf.injEq, bit, beq_iff_eq, if_pos rfl, f32ninf]; omega
    next other => exact ⟨nofun, fun code => absurd (code ▸ fraction) other⟩
  next other => split <;> exact ⟨nofun, fun code => absurd (code ▸ exponent) other⟩

/-- A code below 2^32 that is not NaN. -/
def F32Ordered (c : Nat) : Prop := c < 2 ^ 32 ∧ f32isNan c = false

/-- A difference of equal finite codes is +0, and exp2 of it is one. -/
theorem f32exp2_sub_self {c : Nat} (ordered : F32Ordered c) (ninf : c ≠ f32ninf) (pinf : c ≠ f32pinf) :
    f32exp2 (f32sub c c) = f32one := by
  have zero : f32sub c c = 0 := by
    rw [f32sub]
    cases value : f32v c with
    | fin neg m e =>
      rw [Num.neg, Num.add_fin, Int.min_self, signedSum_cancel]
      rfl
    | inf neg =>
      rw [f32v_eq_inf_iff ordered.1] at value
      cases neg with
      | false => exact absurd value pinf
      | true => exact absurd value ninf
    | nan => exact absurd value (f32v_ne_nan ordered.2)
  rw [zero]
  decide

theorem f32max_of_not_nan {a b : Nat} (ha : f32isNan a = false) (hb : f32isNan b = false) :
    f32max a b = if fpKey 32 a < fpKey 32 b then b else a := by
  have ordered : ¬((FpFmt.f32.decode a = .nan || FpFmt.f32.decode b = .nan) = true) := by
    rw [Bool.or_eq_true, decide_eq_true_eq, decide_eq_true_eq]
    exact not_or.mpr ⟨f32v_ne_nan ha, f32v_ne_nan hb⟩
  rw [f32max, fpMax, if_neg ordered]
  rfl

theorem f32max_ordered {a b : Nat} (ha : F32Ordered a) (hb : F32Ordered b) : F32Ordered (f32max a b) := by
  rw [f32max_of_not_nan ha.2 hb.2]
  split
  · exact hb
  · exact ha

theorem f32isNan_ninf : f32isNan f32ninf = false := by decide

/-- −∞ has the least key. -/
theorem f32max_ninf {a : Nat} (ha : f32isNan a = false) : f32max a f32ninf = a := by
  rw [f32max_of_not_nan ha f32isNan_ninf, if_neg]
  have least : fpKey 32 f32ninf = -0x7F800001 := by decide
  rw [f32isNan, decide_eq_false_iff_not] at ha
  rw [least, fpKey]
  split <;> omega

/-- Above −∞ the weight of a score of −∞ is +0. -/
theorem f32exp2_sub_ninf {mn : Nat} (ordered : F32Ordered mn) (h : mn ≠ f32ninf) : f32exp2 (f32sub f32ninf mn) = 0 := by
  have down : f32sub f32ninf mn = f32ninf := by
    have low : f32v f32ninf = .inf true := by decide
    rw [f32sub, low]
    cases value : f32v mn with
    | fin neg m e => rfl
    | inf neg =>
      cases neg with
      | false => rfl
      | true => exact absurd ((f32v_eq_inf_iff ordered.1 true).mp value) h
    | nan => exact absurd value (f32v_ne_nan ordered.2)
  rw [down]
  decide

end Sys2Proof.Machine
end

section
/-!
PROOFS. Attention entries: the merge of two entries (R77), which positions a row sees (R72), and what a masked position leaves of a scan
(R74, R75).
-/
namespace Sys2Proof.Machine

/-! ### The merge of two entries (R77) -/

theorem mergeEntry_nan {x y : Entry} (h : f32isNan x.m = true ∨ f32isNan y.m = true) :
    mergeEntry x y = ⟨f32qnan, f32qnan, x.o.map fun _ => f32qnan⟩ := by
  rw [mergeEntry, if_pos (by rwa [Bool.or_eq_true])]

theorem mergeEntry_empty_right {x : Entry} (d : Nat) (h : f32isNan x.m = false) : mergeEntry x (emptyEntry d) = x := by
  simp only [mergeEntry, emptyEntry, h, f32isNan_ninf, Bool.or_self, Bool.false_eq_true, if_false, if_true]

theorem mergeEntry_empty_left {x : Entry} (d : Nat) (h : f32isNan x.m = false) (filled : x.m ≠ f32ninf) :
    mergeEntry (emptyEntry d) x = x := by
  simp only [mergeEntry, emptyEntry, h, f32isNan_ninf, filled, Bool.or_self, Bool.false_eq_true, if_false, if_true]

/-- On a tie of finite maxima the factor is exactly one, so that l and the vector are sums rounded once. -/
theorem mergeEntry_tie {x y : Entry} (same : x.m = y.m) (ordered : F32Ordered x.m) (ninf : x.m ≠ f32ninf) (pinf : x.m ≠ f32pinf) :
    mergeEntry x y = ⟨x.m, f32add y.l x.l, List.zipWith f32add y.o x.o⟩ := by
  have factor : f32exp2 (f32sub y.m x.m) = f32one := by rw [← same, f32exp2_sub_self ordered ninf pinf]
  rw [mergeEntry, if_neg (by rw [← same, ordered.2]; decide), if_neg (same ▸ ninf), if_neg ninf,
    if_neg (fun below => absurd below.1 (same ▸ Int.lt_irrefl _))]
  simp only [factor, f32fma_one, List.zip, List.map_zipWith]

theorem mergeEntry_comm_of_tie {x y : Entry} (same : x.m = y.m) (ordered : F32Ordered x.m) (ninf : x.m ≠ f32ninf)
    (pinf : x.m ≠ f32pinf) : mergeEntry x y = mergeEntry y x := by
  rw [mergeEntry_tie same ordered ninf pinf, mergeEntry_tie same.symm (same ▸ ordered) (same ▸ ninf) (same ▸ pinf), same,
    f32add_comm, List.zipWith_comm_of_comm f32add_comm]

/-! ### Which positions a row sees (R72) -/

theorem visible_iff (m : Bytes) (r p : Nat) : visible m r p = true ↔
    At.lo m ≤ p ∧ p < At.hi m ∧ (At.causal m = true → p ≤ At.qpos m + r) ∧
      (At.window m ≠ 0 → (At.qpos m + r : Int) - At.window m < p) := by
  have causal : (!At.causal m || decide (p ≤ At.qpos m + r)) = true ↔ (At.causal m = true → p ≤ At.qpos m + r) := by
    cases At.causal m <;> simp only [Bool.not_true, Bool.not_false, Bool.false_or, Bool.true_or, decide_eq_true_eq, forall_const,
      reduceCtorEq, false_implies]
  have window : (At.window m == 0 || decide (((At.qpos m + r : Nat) : Int) - At.window m < p)) = true ↔
      (At.window m ≠ 0 → (At.qpos m + r : Int) - At.window m < p) := by
    rw [Bool.or_eq_true, beq_iff_eq, decide_eq_true_eq, Int.natCast_add]
    exact Decidable.or_iff_not_imp_left
  rw [visible, Bool.and_eq_true, Bool.and_eq_true, Bool.and_eq_true, decide_eq_true_eq, decide_eq_true_eq, causal, window, and_assoc,
    and_assoc]

/-- Each tile takes the visible rows alone, whether or not the others were left out before. -/
theorem scanEntry_filter_visible (m : Bytes) (q : List Num) (r : Nat) (rows : List (Nat × List Num × List Num)) :
    scanEntry m q r (rows.filter fun x => visible m r x.1) = scanEntry m q r rows := by
  simp only [scanEntry, List.filter_filter, Bool.and_assoc, Bool.and_self]

/-! ### A tile of the scan in parts (R74, R75) -/

/-- The positions of a tile that are scanned: place, score and V. -/
abbrev Scored := List (Nat × Nat × List Num)

/-- The positions of a tile with their probabilities p: place, p, score and V. -/
abbrev Weighted := List (Nat × Nat × Nat × List Num)

/-- A score of NaN or +∞ is met. -/
def tileBad (ps : Scored) : Bool := ps.any fun x => f32isNan x.2.1 || x.2.1 == f32pinf

/-- m′: the maximum after the tile. -/
def tileMax (m : Nat) (ps : Scored) : Nat := ps.foldl (fun x p => f32max x p.2.1) m

/-- Each position with its probability under the maximum `mn`. -/
def tileProbs (mn : Nat) (ps : Scored) : Weighted :=
  ps.map fun x => (x.1, f32ToBf16 (f32exp2 (f32sub x.2.1 mn)), x.2.1, x.2.2)

/-- The probabilities at their places, +0 elsewhere. -/
def tileLanes (pv : Weighted) : List Nat :=
  (List.range 32).map fun i => match pv.find? fun x => x.1 == i with
    | some (_, p, _) => bf16ToF32 p
    | none => 0

/-- The rescaled vector with the tile's weighted V added. -/
def tileVector (d r : Nat) (o : List Nat) (pv : Weighted) : List Nat :=
  (List.range d).zip o |>.map fun x =>
    FpFmt.f32.encode ((f32v (f32mul x.2 r)).add ((pv.filter fun y => y.2.2.1 != f32ninf).foldl
      (fun z y => z.add ((FpFmt.bf16.decode y.2.1).mul (y.2.2.2.getD x.1 (.fin false 0 0)))) (.fin false 0 0)))

theorem scanTile_eq (d : Nat) (a : ScanAcc) (ps : Scored) : scanTile d a ps =
    if a.bad || tileBad ps then { a with bad := true }
    else if tileMax a.m ps = f32ninf then a
    else
      { m := tileMax a.m ps,
        l := f32add (f32mul a.l (f32exp2 (f32sub a.m (tileMax a.m ps)))) (laneSum (tileLanes (tileProbs (tileMax a.m ps) ps))),
        o := tileVector d (f32exp2 (f32sub a.m (tileMax a.m ps))) a.o (tileProbs (tileMax a.m ps) ps), bad := false } := rfl

theorem not_nan_of_clean {ps : Scored} (clean : tileBad ps = false) {x : Nat × Nat × List Num} (hx : x ∈ ps) :
    f32isNan x.2.1 = false := by
  rw [tileBad, List.any_eq_false] at clean
  have score := clean x hx
  rw [Bool.not_eq_true, Bool.or_eq_false_iff] at score
  exact score.1

theorem tileBad_append_ninf (ps : Scored) (i : Nat) (v : List Num) : tileBad (ps ++ [(i, f32ninf, v)]) = tileBad ps := by
  have below : (f32ninf == f32pinf) = false := by decide
  rw [tileBad, List.any_append, List.any_cons, List.any_nil, f32isNan_ninf, below, tileBad]
  exact Bool.or_false _

theorem tileMax_ordered {ps : Scored} (h : ∀ x ∈ ps, F32Ordered x.2.1) {m : Nat} (hm : F32Ordered m) : F32Ordered (tileMax m ps) := by
  induction ps generalizing m with
  | nil => exact hm
  | cons x xs ih => exact ih (fun y hy => h y (.tail _ hy)) (f32max_ordered hm (h x (.head _)))

theorem tileMax_append_ninf {ps : Scored} {m : Nat} (ordered : F32Ordered (tileMax m ps)) (i : Nat) (v : List Num) :
    tileMax m (ps ++ [(i, f32ninf, v)]) = tileMax m ps := by
  rw [tileMax, List.foldl_append]
  exact f32max_ninf ordered.2

theorem tileProbs_append_ninf {mn : Nat} (ordered : F32Ordered mn) (h : mn ≠ f32ninf) (ps : Scored) (i : Nat) (v : List Num) :
    tileProbs mn (ps ++ [(i, f32ninf, v)]) = tileProbs mn ps ++ [(i, 0, f32ninf, v)] := by
  have zero : f32ToBf16 0 = 0 := by decide
  rw [tileProbs, List.map_append, List.map_singleton, f32exp2_sub_ninf ordered h, zero, tileProbs]

/-- A probability of +0 is what an empty place holds. -/
theorem tileLanes_append_zero (pv : Weighted) (i sc : Nat) (v : List Num) :
    tileLanes (pv ++ [(i, 0, sc, v)]) = tileLanes pv := by
  have zero : bf16ToF32 0 = 0 := by decide
  refine List.map_congr_left fun j _ => ?_
  rw [List.find?_append]
  cases pv.find? fun x => x.1 == j with
  | some x => rfl
  | none =>
    cases place : i == j with
    | true =>
      simp only [List.find?_cons, place, Option.none_or]
      exact zero
    | false => simp only [List.find?_cons, place, List.find?_nil, Option.none_or]

theorem tileVector_append_ninf (d r : Nat) (o : List Nat) (pv : Weighted) (i p : Nat) (v : List Num) :
    tileVector d r o (pv ++ [(i, p, f32ninf, v)]) = tileVector d r o pv := by
  simp only [tileVector, List.filter_append, List.filter_cons, bne_self_eq_false, Bool.false_eq_true, if_false, List.filter_nil,
    List.append_nil]

/-- R75: a score of −∞ behaves as a masked position. -/
theorem scanTile_append_ninf (d : Nat) {a : ScanAcc} {ps : Scored} (i : Nat) (v : List Num) (ha : F32Ordered a.m)
    (bound : ∀ x ∈ ps, x.2.1 < 2 ^ 32) : scanTile d a (ps ++ [(i, f32ninf, v)]) = scanTile d a ps := by
  rw [scanTile_eq, scanTile_eq, tileBad_append_ninf]
  by_cases bad : (a.bad || tileBad ps) = true
  · rw [if_pos bad, if_pos bad]
  · have clean : tileBad ps = false := by
      rw [Bool.not_eq_true, Bool.or_eq_false_iff] at bad
      exact bad.2
    have ordered := tileMax_ordered (fun x hx => ⟨bound x hx, not_nan_of_clean clean hx⟩) ha
    rw [if_neg bad, if_neg bad, tileMax_append_ninf ordered]
    by_cases empty : tileMax a.m ps = f32ninf
    · rw [if_pos empty, if_pos empty]
    · rw [if_neg empty, if_neg empty, tileProbs_append_ninf ordered empty, tileLanes_append_zero, tileVector_append_ninf]

/-! ### The obligation -/

/-- Settles O11: the corner cases of R77's procedure (a NaN child, an empty child, a tie), the positions R72 makes visible, and what a
position that is not visible leaves of a row's scan. That such a position contributes nothing to O is log 402. -/
theorem mergeEntryRules : Obligations.MergeEntryRules := by
  unfold Obligations.MergeEntryRules
  exact ⟨fun _ _ => mergeEntry_nan, fun _ d ordered => ⟨mergeEntry_empty_right d ordered, mergeEntry_empty_left d ordered⟩,
    fun _ _ ordered same ninf pinf bound => mergeEntry_comm_of_tie same ⟨bound, ordered⟩ ninf pinf, visible_iff,
    scanEntry_filter_visible,
    fun d _ _ i v bound ordered scores => scanTile_append_ninf d i v ⟨bound, ordered⟩ scores⟩

end Sys2Proof.Machine
end

section
/-!
PROOFS. Held work leaves the groom alone (R315, R319): whatever proceeds at the host shaper when the gait becomes faster, and the
doorbells behind it, writes no register of GROOM and changes neither the groom's state nor the clocks.
-/
namespace Sys2Proof.Machine

/-- What the power chapter holds: the groom, the clocks and the registers of GROOM. -/
def State.power (s : State) : Groom × Clocks × (Nat → Nat) := (s.grm, s.clk, fun o => if groomReg o then s.reg o else 0)

theorem power_eq_iff {s t : State} :
    t.power = s.power ↔ t.grm = s.grm ∧ t.clk = s.clk ∧ ∀ o, groomReg o = true → t.reg o = s.reg o := by
  simp only [State.power, Prod.mk.injEq, funext_iff]
  refine and_congr_right fun _ => and_congr_right fun _ => forall_congr' fun o => ?_
  cases groomReg o <;> simp

theorem power_congr {s t : State} (grm : t.grm = s.grm) (clk : t.clk = s.clk) (regs : t.regs = s.regs) : t.power = s.power := by
  simp only [State.power, State.reg, grm, clk, regs]

/-! ### Other fields of the state -/

theorem power_with (s : State) :
    (∀ x y, State.power { s with mem := x, marks := y } = s.power) ∧ (∀ x, State.power { s with mem := x } = s.power) ∧
    (∀ x, State.power { s with marks := x } = s.power) ∧ (∀ x, State.power { s with host := x } = s.power) ∧
    (∀ x, State.power { s with htp := x } = s.power) ∧ (∀ x, State.power { s with rns := x } = s.power) ∧
    (∀ x, State.power { s with far := x } = s.power) :=
  ⟨fun _ _ => power_congr rfl rfl rfl, fun _ => power_congr rfl rfl rfl, fun _ => power_congr rfl rfl rfl, fun _ => power_congr rfl rfl rfl,
    fun _ => power_congr rfl rfl rfl, fun _ => power_congr rfl rfl rfl, fun _ => power_congr rfl rfl rfl⟩

@[simp] theorem power_emit (s : State) (o : Out) : (s.emit o).power = s.power :=
  power_congr rfl rfl rfl
@[simp] theorem power_applyHome (s : State) (w : HomeWrite) : (s.applyHome w).power = s.power :=
  power_congr rfl rfl rfl
@[simp] theorem power_setStall (s : State) (n : Nat) (x : Stall) : (s.setStall n x).power = s.power :=
  power_congr rfl rfl rfl
@[simp] theorem power_updStall (s : State) (n : Nat) (f : Stall → Stall) : (s.updStall n f).power = s.power :=
  power_congr rfl rfl rfl
@[simp] theorem power_updHost (s : State) (f : HostPort → HostPort) : (s.updHost f).power = s.power :=
  power_congr rfl rfl rfl
@[simp] theorem power_updPort (s : State) (n : Nat) (f : Port → Port) : (s.updPort n f).power = s.power :=
  power_congr rfl rfl rfl
@[simp] theorem power_updDest (s : State) (n : Nat) (f : Dest → Dest) : (s.updDest n f).power = s.power :=
  power_congr rfl rfl rfl
@[simp] theorem power_updPace (s : State) (n : Nat) (f : PaceAcc → PaceAcc) : (s.updPace n f).power = s.power :=
  power_congr rfl rfl rfl
@[simp] theorem power_updAq (s : State) (n : Nat) (f : AdmitQueue → AdmitQueue) : (s.updAq n f).power = s.power :=
  power_congr rfl rfl rfl
@[simp] theorem power_updCou (s : State) (f : Courier → Courier) : (s.updCou f).power = s.power :=
  power_congr rfl rfl rfl
@[simp] theorem power_updConn (s : State) (n : Nat) (f : Conn → Conn) : (s.updConn n f).power = s.power :=
  power_congr rfl rfl rfl
@[simp] theorem power_updPkh (s : State) (f : Packhorse → Packhorse) : (s.updPkh f).power = s.power :=
  power_congr rfl rfl rfl
@[simp] theorem power_shaperFill (s : State) : (shaperFill s).power = s.power :=
  power_congr rfl rfl rfl

/-! ### Registers, messages and event records -/

@[simp] theorem power_setReg {o : Nat} (h : groomReg o = false) (s : State) (v : Nat) : (s.setReg o v).power = s.power :=
  power_eq_iff.mpr ⟨by simp, by simp, fun j hj => State.reg_setReg_other s v fun e => by simp [e, h] at hj⟩

@[simp] theorem power_setFld {o : Nat} (h : groomReg o = false) (s : State) (f : Field) (v : Nat) :
    (s.setFld o f v).power = s.power := power_setReg h s _

@[simp] theorem power_bump {o : Nat} (h : groomReg o = false) (s : State) : (s.bump o).power = s.power := power_setReg h s _

/-- No register outside GROOM is one of GROOM. -/
theorem ne_of_groomReg {o j : Nat} (h : groomReg o = false) (hj : groomReg j = true) : j ≠ o := fun e => by simp [e, h] at hj

@[simp] theorem power_raise (s : State) (tag code sev subject : Nat) (d : List Nat) :
    (s.raise tag code sev subject d).power = s.power :=
  power_eq_iff.mpr ⟨by simp, by simp, fun j hj => State.reg_raise s tag code sev subject d j
    (ne_of_groomReg rfl hj) (ne_of_groomReg rfl hj) (ne_of_groomReg rfl hj) (ne_of_groomReg rfl hj)⟩

@[simp] theorem power_msixRaise (s : State) (v : Nat) : (s.msixRaise v).power = s.power :=
  power_eq_iff.mpr ⟨by simp, by simp, fun j hj => State.reg_msixRaise s v j (ne_of_groomReg rfl hj) (ne_of_groomReg rfl hj)⟩

@[simp] theorem power_blocked (s : State) : s.blocked.power = s.power := by
  rw [State.blocked, power_bump rfl, power_setFld rfl]

@[simp] theorem power_hostWrite (s : State) (a : Nat) (d : Bytes) : (s.hostWrite a d).power = s.power := by
  unfold State.hostWrite
  split <;> simp

@[simp] theorem power_hostRead (s : State) (n : Nat) (x : HostRead) : (s.hostRead n x).1.power = s.power := by
  unfold State.hostRead
  split
  · simp
  · cases x <;> rfl

/-! ### Loops -/

theorem power_forEach {α : Type} {f : State → α → State} (h : ∀ s x, (f s x).power = s.power) (l : List α) (s : State) :
    (forEach l s f).power = s.power := by
  induction l generalizing s with
  | nil => rfl
  | cons x l ih => exact (ih (f s x)).trans (h s x)

/-- A loop that carries a second value. -/
theorem power_forEach_fst {α β : Type} {f : State × β → α → State × β} (h : ∀ p x, (f p x).1.power = p.1.power) (l : List α)
    (p : State × β) : (forEach l p f).1.power = p.1.power := by
  induction l generalizing p with
  | nil => rfl
  | cons x l ih => exact (ih (f p x)).trans (h p x)

/-! ### Memory -/

@[simp] theorem power_setService (s : State) (n : Nat) (x : Service) : (s.setService n x).power = s.power := by
  unfold State.setService
  dsimp only
  split <;> simp

@[simp] theorem power_failStall (s : State) (n cause : Nat) : (s.failStall n cause).power = s.power := by
  unfold State.failStall
  split
  · rfl
  · simp (disch := decide) only [power_with, power_bump, power_raise, power_setService]

@[simp] theorem power_sawPoison (s : State) (line : Nat) : (s.sawPoison line).power = s.power := by
  unfold State.sawPoison
  simp only [apply_ite State.power, power_with, ite_self]

@[simp] theorem power_foundUe (s : State) (line src : Nat) : (s.foundUe line src).power = s.power := by
  unfold State.foundUe
  simp (disch := decide) only [apply_ite State.power, power_failStall, power_with, power_raise, power_bump, ite_self]

@[simp] theorem power_foundCe (s : State) (line n src : Nat) : (s.foundCe line n src).power = s.power := by
  unfold State.foundCe
  simp (disch := decide) only [apply_ite State.power, power_with, power_raise, power_bump, ite_self]

@[simp] theorem power_drainHome (s : State) (n : Nat) : (s.drainHome n).power = s.power := by
  unfold State.drainHome
  dsimp only
  split
  · rfl
  · rw [power_forEach power_applyHome, power_setStall]

@[simp] theorem power_touchLine (s : State) (line : Nat) : (s.touchLine line).1.power = s.power := by
  unfold State.touchLine
  dsimp only
  split
  · rfl
  split
  · rfl
  split <;> simp

@[simp] theorem power_touchLines (ls : List Nat) (s : State) (k : Nat) : (touchLines ls s k).1.power = s.power := by
  induction ls generalizing s k with
  | nil => rfl
  | cons l ls ih =>
    unfold touchLines
    dsimp only
    split <;> simp [ih]

@[simp] theorem power_readMem (s : State) (o n : Nat) : (s.readMem o n).1.power = s.power := by
  unfold State.readMem
  dsimp only
  split <;> simp

@[simp] theorem power_writeChunk (s : State) (o : Nat) (d : Bytes) : (s.writeChunk o d).1.power = s.power := by
  unfold State.writeChunk
  dsimp only
  split
  · rfl
  split
  · rfl
  split
  · simp only [power_with, power_drainHome]
  split <;> simp only [power_with, power_sawPoison, power_foundUe, power_foundCe, power_drainHome]

@[simp] theorem power_poke (s : State) (o : Nat) (d : Bytes) : (s.poke o d).power = s.power :=
  power_forEach_fst (fun p x => by exact power_writeChunk p.1 x.1 x.2) _ _

@[simp] theorem power_ringWrite (s : State) (base off : Nat) (d : Bytes) : (s.ringWrite base off d).power = s.power := by
  unfold State.ringWrite
  split <;> simp

@[simp] theorem power_applyOldest (s : State) (n : Nat) : (applyOldest s n).power = s.power := by
  unfold applyOldest
  split
  · rfl
  split <;> simp

@[simp] theorem groomReg_stlHotLine (n : Nat) : groomReg (Reg.STL_HOT_LINE n) = false := by
  rw [groomReg, Bool.and_eq_false_iff, decide_eq_false_iff_not, decide_eq_false_iff_not, Reg.STL_HOT_LINE]
  omega

theorem power_enqueueHome (s : State) (line : Nat) (d : Bytes) : (enqueueHome s line d).1.power = s.power := by
  have full (n : Nat) : (if 64 ≤ (s.stall n).storeQ.length then applyOldest s n else s).power = s.power := by
    split <;> simp
  unfold enqueueHome
  dsimp only
  split
  · rfl
  rw [← full (homeStall (64 * line))]
  generalize (if 64 ≤ (s.stall (homeStall (64 * line))).storeQ.length then _ else s) = t
  split <;> simp

@[simp] theorem power_localStore (s : State) (off : Nat) (d : Bytes) : (localStore s off d).1.power = s.power := by
  have lines : (enqueueLines s off d).1.power = s.power :=
    power_forEach_fst (fun p _ => by exact power_enqueueHome p.1 _ _) _ _
  have note (t : State) : (paceNote t off).power = t.power :=
    power_forEach (fun s k => by dsimp only; split <;> simp) _ _
  unfold localStore
  dsimp only
  split
  · exact (note _).trans lines
  · exact lines

/-! ### Requests -/

@[simp] theorem groomReg_rnsHist (k : Nat) : groomReg (Reg.RNS_HIST k) = false := by
  rw [groomReg, Bool.and_eq_false_iff, decide_eq_false_iff_not, decide_eq_false_iff_not, Reg.RNS_HIST]
  omega

@[simp] theorem power_histSample (s : State) (kind unit key stamp : Nat) : (histSample s kind unit key stamp).power = s.power := by
  unfold histSample
  split <;> simp

@[simp] theorem power_portEmit (s : State) (port : Nat) (it : PortItem) : (s.portEmit port it).power = s.power := by
  unfold State.portEmit portLeave
  dsimp only
  split <;> simp

@[simp] theorem power_portDrain (fuel : Nat) (s : State) (port : Nat) : (State.portDrain fuel s port).power = s.power := by
  induction fuel generalizing s with
  | zero => rfl
  | succ fuel ih =>
    unfold State.portDrain
    dsimp only
    split
    · rfl
    split
    · simp [ih]
    split
    · split <;> simp [ih]
    · split <;> simp [ih]

@[simp] theorem power_route (s : State) (arrival : Nat) (yellow : Bool) (p : Pkt) : (s.route arrival yellow p).power = s.power := by
  unfold State.route
  split
  · unfold State.portQueue
    dsimp only
    split <;> simp (disch := decide)
  · unfold State.noRoute
    simp (disch := decide) only [apply_ite State.power, power_with, power_raise, power_bump, ite_self]

@[simp] theorem power_emitReq (s : State) (d : Nat) (r : Req) (retx : Bool) : (s.emitReq d r retx).1.power = s.power := by
  unfold State.emitReq
  cases retx <;> simp

@[simp] theorem power_pump (fuel : Nat) (s : State) (d : Nat) : (State.pump fuel s d).power = s.power := by
  induction fuel generalizing s with
  | zero => rfl
  | succ fuel ih =>
    unfold State.pump
    dsimp only
    split
    · rfl
    split
    · rfl
    · rw [ih, power_bump (by decide)]
      simp

@[simp] theorem power_startSync (s : State) (d : Nat) : (s.startSync d).power = s.power := by
  have sent (start : Nat) : (s.emitSync d start).power = s.power := by simp only [State.emitSync, power_route, power_updDest]
  simp only [State.startSync, apply_ite State.power, sent, ite_self]

@[simp] theorem power_issue (s : State) (d : Nat) (p : Pkt) (o : Origin) : (s.issue d p o).power = s.power := by
  unfold State.issue
  split
  · simp only [State.sendReq, State.enqueueReq, power_pump, power_startSync, power_updDest]
  split <;> simp only [power_with, power_localStore, power_readMem]

/-! ### The host shaper and the answers at the host port -/

@[simp] theorem power_shaperCharge (s : State) (n : Nat) : (shaperCharge s n).power = s.power := by
  unfold shaperCharge
  split <;> simp only [power_with]

@[simp] theorem power_localLeave (s : State) (p : Pkt) (stamp : Nat) : (localLeave s p stamp).power = s.power := by
  unfold localLeave
  split <;> simp

@[simp] theorem power_shaperRelease (fuel : Nat) (s : State) : (shaperRelease fuel s).power = s.power := by
  induction fuel generalizing s with
  | zero => rfl
  | succ fuel ih =>
    unfold shaperRelease
    split
    · rfl
    split
    · rfl
    · dsimp only
      rw [ih, power_issue]
      split <;> simp only [power_localLeave, power_histSample, power_shaperCharge, power_with]

@[simp] theorem power_bar2Refused (s : State) (status opcode entry addr : Nat) :
    (bar2Refused s status opcode entry addr).power = s.power := by
  unfold bar2Refused
  dsimp only
  split <;> simp (disch := decide)

@[simp] theorem power_readDone (s : State) (x : Bar2Read) (status : Nat) (d : Bytes) : (readDone s x status d).power = s.power := by
  unfold readDone
  dsimp only
  split <;> simp

@[simp] theorem power_bar2Part (s : State) (id i status : Nat) (d : Bytes) : (bar2Part s id i status d).power = s.power := by
  unfold bar2Part
  split
  · rfl
  split
  · simp
  dsimp only
  split <;> simp

@[simp] theorem power_hostAnswer (s : State) (o : Origin) (status : Nat) (d : Bytes) :
    (hostAnswer s o status d).power = s.power := by
  unfold hostAnswer
  split
  · split <;> simp
  · simp
  · rfl

@[simp] theorem power_hostDrain (s : State) : (hostDrain s).power = s.power :=
  (power_forEach (fun s a => by exact power_hostAnswer s a.1 a.2.1 a.2.2) _ _).trans (power_congr rfl rfl rfl)

/-! ### Doorbells -/

theorem power_of_eq {α β : Type} {f g : State → α → β → State} (same : f = g) (h : ∀ s a b, (g s a b).power = s.power) (s : State)
    (a : α) (b : β) : (f s a b).power = s.power := same ▸ h s a b

/-- The function is replaced as a whole: the kernel, given `cqWrite s q e` beside its body, evaluates the ring's next slot. -/
theorem power_cqWrite : ∀ (s : State) (q : Nat) (e : Bytes), (cqWrite s q e).power = s.power := by
  refine power_of_eq (by delta cqWrite; rfl) fun s q e => ?_
  extract_lets x u
  split
  rw [power_msixRaise, power_updAq, power_ringWrite]

theorem power_cqFlush (fuel : Nat) (s : State) (q : Nat) : (cqFlush fuel s q).power = s.power := by
  induction fuel generalizing s with
  | zero => rfl
  | succ fuel ih =>
    unfold cqFlush
    split
    · rfl
    extract_lets x
    split
    · rw [ih, power_cqWrite, power_updAq]
    · rw [ih, power_cqWrite, power_updAq]
    · rfl

theorem power_couFlush (fuel : Nat) (s : State) (k : Nat) : (couFlush fuel s k).power = s.power := by
  have push (t : State) (e : Bytes) : (couPush t k e).power = t.power := by
    simp only [couPush, power_msixRaise, power_updCou, power_ringWrite]
  induction fuel generalizing s with
  | zero => rfl
  | succ fuel ih =>
    unfold couFlush
    dsimp only
    split
    · rfl
    split <;> simp [ih, push]

theorem power_postLocal (base log2 fuel : Nat) (s : State) (i : Nat) : (postLocal base log2 fuel s i).1.power = s.power := by
  induction fuel generalizing s i with
  | zero => rfl
  | succ fuel ih => simp [postLocal, ih]

theorem power_couRqTail (s : State) (c v : Nat) (r : HostRead) : (couRqTail s c v r).power = s.power := by
  unfold couRqTail
  dsimp only
  split <;> simp [power_postLocal]

theorem power_ticketTake (s : State) (r : Nat) : (ticketTake s r).power = s.power := by
  unfold ticketTake
  dsimp only
  split
  · rfl
  split
  · simp [State.structLost]
  split <;> simp

theorem power_ticketTakeAll (fuel : Nat) (s : State) (r : Nat) : (ticketTakeAll fuel s r).power = s.power := by
  induction fuel generalizing s with
  | zero => rfl
  | succ fuel ih =>
    unfold ticketTakeAll
    dsimp only
    split <;> simp [ih, power_ticketTake]

theorem power_bellRun (s : State) (b : Bell) : (bellRun s b).power = s.power := by
  cases b with
  | ldgSq q v => exact power_updAq s q _
  | ldgCq q v => simp [bellRun, aqHead, power_cqFlush]
  | couSq c v => simp only [bellRun, couSqTail]; split <;> simp
  | couRq c v r => simp only [bellRun]; split <;> simp [power_couRqTail]
  | couCq k v => simp [bellRun, couCqHead, power_couFlush]
  | pkh r v => simp only [bellRun, State.ifRuns]; split <;> simp [power_ticketTakeAll]
  | reg => rfl

/-- Held work leaves the groom, the clocks and the registers of GROOM as they were. -/
theorem power_hostShaperRun (s : State) : (hostShaperRun s).power = s.power := by
  have bells (t : State) : (bellsRun t).power = t.power := by
    unfold bellsRun
    split
    · rfl
    · rw [power_forEach power_bellRun, power_updHost]
  simp [hostShaperRun, bells]

end Sys2Proof.Machine
end

section
/-!
PROOFS. Gaits and their clock (R279, R314–R319): what a re-evaluation of the gait changes and leaves, the clock and VARITH that
follow it, STABLED, and the brown-out hold.
-/
namespace Sys2Proof.Machine

/-! ### Register fields -/

theorem State.fld_lt (s : State) (o : Nat) (f : Field) : s.fld o f < 2 ^ (f.hi + 1 - f.lo) := Nat.mod_lt _ (Nat.two_pow_pos _)

theorem State.fld_bump_other (s : State) {o j : Nat} (f : Field) (h : j ≠ o) : (s.bump o).fld j f = s.fld j f := by
  rw [State.fld, State.reg_bump_other s h, State.fld]

theorem fld_congr {s t : State} {o : Nat} (h : t.reg o = s.reg o) (f : Field) : t.fld o f = s.fld o f := by
  rw [State.fld, h, State.fld]

theorem flag_congr {s t : State} {o : Nat} {f : Field} (h : t.fld o f = s.fld o f) : t.flag o f = s.flag o f := by
  rw [State.flag, h, State.flag]

/-! ### The groom's records -/

@[simp] theorem grmEvent_frame (s : State) (tag code sev : Nat) (d : List Nat) :
    (grmEvent s tag code sev d).mem = s.mem ∧ (grmEvent s tag code sev d).clk = s.clk ∧
    (grmEvent s tag code sev d).grm = s.grm ∧ (grmEvent s tag code sev d).rns = s.rns ∧
    (grmEvent s tag code sev d).htp = s.htp := by
  unfold grmEvent
  dsimp only
  split <;> simp

/-- A record of the groom writes no register of ASY, GROOM or CLK. -/
theorem reg_grmEvent (s : State) (tag code sev : Nat) (d : List Nat) {j : Nat} (low : 0x100000 ≤ j) (high : j < 0x400000) :
    (grmEvent s tag code sev d).reg j = s.reg j := by
  have event (t : State) : (t.raise tag code sev 0 d).reg j = t.reg j :=
    State.reg_raise t tag code sev 0 d j (by unfold Reg.HST_STATUS; omega) (by unfold Reg.HST_BLOCKED; omega)
      (by unfold Reg.GLB_SUMMARY; omega) (by unfold Reg.FAR_EV_DROP; omega)
  unfold grmEvent
  dsimp only
  split
  · exact event _
  · rfl

theorem fld_grmEvent (s : State) (tag code sev : Nat) (d : List Nat) {j : Nat} (f : Field) (low : 0x100000 ≤ j)
    (high : j < 0x400000) : (grmEvent s tag code sev d).fld j f = s.fld j f := fld_congr (reg_grmEvent s tag code sev d low high) f

/-- An INFO record changes only Farrier's buffer and its tally. -/
theorem raise_info (s : State) (tag code subject : Nat) (d : List Nat) :
    (s.raise tag code Sev.info subject d).host = s.host ∧ (s.raise tag code Sev.info subject d).groomLog = s.groomLog := by
  have note : s.noteSev Sev.info = s := by simp [State.noteSev, Sev.info, Sev.degraded, Sev.fatal]
  rw [State.raise, note, State.bufferEvent]
  split
  · exact ⟨rfl, rfl⟩
  · rw [if_neg (by simp [State.record, Sev.info, Sev.fatal])]
    simp

@[simp] theorem host_grmEvent_info (s : State) (tag code : Nat) (d : List Nat) :
    (grmEvent s tag code Sev.info d).host = s.host := by
  unfold grmEvent
  dsimp only
  split
  · simp [raise_info]
  · simp

/-- The record stands first in the groom log. -/
theorem groomLog_grmEvent_info (s : State) (tag code : Nat) (d : List Nat) :
    (grmEvent s tag code Sev.info d).groomLog = (s.record tag code Sev.info 0 d :: s.groomLog).take 64 := by
  unfold grmEvent
  dsimp only
  split
  · rw [(raise_info _ _ _ _ _).2]
    rfl
  · rfl

/-! ### Rules that are asserted -/

/-- The groom's own registers and those of its rules stand in `t` as in `s`. -/
def SameRules (s t : State) : Prop := ∀ o, 0x210000 ≤ o → o < 0x300000 → t.reg o = s.reg o

theorem SameRules.asserted {s t : State} (h : SameRules s t) : asserted t = asserted s := by
  rw [Machine.asserted, h Reg.GRM_ASSERTED (by decide) (by decide), Machine.asserted]

theorem SameRules.ruleFld {s t : State} (h : SameRules s t) {r : Nat} (hr : r < 32) (f : Field) : ruleFld t r f = ruleFld s r f :=
  fld_congr (h _ (by unfold Reg.GRM_RULE_CFG; omega) (by unfold Reg.GRM_RULE_CFG; omega)) f

theorem SameRules.ruleAct {s t : State} (h : SameRules s t) {r : Nat} (hr : r ∈ Machine.asserted s) : ruleAct t r = ruleAct s r := by
  have low : r < 32 := List.mem_range.mp (List.mem_filter.mp hr).1
  exact Prod.ext (h.ruleFld low _) (h.ruleFld low _)

/-- A fold looks at the members of its list only. -/
theorem foldl_congr_mem {α β : Type} {f g : β → α → β} {l : List α} (h : ∀ b a, a ∈ l → f b a = g b a) (b : β) :
    l.foldl f b = l.foldl g b := by
  induction l generalizing b with
  | nil => rfl
  | cons x l ih =>
    rw [List.foldl_cons, List.foldl_cons, h b x List.mem_cons_self]
    exact ih (fun b a ha => h b a (List.mem_cons_of_mem x ha)) (g b x)

theorem SameRules.ruleCap {s t : State} (h : SameRules s t) : ruleCap t = ruleCap s := by
  unfold Machine.ruleCap
  rw [h.asserted]
  exact foldl_congr_mem (fun m r hr => by rw [h.ruleAct hr]) _

theorem SameRules.throttleK {s t : State} (h : SameRules s t) : throttleK t = throttleK s := by
  unfold Machine.throttleK
  rw [h.asserted]
  exact foldl_congr_mem (fun m r hr => by rw [h.ruleAct hr]) _

theorem sameRules_setFld {o : Nat} (h : o < 0x210000) (s : State) (f : Field) (v : Nat) : SameRules s (s.setFld o f v) :=
  fun _ low _ => State.reg_setFld_other s f v (by omega)

theorem sameRules_grmEvent (s : State) (tag code sev : Nat) (d : List Nat) : SameRules s (grmEvent s tag code sev d) :=
  fun _ low high => reg_grmEvent s tag code sev d (by omega) (by omega)

theorem SameRules.trans {s t u : State} (h : SameRules s t) (k : SameRules t u) : SameRules s u :=
  fun o low high => (k o low high).trans (h o low high)

/-- A cap is a gait. -/
theorem ruleCap_le (s : State) : ruleCap s ≤ 4 := by
  refine List.foldlRecOn (motive := fun m : Nat => m ≤ 4) _ _ (Nat.zero_le 4) fun m hm r _ => ?_
  dsimp only
  split <;> omega

/-! ### The gait is noted -/

theorem gaitTarget_lt (s : State) : gaitTarget s < 8 := by
  have cap := ruleCap_le s
  have req : s.fld Reg.PWR_GAIT F.PWR_GAIT_REQ < 8 := s.fld_lt _ _
  unfold gaitTarget
  split <;> omega

/-- The gait is noted in PWR_GAIT and PWR_STATUS, and its change counted and logged; the clock has not yet followed (R314). -/
def gaitNoted (s : State) (why : Nat) : State :=
  let u := (s.setFld Reg.PWR_GAIT F.PWR_GAIT_CAP (max (ruleCap s) (if s.browned then 3 else 0))).setFld
    Reg.PWR_STATUS F.PWR_STATUS_THR (throttleK s)
  if gaitTarget s = s.gait then u
  else grmEvent ((u.setFld Reg.PWR_STATUS F.PWR_STATUS_GAIT (gaitTarget s)).bump Reg.PWR_GAIT_CHANGES) Tag.pwr 0x0004 Sev.info
    [s.gait, gaitTarget s, why, 0]

theorem ite_eq_else_or_then {α : Type} {p : Prop} [Decidable p] {a b : α} :
    (if p then a else b) = b ∨ (if p then a else b) = a := by
  by_cases h : p
  · exact .inr (if_pos h)
  · exact .inl (if_neg h)

/-- What a re-evaluation of the gait does: the gait is noted, the clock follows, and held work may go on. -/
theorem reGait_cases (s : State) (why : Nat) :
    reGait s why = clockFollow (gaitNoted s why) ∨ reGait s why = heldRelease (clockFollow (gaitNoted s why)) := by
  let u := s.setFld Reg.PWR_GAIT F.PWR_GAIT_CAP (max (ruleCap s) (if s.browned then 3 else 0))
  have rules : SameRules s u := sameRules_setFld (by decide) _ _ _
  let v := u.setFld Reg.PWR_STATUS F.PWR_STATUS_THR (throttleK s)
  have rules' : SameRules s v := rules.trans (sameRules_setFld (by decide) _ _ _)
  have gait : v.gait = s.gait := by
    simp (disch := decide) only [v, u, State.gait, State.fld_setFld_apart, State.fld_setFld_other]
  have browned : v.browned = s.browned := by
    simp (disch := decide) only [v, u, State.browned, State.flag, State.fld_setFld_apart, State.fld_setFld_other]
  have req : v.fld Reg.PWR_GAIT F.PWR_GAIT_REQ = s.fld Reg.PWR_GAIT F.PWR_GAIT_REQ := by
    simp (disch := decide) only [v, u, State.fld_setFld_apart, State.fld_setFld_other]
  have target : gaitTarget v = gaitTarget s := by rw [gaitTarget, rules'.ruleCap, browned, req, gaitTarget]
  unfold reGait gaitNoted
  simp only [rules.throttleK, u] at *
  rw [gait, target]
  by_cases same : gaitTarget s = s.gait
  · rw [if_pos same, if_pos same]
    exact .inl rfl
  · rw [if_neg same, if_neg same]
    exact ite_eq_else_or_then

/-- What the note of the gait leaves as it was. -/
@[simp] theorem gaitNoted_frame (s : State) (why : Nat) :
    (gaitNoted s why).mem = s.mem ∧ (gaitNoted s why).clk = s.clk ∧ (gaitNoted s why).grm = s.grm ∧
    (gaitNoted s why).rns = s.rns ∧ (gaitNoted s why).htp = s.htp ∧ (gaitNoted s why).host = s.host := by
  unfold gaitNoted
  dsimp only
  split <;> simp

theorem reg_gaitNoted (s : State) (why : Nat) {o : Nat} (low : 0x100000 ≤ o) (high : o < 0x400000) (gait : o ≠ Reg.PWR_GAIT)
    (status : o ≠ Reg.PWR_STATUS) (changes : o ≠ Reg.PWR_GAIT_CHANGES) : (gaitNoted s why).reg o = s.reg o := by
  unfold gaitNoted
  dsimp only
  split
  · rw [State.reg_setFld_other _ _ _ status, State.reg_setFld_other _ _ _ gait]
  · rw [reg_grmEvent _ _ _ _ _ low high, State.reg_bump_other _ changes, State.reg_setFld_other _ _ _ status,
      State.reg_setFld_other _ _ _ status, State.reg_setFld_other _ _ _ gait]

theorem gaitNoted_pwrGait (s : State) (why : Nat) {f : Field} (high : f.hi < 32) (apart : f.hi < 12 ∨ 14 < f.lo) :
    (gaitNoted s why).fld Reg.PWR_GAIT f = s.fld Reg.PWR_GAIT f := by
  have cap (v : Nat) : (s.setFld Reg.PWR_GAIT F.PWR_GAIT_CAP v).fld Reg.PWR_GAIT f = s.fld Reg.PWR_GAIT f :=
    State.fld_setFld_apart s _ _ _ _ high (by decide) apart.symm
  unfold gaitNoted
  dsimp only
  split <;> simp (disch := decide) only [fld_grmEvent, State.fld_bump_other, State.fld_setFld_other, cap]

theorem gaitNoted_pwrStatus (s : State) (why : Nat) {f : Field} (high : f.hi < 32) (apart : f.hi < 10 ∨ 20 < f.lo) :
    (gaitNoted s why).fld Reg.PWR_STATUS f = s.fld Reg.PWR_STATUS f := by
  have thr (t : State) (v : Nat) : (t.setFld Reg.PWR_STATUS F.PWR_STATUS_THR v).fld Reg.PWR_STATUS f = t.fld Reg.PWR_STATUS f :=
    State.fld_setFld_apart t _ _ _ _ high (by decide) (by change 20 < f.lo ∨ f.hi < 16; omega)
  have gait (t : State) (v : Nat) : (t.setFld Reg.PWR_STATUS F.PWR_STATUS_GAIT v).fld Reg.PWR_STATUS f = t.fld Reg.PWR_STATUS f :=
    State.fld_setFld_apart t _ _ _ _ high (by decide) (by change 12 < f.lo ∨ f.hi < 10; omega)
  unfold gaitNoted
  dsimp only
  split <;> simp (disch := decide) only [fld_grmEvent, State.fld_bump_other, State.fld_setFld_other, thr, gait]

theorem gaitNoted_gait (s : State) (why : Nat) : (gaitNoted s why).gait = gaitTarget s := by
  unfold gaitNoted State.gait
  dsimp only
  split
  next same =>
    simp (disch := decide) only [State.fld_setFld_apart, State.fld_setFld_other]
    exact same.symm
  next =>
    simp (disch := decide) only [fld_grmEvent, State.fld_bump_other, State.fld_setFld_same]
    exact Nat.mod_eq_of_lt (gaitTarget_lt s)

theorem gaitNoted_thr (s : State) (why : Nat) : (gaitNoted s why).fld Reg.PWR_STATUS F.PWR_STATUS_THR = throttleK s % 32 := by
  unfold gaitNoted
  dsimp only
  split <;> simp (disch := decide) only [fld_grmEvent, State.fld_bump_other, State.fld_setFld_apart, State.fld_setFld_same] <;> rfl

theorem gaitNoted_is (s : State) (why : Nat) : GaitIs s (gaitTarget s) why (gaitNoted s why) := by
  refine ⟨gaitNoted_gait s why, fun changed => ?_, fun same => ?_⟩
  · unfold gaitNoted
    rw [if_neg changed]
    refine ⟨?_, _, by rw [groomLog_grmEvent_info]; exact .head _, rfl, rfl, rfl⟩
    rw [reg_grmEvent _ _ _ _ _ (by decide) (by decide), State.reg_bump_same]
    simp (disch := decide) only [State.reg_setFld_other]
  · unfold gaitNoted
    rw [if_pos same]
    simp (disch := decide) only [State.reg_setFld_other]

/-- The newest record of the groom log is kept. -/
theorem gaitNoted_keeps_newest {s : State} {e : Event} {l : List Event} (h : s.groomLog = e :: l) (why : Nat) :
    e ∈ (gaitNoted s why).groomLog := by
  unfold gaitNoted
  dsimp only
  split
  · simp [h]
  · rw [groomLog_grmEvent_info]
    simp [h]

/-! ### The clock follows -/

/-- A change of the ARITH clock and of VARITH alone. -/
structure ClockOnly (s t : State) : Prop where
  state : t = { s with regs := t.regs, clk := t.clk, grm := t.grm }
  reg : ∀ o, o ≠ Reg.CLK_ARITH → t.reg o = s.reg o
  parked : t.fld Reg.CLK_ARITH F.CLK_ARITH_PARKED = s.fld Reg.CLK_ARITH F.CLK_ARITH_PARKED
  grm : t.grm = { s.grm with varith := t.grm.varith }
  clk : t.clk = { s.clk with pllA := t.clk.pllA, shift := t.clk.shift, stable := t.clk.stable }

theorem ClockOnly.refl (s : State) : ClockOnly s s := ⟨rfl, fun _ _ => rfl, rfl, rfl, rfl⟩

theorem ClockOnly.trans {s t u : State} (h : ClockOnly s t) (k : ClockOnly t u) : ClockOnly s u where
  state := by rw [k.state, h.state]
  reg o ho := (k.reg o ho).trans (h.reg o ho)
  parked := k.parked.trans h.parked
  grm := by rw [k.grm, h.grm]
  clk := by rw [k.clk, h.clk]

theorem setReg_state (s : State) (o v : Nat) : s.setReg o v = { s with regs := (s.setReg o v).regs } := by
  unfold State.setReg
  split <;> rfl

theorem ClockOnly.setArith (s : State) (src freq : Nat) : ClockOnly s (setArith s src freq) where
  state := by
    unfold Machine.setArith State.setFld
    rw [setReg_state, setReg_state s]
  reg o ho := by rw [Machine.setArith, State.reg_setFld_other _ _ _ ho, State.reg_setFld_other _ _ _ ho]
  parked := by simp (disch := decide) only [Machine.setArith, State.fld_setFld_apart]
  grm := by simp [Machine.setArith]
  clk := by simp [Machine.setArith]

theorem ClockOnly.setVarith (s : State) (mv : Nat) : ClockOnly s (setVarith s mv) := ⟨rfl, fun _ _ => rfl, rfl, rfl, rfl⟩

theorem ClockOnly.updClk (s : State) {f : Clocks → Clocks}
    (h : f s.clk = { s.clk with pllA := (f s.clk).pllA, shift := (f s.clk).shift, stable := (f s.clk).stable }) :
    ClockOnly s (s.updClk f) := ⟨rfl, fun _ _ => rfl, rfl, rfl, h⟩

theorem ClockOnly.clockTo (s : State) (g : Nat) : ClockOnly s (clockTo s g) := by
  unfold Machine.clockTo
  split
  · exact (setArith s _ _).trans ((updClk _ rfl).trans (setVarith _ _))
  · exact (setArith s _ _).trans (updClk _ rfl)

theorem ClockOnly.clockRun (s : State) (g : Nat) : ClockOnly s (clockRun s g) := by
  unfold Machine.clockRun
  split
  · have walk (f : Clocks → Shift) : ClockOnly s ((onPllB s).updClk fun c => { c with shift := f c }) :=
      (setArith s _ _).trans (updClk _ rfl)
    dsimp only
    split
    · exact walk _
    · exact (walk _).trans (setVarith _ _)
  · split
    · exact refl s
    all_goals
      split
      · exact updClk s rfl
      · exact clockTo s g

theorem ClockOnly.clockFollow (s : State) : ClockOnly s (clockFollow s) := by
  unfold Machine.clockFollow
  dsimp only
  split
  · exact refl s
  split
  · split
    · exact (setArith s _ _).trans (updClk _ rfl)
    · exact clockRun s _
  · split
    · exact refl s
    · exact (updClk s rfl).trans (clockRun _ _)
  · split
    · exact refl s
    · exact updClk s rfl
  · exact refl s

theorem ClockOnly.frame {s t : State} (h : ClockOnly s t) : t.rns = s.rns ∧ t.htp = s.htp ∧ t.host = s.host ∧ t.mem = s.mem ∧
    t.tck = s.tck ∧ t.groomLog = s.groomLog := by
  rw [h.state]
  exact ⟨rfl, rfl, rfl, rfl, rfl, rfl⟩

theorem ClockOnly.fld {s t : State} (h : ClockOnly s t) {o : Nat} (ho : o ≠ Reg.CLK_ARITH) (f : Field) : t.fld o f = s.fld o f :=
  fld_congr (h.reg o ho) f

theorem ClockOnly.gait {s t : State} (h : ClockOnly s t) : t.gait = s.gait := h.fld (by decide) _

theorem ClockOnly.browned {s t : State} (h : ClockOnly s t) : t.browned = s.browned := flag_congr (h.fld (by decide) _)

/-! ### The clock in force -/

theorem gaitFreq_lt (g : Nat) : gaitFreq g < 256 := by
  unfold gaitFreq
  repeat' split
  all_goals omega

@[simp] theorem setArith_frame (s : State) (src freq : Nat) :
    (setArith s src freq).clk = s.clk ∧ (setArith s src freq).grm = s.grm := by simp [setArith]

@[simp] theorem onPllB_frame (s : State) : (onPllB s).clk = s.clk ∧ (onPllB s).grm = s.grm := setArith_frame s 1 12

@[simp] theorem clk_updClk (s : State) (f : Clocks → Clocks) : (s.updClk f).clk = f s.clk := (rfl)
@[simp] theorem clk_setVarith (s : State) (mv : Nat) : (setVarith s mv).clk = s.clk := (rfl)
@[simp] theorem varith_setVarith (s : State) (mv : Nat) : (setVarith s mv).grm.varith = mv := (rfl)
@[simp] theorem fld_updClk (s : State) (f : Clocks → Clocks) (o : Nat) (x : Field) : (s.updClk f).fld o x = s.fld o x := (rfl)
@[simp] theorem fld_setVarith (s : State) (mv o : Nat) (x : Field) : (setVarith s mv).fld o x = s.fld o x := (rfl)

theorem setArith_fields (s : State) {src freq : Nat} (hs : src < 2) (hf : freq < 256) :
    (setArith s src freq).fld Reg.CLK_ARITH F.CLK_ARITH_SRC = src ∧ (setArith s src freq).fld Reg.CLK_ARITH F.CLK_ARITH_FREQ = freq := by
  unfold setArith
  constructor
  · rw [State.fld_setFld_apart _ _ _ _ _ (by decide) (by decide) (by decide), State.fld_setFld_same _ _ _ _ (by decide) (by decide)]
    exact Nat.mod_eq_of_lt hs
  · rw [State.fld_setFld_same _ _ _ _ (by decide) (by decide)]
    exact Nat.mod_eq_of_lt hf

/-- ARITH in `t` runs on PLL B at 1.2 GHz. -/
def OnPllB (t : State) : Prop := t.fld Reg.CLK_ARITH F.CLK_ARITH_SRC = 1 ∧ t.fld Reg.CLK_ARITH F.CLK_ARITH_FREQ = 12

theorem OnPllB.updClk {s : State} (h : OnPllB s) (f : Clocks → Clocks) : OnPllB (s.updClk f) := by
  rwa [OnPllB, fld_updClk, fld_updClk]

theorem OnPllB.setVarith {s : State} (h : OnPllB s) (mv : Nat) : OnPllB (setVarith s mv) := by
  rwa [OnPllB, fld_setVarith, fld_setVarith]

theorem onPllB_onPllB (s : State) : OnPllB (onPllB s) := setArith_fields s (by decide) (by decide)

/-- To a fast gait whose voltage stands: PLL A at its frequency with VARITH following down, or PLL B until PLL A has relocked. -/
theorem clockTo_fast (s : State) (g : Nat) :
    (s.clk.pllA = gaitFreq g → (clockTo s g).clk.shift = .none ∧ (clockTo s g).fld Reg.CLK_ARITH F.CLK_ARITH_SRC = 0 ∧
      (clockTo s g).fld Reg.CLK_ARITH F.CLK_ARITH_FREQ = gaitFreq g ∧ (clockTo s g).grm.varith = gaitMv g ∧
      (clockTo s g).clk.stable = s.clk.stable) ∧
    (s.clk.pllA ≠ gaitFreq g → (clockTo s g).clk.shift = .relock (gaitFreq g) ∧ OnPllB (clockTo s g) ∧
      (clockTo s g).grm.varith = s.grm.varith) := by
  unfold clockTo
  refine ⟨fun at' => ?_, fun away => ?_⟩
  · obtain ⟨src, freq⟩ := setArith_fields s (src := 0) (by decide) (gaitFreq_lt g)
    rw [if_pos at', fld_setVarith, fld_setVarith, fld_updClk, fld_updClk]
    exact ⟨by simp, src, freq, by simp, by simp⟩
  · rw [if_neg away]
    exact ⟨rfl, (onPllB_onPllB s).updClk _, by simp⟩

/-- WALK and slower run on PLL B; a brown-out hold leaves VARITH unchanged (R318). -/
theorem clockRun_walk (s : State) {g : Nat} (h : 3 ≤ g) :
    OnPllB (clockRun s g) ∧ (clockRun s g).clk.pllA = s.clk.pllA ∧ (clockRun s g).clk.stable = s.clk.stable ∧
      (s.browned = true → (clockRun s g).grm.varith = s.grm.varith) ∧
      (s.browned = false → (clockRun s g).grm.varith = 600) := by
  have hold (f : Clocks → Clocks) : ((onPllB s).updClk f).browned = s.browned :=
    flag_congr ((fld_updClk ..).trans ((ClockOnly.setArith s 1 12).fld (by decide) _))
  have pllB (f : Clocks → Clocks) : OnPllB ((onPllB s).updClk f) := (onPllB_onPllB s).updClk f
  unfold clockRun
  rw [if_pos h]
  dsimp only
  rw [hold]
  by_cases on : s.browned = true
  · rw [if_pos on]
    exact ⟨pllB _, by simp, by simp, fun _ => by simp, fun off => absurd on (by simp [off])⟩
  · rw [if_neg on]
    exact ⟨(pllB _).setVarith _, by simp, by simp, fun off => absurd off on, fun _ => rfl⟩

theorem clockRun_fast {s : State} {g : Nat} (h : g < 3) (shift : s.clk.shift = .none) :
    clockRun s g = if s.grm.varith < gaitMv g then s.updClk fun c => { c with shift := .ramp } else clockTo s g := by
  unfold clockRun
  rw [if_neg (by omega), shift]

/-- The ARITH clock and VARITH in `t` follow gait `g` from where they stood in `s`: PLL B at WALK and on the way into STABLED,
VARITH first for a faster gait, then PLL A (R279, R314, R316). -/
def ClockFollows (s : State) (g : Nat) (t : State) : Prop :=
  (g = 4 → t.clk.stable = .entering) ∧ (3 ≤ g → OnPllB t) ∧
  (g < 3 → s.grm.varith < gaitMv g → t.clk.shift = .ramp) ∧
  (g < 3 → gaitMv g ≤ s.grm.varith → s.clk.pllA = gaitFreq g → t.fld Reg.CLK_ARITH F.CLK_ARITH_SRC = 0 ∧
    t.fld Reg.CLK_ARITH F.CLK_ARITH_FREQ = gaitFreq g ∧ t.grm.varith = gaitMv g) ∧
  (g < 3 → gaitMv g ≤ s.grm.varith → s.clk.pllA ≠ gaitFreq g → t.clk.shift = .relock (gaitFreq g) ∧ OnPllB t)

theorem clockRun_follows {s : State} {g : Nat} (shift : s.clk.shift = .none) (h : g ≠ 4) : ClockFollows s g (clockRun s g) := by
  obtain ⟨at', away⟩ := clockTo_fast s g
  refine ⟨fun e => absurd e h, fun walk => (clockRun_walk s walk).1, fun fast below => ?_, fun fast stands same => ?_,
    fun fast stands other => ?_⟩
  · rw [clockRun_fast fast shift, if_pos below]
    rfl
  · rw [clockRun_fast fast shift, if_neg (by omega)]
    obtain ⟨-, src, freq, varith, -⟩ := at' same
    exact ⟨src, freq, varith⟩
  · rw [clockRun_fast fast shift, if_neg (by omega)]
    obtain ⟨relock, pllB, -⟩ := away other
    exact ⟨relock, pllB⟩

theorem clockFollow_run {s : State} (held : s.held = false) (stable : s.clk.stable = .none) (h : s.gait ≠ 4) :
    clockFollow s = clockRun s s.gait := by
  unfold clockFollow
  rw [held, stable]
  exact if_neg h

theorem clockFollow_stabled {s : State} (held : s.held = false) (stable : s.clk.stable = .none) (h : s.gait = 4) :
    clockFollow s = (onPllB s).updClk fun c => { c with
      stable := .entering, shift := if c.shift == .ramp then .none else c.shift } := by
  unfold clockFollow
  rw [held, stable]
  exact if_pos h

theorem clockFollow_follows {s : State} (quiet : ClockQuiet s) : ClockFollows s s.gait (clockFollow s) := by
  obtain ⟨held, stable, shift⟩ := quiet
  by_cases h : s.gait = 4
  · rw [clockFollow_stabled held stable h, h]
    exact ⟨fun _ => rfl, fun _ => (onPllB_onPllB s).updClk _, by omega, by omega, by omega⟩
  · rw [clockFollow_run held stable h]
    exact clockRun_follows shift h

/-- A brown-out hold leaves VARITH and PLL A as they are (R318). -/
theorem clockFollow_hold {s : State} (quiet : ClockQuiet s) (hold : s.browned = true) (walk : 3 ≤ s.gait) :
    (clockFollow s).grm.varith = s.grm.varith ∧ (clockFollow s).clk.pllA = s.clk.pllA := by
  obtain ⟨held, stable, -⟩ := quiet
  by_cases h : s.gait = 4
  · rw [clockFollow_stabled held stable h]
    simp
  · rw [clockFollow_run held stable h]
    obtain ⟨-, pllA, -, varith, -⟩ := clockRun_walk s walk
    exact ⟨varith hold, pllA⟩

/-! ### The gait is re-evaluated -/

theorem power_heldRelease (s : State) : (heldRelease s).power = s.power := by
  unfold heldRelease
  split
  · rfl
  · exact power_hostShaperRun s

theorem power_reGait (s : State) (why : Nat) : (reGait s why).power = (clockFollow (gaitNoted s why)).power := by
  obtain h | h := reGait_cases s why
  · rw [h]
  · rw [h, power_heldRelease]

/-- But for VARITH the groom stands. -/
theorem reGait_grm (s : State) (why : Nat) : (reGait s why).grm = { s.grm with varith := (reGait s why).grm.varith } := by
  obtain ⟨grm, -, -⟩ := power_eq_iff.mp (power_reGait s why)
  have only := (ClockOnly.clockFollow (gaitNoted s why)).grm
  simp only [gaitNoted_frame] at only
  rw [grm, only]

theorem reGait_held (s : State) (why : Nat) : (reGait s why).held = s.held := by
  obtain ⟨-, clk, -⟩ := power_eq_iff.mp (power_reGait s why)
  have only := (ClockOnly.clockFollow (gaitNoted s why)).clk
  simp only [gaitNoted_frame] at only
  rw [State.held, clk, only, State.held]

theorem reg_reGait_noted (s : State) (why : Nat) {o : Nat} (h : groomReg o = true) :
    (reGait s why).reg o = (gaitNoted s why).reg o := by
  obtain ⟨-, -, reg⟩ := power_eq_iff.mp (power_reGait s why)
  rw [reg o h, (ClockOnly.clockFollow _).reg o fun e => by simp [e, groomReg, Reg.CLK_ARITH] at h]

theorem reg_reGait (s : State) (why : Nat) {o : Nat} (h : groomReg o = true) (gait : o ≠ Reg.PWR_GAIT)
    (status : o ≠ Reg.PWR_STATUS) (changes : o ≠ Reg.PWR_GAIT_CHANGES) : (reGait s why).reg o = s.reg o := by
  have range : 0x200000 ≤ o ∧ o < 0x300000 := by simpa [groomReg] using h
  rw [reg_reGait_noted s why h, reg_gaitNoted s why (by omega) (by omega) gait status changes]

theorem sameRules_reGait (s : State) (why : Nat) : SameRules s (reGait s why) := fun o low high =>
  reg_reGait s why (by simp [groomReg]; omega) (by unfold Reg.PWR_GAIT; omega) (by unfold Reg.PWR_STATUS; omega)
    (by unfold Reg.PWR_GAIT_CHANGES; omega)

theorem reGait_pwrGait (s : State) (why : Nat) {f : Field} (high : f.hi < 32) (apart : f.hi < 12 ∨ 14 < f.lo) :
    (reGait s why).fld Reg.PWR_GAIT f = s.fld Reg.PWR_GAIT f :=
  (fld_congr (reg_reGait_noted s why rfl) f).trans (gaitNoted_pwrGait s why high apart)

theorem reGait_pwrStatus (s : State) (why : Nat) {f : Field} (high : f.hi < 32) (apart : f.hi < 10 ∨ 20 < f.lo) :
    (reGait s why).fld Reg.PWR_STATUS f = s.fld Reg.PWR_STATUS f :=
  (fld_congr (reg_reGait_noted s why rfl) f).trans (gaitNoted_pwrStatus s why high apart)

/-! ### With nothing held -/

/-- With nothing held, a release changes only Reins, the transport and the host port. -/
theorem heldRelease_nothing {s : State} (nothing : NothingHeld s) :
    ∃ r x y, heldRelease s = { s with rns := r, htp := x, host := y } := by
  obtain ⟨waiting, bells, answered⟩ := nothing
  unfold heldRelease
  split
  · exact ⟨s.rns, s.htp, s.host, rfl⟩
  · have none_waiting : (shaperFill s).rns.waiting = [] := waiting
    have none_answered : (shaperFill s).htp.answered = [] := answered
    have none_ringing : (shaperFill s).host.doorbells = [] := bells
    have drained : hostDrain (shaperFill s) = { shaperFill s with htp := { s.htp with answered := [] } } := by
      simp only [hostDrain, none_answered, List.filter_nil, forEach, List.foldl_nil]
      rfl
    simp only [hostShaperRun, none_waiting, List.length_nil, shaperRelease, drained, bellsRun, none_ringing, List.takeWhile_nil,
      forEach, List.foldl_nil]
    split <;> exact ⟨_, _, _, rfl⟩

/-- What a re-evaluation of the gait gives where the clock is quiet and nothing is held. -/
structure ReGaited (s : State) (why : Nat) (t : State) : Prop where
  gait : GaitIs s (gaitTarget s) why t
  mem : t.mem = s.mem
  thr : t.fld Reg.PWR_STATUS F.PWR_STATUS_THR = throttleK s % 32
  follows : ClockFollows s (gaitTarget s) t
  /-- A brown-out hold leaves VARITH and PLL A as they are. -/
  hold : s.browned = true → 3 ≤ gaitTarget s → t.grm.varith = s.grm.varith ∧ t.clk.pllA = s.clk.pllA
  newest : ∀ e l, s.groomLog = e :: l → e ∈ t.groomLog

theorem clockFollow_reGaited {s : State} (quiet : ClockQuiet s) (why : Nat) : ReGaited s why (clockFollow (gaitNoted s why)) := by
  have only := ClockOnly.clockFollow (gaitNoted s why)
  obtain ⟨gait, changed, same⟩ := gaitNoted_is s why
  have noted : ClockQuiet (gaitNoted s why) := by
    obtain ⟨held, stable, shift⟩ := quiet
    exact ⟨by simpa [State.held] using held, by simpa using stable, by simpa using shift⟩
  have log : (clockFollow (gaitNoted s why)).groomLog = (gaitNoted s why).groomLog := by rw [only.state]
  have mem : (clockFollow (gaitNoted s why)).mem = (gaitNoted s why).mem := by rw [only.state]
  have follows := clockFollow_follows noted
  refine ⟨⟨only.gait.trans gait, fun h => ?_, fun h => ?_⟩, ?_, ?_, ?_, fun hold walk => ?_, fun e l h => ?_⟩
  · rw [only.reg _ (by decide), log]
    exact changed h
  · rw [only.reg _ (by decide)]
    exact same h
  · rw [mem]
    simp
  · rw [only.fld (by decide)]
    exact gaitNoted_thr s why
  · simpa only [ClockFollows, gaitNoted_frame, gait] using follows
  · have browned : (gaitNoted s why).browned = true := (flag_congr (gaitNoted_pwrStatus s why (by decide) (by decide))).trans hold
    simpa using clockFollow_hold noted browned (gait ▸ walk)
  · rw [log]
    exact gaitNoted_keeps_newest h why

theorem reGait_reGaited {s : State} (quiet : ClockQuiet s) (nothing : NothingHeld s) (why : Nat) :
    ReGaited s why (reGait s why) := by
  have followed := clockFollow_reGaited quiet why
  obtain h | h := reGait_cases s why
  · rwa [h]
  · have still : NothingHeld (clockFollow (gaitNoted s why)) := by
      rw [(ClockOnly.clockFollow (gaitNoted s why)).state]
      simpa [NothingHeld] using nothing
    obtain ⟨r, x, y, released⟩ := heldRelease_nothing still
    rw [h, released]
    exact ⟨followed.gait, followed.mem, followed.thr, followed.follows, followed.hold, followed.newest⟩

end Sys2Proof.Machine
end

section
/-!
PROOFS. What the commands of gaits, STABLED and brown-out holds do (R314–R319), clause by clause.
-/
namespace Sys2Proof.Machine

theorem reg_congr {s t : State} (h : t.regs = s.regs) (o : Nat) : t.reg o = s.reg o := by rw [State.reg, h, State.reg]

/-! ### Requests -/

/-- What a write of PWR_GAIT sets beside REQ. -/
def gaitWord (s : State) (data : Nat) : State :=
  let s := s.setFld Reg.PWR_GAIT F.PWR_GAIT_MGMT_EN (bits data 11 11)
  if bits data 10 8 ≤ 3 then s.setFld Reg.PWR_GAIT F.PWR_GAIT_WAKE_GAIT (bits data 10 8) else s

theorem gaitWrite_eq (s : State) (data : Nat) : gaitWrite s data = setReq (gaitWord s data) (bits data 2 0) := rfl

/-- Registers alone change. -/
def RegsOnly (s t : State) : Prop := t = { s with regs := t.regs }

theorem RegsOnly.trans {s t u : State} (h : RegsOnly s t) (k : RegsOnly t u) : RegsOnly s u := by
  rw [RegsOnly, k, h]

theorem RegsOnly.setFld (s : State) (o : Nat) (f : Field) (v : Nat) : RegsOnly s (s.setFld o f v) := setReg_state s o _

theorem RegsOnly.bump (s : State) (o : Nat) : RegsOnly s (s.bump o) := setReg_state s o _

theorem gaitWord_regs (s : State) (data : Nat) : RegsOnly s (gaitWord s data) := by
  unfold gaitWord
  dsimp only
  split
  · exact (RegsOnly.setFld s _ _ _).trans (.setFld _ _ _ _)
  · exact RegsOnly.setFld s _ _ _

theorem reg_gaitWord (s : State) (data : Nat) {o : Nat} (h : o ≠ Reg.PWR_GAIT) : (gaitWord s data).reg o = s.reg o := by
  unfold gaitWord
  dsimp only
  split
  · rw [State.reg_setFld_other _ _ _ h, State.reg_setFld_other _ _ _ h]
  · exact State.reg_setFld_other _ _ _ h

theorem bit_eq_bits (v i : Nat) : bit v i = (bits v i i != 0) := by
  have width : i + 1 - i = 1 := by omega
  unfold bit bits
  rw [width]
  obtain h | h := Nat.mod_two_eq_zero_or_one (v / 2 ^ i) <;> simp [h]

theorem gaitWord_fields (s : State) (data : Nat) :
    (gaitWord s data).fld Reg.PWR_GAIT F.PWR_GAIT_REQ = s.fld Reg.PWR_GAIT F.PWR_GAIT_REQ ∧
    (gaitWord s data).flag Reg.PWR_GAIT F.PWR_GAIT_MGMT_EN = bit data 11 ∧
    (bits data 10 8 ≤ 3 → (gaitWord s data).fld Reg.PWR_GAIT F.PWR_GAIT_WAKE_GAIT = bits data 10 8) := by
  have one : bits data 11 11 % 2 = bits data 11 11 := Nat.mod_mod _ _
  unfold gaitWord State.flag
  dsimp only
  rw [bit_eq_bits]
  split
  next wake =>
    simp (disch := decide) only [State.fld_setFld_apart, State.fld_setFld_same]
    exact ⟨trivial, congrArg (· != 0) one, fun _ => Nat.mod_eq_of_lt (by simp only [F.PWR_GAIT_WAKE_GAIT]; omega)⟩
  next none =>
    simp (disch := decide) only [State.fld_setFld_apart, State.fld_setFld_same]
    exact ⟨trivial, congrArg (· != 0) one, fun wake => absurd wake none⟩

theorem gaitIs_congr {s u t : State} {g why : Nat} (gait : u.gait = s.gait)
    (changes : u.reg Reg.PWR_GAIT_CHANGES = s.reg Reg.PWR_GAIT_CHANGES) (h : GaitIs u g why t) : GaitIs s g why t := by
  rwa [GaitIs, gait, changes] at h

/-- A request that is taken: REQ is written and the gait re-evaluated. -/
theorem gaitWrite_taken {s : State} {data : Nat} (gait : bits data 2 0 ≤ 4) (quiet : ClockQuiet s) (nothing : NothingHeld s) :
    ∃ u, gaitWrite s data = reGait u 0 ∧ ClockQuiet u ∧ NothingHeld u ∧ u.grm = s.grm ∧ u.clk = s.clk ∧ u.mem = s.mem ∧
      (∀ o, o ≠ Reg.PWR_GAIT → u.reg o = s.reg o) ∧ u.fld Reg.PWR_GAIT F.PWR_GAIT_REQ = bits data 2 0 := by
  have word := gaitWord_regs s data
  have regs : RegsOnly s ((gaitWord s data).setFld Reg.PWR_GAIT F.PWR_GAIT_REQ (bits data 2 0)) := word.trans (.setFld _ _ _ _)
  have grm : ((gaitWord s data).setFld Reg.PWR_GAIT F.PWR_GAIT_REQ (bits data 2 0)).grm = s.grm := by rw [regs]
  have clk : ((gaitWord s data).setFld Reg.PWR_GAIT F.PWR_GAIT_REQ (bits data 2 0)).clk = s.clk := by rw [regs]
  have held : (gaitWord s data).held = false := by
    rw [word]
    exact quiet.1
  refine ⟨_, ?_, ?_, ?_, grm, clk, ?_, fun o h => ?_, ?_⟩
  · rw [gaitWrite_eq, setReq, if_neg (by simp [held]; omega)]
  · rwa [ClockQuiet, State.held, clk]
  · rw [regs]
    exact nothing
  · rw [regs]
  · rw [State.reg_setFld_other _ _ _ h, reg_gaitWord s data h]
  · rw [State.fld_setFld_same _ _ _ _ (by decide) (by decide)]
    exact Nat.mod_eq_of_lt (by simp only [F.PWR_GAIT_REQ]; omega)

/-! ### VARITH -/

/-- From a quiet clock with the voltage of a fast gait standing, the clock goes to that gait. -/
theorem clockFollow_fast {s : State} (quiet : ClockQuiet s) (fast : s.gait < 3) (stands : gaitMv s.gait ≤ s.grm.varith) :
    clockFollow s = clockTo s s.gait := by
  obtain ⟨held, stable, shift⟩ := quiet
  rw [clockFollow_run held stable (by omega), clockRun_fast fast shift, if_neg (by omega)]

theorem rampDone_spec {s : State} (ramp : s.clk.shift = .ramp) (held : s.held = false) (stable : s.clk.stable = .none)
    (fast : s.gait < 3) : let t := rampDone s
      t.grm.varith = gaitMv s.gait ∧ t = { s with regs := t.regs, clk := t.clk, grm := t.grm } ∧
      (s.clk.pllA = gaitFreq s.gait → t.clk.shift = .none ∧ t.fld Reg.CLK_ARITH F.CLK_ARITH_FREQ = gaitFreq s.gait) ∧
      (s.clk.pllA ≠ gaitFreq s.gait → t.clk.shift = .relock (gaitFreq s.gait)) := by
  let v := (setVarith s (gaitMv s.gait)).updClk fun c => { c with shift := .none }
  have state := (ClockOnly.clockFollow v).state
  have follow : rampDone s = clockTo v s.gait := by
    rw [rampDone, if_pos ramp]
    exact clockFollow_fast (s := v) ⟨held, stable, rfl⟩ fast (Nat.le_refl _)
  obtain ⟨at', away⟩ := clockTo_fast v s.gait
  have done : rampDone s = clockFollow v := by rw [rampDone, if_pos ramp]
  intro t
  refine ⟨?_, ?_, fun same => ?_, fun other => ?_⟩
  · by_cases same : s.clk.pllA = gaitFreq s.gait
    · obtain ⟨-, -, -, varith, -⟩ := at' same
      exact (congrArg (·.grm.varith) follow).trans varith
    · obtain ⟨-, -, varith⟩ := away same
      exact (congrArg (·.grm.varith) follow).trans varith
  · simp only [t]
    rw [done]
    exact state
  · obtain ⟨shift, -, freq, -⟩ := at' same
    simp only [t, follow]
    exact ⟨shift, freq⟩
  · obtain ⟨shift, -⟩ := away other
    simp only [t, follow]
    exact shift

theorem serveReady_unfinished {s : State} (h : s.tck.finishing = false) : serveReady s = s := by
  rw [serveReady, h]
  rfl

/-! ### STABLED -/

theorem forEach_unchanged {α σ : Type} {f : σ → α → σ} {s : σ} (h : ∀ x, f s x = s) (l : List α) : forEach l s f = s := by
  induction l with
  | nil => rfl
  | cons x l ih => rw [forEach, List.foldl_cons, h]; exact ih

theorem portsNarrow_none_up {s : State} (h : ∀ p, (s.port p).state ≠ .up) : portsNarrow s = s := by
  unfold portsNarrow
  refine forEach_unchanged (fun p => ?_) _
  dsimp only
  rw [if_pos (by simpa using h p)]

theorem stableEntered_spec {s : State} (entering : s.clk.stable = .entering) (idle : nothingRuns s = true)
    (down : ∀ p, (s.port p).state ≠ .up) : let t := stableEntered s
      t.clk.stable = .stabled ∧ t.flag Reg.CLK_ARITH F.CLK_ARITH_PARKED = true ∧ t.fld Reg.CLK_ARITH F.CLK_ARITH_FREQ = 0 ∧
        t.grm.varith = 550 ∧ t.mem = s.mem := by
  let u := (setArith (s.updClk fun c => { c with stable := .stabled, shift := .none }) 1 0).setFld
    Reg.CLK_ARITH F.CLK_ARITH_PARKED 1
  have ports : (setVarith u (gaitMv 4)).ports = s.ports := by simp [setVarith, u, setArith]
  have narrow : portsNarrow (setVarith u (gaitMv 4)) = setVarith u (gaitMv 4) :=
    portsNarrow_none_up fun p => by simpa only [State.port, ports] using down p
  have done : stableEntered s = setVarith u (gaitMv 4) := Eq.trans (if_pos ⟨entering, idle⟩) narrow
  intro t
  simp only [t, done]
  refine ⟨by simp [u], ?_, ?_, rfl, by simp [setVarith, u, setArith]⟩
  · simp (disch := decide) only [State.flag, fld_setVarith, u, State.fld_setFld_same]
    rfl
  · simp (disch := decide) only [fld_setVarith, u, State.fld_setFld_apart, setArith_fields]

/-- The ports widen, and nothing else changes. -/
theorem portsWiden_state (s : State) : ∃ p, portsWiden s = { s with ports := p } := by
  refine List.foldlRecOn (motive := fun t : State => ∃ p, t = { s with ports := p }) _ _ ⟨s.ports, rfl⟩ fun t ht p _ => ?_
  obtain ⟨ports, rfl⟩ := ht
  dsimp only
  split
  · exact ⟨ports, rfl⟩
  · exact ⟨_, rfl⟩

theorem parkedRelease_nothing {s : State} (h : s.htp.parked = []) : parkedRelease s = s := by
  rw [parkedRelease, h]
  rfl

/-- ARITH as it restarts on the way out of STABLED: on PLL B, PLL A standing at the frequency of a fast gait (R316). -/
def restarted (s : State) : State :=
  let t := s.setFld Reg.CLK_ARITH F.CLK_ARITH_PARKED 0
  let t := t.updClk fun c => { c with stable := .none, pllA := if s.gait < 3 then gaitFreq s.gait else c.pllA }
  setVarith (onPllB t) (gaitMv (min s.gait 3))

theorem stableLeft_exiting {s : State} (exiting : s.clk.stable = .exiting) :
    stableLeft s = heldRelease (parkedRelease (portsWiden (clockFollow (restarted s)))) := if_neg (by simp [exiting])

theorem restarted_frame (s : State) : (restarted s).htp = s.htp ∧ (restarted s).rns = s.rns ∧ (restarted s).host = s.host ∧
    (restarted s).tck = s.tck ∧ (restarted s).mem = s.mem ∧ (restarted s).clk = { s.clk with
      stable := .none, pllA := if s.gait < 3 then gaitFreq s.gait else s.clk.pllA } := by
  simp [restarted, setVarith, onPllB, setArith]

theorem restarted_gait (s : State) : (restarted s).gait = s.gait := by
  simp (disch := decide) only [State.gait, restarted, fld_setVarith, onPllB, setArith, fld_updClk, State.fld_setFld_other]

theorem restarted_parked (s : State) : (restarted s).fld Reg.CLK_ARITH F.CLK_ARITH_PARKED = 0 := by
  simp (disch := decide) only [restarted, fld_setVarith, onPllB, setArith, fld_updClk, State.fld_setFld_apart, State.fld_setFld_same,
    Nat.zero_mod]

/-- ARITH takes up the gait in force. -/
theorem clockFollow_restarted {s : State} (held : s.held = false) (shift : s.clk.shift = .none) (gait : s.gait ≤ 3) :
    let t := clockFollow (restarted s)
    t.clk.stable = .none ∧ t.fld Reg.CLK_ARITH F.CLK_ARITH_FREQ = gaitFreq s.gait ∧ t.grm.varith = gaitMv s.gait ∧
      t.fld Reg.CLK_ARITH F.CLK_ARITH_SRC = (if s.gait = 3 then 1 else 0) := by
  obtain ⟨-, -, -, -, -, clk⟩ := restarted_frame s
  have quiet : ClockQuiet (restarted s) := by
    refine ⟨?_, by rw [clk], by rw [clk]; exact shift⟩
    rw [State.held, clk]
    exact held
  have varith : (restarted s).grm.varith = gaitMv (min s.gait 3) := by rw [restarted, varith_setVarith]
  intro t
  by_cases walk : s.gait = 3
  · have run : t = clockRun (restarted s) 3 := by
      simp only [t, clockFollow_run quiet.1 quiet.2.1 (by rw [restarted_gait]; omega), restarted_gait, walk]
    obtain ⟨⟨src, freq⟩, -, stable, hold, free⟩ := clockRun_walk (restarted s) (Nat.le_refl 3)
    rw [run, walk]
    refine ⟨by rw [stable, clk], freq, ?_, src⟩
    cases on : (restarted s).browned with
    | true => rw [hold on, varith, walk]; rfl
    | false => rw [free on]; rfl
  · have fast : s.gait < 3 := by omega
    have run : t = clockTo (restarted s) s.gait := by
      have stands : (restarted s).grm.varith = gaitMv (restarted s).gait := by
        rw [restarted_gait, varith, Nat.min_eq_left gait]
      simp only [t, clockFollow_fast quiet (by rwa [restarted_gait]) (Nat.le_of_eq stands.symm), restarted_gait]
    obtain ⟨-, src, freq, mv, stable⟩ := (clockTo_fast (restarted s) s.gait).1 (by rw [clk]; exact if_pos fast)
    rw [run, if_neg walk]
    exact ⟨by rw [stable, clk], freq, mv, src⟩

/-- With nothing parked and nothing held, only the ports, Reins, the transport and the host port change after the restart. -/
theorem released_nothing {u : State} (parked : u.htp.parked = []) (nothing : NothingHeld u) :
    let t := heldRelease (parkedRelease (portsWiden u))
    t.clk = u.clk ∧ t.grm = u.grm ∧ t.regs = u.regs ∧ t.mem = u.mem ∧ t.tck = u.tck := by
  obtain ⟨p, widened⟩ := portsWiden_state u
  have still : parkedRelease { u with ports := p } = { u with ports := p } := parkedRelease_nothing parked
  obtain ⟨r, x, y, released⟩ := heldRelease_nothing (s := { u with ports := p }) nothing
  simp only [widened, still, released, and_self]

theorem stableLeft_spec {s : State} (exiting : s.clk.stable = .exiting) (held : s.held = false) (shift : s.clk.shift = .none)
    (parked : s.htp.parked = []) (nothing : NothingHeld s) (gait : s.gait ≤ 3) : let t := stableLeft s
      (t.clk.stable = .none ∧ t.flag Reg.CLK_ARITH F.CLK_ARITH_PARKED = false ∧
        t.fld Reg.CLK_ARITH F.CLK_ARITH_FREQ = gaitFreq s.gait ∧ t.grm.varith = gaitMv s.gait ∧ t.mem = s.mem ∧
        t.fld Reg.CLK_ARITH F.CLK_ARITH_SRC = (if s.gait = 3 then 1 else 0)) ∧ t.tck = s.tck := by
  have only := ClockOnly.clockFollow (restarted s)
  obtain ⟨htp, rns, host, tck, mem, -⟩ := restarted_frame s
  obtain ⟨rns', htp', host', mem', tck', -⟩ := only.frame
  obtain ⟨stable, freq, varith, src⟩ := clockFollow_restarted held shift gait
  have unparked : (clockFollow (restarted s)).flag Reg.CLK_ARITH F.CLK_ARITH_PARKED = false := by
    rw [State.flag, only.parked, restarted_parked]
    rfl
  have nothing' : NothingHeld (clockFollow (restarted s)) := by
    rwa [NothingHeld, rns', htp', host', rns, htp, host]
  obtain ⟨clk, grm, regs, mem'', tck''⟩ := released_nothing (by rw [htp', htp, parked]) nothing'
  have fld (o : Nat) (f : Field) := fld_congr (reg_congr regs o) f
  rw [stableLeft_exiting exiting]
  refine ⟨⟨?_, (flag_congr (fld _ _)).trans unparked, (fld _ _).trans freq, ?_, ?_, (fld _ _).trans src⟩, ?_⟩
  · rw [clk, stable]
  · rw [grm, varith]
  · rw [mem'', mem', mem]
  · rw [tck'', tck', tck]

theorem reloadResume_nothing {s : State} (wait : s.tck.reloadWait = none) (todo : s.tck.todo = []) : reloadResume s = s := by
  unfold reloadResume
  rw [wait]
  simp [todo]

/-! ### The brown-out hold -/

/-- The hold is noted, counted and logged; the gait is not yet re-evaluated (R318). -/
def holdBegun (s : State) (input : Nat) : State :=
  grmEvent (((s.setFld Reg.PWR_STATUS F.PWR_STATUS_HOLD 1).setFld Reg.PWR_STATUS F.PWR_STATUS_BROWN 1).bump Reg.PWR_HOLDS)
    Tag.pwr 0x0001 Sev.info ([s.gait, 0] ++ two input)

theorem brownBegin_low {s : State} {input : Nat} (up : s.grm.up = true) (free : s.browned = false)
    (low : input < 10 * s.fld Reg.PWR_BROWN F.PWR_BROWN_WARN) : brownBegin s input = reGait (holdBegun s input) 2 :=
  if_neg (by simp [up, free, low])

/-- The hold is over and its record logged; the gait is not yet re-evaluated (R319). -/
def holdEnded (s : State) (x : Recovery) (y : RecoveryTime) : State :=
  grmEvent (s.setFld Reg.PWR_STATUS F.PWR_STATUS_HOLD 0) Tag.pwr 0x0002 Sev.info (two x.least ++ two (min 65535 y.held))

theorem brownEnd_recovered {s : State} {x : Recovery} {y : RecoveryTime} (hold : s.browned = true)
    (above : s.recoverLevel < x.lowest) (late : 50000 ≤ y.timer) : brownEnd s x y = reGait (holdEnded s x y) 2 :=
  if_neg (by simp [hold]; omega)

/-- `u` differs from `s` in PWR_STATUS outside GAIT, in PWR_HOLDS, and by a record at the head of the groom log. -/
structure HoldNoted (s u : State) (code : Nat) (detail : List Nat) : Prop where
  quiet : ClockQuiet s → ClockQuiet u
  nothing : NothingHeld s → NothingHeld u
  grm : u.grm = s.grm
  clk : u.clk = s.clk
  mem : u.mem = s.mem
  gait : u.gait = s.gait
  changes : u.reg Reg.PWR_GAIT_CHANGES = s.reg Reg.PWR_GAIT_CHANGES
  req : u.fld Reg.PWR_GAIT F.PWR_GAIT_REQ = s.fld Reg.PWR_GAIT F.PWR_GAIT_REQ
  rules : SameRules s u
  log : ∃ e l, u.groomLog = e :: l ∧ e.tag = Tag.pwr ∧ e.code = code ∧ e.detail = padTo 12 (detail.map (BitVec.ofNat 8))

theorem holdNoted_of_event {s v : State} (code : Nat) (detail : List Nat)
    (state : RegsOnly s v) (gait : v.gait = s.gait)
    (reg : ∀ o, o ≠ Reg.PWR_STATUS → o ≠ Reg.PWR_HOLDS → v.reg o = s.reg o) :
    HoldNoted s (grmEvent v Tag.pwr code Sev.info detail) code detail := by
  have grm : (grmEvent v Tag.pwr code Sev.info detail).grm = s.grm := by rw [state]; simp
  have clk : (grmEvent v Tag.pwr code Sev.info detail).clk = s.clk := by rw [state]; simp
  exact {
    quiet := fun h => by rwa [ClockQuiet, State.held, clk]
    nothing := fun h => by rw [state]; simpa [NothingHeld] using h
    grm := grm
    clk := clk
    mem := by rw [state]; simp
    gait := (fld_grmEvent _ _ _ _ _ _ (by decide) (by decide)).trans gait
    changes := by rw [reg_grmEvent _ _ _ _ _ (by decide) (by decide), reg _ (by decide) (by decide)]
    req := by rw [fld_grmEvent _ _ _ _ _ _ (by decide) (by decide), fld_congr (reg _ (by decide) (by decide))]
    rules := SameRules.trans (fun o low _ => reg o (by unfold Reg.PWR_STATUS; omega) (by unfold Reg.PWR_HOLDS; omega))
      (sameRules_grmEvent _ _ _ _ _)
    log := ⟨_, _, groomLog_grmEvent_info _ _ _ _, rfl, rfl, rfl⟩ }

theorem holdBegun_noted (s : State) (input : Nat) : HoldNoted s (holdBegun s input) 0x0001 ([s.gait, 0] ++ two input) := by
  refine holdNoted_of_event _ _ ?_ ?_ fun o status holds => ?_
  · exact (RegsOnly.setFld s _ _ _).trans ((RegsOnly.setFld _ _ _ _).trans (.bump _ _))
  · simp (disch := decide) only [State.gait, State.fld_bump_other, State.fld_setFld_apart]
  · rw [State.reg_bump_other _ holds, State.reg_setFld_other _ _ _ status, State.reg_setFld_other _ _ _ status]

theorem holdEnded_noted (s : State) (x : Recovery) (y : RecoveryTime) :
    HoldNoted s (holdEnded s x y) 0x0002 (two x.least ++ two (min 65535 y.held)) := by
  refine holdNoted_of_event _ _ (.setFld ..) ?_ fun o status _ => State.reg_setFld_other _ _ _ status
  simp (disch := decide) only [State.gait, State.fld_setFld_apart]

theorem HoldNoted.gaitIs {s u t : State} {code : Nat} {d : List Nat} (h : HoldNoted s u code d) {g why : Nat}
    (gait : GaitIs u g why t) : GaitIs s g why t := gaitIs_congr h.gait h.changes gait

/-! ### The clauses -/

theorem gaitRequest_ignored {s : State} {data : Word} (h : 4 < bits data.toNat 2 0 ∨ s.held = true) :
    Gives (.gaitRequest data) s fun t => t = { s with regs := t.regs } ∧
      t.fld Reg.PWR_GAIT F.PWR_GAIT_REQ = s.fld Reg.PWR_GAIT F.PWR_GAIT_REQ ∧
      t.flag Reg.PWR_GAIT F.PWR_GAIT_MGMT_EN = bit data.toNat 11 ∧
      (bits data.toNat 10 8 ≤ 3 → t.fld Reg.PWR_GAIT F.PWR_GAIT_WAKE_GAIT = bits data.toNat 10 8) := by
  have held : (gaitWord s data.toNat).held = s.held := by rw [gaitWord_regs s data.toNat]; rfl
  have ignored : gaitWrite s data.toNat = gaitWord s data.toNat := by
    rw [gaitWrite_eq, setReq, held, if_pos h]
  exact ⟨_, congrArg Host.Outcome.next ignored, gaitWord_regs s _, gaitWord_fields s _⟩

theorem gaitRequest_taken {s : State} {data : Word} (gait : bits data.toNat 2 0 ≤ 4) (quiet : ClockQuiet s)
    (nothing : NothingHeld s) : let g := bits data.toNat 2 0
      let new := max g (max (ruleCap s) (if s.browned then 3 else 0))
      Gives (.gaitRequest data) s fun t => t.fld Reg.PWR_GAIT F.PWR_GAIT_REQ = g ∧ GaitIs s new 0 t ∧ t.mem = s.mem ∧
        t.fld Reg.PWR_STATUS F.PWR_STATUS_THR = throttleK s % 32 ∧ ClockFollows s new t := by
  obtain ⟨u, taken, quiet', nothing', grm, clk, mem, reg, req⟩ := gaitWrite_taken gait quiet nothing
  have rules : SameRules s u := fun o low _ => reg o (by unfold Reg.PWR_GAIT; omega)
  have status (f : Field) : u.fld Reg.PWR_STATUS f = s.fld Reg.PWR_STATUS f := fld_congr (reg _ (by decide)) f
  have target : gaitTarget u = max (bits data.toNat 2 0) (max (ruleCap s) (if s.browned then 3 else 0)) := by
    rw [gaitTarget, rules.ruleCap, req, State.browned, flag_congr (status _), State.browned]
  obtain ⟨is, mem', thr, follows, -, -⟩ := reGait_reGaited quiet' nothing' 0
  rw [target] at is follows
  refine ⟨_, congrArg Host.Outcome.next taken, ?_, gaitIs_congr (status _) (reg _ (by decide)) is, mem'.trans mem, ?_, ?_⟩
  · rw [reGait_pwrGait u 0 (by decide) (by decide), req]
  · rw [thr, rules.throttleK]
  · rwa [ClockFollows, grm, clk] at follows

theorem varithRampComplete_ramped {s : State} (finished : s.tck.finishing = false) (ramp : s.clk.shift = .ramp)
    (held : s.held = false) (stable : s.clk.stable = .none) (fast : s.gait < 3) :
    Gives .varithRampComplete s fun t => t.grm.varith = gaitMv s.gait ∧ t = { s with regs := t.regs, clk := t.clk, grm := t.grm } ∧
      (s.clk.pllA = gaitFreq s.gait → t.clk.shift = .none ∧ t.fld Reg.CLK_ARITH F.CLK_ARITH_FREQ = gaitFreq s.gait) ∧
      (s.clk.pllA ≠ gaitFreq s.gait → t.clk.shift = .relock (gaitFreq s.gait)) := by
  have spec := rampDone_spec ramp held stable fast
  have still : serveReady (rampDone s) = rampDone s := serveReady_unfinished (by rw [spec.2.1]; exact finished)
  exact ⟨_, congrArg Host.Outcome.next still, spec⟩

theorem varithRampComplete_otherwise {s : State} (finished : s.tck.finishing = false) (h : s.clk.shift ≠ .ramp) :
    exec .varithRampComplete s = .next s := by
  have still : serveReady (rampDone s) = s := by rw [rampDone, if_neg h, serveReady_unfinished finished]
  exact congrArg Host.Outcome.next still

theorem stabledEntryComplete_otherwise {s : State} (h : s.clk.stable ≠ .entering ∨ nothingRuns s = false) :
    exec .stabledEntryComplete s = .next s := by
  refine congrArg Host.Outcome.next (if_neg fun both => ?_)
  obtain h | h := h
  · exact h both.1
  · exact absurd both.2 (by simp [h])

theorem stabledEntryComplete_enters {s : State} (entering : s.clk.stable = .entering) (idle : nothingRuns s = true)
    (down : ∀ p, (s.port p).state ≠ .up) : Gives .stabledEntryComplete s fun t =>
      t.clk.stable = .stabled ∧ t.flag Reg.CLK_ARITH F.CLK_ARITH_PARKED = true ∧ t.fld Reg.CLK_ARITH F.CLK_ARITH_FREQ = 0 ∧
        t.grm.varith = 550 ∧ t.mem = s.mem :=
  ⟨_, rfl, stableEntered_spec entering idle down⟩

theorem stabledExitComplete_exits {s : State} (exiting : s.clk.stable = .exiting) (held : s.held = false)
    (shift : s.clk.shift = .none) (parked : s.htp.parked = []) (nothing : NothingHeld s) (gait : s.gait ≤ 3)
    (wait : s.tck.reloadWait = none) (todo : s.tck.todo = []) :
    Gives .stabledExitComplete s fun t => t.clk.stable = .none ∧ t.flag Reg.CLK_ARITH F.CLK_ARITH_PARKED = false ∧
      t.fld Reg.CLK_ARITH F.CLK_ARITH_FREQ = gaitFreq s.gait ∧ t.grm.varith = gaitMv s.gait ∧ t.mem = s.mem ∧
      t.fld Reg.CLK_ARITH F.CLK_ARITH_SRC = (if s.gait = 3 then 1 else 0) := by
  obtain ⟨left, tck⟩ := stableLeft_spec exiting held shift parked nothing gait
  have done : (if s.clk.stable = .exiting then reloadResume (stableLeft s) else s) = stableLeft s := by
    rw [if_pos exiting, reloadResume_nothing (by rw [tck, wait]) (by rw [tck, todo])]
  exact ⟨_, congrArg Host.Outcome.next done, left⟩

theorem brownoutWarn_holds {s : State} {input : Nat} (up : s.grm.up = true) (free : s.browned = false)
    (low : input < 10 * s.fld Reg.PWR_BROWN F.PWR_BROWN_WARN) (quiet : ClockQuiet s) (nothing : NothingHeld s) :
    let new := max (s.fld Reg.PWR_GAIT F.PWR_GAIT_REQ) (max (ruleCap s) 3)
    Gives (.brownoutWarn input) s fun t => t.browned = true ∧ t.flag Reg.PWR_STATUS F.PWR_STATUS_BROWN = true ∧
      t.reg Reg.PWR_HOLDS = (s.reg Reg.PWR_HOLDS + 1) % 2 ^ 32 ∧ GaitIs s new 2 t ∧ t.mem = s.mem ∧
      t.fld Reg.CLK_ARITH F.CLK_ARITH_SRC = 1 ∧ t.grm.varith = s.grm.varith ∧ t.clk.pllA = s.clk.pllA ∧
      ∃ e ∈ t.groomLog, e.tag = Tag.pwr ∧ e.code = 0x0001 ∧
        e.detail = padTo 12 (([s.gait, 0] ++ two input).map (BitVec.ofNat 8)) := by
  have noted := holdBegun_noted s input
  have hold : (holdBegun s input).browned = true := by
    simp (disch := decide) only [State.browned, State.flag, holdBegun, fld_grmEvent, State.fld_bump_other, State.fld_setFld_apart,
      State.fld_setFld_same]
    rfl
  have brown : (holdBegun s input).flag Reg.PWR_STATUS F.PWR_STATUS_BROWN = true := by
    simp (disch := decide) only [State.flag, holdBegun, fld_grmEvent, State.fld_bump_other, State.fld_setFld_same]
    rfl
  have holds : (holdBegun s input).reg Reg.PWR_HOLDS = (s.reg Reg.PWR_HOLDS + 1) % 2 ^ 32 := by
    rw [holdBegun, reg_grmEvent _ _ _ _ _ (by decide) (by decide), State.reg_bump_same]
    simp (disch := decide) only [State.reg_setFld_other]
  have target : gaitTarget (holdBegun s input) = max (s.fld Reg.PWR_GAIT F.PWR_GAIT_REQ) (max (ruleCap s) 3) := by
    rw [gaitTarget, noted.rules.ruleCap, noted.req, hold]
    rfl
  have walk : 3 ≤ gaitTarget (holdBegun s input) := by rw [target]; omega
  obtain ⟨is, mem, -, follows, still, newest⟩ := reGait_reGaited (noted.quiet quiet) (noted.nothing nothing) 2
  obtain ⟨varith, pllA⟩ := still hold walk
  obtain ⟨e, l, log, event⟩ := noted.log
  refine ⟨_, congrArg Host.Outcome.next (brownBegin_low up free low), ?_, ?_, ?_, target ▸ noted.gaitIs is, mem.trans noted.mem,
    (follows.2.1 walk).1, varith.trans (congrArg _ noted.grm), pllA.trans (congrArg _ noted.clk), e, newest e l log, event⟩
  · rw [State.browned, flag_congr (reGait_pwrStatus _ 2 (by decide) (by decide))]
    exact hold
  · rw [flag_congr (reGait_pwrStatus _ 2 (by decide) (by decide)), brown]
  · rw [reg_reGait _ 2 rfl (by decide) (by decide) (by decide), holds]

theorem brownoutWarn_otherwise {s : State} {input : Nat}
    (h : s.grm.up = false ∨ s.browned = true ∨ ¬ input < 10 * s.fld Reg.PWR_BROWN F.PWR_BROWN_WARN) :
    exec (.brownoutWarn input) s = .next s :=
  congrArg Host.Outcome.next (if_pos (by simpa [or_assoc] using h))

theorem brownoutRecover_ends {s : State} {x : Recovery} {y : RecoveryTime} (hold : s.browned = true)
    (above : s.recoverLevel < x.lowest) (late : 50000 ≤ y.timer) (quiet : ClockQuiet s) (nothing : NothingHeld s) :
    let new := max (s.fld Reg.PWR_GAIT F.PWR_GAIT_REQ) (ruleCap s)
    Gives (.brownoutRecover x y) s fun t => t.browned = false ∧
      t.flag Reg.PWR_STATUS F.PWR_STATUS_BROWN = s.flag Reg.PWR_STATUS F.PWR_STATUS_BROWN ∧ GaitIs s new 2 t ∧ t.mem = s.mem ∧
      (new < 3 → gaitMv new ≤ s.grm.varith → s.clk.pllA = gaitFreq new → t.fld Reg.CLK_ARITH F.CLK_ARITH_FREQ = gaitFreq new) ∧
      ∃ e ∈ t.groomLog, e.tag = Tag.pwr ∧ e.code = 0x0002 ∧
        e.detail = padTo 12 ((two x.least ++ two (min 65535 y.held)).map (BitVec.ofNat 8)) := by
  have noted := holdEnded_noted s x y
  have free : (holdEnded s x y).browned = false := by
    simp (disch := decide) only [State.browned, State.flag, holdEnded, fld_grmEvent, State.fld_setFld_same]
    rfl
  have brown : (holdEnded s x y).fld Reg.PWR_STATUS F.PWR_STATUS_BROWN = s.fld Reg.PWR_STATUS F.PWR_STATUS_BROWN := by
    simp (disch := decide) only [holdEnded, fld_grmEvent, State.fld_setFld_apart]
  have target : gaitTarget (holdEnded s x y) = max (s.fld Reg.PWR_GAIT F.PWR_GAIT_REQ) (ruleCap s) := by
    rw [gaitTarget, noted.rules.ruleCap, noted.req, free]
    exact congrArg (max _) (Nat.max_zero _)
  obtain ⟨is, mem, -, follows, -, newest⟩ := reGait_reGaited (noted.quiet quiet) (noted.nothing nothing) 2
  rw [target] at is follows
  obtain ⟨e, l, log, event⟩ := noted.log
  refine ⟨_, congrArg Host.Outcome.next (brownEnd_recovered hold above late), ?_, ?_, noted.gaitIs is, mem.trans noted.mem, ?_,
    e, newest e l log, event⟩
  · rw [State.browned, flag_congr (reGait_pwrStatus _ 2 (by decide) (by decide))]
    exact free
  · exact flag_congr ((reGait_pwrStatus _ 2 (by decide) (by decide)).trans brown)
  · rw [ClockFollows, noted.grm, noted.clk] at follows
    obtain ⟨-, -, -, stands, -⟩ := follows
    exact fun fast voltage pllA => (stands fast voltage pllA).2.1

theorem brownoutRecover_otherwise {s : State} {x : Recovery} {y : RecoveryTime}
    (h : s.browned = false ∨ x.lowest ≤ s.recoverLevel ∨ y.timer < 50000) : exec (.brownoutRecover x y) s = .next s :=
  congrArg Host.Outcome.next (if_pos (by simpa [or_assoc] using h))

end Sys2Proof.Machine
end

section
/-!
PROOFS. A sample period of the groom (R322–R325): the samples, the filters, and the rules as they assert, clear and act.
-/
namespace Sys2Proof.Machine

/-! ### What outlasts a shutdown -/

theorem Tab.get?_filter {α : Type} {p : Nat → Bool} {k : Nat} (h : p k = true) (t : Tab α) :
    Tab.get? (t.filter fun x => p x.1) k = t.get? k := by
  induction t with
  | nil => rfl
  | cons x t ih =>
    obtain ⟨j, v⟩ := x
    by_cases e : k = j
    · subst e
      simp [h, Tab.get?]
    · by_cases hj : p j = true <;> simp [hj, Tab.get?, e, ih]

theorem reg_chipClean (s : State) {o : Nat} (h : groomReg o = true) : (chipClean s).reg o = s.reg o := by
  have kept : (chipClean s).regs.get? o = s.regs.get? o :=
    Tab.get?_filter (p := fun o => groomReg o || o == Reg.GLB_STRAP) (by simp [h]) s.regs
  rw [State.reg, kept, State.reg]

/-- The registers of the groom and its rules, its samples and filters, and WAKE_GAIT. -/
structure GroomKept (s t : State) : Prop where
  samples : t.grm.samples = s.grm.samples
  filters : t.grm.filters = s.grm.filters
  rules : SameRules s t
  wake : t.fld Reg.PWR_GAIT F.PWR_GAIT_WAKE_GAIT = s.fld Reg.PWR_GAIT F.PWR_GAIT_WAKE_GAIT

theorem GroomKept.refl (s : State) : GroomKept s s := ⟨rfl, rfl, fun _ _ _ => rfl, rfl⟩

theorem GroomKept.trans {s t u : State} (h : GroomKept s t) (k : GroomKept t u) : GroomKept s u :=
  ⟨k.samples.trans h.samples, k.filters.trans h.filters, h.rules.trans k.rules, k.wake.trans h.wake⟩

theorem GroomKept.of_groom {s t : State} (samples : t.grm.samples = s.grm.samples) (filters : t.grm.filters = s.grm.filters)
    (reg : ∀ o, groomReg o = true → o ≠ Reg.PWR_STATUS → o ≠ Reg.PWR_SHUTDOWNS → t.reg o = s.reg o) : GroomKept s t :=
  ⟨samples, filters, fun o low high => reg o (by simp [groomReg]; omega) (by unfold Reg.PWR_STATUS; omega)
    (by unfold Reg.PWR_SHUTDOWNS; omega), fld_congr (reg _ rfl (by decide) (by decide)) _⟩

theorem GroomKept.reGait (s : State) (why : Nat) : GroomKept s (reGait s why) where
  samples := by rw [reGait_grm]
  filters := by rw [reGait_grm]
  rules := sameRules_reGait s why
  wake := reGait_pwrGait s why (by decide) (by decide)

theorem GroomKept.setReq (s : State) (g : Nat) : GroomKept s (s.setFld Reg.PWR_GAIT F.PWR_GAIT_REQ g) where
  samples := by simp
  filters := by simp
  rules := sameRules_setFld (by decide) s _ _
  wake := State.fld_setFld_apart s _ _ _ _ (by decide) (by decide) (by decide)

theorem power_alertPin (old s : State) : (alertPin old s).power = s.power := by
  unfold alertPin
  split
  · rfl
  · exact power_emit s _

theorem GroomKept.alertPin (old s : State) : GroomKept s (alertPin old s) := by
  obtain ⟨grm, -, reg⟩ := power_eq_iff.mp (power_alertPin old s)
  exact .of_groom (by rw [grm]) (by rw [grm]) fun o h _ _ => reg o h

theorem chipClean_kept (s : State) : GroomKept s (chipClean s) :=
  .of_groom rfl rfl fun _ h _ _ => reg_chipClean s h

theorem chipReset_eq (s : State) :
    ∃ t : State, chipReset s = reGait (t.setFld Reg.PWR_GAIT F.PWR_GAIT_REQ 3) 0 ∧ t.power = (chipClean s).power := by
  refine ⟨_, rfl, ?_⟩
  split
  · rfl
  · exact power_emit _ _

/-- CHIP is in reset, and the groom stands. -/
theorem chipReset_kept (s : State) : GroomKept s (chipReset s) ∧ (chipReset s).held = true := by
  obtain ⟨t, reset, power⟩ := chipReset_eq s
  obtain ⟨grm, clk, reg⟩ := power_eq_iff.mp power
  have clean : GroomKept (chipClean s) t := .of_groom (by rw [grm]) (by rw [grm]) fun o h _ _ => reg o h
  have held : (t.setFld Reg.PWR_GAIT F.PWR_GAIT_REQ 3).held = true := by
    have released : (t.setFld Reg.PWR_GAIT F.PWR_GAIT_REQ 3).clk = t.clk := by simp
    rw [State.held, released, clk]
    rfl
  rw [reset]
  exact ⟨(chipClean_kept s).trans (clean.trans ((GroomKept.setReq t 3).trans (.reGait _ 0))), (reGait_held _ 0).trans held⟩

/-- A shutdown is noted in PWR_STATUS, counted and logged; the rails still stand (R312). -/
def shutdownNoted (t : State) (cause what input : Nat) : State :=
  grmEvent (((t.setFld Reg.PWR_STATUS F.PWR_STATUS_SHUTDOWN 1).setFld Reg.PWR_STATUS F.PWR_STATUS_CAUSE cause).bump
    Reg.PWR_SHUTDOWNS) Tag.pwr 0x0003 Sev.fatal ([cause, what] ++ two input)

theorem shutdownNoted_frame (t : State) (cause what input : Nat) :
    (shutdownNoted t cause what input).grm = t.grm ∧ (shutdownNoted t cause what input).clk = t.clk := by
  simp [shutdownNoted]

theorem shutdownNoted_kept (t : State) (cause what input : Nat) : GroomKept t (shutdownNoted t cause what input) := by
  refine .of_groom (by simp [shutdownNoted]) (by simp [shutdownNoted]) fun o h status shutdowns => ?_
  have range : 0x200000 ≤ o ∧ o < 0x300000 := by simpa [groomReg] using h
  rw [shutdownNoted, reg_grmEvent _ _ _ _ _ (by omega) (by omega), State.reg_bump_other _ shutdowns,
    State.reg_setFld_other _ _ _ status, State.reg_setFld_other _ _ _ status]

theorem shutdown_eq {s : State} (up : RailsUp s) (cause what input : Nat) : ∃ t : State, shutdown s cause what input =
    alertPin s (t.updGrm fun g => { g with rails := .falling 9, hold := true }) ∧
      t.power = (shutdownNoted (chipReset s) cause what input).power := by
  refine ⟨if s.grm.rails = .on then (shutdownNoted (chipReset s) cause what input).emit (.pin "MOD_PWRGD" false)
    else shutdownNoted (chipReset s) cause what input, ?_, ?_⟩
  · unfold shutdown
    obtain on | ⟨k, rising⟩ := up
    · simp only [on]
      rfl
    · simp only [rising]
      rfl
  · split
    · exact power_emit _ _
    · rfl

/-- The controlled shutdown of rails that are up. -/
theorem shutdown_up {s : State} (up : RailsUp s) (cause what input : Nat) :
    GroomKept s (shutdown s cause what input) ∧ (shutdown s cause what input).held = true ∧
      (shutdown s cause what input).grm.rails = .falling 9 := by
  obtain ⟨reset, held⟩ := chipReset_kept s
  obtain ⟨t, eq, power⟩ := shutdown_eq up cause what input
  obtain ⟨grm, clk, reg⟩ := power_eq_iff.mp power
  obtain ⟨pinGrm, pinClk, -⟩ := power_eq_iff.mp (power_alertPin s (t.updGrm fun g => { g with rails := .falling 9, hold := true }))
  have noted : GroomKept (shutdownNoted (chipReset s) cause what input) t :=
    .of_groom (by rw [grm]) (by rw [grm]) fun o h _ _ => reg o h
  have off : GroomKept t (t.updGrm fun g => { g with rails := .falling 9, hold := true }) :=
    .of_groom rfl rfl fun _ _ _ _ => rfl
  rw [eq]
  refine ⟨reset.trans ((shutdownNoted_kept _ _ _ _).trans (noted.trans (off.trans (.alertPin s _)))), ?_, ?_⟩
  · have clk' : (t.updGrm fun g => { g with rails := .falling 9, hold := true }).clk = (chipReset s).clk := by
      simp only [State.updGrm_frame, clk, shutdownNoted_frame]
    rw [State.held, pinClk, clk']
    exact held
  · rw [pinGrm]
    rfl

theorem shutdown_down {s : State} (h : ¬ RailsUp s) (cause what input : Nat) : shutdown s cause what input = s := by
  unfold shutdown
  split
  · rfl
  · rfl
  next k rising => exact absurd (.inr ⟨k, rising⟩) h
  next on => exact absurd (.inl on) h

/-! ### Samples (R322) -/

theorem sample_congr {s t : State} (h : t.grm.samples = s.grm.samples) (i : Nat) : t.sample i = s.sample i := by
  rw [State.sample, h, State.sample]

theorem Tab.get?_map_self {α : Type} (f : Nat → α) {l : List Nat} {k : Nat} (h : k ∈ l) :
    Tab.get? (l.map fun i => (i, f i)) k = some (f k) := by
  induction l with
  | nil => exact nomatch h
  | cons i l ih =>
    rw [List.map_cons, Tab.get?]
    split
    next same => rw [same]
    next other => exact ih ((List.mem_cons.mp h).resolve_left other)

theorem takeSamples_sample (s : State) (raw : Bytes) {i : Nat} (h : i < 64) :
    (takeSamples s raw).sample i = sampleOf s raw s.draw.1 i := by
  have taken : (takeSamples s raw).grm.samples.get? i = some (sampleOf s raw s.draw.1 i) :=
    Tab.get?_map_self (sampleOf s raw s.draw.1) (List.mem_range.mpr h)
  rw [State.sample, Tab.getD, taken]
  rfl

theorem takeSamples_frame (s : State) (raw : Bytes) : (takeSamples s raw).regs = s.regs ∧ (takeSamples s raw).clk = s.clk ∧
    (takeSamples s raw).grm.filters = s.grm.filters ∧ (takeSamples s raw).grm.rails = s.grm.rails := ⟨rfl, rfl, rfl, rfl⟩

theorem stackDown_eq_true_iff (s : State) (k : Nat) :
    stackDown s k = true ↔ s.held = true ∨ bit (s.reg Reg.CLK_STATUS) (8 + k) = false := by
  rw [stackDown, Bool.or_eq_true, Bool.not_eq_true']

/-- Every sensor but the derived sensor 42. -/
theorem sampleOf_eq (s : State) (raw : Bytes) (r : Nat) {i : Nat} (h : i ≠ 42) : sampleOf s raw r i =
    if i = 63 then 0
    else if 32 ≤ i ∧ i < 40 ∧ (s.held = true ∨ bit (s.reg Reg.CLK_STATUS) (8 + (i - 32)) = false) then -32768
    else signed16 (fld raw (2 * i) 2) := by
  simp only [sampleOf, stackDown_eq_true_iff, if_neg h]

theorem signed16_range (v : Nat) : -32768 ≤ signed16 v ∧ signed16 v ≤ 32767 := by
  have low := BitVec.le_toInt (BitVec.ofNat 16 v)
  have high := BitVec.toInt_lt (x := BitVec.ofNat 16 v)
  unfold signed16
  omega

/-- Sensor 42 is the product of sensors 40 and 41 in its own LSB, rounded either way. -/
theorem sampleOf_power (s : State) (raw : Bytes) (r : Nat) : let x := fun (i : Nat) => signed16 (fld raw (2 * i) 2)
    ∀ q, q = x 40 * x 41 / 1000 → -32768 ≤ sampleOf s raw r 42 ∧ sampleOf s raw r 42 ≤ 32767 ∧
      (-32768 ≤ q → q + 1 ≤ 32767 → sampleOf s raw r 42 = q ∨ (x 40 * x 41 % 1000 ≠ 0 ∧ sampleOf s raw r 42 = q + 1)) := by
  intro x q hq
  let v := if x 40 * x 41 % 1000 = 0 ∨ r % 2 = 0 then x 40 * x 41 / 1000 else x 40 * x 41 / 1000 + 1
  have eq : sampleOf s raw r 42 = if -32768 ≤ v ∧ v ≤ 32767 then v else signed16 r := rfl
  have rounded : v = q ∨ (x 40 * x 41 % 1000 ≠ 0 ∧ v = q + 1) := by
    simp only [v, ← hq]
    split
    next => exact .inl rfl
    next odd => exact .inr ⟨fun zero => odd (.inl zero), rfl⟩
  have range := signed16_range r
  rw [eq]
  split
  next inside => exact ⟨inside.1, inside.2, fun _ _ => rounded⟩
  next outside => exact ⟨range.1, range.2, fun low high => absurd ⟨by omega, by omega⟩ outside⟩

/-- The samples are in, and a fixed limit that has tripped has shut the module down. -/
theorem thermalCheck_kept (s : State) : GroomKept s (thermalCheck s) ∧
    (RailsUp s → RailsUp (thermalCheck s) ∨ (thermalCheck s).held = true ∧ (thermalCheck s).grm.rails = .falling 9) := by
  unfold thermalCheck
  split
  next i c _ =>
    by_cases up : RailsUp s
    · obtain ⟨kept, off⟩ := shutdown_up up 4 i s.input
      exact ⟨kept, fun _ => .inr off⟩
    · rw [shutdown_down up]
      exact ⟨.refl s, fun h => absurd h up⟩
  next => exact ⟨.refl s, fun up => .inl up⟩

/-! ### The filter (R323) -/

theorem filterStep_direct (filt a : Nat) (old : Option RuleFilter) (x : Int) (h : filt = 0 ∨ old = none) :
    (filterStep filt a old x).y = x := by
  unfold filterStep
  split
  next => rfl
  next f =>
    have zero : filt = 0 := h.resolve_right nofun
    simp [zero]

theorem filterStep_smooth (a : Nat) (g : RuleFilter) (x : Int) :
    (filterStep 1 a (some g) x).y = g.y + (x - g.y) * ((a : Int) + 1) / 256 := rfl

theorem median3_mem (a b c : Int) : median3 a b c ∈ [a, b, c] := by
  simp only [median3, List.mem_cons, List.not_mem_nil, or_false]
  omega

theorem two_le_countP {p : Int → Bool} {a b c : Int}
    (h : (p a = true ∧ p b = true) ∨ (p a = true ∧ p c = true) ∨ (p b = true ∧ p c = true)) : 2 ≤ [a, b, c].countP p := by
  simp only [List.countP_cons, List.countP_nil]
  obtain ⟨h, k⟩ | ⟨h, k⟩ | ⟨h, k⟩ := h <;> rw [if_pos h, if_pos k] <;> omega

theorem median3_middle (a b c : Int) : 2 ≤ [a, b, c].countP (fun x => decide (x ≤ median3 a b c)) ∧
    2 ≤ [a, b, c].countP (fun x => decide (median3 a b c ≤ x)) := by
  refine ⟨two_le_countP ?_, two_le_countP ?_⟩
  all_goals
    rw [decide_eq_true_eq, decide_eq_true_eq, decide_eq_true_eq, median3]
    omega

theorem filterStep_median (a : Nat) (g : RuleFilter) (x : Int) : let l := (x :: g.last).take 3
    let f := filterStep 2 a (some g) x
    f.last = l ∧ (l.length < 3 → f.y = x) ∧ (l.length = 3 → f.y ∈ l ∧
      2 ≤ l.countP (fun x => decide (x ≤ f.y)) ∧ 2 ≤ l.countP (fun x => decide (f.y ≤ x))) := by
  intro l f
  rcases last : g.last with _ | ⟨p, _ | ⟨q, rest⟩⟩
  · simp only [f, l, filterStep, last]
    exact ⟨rfl, fun _ => rfl, nofun⟩
  · simp only [f, l, filterStep, last]
    exact ⟨rfl, fun _ => rfl, nofun⟩
  · have l_eq : l = [x, p, q] := by simp only [l, last, List.take_succ_cons, List.take_zero]
    have f_eq : f = ⟨median3 x p q, [x, p, q]⟩ := by simp [f, filterStep, last]
    rw [l_eq, f_eq]
    exact ⟨rfl, nofun, fun _ => ⟨median3_mem x p q, median3_middle x p q⟩⟩

/-! ### One rule (R324) -/

theorem bit_eq_testBit (v i : Nat) : bit v i = v.testBit i := by
  rw [Nat.testBit_eq_decide_div_mod_eq, bit, Bool.eq_iff_iff, beq_iff_eq, decide_eq_true_iff]

/-- One bit of a register is written. -/
theorem bit_setReg (s : State) (o : Nat) (b : Bool) {r j : Nat} (h : j < 32) :
    bit ((s.setReg o (setBits (s.reg o) r r (b2n b))).reg o) j = if j = r then b else bit (s.reg o) j := by
  rw [State.reg_setReg_same, bit_eq_testBit, bit_eq_testBit, Nat.testBit_mod_two_pow, testBit_setBits _ _ _ _ _ (Nat.le_succ r)]
  by_cases same : j = r
  · subst same
    cases b <;> simp [h, b2n]
  · rw [if_neg (by omega), if_neg same]
    simp [h]

/-- Whether rule `r` stands asserted once its filter has reached `y` (R324). -/
def ruleStands (s : State) (r : Nat) (y : Int) : Bool :=
  let low := ruleFld s r F.GRM_RULE_CFG_DIR = 1
  if bit (s.reg Reg.GRM_ASSERTED) r then !(if low then decide (ruleClr s r < y) else decide (y < ruleClr s r))
  else if low then decide (y < ruleSet s r) else decide (ruleSet s r < y)

/-- The registers of the rules stand in `t` as in `s`. -/
def SameSetting (s t : State) : Prop := ∀ o, 0x210100 ≤ o → o < 0x300000 → t.reg o = s.reg o

theorem SameSetting.trans {s t u : State} (h : SameSetting s t) (k : SameSetting t u) : SameSetting s u :=
  fun o low high => (k o low high).trans (h o low high)

/-- Every rule's evaluation leaves the setting of the rules, the clocks, and all of the groom but its filters. -/
structure RulesFrame (s t : State) : Prop where
  grm : t.grm = { s.grm with filters := t.grm.filters }
  clk : t.clk = s.clk
  setting : SameSetting s t
  gait : t.reg Reg.PWR_GAIT = s.reg Reg.PWR_GAIT
  error : s.flag Reg.GRM_CTRL F.GRM_CTRL_RULE_ERR = true → t.flag Reg.GRM_CTRL F.GRM_CTRL_RULE_ERR = true

/-- Rule `j` is asserted in `t` and its filter stands as in `s`. -/
structure SameRule (j : Nat) (s t : State) : Prop where
  asserted : bit (t.reg Reg.GRM_ASSERTED) j = bit (s.reg Reg.GRM_ASSERTED) j
  filter : t.grm.filters.get? j = s.grm.filters.get? j

theorem RulesFrame.refl (s : State) : RulesFrame s s := ⟨rfl, rfl, fun _ _ _ => rfl, rfl, id⟩

theorem RulesFrame.trans {s t u : State} (h : RulesFrame s t) (k : RulesFrame t u) : RulesFrame s u where
  grm := by rw [k.grm, h.grm]
  clk := k.clk.trans h.clk
  setting := h.setting.trans k.setting
  gait := k.gait.trans h.gait
  error e := k.error (h.error e)

theorem SameRule.refl (j : Nat) (s : State) : SameRule j s s := ⟨rfl, rfl⟩

theorem SameRule.trans {j : Nat} {s t u : State} (h : SameRule j s t) (k : SameRule j t u) : SameRule j s u :=
  ⟨k.asserted.trans h.asserted, k.filter.trans h.filter⟩

theorem SameSetting.ruleFld {s t : State} (h : SameSetting s t) {r : Nat} (hr : r < 32) (f : Field) :
    ruleFld t r f = ruleFld s r f :=
  fld_congr (h _ (by unfold Reg.GRM_RULE_CFG; omega) (by unfold Reg.GRM_RULE_CFG; omega)) f

theorem SameSetting.ruleSet {s t : State} (h : SameSetting s t) {r : Nat} (hr : r < 32) : ruleSet t r = ruleSet s r := by
  rw [Machine.ruleSet, fld_congr (h _ (by unfold Reg.GRM_RULE_SET; omega) (by unfold Reg.GRM_RULE_SET; omega)), Machine.ruleSet]

theorem SameSetting.ruleClr {s t : State} (h : SameSetting s t) {r : Nat} (hr : r < 32) : ruleClr t r = ruleClr s r := by
  rw [Machine.ruleClr, fld_congr (h _ (by unfold Reg.GRM_RULE_CLR; omega) (by unfold Reg.GRM_RULE_CLR; omega)), Machine.ruleClr]

theorem SameSetting.ruleValid {s t : State} (h : SameSetting s t) {r : Nat} (hr : r < 32) : ruleValid t r = ruleValid s r := by
  simp only [Machine.ruleValid, h.ruleFld hr, h.ruleSet hr, h.ruleClr hr]

theorem SameSetting.ruleStands {s t : State} (h : SameSetting s t) {r : Nat} (hr : r < 32)
    (asserted : bit (t.reg Reg.GRM_ASSERTED) r = bit (s.reg Reg.GRM_ASSERTED) r) (y : Int) : ruleStands t r y = ruleStands s r y := by
  simp only [Machine.ruleStands, h.ruleFld hr, h.ruleSet hr, h.ruleClr hr, asserted]

theorem RulesFrame.sample {s t : State} (h : RulesFrame s t) (i : Nat) : t.sample i = s.sample i :=
  sample_congr (by rw [h.grm]) i

/-! What a change of a rule's assertion writes. -/

theorem ruleTurn_grm (s : State) (r : Nat) (on : Bool) (y : Int) : (ruleTurn s r on y).grm = s.grm ∧ (ruleTurn s r on y).clk = s.clk := by
  cases on <;> simp [ruleTurn]

theorem reg_ruleTurn (s : State) (r : Nat) (on : Bool) (y : Int) {o : Nat} (low : 0x100000 ≤ o) (high : o < 0x400000)
    (h : o ≠ Reg.GRM_ASSERTS) :
    (ruleTurn s r on y).reg o = (s.setReg Reg.GRM_ASSERTED (setBits (s.reg Reg.GRM_ASSERTED) r r (b2n on))).reg o := by
  unfold ruleTurn
  dsimp only
  rw [reg_grmEvent _ _ _ _ _ low high]
  split
  · exact State.reg_bump_other _ h
  · rfl

theorem reg_ruleTurn_other (s : State) (r : Nat) (on : Bool) (y : Int) {o : Nat} (low : 0x100000 ≤ o) (high : o < 0x400000)
    (h : o ≠ Reg.GRM_ASSERTS) (h' : o ≠ Reg.GRM_ASSERTED) : (ruleTurn s r on y).reg o = s.reg o := by
  rw [reg_ruleTurn s r on y low high h, State.reg_setReg_other _ _ h']

theorem bit_ruleTurn (s : State) (r : Nat) (on : Bool) (y : Int) {j : Nat} (h : j < 32) :
    bit ((ruleTurn s r on y).reg Reg.GRM_ASSERTED) j = if j = r then on else bit (s.reg Reg.GRM_ASSERTED) j := by
  rw [reg_ruleTurn s r on y (by decide) (by decide) (by decide), bit_setReg s _ on h]

theorem RulesFrame.turn (s : State) (r : Nat) (on : Bool) (y : Int) : RulesFrame s (ruleTurn s r on y) where
  grm := by rw [(ruleTurn_grm s r on y).1]
  clk := (ruleTurn_grm s r on y).2
  setting o low high := reg_ruleTurn_other s r on y (by omega) (by omega) (by unfold Reg.GRM_ASSERTS; omega)
    (by unfold Reg.GRM_ASSERTED; omega)
  gait := reg_ruleTurn_other s r on y (by decide) (by decide) (by decide) (by decide)
  error e := by rwa [flag_congr (fld_congr (reg_ruleTurn_other s r on y (by decide) (by decide) (by decide) (by decide)) _)]

theorem SameRule.turn (s : State) {r j : Nat} (on : Bool) (y : Int) (h : j < 32) (other : j ≠ r) :
    SameRule j s (ruleTurn s r on y) :=
  ⟨by rw [bit_ruleTurn s r on y h, if_neg other], by rw [(ruleTurn_grm s r on y).1]⟩

theorem RulesFrame.filters (s : State) (f : Tab RuleFilter → Tab RuleFilter) :
    RulesFrame s (s.updGrm fun g => { g with filters := f g.filters }) := ⟨rfl, rfl, fun _ _ _ => rfl, rfl, id⟩

/-- A rule that is off is not asserted. -/
theorem ruleOff_spec (s : State) {r : Nat} (h : r < 32) : RulesFrame s (ruleOff s r) ∧
    bit ((ruleOff s r).reg Reg.GRM_ASSERTED) r = false ∧ (∀ j, j < 32 → j ≠ r → SameRule j s (ruleOff s r)) := by
  have del (u : State) (j : Nat) (other : j ≠ r) : SameRule j u (u.updGrm fun g => { g with filters := g.filters.del r }) :=
    ⟨rfl, Tab.get?_del_other _ other⟩
  unfold ruleOff
  dsimp only
  split
  next on =>
    refine ⟨(RulesFrame.turn s r false _).trans (.filters _ fun t => t.del r), ?_,
      fun j hj other => (SameRule.turn s false _ hj other).trans (del _ j other)⟩
    exact (bit_ruleTurn s r false _ h).trans (if_pos rfl)
  next off => exact ⟨.filters s fun t => t.del r, Bool.eq_false_iff.mpr off, fun j _ other => del s j other⟩

/-- The filter of rule `r` after the sample of its sensor (R323). -/
def nextFilter (s : State) (r : Nat) : RuleFilter :=
  filterStep (ruleFld s r F.GRM_RULE_CFG_FILT) (ruleFld s r F.GRM_RULE_CFG_A) (s.grm.filters.get? r)
    (s.sample (ruleFld s r F.GRM_RULE_CFG_SENSOR))

/-- The rule is enabled and valid, and its sensor gives a sample. -/
structure RuleRuns (s : State) (r : Nat) : Prop where
  enabled : ruleFld s r F.GRM_RULE_CFG_EN ≠ 0
  valid : ruleValid s r = true
  sampled : s.sample (ruleFld s r F.GRM_RULE_CFG_SENSOR) ≠ -32768

theorem ruleEval_off {s : State} {r : Nat} (h : ruleFld s r F.GRM_RULE_CFG_EN = 0) : ruleEval s r = (ruleOff s r, false) := if_pos h

theorem ruleEval_invalid {s : State} {r : Nat} (h : ruleFld s r F.GRM_RULE_CFG_EN ≠ 0) (invalid : ruleValid s r = false) :
    ruleEval s r = ((ruleOff s r).setFld Reg.GRM_CTRL F.GRM_CTRL_RULE_ERR 1, false) := by
  rw [ruleEval, if_neg h, invalid]
  rfl

theorem ruleEval_untrained {s : State} {r : Nat} (h : ruleFld s r F.GRM_RULE_CFG_EN ≠ 0) (valid : ruleValid s r = true)
    (none : s.sample (ruleFld s r F.GRM_RULE_CFG_SENSOR) = -32768) : ruleEval s r = (s, false) := by
  rw [ruleEval, if_neg h, valid]
  exact if_pos none

/-- The filter of rule `r` takes its sample. -/
def filtered (s : State) (r : Nat) : State := s.updGrm fun g => { g with filters := g.filters.put r (nextFilter s r) }

/-- A rule that runs turns where it comes to stand otherwise than before. -/
theorem ruleEval_runs {s : State} {r : Nat} (h : RuleRuns s r) : let y := (nextFilter s r).y
    let was := bit (s.reg Reg.GRM_ASSERTED) r
    let is := ruleStands s r y
    ruleEval s r = (if is = was then filtered s r else ruleTurn (filtered s r) r is y, !was && is) := by
  intro y was is
  have eval : ruleEval s r =
      if !was ∧ (if ruleFld s r F.GRM_RULE_CFG_DIR = 1 then y < ruleSet s r else ruleSet s r < y) then
        (ruleTurn (filtered s r) r true y, true)
      else if was ∧ (if ruleFld s r F.GRM_RULE_CFG_DIR = 1 then ruleClr s r < y else y < ruleClr s r) then
        (ruleTurn (filtered s r) r false y, false)
      else (filtered s r, false) := by
    rw [ruleEval, if_neg h.enabled, h.valid]
    exact if_neg h.sampled
  have stands : is = if was then !(if ruleFld s r F.GRM_RULE_CFG_DIR = 1 then decide (ruleClr s r < y) else decide (y < ruleClr s r))
      else if ruleFld s r F.GRM_RULE_CFG_DIR = 1 then decide (y < ruleSet s r) else decide (ruleSet s r < y) := rfl
  rw [eval]
  clear_value was is y
  by_cases low : ruleFld s r F.GRM_RULE_CFG_DIR = 1 <;> simp only [low, if_true, if_false] at stands ⊢
  all_goals subst stands
  all_goals cases was
  · by_cases cross : y < ruleSet s r <;> simp [cross]
  · by_cases cross : ruleClr s r < y <;> simp [cross]
  · by_cases cross : ruleSet s r < y <;> simp [cross]
  · by_cases cross : y < ruleClr s r <;> simp [cross]

theorem filtered_frame (s : State) (r : Nat) : RulesFrame s (filtered s r) := .filters s fun t => t.put r (nextFilter s r)

theorem filtered_other (s : State) {r j : Nat} (other : j ≠ r) : SameRule j s (filtered s r) :=
  ⟨rfl, Tab.get?_put_other _ _ other⟩

theorem filtered_filter (s : State) (r : Nat) : (filtered s r).grm.filters.get? r = some (nextFilter s r) :=
  Tab.get?_put_same ..

/-- A rule that is disabled or invalid is not asserted; an invalid one is an error (R324). -/
theorem ruleEval_not_asserted {s : State} {r : Nat} (h : r < 32)
    (stopped : ruleFld s r F.GRM_RULE_CFG_EN = 0 ∨ ruleValid s r = false) :
    RulesFrame s (ruleEval s r).1 ∧ bit ((ruleEval s r).1.reg Reg.GRM_ASSERTED) r = false ∧
      (∀ j, j < 32 → j ≠ r → SameRule j s (ruleEval s r).1) ∧
      (ruleFld s r F.GRM_RULE_CFG_EN ≠ 0 → (ruleEval s r).1.flag Reg.GRM_CTRL F.GRM_CTRL_RULE_ERR = true) := by
  obtain ⟨frame, clear, others⟩ := ruleOff_spec s h
  by_cases off : ruleFld s r F.GRM_RULE_CFG_EN = 0
  · rw [ruleEval_off off]
    exact ⟨frame, clear, others, fun on => absurd off on⟩
  · have asserted (u : State) : (u.setFld Reg.GRM_CTRL F.GRM_CTRL_RULE_ERR 1).reg Reg.GRM_ASSERTED = u.reg Reg.GRM_ASSERTED :=
      State.reg_setFld_other u _ _ (by decide)
    have error (u : State) : (u.setFld Reg.GRM_CTRL F.GRM_CTRL_RULE_ERR 1).flag Reg.GRM_CTRL F.GRM_CTRL_RULE_ERR = true := by
      rw [State.flag, State.fld_setFld_same _ _ _ _ (by decide) (by decide)]
      rfl
    have noted (u : State) : RulesFrame u (u.setFld Reg.GRM_CTRL F.GRM_CTRL_RULE_ERR 1) :=
      ⟨by simp, by simp, fun o low _ => State.reg_setFld_other u _ _ (by unfold Reg.GRM_CTRL; omega),
        State.reg_setFld_other u _ _ (by decide), fun _ => error u⟩
    rw [ruleEval_invalid off (stopped.resolve_left off)]
    dsimp only
    exact ⟨frame.trans (noted _), by rw [asserted, clear],
      fun j hj other => (others j hj other).trans ⟨by rw [asserted], by simp⟩, fun _ => error _⟩

theorem ruleEval_stands {s : State} {r : Nat} (h : r < 32) (runs : RuleRuns s r) :
    RulesFrame s (ruleEval s r).1 ∧ (ruleEval s r).1.grm.filters.get? r = some (nextFilter s r) ∧
      bit ((ruleEval s r).1.reg Reg.GRM_ASSERTED) r = ruleStands s r (nextFilter s r).y ∧
      (∀ j, j < 32 → j ≠ r → SameRule j s (ruleEval s r).1) := by
  rw [ruleEval_runs runs]
  split
  next same => exact ⟨filtered_frame s r, filtered_filter s r, same.symm, fun j _ other => filtered_other s other⟩
  next turned =>
    refine ⟨(filtered_frame s r).trans (.turn _ r _ _), ?_, ?_, fun j hj other => (filtered_other s other).trans (.turn _ _ _ hj other)⟩
    · rw [(ruleTurn_grm _ r _ _).1, filtered_filter]
    · exact (bit_ruleTurn _ r _ _ h).trans (if_pos rfl)

theorem ruleEval_frame (s : State) {r : Nat} (h : r < 32) :
    RulesFrame s (ruleEval s r).1 ∧ ∀ j, j < 32 → j ≠ r → SameRule j s (ruleEval s r).1 := by
  by_cases stopped : ruleFld s r F.GRM_RULE_CFG_EN = 0 ∨ ruleValid s r = false
  · obtain ⟨frame, -, others, -⟩ := ruleEval_not_asserted h stopped
    exact ⟨frame, others⟩
  · obtain ⟨enabled, valid⟩ : ruleFld s r F.GRM_RULE_CFG_EN ≠ 0 ∧ ruleValid s r = true := by simpa using stopped
    by_cases none : s.sample (ruleFld s r F.GRM_RULE_CFG_SENSOR) = -32768
    · rw [ruleEval_untrained enabled valid none]
      exact ⟨.refl s, fun j _ _ => .refl j s⟩
    · obtain ⟨frame, -, -, others⟩ := ruleEval_stands h ⟨enabled, valid, none⟩
      exact ⟨frame, others⟩

/-! ### Every rule (R324) -/

/-- One rule of a period is evaluated, and noted where it has just been asserted. -/
def ruleStep (p : State × List Nat) (r : Nat) : State × List Nat :=
  ((ruleEval p.1 r).1, if (ruleEval p.1 r).2 then p.2 ++ [r] else p.2)

theorem rulesEval_enabled {s : State} (h : s.flag Reg.GRM_CTRL F.GRM_CTRL_EN = true) :
    rulesEval s = forEach (List.range 32) (s, []) ruleStep := by
  rw [rulesEval, h]
  refine congrArg (forEach (List.range 32) (s, [])) (funext fun p => funext fun r => ?_)
  obtain ⟨u, l⟩ := p
  unfold ruleStep
  dsimp only
  generalize ruleEval u r = v
  obtain ⟨v, new⟩ := v
  cases new <;> rfl

/-- The state `u` in which rule `j` is evaluated, and what the other rules leave of it before and after. -/
structure Evaluated (j : Nat) (p : State × List Nat) (u : State) (q : State × List Nat) : Prop where
  before : RulesFrame p.1 u
  found : SameRule j p.1 u
  after : RulesFrame (ruleEval u j).1 q.1
  left : SameRule j (ruleEval u j).1 q.1
  noted : j ∈ q.2 ↔ j ∈ p.2 ∨ (ruleEval u j).2 = true

theorem mem_ruleStep (p : State × List Nat) (r j : Nat) :
    j ∈ (ruleStep p r).2 ↔ j ∈ p.2 ∨ j = r ∧ (ruleEval p.1 r).2 = true := by
  unfold ruleStep
  cases h : (ruleEval p.1 r).2 <;> simp

/-- Rules are evaluated one by one, each on what the rules before it have left. -/
theorem forEach_ruleStep (l : List Nat) (nodup : l.Nodup) (bound : ∀ r ∈ l, r < 32) (p : State × List Nat) :
    let q := forEach l p ruleStep
    RulesFrame p.1 q.1 ∧ (∀ j, j < 32 → j ∉ l → SameRule j p.1 q.1 ∧ (j ∈ q.2 ↔ j ∈ p.2)) ∧
      ∀ j ∈ l, ∃ u, Evaluated j p u q := by
  induction l generalizing p with
  | nil => exact ⟨.refl _, fun j _ _ => ⟨.refl j _, Iff.rfl⟩, nofun⟩
  | cons r l ih =>
    obtain ⟨fresh, nodup⟩ := List.nodup_cons.mp nodup
    have hr := bound r List.mem_cons_self
    obtain ⟨frame, others⟩ := ruleEval_frame p.1 hr
    obtain ⟨rest, outside, inside⟩ := ih nodup (fun j hj => bound j (List.mem_cons_of_mem r hj)) (ruleStep p r)
    have unnoted {j : Nat} (other : j ≠ r) : j ∈ (ruleStep p r).2 ↔ j ∈ p.2 := by
      rw [mem_ruleStep]
      exact or_iff_left fun h => other h.1
    refine ⟨frame.trans rest, fun j hj out => ?_, fun j hj => ?_⟩
    · obtain ⟨other, out⟩ := not_or.mp (mt List.mem_cons.mpr out)
      obtain ⟨same, noted⟩ := outside j hj out
      exact ⟨(others j hj other).trans same, noted.trans (unnoted other)⟩
    · obtain rfl | hj := List.mem_cons.mp hj
      · obtain ⟨same, noted⟩ := outside j hr fresh
        refine ⟨p.1, .refl _, .refl _ _, rest, same, noted.trans ?_⟩
        rw [mem_ruleStep]
        simp
      · have other : j ≠ r := fun e => fresh (e ▸ hj)
        have hj' := bound j (List.mem_cons_of_mem r hj)
        obtain ⟨u, before, found, after, left, noted⟩ := inside j hj
        exact ⟨u, frame.trans before, (others j hj' other).trans found, after, left,
          noted.trans (or_congr_left (unnoted other))⟩

/-! ### The rules act (R325) -/

/-- A shutdown that has begun, or rails that are up for one to begin. -/
def UpOrDown (s : State) : Prop := RailsUp s ∨ s.held = true ∧ s.grm.rails = .falling 9

/-- A rule with ACT 5 that has just been asserted shuts the module down. -/
def shutdownAct (s : State) (new : List Nat) : State :=
  match new.find? fun r => (ruleAct s r).1 == 5 with
  | some r => shutdown s 5 (ruleFld s r F.GRM_RULE_CFG_SENSOR) s.input
  | none => s

/-- A rule with ACT 2 that has just been asserted requests WAKE_GAIT, outside a reset of CHIP. -/
def wakeAct (s : State) (new : List Nat) : State :=
  if new.any fun r => (ruleAct s r).1 == 2 then
    if s.held then s else reGait (s.setFld Reg.PWR_GAIT F.PWR_GAIT_REQ (s.fld Reg.PWR_GAIT F.PWR_GAIT_WAKE_GAIT)) 1
  else s

theorem rulesAct_eq (s : State) (new : List Nat) : rulesAct s new = wakeAct (reGait (shutdownAct s new) 1) new := rfl

theorem shutdownAct_spec (s : State) (new : List Nat) : GroomKept s (shutdownAct s new) ∧
    ∀ r ∈ new, (ruleAct s r).1 = 5 → UpOrDown s → (shutdownAct s new).held = true ∧ (shutdownAct s new).grm.rails = .falling 9 := by
  unfold shutdownAct
  split
  next r _ =>
    by_cases up : RailsUp s
    · obtain ⟨kept, off⟩ := shutdown_up up 5 (ruleFld s r F.GRM_RULE_CFG_SENSOR) s.input
      exact ⟨kept, fun _ _ _ _ => off⟩
    · rw [shutdown_down up]
      exact ⟨.refl s, fun _ _ _ either => either.resolve_left up⟩
  next none =>
    refine ⟨.refl s, fun r mem five => absurd five ?_⟩
    simpa using List.find?_eq_none.mp none r mem

theorem reGait_rails (s : State) (why : Nat) : (reGait s why).grm.rails = s.grm.rails := by rw [reGait_grm]

theorem wakeAct_spec (s : State) (new : List Nat) : GroomKept s (wakeAct s new) ∧ (wakeAct s new).held = s.held ∧
    (wakeAct s new).grm.rails = s.grm.rails ∧ ∀ r ∈ new, (ruleAct s r).1 = 2 → s.held = false →
      (wakeAct s new).fld Reg.PWR_GAIT F.PWR_GAIT_REQ = s.fld Reg.PWR_GAIT F.PWR_GAIT_WAKE_GAIT := by
  unfold wakeAct
  split
  next =>
    split
    next held => exact ⟨.refl s, rfl, rfl, fun _ _ _ free => absurd held (by simp [free])⟩
    next =>
      refine ⟨(GroomKept.setReq s _).trans (.reGait _ 1), ?_, ?_, fun _ _ _ _ => ?_⟩
      · rw [reGait_held]
        simp [State.held]
      · rw [reGait_rails]
        simp
      · rw [reGait_pwrGait _ 1 (by decide) (by decide), State.fld_setFld_same _ _ _ _ (by decide) (by decide)]
        exact Nat.mod_eq_of_lt (s.fld_lt _ _)
  next none => exact ⟨.refl s, rfl, rfl, fun r mem two => absurd (List.any_eq_true.mpr ⟨r, mem, by simp [two]⟩) none⟩

theorem rulesAct_spec (s : State) (new : List Nat) : GroomKept s (rulesAct s new) ∧
    ∀ r, r < 32 → r ∈ new →
      ((ruleAct s r).1 = 5 → UpOrDown s → (rulesAct s new).held = true ∧ (rulesAct s new).grm.rails = .falling 9) ∧
      ((ruleAct s r).1 = 2 → (rulesAct s new).held = false → (rulesAct s new).fld Reg.PWR_GAIT F.PWR_GAIT_REQ =
        s.fld Reg.PWR_GAIT F.PWR_GAIT_WAKE_GAIT) := by
  obtain ⟨shut, off⟩ := shutdownAct_spec s new
  have gaited := shut.trans (.reGait _ 1)
  obtain ⟨kept, held, rails, wake⟩ := wakeAct_spec (reGait (shutdownAct s new) 1) new
  rw [rulesAct_eq, held, rails, reGait_held, reGait_rails]
  refine ⟨gaited.trans kept, fun r hr mem => ⟨off r mem, fun two free => ?_⟩⟩
  have act : (ruleAct (reGait (shutdownAct s new) 1) r).1 = (ruleAct s r).1 := gaited.rules.ruleFld hr _
  rw [wake r mem (act.trans two) (by rw [reGait_held, free]), gaited.wake]

/-! ### A sample period -/

/-- The period when the groom's rules have been evaluated: `t` before they act, and the rules just asserted. -/
theorem samplePeriod_up {s : State} (up : s.grm.up = true) (raw : Bytes) : samplePeriod s raw =
    alertPin s (rulesAct (rulesEval (thermalCheck (takeSamples s raw))).1 (rulesEval (thermalCheck (takeSamples s raw))).2) := by
  rw [samplePeriod, up]
  rfl

theorem takeSamples_rules (s : State) (raw : Bytes) : SameRules s (takeSamples s raw) := fun o _ _ => reg_congr (takeSamples_frame s raw).1 o

/-- What a period does to rule `r`, from `s` to `t` (R323–R325): a rule that is off is cleared, an invalid one is an error, one
without a sample stands; otherwise the filter takes the sample, the rule asserts beyond SET or clears beyond CLR, and SHUTDOWN and
WAKE act when it has just been asserted. -/
def RulePeriod (s t : State) (r : Nat) : Prop :=
  let i := ruleFld s r F.GRM_RULE_CFG_SENSOR
  let was := bit (s.reg Reg.GRM_ASSERTED) r
  let is := bit (t.reg Reg.GRM_ASSERTED) r
  let low := ruleFld s r F.GRM_RULE_CFG_DIR = 1
  let on := ruleFld s r F.GRM_RULE_CFG_EN = 1 ∧ ruleValid s r = true
  (ruleFld s r F.GRM_RULE_CFG_EN = 0 → is = false) ∧
  (ruleFld s r F.GRM_RULE_CFG_EN = 1 → ruleValid s r = false → is = false ∧ t.flag Reg.GRM_CTRL F.GRM_CTRL_RULE_ERR = true) ∧
  (on → t.sample i = -32768 → is = was) ∧
  (on → t.sample i ≠ -32768 → ∃ f, t.grm.filters.get? r = some f ∧
    (ruleFld s r F.GRM_RULE_CFG_FILT = 0 ∨ s.grm.filters.get? r = none → f.y = t.sample i) ∧
    (∀ g, ruleFld s r F.GRM_RULE_CFG_FILT = 1 → s.grm.filters.get? r = some g →
      f.y = g.y + (t.sample i - g.y) * ((ruleFld s r F.GRM_RULE_CFG_A : Int) + 1) / 256) ∧
    (∀ g, ruleFld s r F.GRM_RULE_CFG_FILT = 2 → s.grm.filters.get? r = some g →
      let l := (t.sample i :: g.last).take 3
      f.last = l ∧ (l.length < 3 → f.y = t.sample i) ∧ (l.length = 3 → f.y ∈ l ∧
        2 ≤ l.countP (fun x => decide (x ≤ f.y)) ∧ 2 ≤ l.countP (fun x => decide (f.y ≤ x)))) ∧
    is = (if was then !(if low then decide (ruleClr s r < f.y) else decide (f.y < ruleClr s r))
      else if low then decide (f.y < ruleSet s r) else decide (ruleSet s r < f.y)) ∧
    (was = false → is = true → ruleFld s r F.GRM_RULE_CFG_ACT = 5 → RailsUp s → t.held = true ∧ t.grm.rails = .falling 9) ∧
    (was = false → is = true → ruleFld s r F.GRM_RULE_CFG_ACT = 2 → t.held = false →
      t.fld Reg.PWR_GAIT F.PWR_GAIT_REQ = s.fld Reg.PWR_GAIT F.PWR_GAIT_WAKE_GAIT))

/-- Rule `r` is set in `u` as in `s`, and stands and has been filtered as there. -/
structure RuleAsIn (s u : State) (r : Nat) : Prop where
  setting : SameSetting s u
  asserted : bit (u.reg Reg.GRM_ASSERTED) r = bit (s.reg Reg.GRM_ASSERTED) r
  filter : u.grm.filters.get? r = s.grm.filters.get? r

/-- The evaluation of a rule in `u` gives its period, where the rules before and after leave it alone and `acts` says what it does. -/
theorem rulePeriod_of_eval {s u t : State} {r : Nat} (hr : r < 32) (seen : RuleAsIn s u r) (samples : ∀ i, t.sample i = u.sample i)
    (left : SameRule r (ruleEval u r).1 t)
    (error : (ruleEval u r).1.flag Reg.GRM_CTRL F.GRM_CTRL_RULE_ERR = true → t.flag Reg.GRM_CTRL F.GRM_CTRL_RULE_ERR = true)
    (shut : (ruleEval u r).2 = true → ruleFld s r F.GRM_RULE_CFG_ACT = 5 → RailsUp s → t.held = true ∧ t.grm.rails = .falling 9)
    (wake : (ruleEval u r).2 = true → ruleFld s r F.GRM_RULE_CFG_ACT = 2 → t.held = false →
      t.fld Reg.PWR_GAIT F.PWR_GAIT_REQ = s.fld Reg.PWR_GAIT F.PWR_GAIT_WAKE_GAIT) : RulePeriod s t r := by
  obtain ⟨setting, asserted, filter⟩ := seen
  have fld := setting.ruleFld hr
  refine ⟨fun off => ?_, fun on invalid => ?_, fun ⟨on, valid⟩ none => ?_, fun ⟨on, valid⟩ sampled => ?_⟩
  · obtain ⟨-, clear, -, -⟩ := ruleEval_not_asserted hr (.inl ((fld _).trans off))
    rw [left.asserted, clear]
  · obtain ⟨-, clear, -, err⟩ := ruleEval_not_asserted hr (.inr ((setting.ruleValid hr).trans invalid))
    exact ⟨by rw [left.asserted, clear], error (err (by rw [fld, on]; decide))⟩
  · rw [left.asserted, ruleEval_untrained (by rw [fld, on]; decide) ((setting.ruleValid hr).trans valid)
      (by rw [fld, ← samples, none]), asserted]
  · have runs : RuleRuns u r :=
      ⟨by rw [fld, on]; decide, (setting.ruleValid hr).trans valid, by rwa [fld, ← samples]⟩
    obtain ⟨-, next, stands, -⟩ := ruleEval_stands hr runs
    have step : nextFilter u r = filterStep (ruleFld s r F.GRM_RULE_CFG_FILT) (ruleFld s r F.GRM_RULE_CFG_A)
        (s.grm.filters.get? r) (t.sample (ruleFld s r F.GRM_RULE_CFG_SENSOR)) := by
      rw [nextFilter, fld, fld, fld, filter, samples]
    have is : bit (t.reg Reg.GRM_ASSERTED) r = ruleStands s r (nextFilter u r).y := by
      rw [left.asserted, stands, setting.ruleStands hr asserted]
    have new (was : bit (s.reg Reg.GRM_ASSERTED) r = false) (now : bit (t.reg Reg.GRM_ASSERTED) r = true) :
        (ruleEval u r).2 = true := by
      rw [ruleEval_runs runs]
      dsimp only
      rw [asserted, was, setting.ruleStands hr asserted, ← is, now]
      rfl
    refine ⟨nextFilter u r, left.filter.trans next, fun direct => ?_, fun g smooth old => ?_, fun g median old => ?_, is,
      fun was now => shut (new was now), fun was now => wake (new was now)⟩
    · rw [step]
      exact filterStep_direct _ _ _ _ direct
    · rw [step, smooth, old]
      exact filterStep_smooth _ g _
    · rw [step, median, old]
      exact filterStep_median _ g _

theorem upOrDown_thermal {s : State} (raw : Bytes) (up : RailsUp s) : UpOrDown (thermalCheck (takeSamples s raw)) :=
  (thermalCheck_kept (takeSamples s raw)).2 up

theorem RulesFrame.upOrDown {s t : State} (h : RulesFrame s t) (k : UpOrDown s) : UpOrDown t := by
  have rails : t.grm.rails = s.grm.rails := by rw [h.grm]
  rwa [UpOrDown, RailsUp, rails, State.held, h.clk]

/-- A rule of an enabled groom in a sample period. -/
theorem samplePeriod_rule {s : State} (up : s.grm.up = true) (enabled : s.flag Reg.GRM_CTRL F.GRM_CTRL_EN = true) (raw : Bytes)
    {r : Nat} (hr : r < 32) : RulePeriod s (samplePeriod s raw) r := by
  obtain ⟨thermal, -⟩ := thermalCheck_kept (takeSamples s raw)
  have rules : SameRules s (thermalCheck (takeSamples s raw)) := (takeSamples_rules s raw).trans thermal.rules
  have wake : (thermalCheck (takeSamples s raw)).fld Reg.PWR_GAIT F.PWR_GAIT_WAKE_GAIT = s.fld Reg.PWR_GAIT F.PWR_GAIT_WAKE_GAIT :=
    thermal.wake.trans (fld_congr (reg_congr (takeSamples_frame s raw).1 _) _)
  have filters : (thermalCheck (takeSamples s raw)).grm.filters = s.grm.filters := thermal.filters
  have upOrDown := upOrDown_thermal (s := s) raw
  rw [samplePeriod_up up raw, rulesEval_enabled ((flag_congr (fld_congr (rules _ (by decide) (by decide)) _)).trans enabled)]
  generalize thermalCheck (takeSamples s raw) = x at *
  obtain ⟨all, -, each⟩ := forEach_ruleStep (List.range 32) List.nodup_range (fun r => List.mem_range.mp) (x, [])
  obtain ⟨u, before, found, after, left, noted⟩ := each r (List.mem_range.mpr hr)
  generalize forEach (List.range 32) (x, []) ruleStep = q at *
  obtain ⟨acted, act⟩ := rulesAct_spec q.1 q.2
  have pin := GroomKept.alertPin s (rulesAct q.1 q.2)
  have kept := acted.trans pin
  obtain ⟨pinGrm, pinClk, pinReg⟩ := power_eq_iff.mp (power_alertPin s (rulesAct q.1 q.2))
  have setting : SameSetting s x := fun o low high => rules o (by omega) high
  have fresh (h : (ruleEval u r).2 = true) : r ∈ q.2 := noted.mpr (.inr h)
  have actFld : (ruleAct q.1 r).1 = ruleFld s r F.GRM_RULE_CFG_ACT := (setting.trans all.setting).ruleFld hr _
  refine rulePeriod_of_eval (u := u) hr ⟨setting.trans before.setting, ?_, ?_⟩ (fun i => ?_) ⟨?_, ?_⟩ (fun err => ?_)
    (fun new five railsUp => ?_) (fun new two free => ?_)
  · rw [found.asserted, rules _ (by decide) (by decide)]
  · rw [found.filter, filters]
  · rw [sample_congr kept.samples, all.sample, before.sample]
  · rw [kept.rules _ (by decide) (by decide), left.asserted]
  · rw [kept.filters, left.filter]
  · rw [flag_congr (fld_congr (kept.rules _ (by decide) (by decide)) _)]
    exact after.error err
  · rw [State.held, pinClk, pinGrm]
    exact (act r hr (fresh new)).1 (actFld.trans five) (all.upOrDown (upOrDown railsUp))
  · rw [State.held, pinClk] at free
    rw [fld_congr (pinReg _ rfl), (act r hr (fresh new)).2 (actFld.trans two) free, fld_congr all.gait, wake]

theorem rulesEval_disabled {s : State} (h : s.flag Reg.GRM_CTRL F.GRM_CTRL_EN = false) : rulesEval s = (s, []) := by
  rw [rulesEval, h]
  rfl

theorem rulesEval_frame (s : State) : RulesFrame s (rulesEval s).1 := by
  cases enabled : s.flag Reg.GRM_CTRL F.GRM_CTRL_EN with
  | false =>
    rw [rulesEval_disabled enabled]
    exact .refl s
  | true =>
    rw [rulesEval_enabled enabled]
    exact (forEach_ruleStep (List.range 32) List.nodup_range (fun r => List.mem_range.mp) (s, [])).1

/-- The samples of a period, whether or not the rules are evaluated. -/
theorem samplePeriod_samples {s : State} (up : s.grm.up = true) (raw : Bytes) {i : Nat} (h : i < 64) :
    (samplePeriod s raw).sample i = sampleOf s raw s.draw.1 i := by
  have acted := (rulesAct_spec (rulesEval (thermalCheck (takeSamples s raw))).1 (rulesEval (thermalCheck (takeSamples s raw))).2).1
  rw [samplePeriod_up up raw, sample_congr (acted.trans (.alertPin s _)).samples, (rulesEval_frame _).sample,
    sample_congr (thermalCheck_kept _).1.samples, takeSamples_sample s raw h]

/-- A groom that is not enabled leaves the rules as they stand. -/
theorem samplePeriod_disabled {s : State} (up : s.grm.up = true) (off : s.flag Reg.GRM_CTRL F.GRM_CTRL_EN = false) (raw : Bytes) :
    (samplePeriod s raw).reg Reg.GRM_ASSERTED = s.reg Reg.GRM_ASSERTED := by
  have rules : SameRules s (thermalCheck (takeSamples s raw)) := (takeSamples_rules s raw).trans (thermalCheck_kept _).1.rules
  have off' := (flag_congr (fld_congr (rules Reg.GRM_CTRL (by decide) (by decide)) F.GRM_CTRL_EN)).trans off
  have acted := (rulesAct_spec (thermalCheck (takeSamples s raw)) []).1
  rw [samplePeriod_up up raw, rulesEval_disabled off']
  exact (rules.trans (acted.trans (.alertPin s _)).rules) _ (by decide) (by decide)

theorem groomSamplePeriod_off {s : State} (off : s.grm.up = false) (raw : Bytes) : exec (.groomSamplePeriod raw) s = .next s :=
  congrArg Host.Outcome.next (if_pos (by simp [off]))

end Sys2Proof.Machine
end
section
/-!
PROOFS. O54, assembled from the clauses above.
-/
namespace Sys2Proof.Machine

/-- Settles O54: the gait in force and its clock (R279, R314–R316), STABLED (R317), the brown-out hold (R318, R319), and the sample
period with its filters and rules (R322–R325). -/
theorem gaitsAndRules : Obligations.GaitsAndRules := by
  unfold Obligations.GaitsAndRules
  refine ⟨fun data s => ⟨gaitRequest_ignored, gaitRequest_taken⟩,
    fun s finished => ⟨varithRampComplete_otherwise finished, varithRampComplete_ramped finished⟩,
    fun s => ⟨stabledEntryComplete_otherwise, stabledEntryComplete_enters, fun h => congrArg Host.Outcome.next (if_neg h),
      stabledExitComplete_exits⟩,
    fun input s => ⟨brownoutWarn_otherwise, brownoutWarn_holds⟩,
    fun x y s => ⟨brownoutRecover_otherwise, brownoutRecover_ends⟩,
    fun raw s => ⟨fun off => groomSamplePeriod_off off raw, fun up => ⟨_, rfl, fun i low other => ?_, ?_,
      fun off => samplePeriod_disabled up off raw, fun enabled r hr => samplePeriod_rule up enabled raw hr⟩⟩⟩
  · rw [samplePeriod_samples up raw low]
    exact sampleOf_eq s raw _ other
  · rw [samplePeriod_samples up raw (by decide : 42 < 64)]
    exact sampleOf_power s raw _

end Sys2Proof.Machine
end
